-- ==== Sys2Proof/Word.lean ====
section
/-! DEFINITION. The word types of the model and the sparse table type. -/

namespace Sys2Proof

/-- One byte of any store. -/
abbrev Byte := BitVec 8
/-- A byte string, byte 0 first. -/
abbrev Bytes := List (BitVec 8)

/-- A sparse table: pairs of an index and a value, indices strictly rising. An index that is
not listed holds the default the reader names. -/
abbrev Tab (α : Type) := List (Nat × α)

/-- The value a table holds at an index, `d` where none is listed. -/
def Tab.get {α : Type} (d : α) : Tab α → Nat → α
  | [], _ => d
  | (j, x) :: t, i => if j = i then x else Tab.get d t i

/-- The table with one index set. -/
def Tab.set {α : Type} : Tab α → Nat → α → Tab α
  | [], i, x => [(i, x)]
  | (j, y) :: t, i, x =>
    if i < j then (i, x) :: (j, y) :: t
    else if i = j then (i, x) :: t
    else (j, y) :: Tab.set t i x

/-- The table with one index no longer listed. -/
def Tab.del {α : Type} : Tab α → Nat → Tab α
  | [], _ => []
  | (j, y) :: t, i => if i = j then t else (j, y) :: Tab.del t i

/-- The table with the value at one index replaced by a function of it. -/
def Tab.upd {α : Type} (d : α) (t : Tab α) (i : Nat) (f : α → α) : Tab α :=
  t.set i (f (t.get d i))

end Sys2Proof
end

