-- ==== Sys2Proof/Config.lean ====
section
/-! DEFINITION. What the spec leaves open and what one module's manufacture fixes: opaque constants
without a body, so that no proof can rest on a value of theirs. Each free value is applied to a counter that
the state holds and the step advances; see the assumption log. -/

namespace Sys2Proof.Config

/-- Free bytes: what a lost read, a dropped transfer or an unread store delivers (R8, R41, R257). -/
opaque freeByte : Nat → BitVec 8
/-- Free 32-bit values: tallies and rows the spec calls unpredictable (R93, R300). -/
opaque freeWord : Nat → BitVec 32
/-- Free choices: whether a dropped SIGNAL's token is found in its pail (R41) and the like. -/
opaque freeBool : Nat → Bool
/-- Free counts: the CHUNKS of an overlapped Compact vat (R93) and the like. -/
opaque freeNat : Nat → Nat

/-- A quire file's free contents, after an image has come into force (R350). -/
opaque freeSlots : Nat → Tab (BitVec 32)

/-- The vector engine's ROM tables (R176, R188): the spec fixes that they are there and what they approximate,
and gives no coefficient: table, segment, then c0, c1, c2. -/
opaque romCoef : Nat → Nat → Nat → BitVec 32

/-! ### Secrets and keys fused at test, and algorithms that the spec names and whose text it does not hold (R533 to R543) -/

/-- Whether an ECDSA P-384 signature (r, s, 96 bytes) over a 48-byte hash verifies with a public key. -/
opaque ecdsaOk (pub hash sig : Bytes) : Bool
/-- Whether an ML-DSA-87 signature over a hash verifies with a public key. -/
opaque mlDsaOk (pub hash sig : Bytes) : Bool
/-- Whether 97 bytes are an uncompressed point of the curve P-384. -/
opaque onCurve (pub : Bytes) : Bool
/-- The two public keys of vendor pair 0 to 3: ECDSA, then ML-DSA-87 (R539). -/
opaque vendorEcdsa (pair : Nat) : Bytes
/-- The ML-DSA-87 key of a vendor pair. -/
opaque vendorMlDsa (pair : Nat) : Bytes
/-- The KEY_ID by which a vendor token's entries name a pair. -/
opaque vendorKeyId (pair : Nat) : Nat
/-- The 48-byte vendor password value fused at test (R538). -/
opaque passwordHash : Bytes
/-- The 48-byte device secret fused at test (R540). -/
opaque deviceSecret : Bytes
/-- The HKDF info string of a device key: 0 nonce key, 1 identity keys, 2 alias keys (R540). -/
opaque keyInfo (key : Nat) : Bytes
/-- The boot ROM of the supervisor cores and the ROM of the steward cores, by address (R474). -/
opaque romByte (steward : Bool) (addr : Nat) : BitVec 8
/-- SHA-384 of the ROM (R544). -/
opaque romHash : Bytes
/-- The deterministic ECDSA signature of a message under the P-384 alias key of a seed (R540, RFC 6979). -/
opaque aliasEcdsa (seed msg : Bytes) : Bytes
/-- The deterministic ML-DSA-87 signature of a hash under the alias key of a seed (R540, FIPS 204). -/
opaque aliasMlDsa (seed hash : Bytes) : Bytes
/-- The slot-0 certificate chain of an alias seed (R540, R543). -/
opaque certChain (seed : Bytes) : Bytes

end Sys2Proof.Config
end

