-- ==== Sys2Proof/Machine/Bytes.lean ====
section
/-! DEFINITION. Bit fields, byte order, sign extension, counters that stop, and byte memories. -/

namespace Sys2Proof.Machine

/-- Bits [hi:lo] of a number (R10). -/
def bits (x hi lo : Nat) : Nat := (x >>> lo) % 2 ^ (hi + 1 - lo)

/-- One bit of a number. -/
def bit (x i : Nat) : Bool := x.testBit i

/-- 1 for true, 0 for false: a one-bit field. -/
def b2n (b : Bool) : Nat := if b then 1 else 0

/-- A field placed at bit `lo`, cut to `w` bits. -/
def fld (v w lo : Nat) : Nat := (v % 2 ^ w) <<< lo

/-- The signed value of the low `w` bits of a number. -/
def sgn (w x : Nat) : Int :=
  let y := x % 2 ^ w
  if 2 * y < 2 ^ w then (y : Int) else (y : Int) - (2 ^ w : Nat)

/-- The `w`-bit two's complement pattern of an integer. -/
def tc (w : Nat) (x : Int) : Nat := (x % ((2 ^ w : Nat) : Int)).toNat

/-- The number a byte string spells, little-endian (R70). -/
def leNat : Bytes → Nat
  | [] => 0
  | b :: t => b.toNat + 256 * leNat t

/-- The number a byte string spells, first byte most significant. -/
def beNat (bs : Bytes) : Nat := bs.foldl (fun a b => a * 256 + b.toNat) 0

/-- `n` bytes of a number, little-endian (R70). -/
def leBytes : Nat → Nat → Bytes
  | 0, _ => []
  | n + 1, x => BitVec.ofNat 8 x :: leBytes n (x / 256)

/-- `n` bytes of a number, most significant first. -/
def beBytes (n x : Nat) : Bytes := (leBytes n x).reverse

/-- `n` equal bytes. -/
def fillBytes (n : Nat) (b : Byte) : Bytes := List.replicate n b

/-- Bytes `off` to `off + n - 1` of a string, zero past its end. -/
def slice (bs : Bytes) (off n : Nat) : Bytes :=
  let x := (bs.drop off).take n
  x ++ fillBytes (n - x.length) 0

/-- The little-endian number in bytes `off` to `off + n - 1`. -/
def leAt (bs : Bytes) (off n : Nat) : Nat := leNat ((bs.drop off).take n)

/-- A string cut into pieces of `n` bytes (`fuel` pieces at most). -/
def chunksOf (n : Nat) : Nat → Bytes → List Bytes
  | 0, _ => []
  | fuel + 1, bs => if bs.isEmpty then [] else bs.take n :: chunksOf n fuel (bs.drop n)

/-- A counter that stops at its largest `w`-bit value and does not wrap. -/
def satAdd (w a d : Nat) : Nat := min (a + d) (2 ^ w - 1)

/-- Rounded-up quotient. -/
def ceilDiv (a b : Nat) : Nat := (a + b - 1) / b

/-- ⌈log2 n⌉, 0 for n of 0 or 1. -/
def clog2 (n : Nat) : Nat := if n ≤ 1 then 0 else Nat.log2 (n - 1) + 1

/-- A ring of `n` things as a list: the first element satisfying `p`, and the list without it. -/
def takeFirst {α : Type} (p : α → Bool) : List α → Option (α × List α)
  | [] => none
  | x :: t => if p x then some (x, t) else
    match takeFirst p t with
    | some (y, r) => some (y, x :: r)
    | none => none

/-- Element `i` of a list, `d` past its end. -/
def nth {α : Type} (l : List α) (i : Nat) (d : α) : α := l.getD i d

/-! ### Byte memories

A memory is a list of (address, byte) pairs in ONE canonical form: addresses strictly rising, no zero byte
listed. An unlisted address reads as 0 (log entries 8 and 9). -/

/-- A byte memory in canonical form. -/
abbrev Mem := List Host.Cell

/-- Every listed address is above `a`, addresses rise strictly, and no listed byte is zero. -/
def Mem.wfFrom : Nat → Mem → Bool
  | _, [] => true
  | a, (i, b) :: t => decide (a ≤ i) && decide (b ≠ 0) && Mem.wfFrom (i + 1) t

/-- The canonical form: addresses strictly rising, no listed byte equal to what an unlisted address reads as. -/
def Mem.wf (m : Mem) : Bool := Mem.wfFrom 0 m

/-- The byte at an address. -/
def Mem.get : Mem → Nat → Byte
  | [], _ => 0
  | (j, x) :: t, i => if j = i then x else if i < j then 0 else Mem.get t i

/-- The memory with one byte written; a zero byte is not listed. -/
def Mem.put : Mem → Nat → Byte → Mem
  | [], i, x => if x = 0 then [] else [(i, x)]
  | (j, y) :: t, i, x =>
    if i < j then (if x = 0 then (j, y) :: t else (i, x) :: (j, y) :: t)
    else if i = j then (if x = 0 then t else (i, x) :: t)
    else (j, y) :: Mem.put t i x

/-- `n` bytes from an address on. -/
def Mem.read (m : Mem) (a : Nat) : Nat → Bytes
  | 0 => []
  | n + 1 => m.get a :: Mem.read m (a + 1) n

/-- A byte string written from an address on. -/
def Mem.write : Mem → Nat → Bytes → Mem
  | m, _, [] => m
  | m, a, b :: t => Mem.write (m.put a b) (a + 1) t

/-- Every byte from `a` up to and not including `b` becomes zero. -/
def Mem.zero (m : Mem) (a b : Nat) : Mem := m.filter (fun c => decide (c.1 < a) || decide (b ≤ c.1))

/-- What scrub or a controller finds a sector's code to say (R258, R310): a fault that the cells took
since the sector was last written comes to the model as an operand of the command that meets it. -/
inductive Upset where
  | clean          -- no symbol in error
  | correctable    -- one symbol in error
  | uncorrectable  -- two or more
  deriving DecidableEq, Repr

/-- A fault that a sector of a core's stores takes: the sector by its byte address over 32, and what its code says from
then on (R258). -/
structure CellUpset where
  core : Nat
  staging : Bool
  sector : Nat
  code : Upset
  deriving DecidableEq, Repr

/-- What a TILE_SCRUB brings: the faults that cells of the stores have taken since the latest one, and what the codes of the
sectors that it reads say (R258). -/
structure TileScrub where
  faults : List CellUpset
  found : List Upset
  deriving DecidableEq, Repr

/-- What a PATROL_SCRUB brings: the faults that cells of the channel have taken since the latest one, each a sector with what its
code says from then on, and what the code of the sector that it reads says (R310, R315). -/
structure PatrolScrub where
  faults : List (Nat × Upset)
  found : Upset
  deriving DecidableEq, Repr

/-! ### What a part of the module hands to the others -/

/-- Lines that rise, EDGE tokens on their way (core, pail), host events (code, RESULT0, RESULT1) (R268, R462, R483). -/
structure Outbox where
  rise : List Nat
  tokens : List (Nat × Nat)
  events : List (Nat × Nat × Nat)
  deriving DecidableEq, Repr

/-- Nothing handed over. -/
def Outbox.empty : Outbox := ⟨[], [], []⟩
/-- A line that rises is added. -/
def Outbox.line (o : Outbox) (n : Nat) : Outbox := { o with rise := o.rise ++ [n] }
/-- A token is added. -/
def Outbox.token (o : Outbox) (core pail : Nat) : Outbox := { o with tokens := o.tokens ++ [(core, pail)] }
/-- An event is added. -/
def Outbox.event (o : Outbox) (code r0 r1 : Nat) : Outbox := { o with events := o.events ++ [(code, r0, r1)] }

end Sys2Proof.Machine
end

