-- ==== Sys2Proof/Syntax.lean ====
section
/-! DEFINITION. The commands of the block, one constructor per row of the opcode table, and the types of their
operands. A command stands for one whole step of the spec (95_what_each_step_holds.md): where the step is an event
outside the module or one that the spec leaves to the instant, its operands say what came with it. -/

namespace Sys2Proof

/-- Who makes a register access (R13, R49, R546). -/
inductive Agent where
  | host (fn : Fin 16)        -- through BAR0 of a function
  | ctl (k : Fin 20)          -- a control core
  | debug                     -- the debug access port
  | debugSite (t : Fin 144)   -- the debug access port, a compute site by its physical number
  deriving DecidableEq, Repr

/-- Where an EDGE token on its way comes from (R268); a host command delivers its own tokens. -/
inductive TokenSrc where
  | creamery                  -- a creamery unit
  | link                      -- a link port
  | steward (qd : Fin 8)      -- the steward of a quadrant
  deriving DecidableEq, Repr

/-- The parts of the module that report events (R462). -/
inductive Part where
  | plane | ext | link | herd | power
  deriving DecidableEq, Repr

/-- What start-up finds (R541, R564, R565). -/
structure StartCond where
  refclk : Bool               -- the module reference is there
  inputOk : Bool              -- 54 V at 48.0 V or more
  cool : Bool                 -- no junction above 100 °C
  fuseOk : Bool               -- the fuses pass their integrity check
  eastOk : Bool               -- East passes its checks at step 6
  energy : Nat                -- the bank as step 4 measures it: mJ, capacitance %, ESR %
  cap : Nat
  esr : Nat
  cables : BitVec 8           -- connectors with a cable seated
  ms : BitVec 32              -- milliseconds since step 1 or 2 began
  deriving DecidableEq, Repr

/-- The commands. -/
inductive Instr where
  /-- REGISTER_WRITE: A register write by an agent at an offset of its register space, `size` bytes (R13, R14). -/
  | registerWrite (who : Agent) (off : Nat) (size : Nat) (val : BitVec 64)
  /-- READ_CLEAR: A register read; RC fields clear (R14). -/
  | readClear (who : Agent) (off : Nat) (size : Nat)
  /-- BUNDLE_ISSUE: The bundle due on a core issues (R246). -/
  | bundleIssue (c : Fin 128)
  /-- SIGNAL: SEQ opcode 1 (R248). -/
  | signal (c : Fin 128) (arg : BitVec 27)
  /-- SIGNAL_TOKEN_ADDED: A token that has arrived enters its pail (R268). -/
  | signalTokenAdded (c : Fin 128) (pail : Fin 2048)
  /-- WAIT: SEQ opcode 2 (R248, R269). -/
  | wait (c : Fin 128) (arg : BitVec 27)
  /-- WAIT_RELEASE: A stalled PLANE WAIT sees a token (R269). -/
  | waitRelease (c : Fin 128)
  /-- SETT: SEQ opcode 3 (R248). -/
  | sett (c : Fin 128) (arg : BitVec 27)
  /-- LOOP: SEQ opcode 4 (R248). -/
  | loop (c : Fin 128) (arg : BitVec 27)
  /-- SEAM: SEQ opcode 5 (R248, R251). -/
  | seam (c : Fin 128) (arg : BitVec 27)
  /-- SEAM_EFFECT: The changes that wait for a seam take effect (R253). -/
  | seamEffect (c : Fin 128)
  /-- HALT: SEQ opcode 6 (R248, R254). -/
  | halt (c : Fin 128) (arg : BitVec 27)
  /-- FAA_I32: SEQ opcode 7, KIND 0; the KIND field of `arg` is not read (R248, R249). -/
  | faaI32 (c : Fin 128) (arg : BitVec 27)
  /-- FAA_P32: SEQ opcode 7, KIND 1 (R248, R249). -/
  | faaP32 (c : Fin 128) (arg : BitVec 27)
  /-- CAS64: SEQ opcode 7, KIND 2 (R248, R249). -/
  | cas64 (c : Fin 128) (arg : BitVec 27)
  /-- ATOM_BANK_ACCESS: ATOMs that have reached a bank of a core access it (R249). -/
  | atomBankAccess (c : Fin 128)
  /-- ATOM_RESULT_WRITE: Old values due are written to their tallies (R249). -/
  | atomResultWrite (c : Fin 128)
  /-- TILE_SCRUB: Scrub of one row of a bank, with what the codes of its sectors say and what faults the stores have taken (R258). -/
  | tileScrub (c : Fin 128) (staging : Bool) (bank : Fin 32) (seen : Machine.TileScrub)
  /-- BANK_ADDER_WRITE_BACK: Updates due in a bank are written back (R260). -/
  | bankAdderWriteBack (c : Fin 128) (bank : Fin 32)
  /-- WATCHDOG_TRIP: The watchdog count stands at LIMIT (R272). -/
  | watchdogTrip (c : Fin 128)
  /-- WDOG_CFG_WRITE: A write of COR_WDOG_CFG (R274). -/
  | wdogCfgWrite (c : Fin 128) (val : BitVec 64)
  /-- OPEN: ME opcode 1 (R84, R140). -/
  | meOpen (c : Fin 128) (e : Fin 4) (arg : BitVec 27)
  /-- SEAL: ME opcode 2 (R84, R140). -/
  | meSeal (c : Fin 128) (e : Fin 4) (arg : BitVec 27)
  /-- SEALED_EFFECT: A SEAL of six cycles ago takes effect (R84). -/
  | sealedEffect (c : Fin 128) (e : Fin 4) (v : Fin 16)
  /-- DRAIN: ME opcode 3 (R135, R140). -/
  | meDrain (c : Fin 128) (e : Fin 4) (arg : BitVec 27)
  /-- DRAIN_ROW_WRITE: The epilogue of a DRAIN performs its cycle (R135). -/
  | drainRowWrite (c : Fin 128) (e : Fin 4)
  /-- EXPORT: ME opcode 4 (R136, R140). -/
  | meExport (c : Fin 128) (e : Fin 4) (arg : BitVec 27)
  /-- EXPORT_ROW_WRITE: The write port of an EXPORT performs its cycle (R136). -/
  | exportRowWrite (c : Fin 128) (e : Fin 4)
  /-- RELEASE: ME opcode 5 (R84, R140). -/
  | meRelease (c : Fin 128) (e : Fin 4) (arg : BitVec 27)
  /-- PRELOAD: ME opcode 6 (R120, R140). -/
  | mePreload (c : Fin 128) (e : Fin 4) (arg : BitVec 27)
  /-- PRELOAD_DONE: An image load completes (R120). -/
  | preloadDone (c : Fin 128) (e : Fin 4)
  /-- MMA: ME opcode 8 (R118, R140). -/
  | meMma (c : Fin 128) (e : Fin 4) (arg : BitVec 27)
  /-- CONV: ME opcode 9 (R128, R140). -/
  | meConv (c : Fin 128) (e : Fin 4) (arg : BitVec 27)
  /-- WSMV: ME opcode 10 (R126, R140). -/
  | meWsmv (c : Fin 128) (e : Fin 4) (arg : BitVec 27)
  /-- FOLDIN: ME opcode 11 (R138, R140). -/
  | meFoldin (c : Fin 128) (e : Fin 4) (arg : BitVec 27)
  /-- PENDING_START: A pending operation of an engine starts (R121, R137). -/
  | pendingStart (c : Fin 128) (e : Fin 4)
  /-- SWAP: The stationary sets exchange (R116). -/
  | swap (c : Fin 128) (e : Fin 4)
  /-- CHUNK_ISSUE: The columns issue the chunk of this cycle (R113). -/
  | chunkIssue (c : Fin 128) (e : Fin 4)
  /-- CHUNK_LAND: Chunks due land in their vat rows (R113). -/
  | chunkLand (c : Fin 128) (e : Fin 4)
  /-- FOLDIN_ROW_LAND: Fold-in rows due land (R138). -/
  | foldinRowLand (c : Fin 128) (e : Fin 4)
  /-- VLD: VE opcode of the name (R158). -/
  | vld (c : Fin 128) (arg : BitVec 26)
  /-- VST: VE opcode of the name (R158). -/
  | vst (c : Fin 128) (arg : BitVec 26)
  /-- VCONST: VE opcode of the name (R158). -/
  | vconst (c : Fin 128) (arg : BitVec 26)
  /-- VMOV: VE opcode of the name (R158). -/
  | vmov (c : Fin 128) (arg : BitVec 26)
  /-- VCVT: VE opcode of the name (R158). -/
  | vcvt (c : Fin 128) (arg : BitVec 26)
  /-- VADD: VE opcode of the name (R158). -/
  | vadd (c : Fin 128) (arg : BitVec 26)
  /-- VMUL: VE opcode of the name (R158). -/
  | vmul (c : Fin 128) (arg : BitVec 26)
  /-- VFMA: VE opcode of the name (R158). -/
  | vfma (c : Fin 128) (arg : BitVec 26)
  /-- VMAX: VE opcode of the name (R158). -/
  | vmax (c : Fin 128) (arg : BitVec 26)
  /-- VMIN: VE opcode of the name (R158). -/
  | vmin (c : Fin 128) (arg : BitVec 26)
  /-- VABS: VE opcode of the name (R158). -/
  | vabs (c : Fin 128) (arg : BitVec 26)
  /-- VCMP: VE opcode of the name (R158). -/
  | vcmp (c : Fin 128) (arg : BitVec 26)
  /-- VSEL: VE opcode of the name (R158). -/
  | vsel (c : Fin 128) (arg : BitVec 26)
  /-- VQCLR: VE opcode of the name (R158). -/
  | vqclr (c : Fin 128) (arg : BitVec 26)
  /-- VQDOT: VE opcode of the name (R158). -/
  | vqdot (c : Fin 128) (arg : BitVec 26)
  /-- VQSUM: VE opcode of the name (R158). -/
  | vqsum (c : Fin 128) (arg : BitVec 26)
  /-- VQFOLD: VE opcode of the name (R158). -/
  | vqfold (c : Fin 128) (arg : BitVec 26)
  /-- VQRD: VE opcode of the name (R158). -/
  | vqrd (c : Fin 128) (arg : BitVec 26)
  /-- VRMAX: VE opcode of the name (R158). -/
  | vrmax (c : Fin 128) (arg : BitVec 26)
  /-- VRMIN: VE opcode of the name (R158). -/
  | vrmin (c : Fin 128) (arg : BitVec 26)
  /-- VEXP2: VE opcode of the name (R158). -/
  | vexp2 (c : Fin 128) (arg : BitVec 26)
  /-- VLOG2: VE opcode of the name (R158). -/
  | vlog2 (c : Fin 128) (arg : BitVec 26)
  /-- VTAB: VE opcode of the name (R158). -/
  | vtab (c : Fin 128) (arg : BitVec 26)
  /-- VUCALL: VE opcode of the name (R158). -/
  | vucall (c : Fin 128) (arg : BitVec 26)
  /-- VUCALL_END: A micro-program finishes (R173). -/
  | vucallEnd (c : Fin 128)
  /-- VE_RESULT_WRITE: Vector results due are written (R160). -/
  | veResultWrite (c : Fin 128)
  /-- SMOPEN: VE opcode of the name (R158, R178). -/
  | smopen (c : Fin 128) (arg : BitVec 26)
  /-- SMTILE: VE opcode of the name (R158, R178). -/
  | smtile (c : Fin 128) (arg : BitVec 26)
  /-- SMMERGE: VE opcode of the name (R158, R178). -/
  | smmerge (c : Fin 128) (arg : BitVec 26)
  /-- SMCLOSE: VE opcode of the name (R158, R178). -/
  | smclose (c : Fin 128) (arg : BitVec 26)
  /-- SMNORM: VE opcode of the name (R158, R178). -/
  | smnorm (c : Fin 128) (arg : BitVec 26)
  /-- SMSTATE: VE opcode of the name (R158, R178). -/
  | smstate (c : Fin 128) (arg : BitVec 26)
  /-- VE_FLUSH_WRITE: A write of COR_VE_FLUSH (R184). -/
  | veFlushWrite (c : Fin 128) (val : BitVec 64)
  /-- MOVE: A MOVE slot whose entry is of TYPE MOVE (R262, R263). -/
  | move (c : Fin 128) (arg : BitVec 27)
  /-- GATHER: A MOVE slot whose entry is of TYPE GATHER (R238). -/
  | gather (c : Fin 128) (arg : BitVec 27)
  /-- SCATTER: A MOVE slot whose entry is of TYPE SCATTER (R238). -/
  | scatter (c : Fin 128) (arg : BitVec 27)
  /-- ZPCORR: A MOVE slot whose entry is of TYPE ZPCORR (R204). -/
  | zpcorr (c : Fin 128) (arg : BitVec 27)
  /-- STREAM_ELEMENT_WRITE: A move channel performs its cycle (R265). -/
  | streamElementWrite (c : Fin 128) (m : Fin 4)
  /-- EXT_READ_RELEASE: External or remote data due at a move channel is released (R265). -/
  | extReadRelease (c : Fin 128) (m : Fin 4)
  /-- MOVE_END: A move has made its last write (R263). -/
  | moveEnd (c : Fin 128) (m : Fin 4)
  /-- MESH_DELIVERY: Transfers due at a core are delivered (R40). -/
  | meshDelivery (c : Fin 128)
  /-- SLIP: One slip cycle; `notVisible` says that an item due is not yet visible to the plane (R365, R366). -/
  | slip (notVisible : Bool)
  /-- PLANE_CYCLE: One plane cycle, or what is still to be performed of it (R365). -/
  | planeCycle
  /-- EDGE_TOKEN_DELIVERY: The oldest token of a source reaches its pail (R268). -/
  | edgeTokenDelivery (src : TokenSrc)
  /-- MEMORY_REQUEST_HAND_OVER: The next transfer due at a channel enters its inbound queue (R283). -/
  | memoryRequestHandOver (ch : Fin 256)
  /-- CHANNEL_REQUEST_SERVED: A channel serves the request at a place of its queue (R286). -/
  | channelRequestServed (ch : Fin 256) (idx : Nat) (found : List Machine.Upset)
  /-- PARITY_ERROR: A parity error: 0 command or address, 1 write data, 2 read data (R312). -/
  | parityError (ch : Fin 256) (kind : Fin 3)
  /-- STACK_FENCE: A stack is fenced (R318). -/
  | stackFence (st : Fin 8)
  /-- REFRESH_WINDOW: A refresh window begins (R314). -/
  | refreshWindow (ch : Fin 256)
  /-- PATROL_SCRUB: A scrub slot reads the next sector (R315), with what its code says and what faults the channel has taken (R310). -/
  | patrolScrub (ch : Fin 256) (seen : Machine.PatrolScrub)
  /-- STACK_TEMP_SAMPLE: A stack temperature sample in °C (R316). -/
  | stackTempSample (st : Fin 8) (temp : Fin 256)
  /-- STACK_TRAINING: Lane test and repair; `spares` are the spare lanes of a channel, `failed` the failed lanes of each channel (R313). -/
  | stackTraining (st : Fin 8) (spares : Nat) (failed : List (List (Fin 1024)))
  /-- FOLD_WRITE: The creamery unit performs the fold write at the front of its channel (R319). -/
  | foldWrite (ch : Fin 256) (found : List Machine.Upset)
  /-- GATHER_FOLD: A unit runs the GATHER_FOLD at the front of its channel (R324). -/
  | gatherFold (u : Fin 256)
  /-- REDUCE: A unit runs the REDUCE at the front of its channel (R324). -/
  | reduce (u : Fin 256)
  /-- SCALE_STORE: A unit runs the SCALE_STORE at the front of its channel (R324). -/
  | scaleStore (u : Fin 256)
  /-- FENCE: A unit runs the FENCE at the front of its channel (R324). -/
  | fence (u : Fin 256)
  /-- CREAMERY_COMPLETE: The oldest running command of a unit ends (R326). -/
  | creameryComplete (u : Fin 256)
  /-- NOP: A host command by its number among those fetched (R459). -/
  | nop (id : Nat)
  /-- COPY_IN: `data` is what the read of host memory returned; a short one ended with an abort (R459, R464). -/
  | copyIn (id : Nat) (data : Bytes)
  /-- COPY_OUT: R459 -/
  | copyOut (id : Nat)
  /-- HOST_SIGNAL: R459 -/
  | hostSignal (id : Nat)
  /-- DESC_CREATE: `words` are the 128 bytes read from host memory (R219). -/
  | descCreate (id : Nat) (words : Bytes)
  /-- DRAW: R376 -/
  | draw (id : Nat)
  /-- SNAPSHOT: R520 -/
  | snapshot (id : Nat)
  /-- IMG_LOAD_HOST: `img` is what the read of host memory returned (R346). -/
  | imgLoadHost (id : Nat) (img : Bytes)
  /-- IMG_LOAD_LIB: R346, R349 -/
  | imgLoadLib (id : Nat)
  /-- LOAD_SECOND_PASS: A waiting COLD load runs its second pass (R576). -/
  | loadSecondPass
  /-- IMG_START: R389 -/
  | imgStart (id : Nat)
  /-- AT_COUNT_LAUNCH: The herd count has reached L (R389). -/
  | atCountLaunch
  /-- LAUNCH: The launch that IMG_START asked for takes place (R350). -/
  | launch
  /-- IMG_ARM: R352 -/
  | imgArm (id : Nat)
  /-- IMG_DISARM: R352 -/
  | imgDisarm (id : Nat)
  /-- IMG_DISCARD: R459 -/
  | imgDiscard (id : Nat)
  /-- RUN_STOP: R459 -/
  | runStop (id : Nat)
  /-- PLANE_QUIESCENT: The plane has become quiescent (R576). -/
  | planeQuiescent
  /-- LIB_STORE: `img` is what the read of host memory returned (R349). -/
  | libStore (id : Nat) (img : Bytes)
  /-- LIB_DELETE: R349 -/
  | libDelete (id : Nat)
  /-- POWER: R503 -/
  | power (id : Nat)
  /-- POWER_TRANSITION_END: A transition reaches its target (R503). -/
  | powerTransitionEnd
  /-- MAP_EXTEND: R32 -/
  | mapExtend (id : Nat)
  /-- REJOIN: R429 -/
  | rejoin (id : Nat)
  /-- SQ_TAIL_DOORBELL: A doorbell write of a function for its ring q (R454). -/
  | sqTailDoorbell (fn : Fin 16) (q : Fin 16384) (val : BitVec 32)
  /-- CQ_HEAD_DOORBELL: R454 -/
  | cqHeadDoorbell (fn : Fin 16) (q : Fin 16384) (val : BitVec 32)
  /-- SQ_ENABLE: A write of SQ ENABLE of a function’s ring q (R453). -/
  | sqEnable (fn : Fin 16) (q : Fin 16384) (on : Bool)
  /-- CQ_ENABLE: A write of CQ ENABLE (R453). -/
  | cqEnable (fn : Fin 16) (q : Fin 16384) (on : Bool)
  /-- SQ_FETCH: The next entry is fetched; `entry` is what host memory returned, 64 bytes (R455). -/
  | sqFetch (entry : Bytes)
  /-- COMPLETION_RECORD_WRITE: The oldest record that can be written is written (R456). -/
  | completionRecordWrite
  /-- EVENT_RECORD: The oldest event of a part of the module is reported (R462). -/
  | eventRecord (src : Part)
  /-- MSIX_COALESCE_TIMEOUT: Eight microseconds have passed at a global ring (R463). -/
  | msixCoalesceTimeout (q : Fin 16384)
  /-- BAR2_READ: A read of n bytes at an offset of BAR2 (R448). -/
  | bar2Read (fn : Fin 16) (off : Nat) (n : Nat)
  /-- BAR2_WRITE: A write at an offset of BAR2 (R448). -/
  | bar2Write (fn : Fin 16) (off : Nat) (data : Bytes)
  /-- VF_ENABLE: VF Enable is set with n VFs (R450). -/
  | vfEnable (n : Fin 16)
  /-- FUNCTION_LEVEL_RESET: R452 -/
  | functionLevelReset (fn : Fin 16)
  /-- CONVENTIONAL_RESET: PERST_N low (`perst`), hot reset or link down (R568). -/
  | conventionalReset (perst : Bool)
  /-- EXCHANGE_POINT: The last core has arrived: the plane performs the cycle (R351). -/
  | exchangePoint
  /-- BARRIER_ARRIVE: The ARRIVE at the head of a port, and this member’s own; `children` are its children in the timing tree, `members` the members in the subtree of each (R385, R386). -/
  | barrierArrive (p : Fin 32) (children : List (Fin 1024)) (members : List (List (Fin 1024)))
  /-- BARRIER_RELEASE: The RELEASE at the head of a port, passed to the children, those of `children` among them (R386). -/
  | barrierRelease (p : Fin 32) (children : List (Fin 1024))
  /-- BARRIER_TIMEOUT: The barrier’s TIMEOUT has run out; `children` are its children in the timing tree (R388, R427). -/
  | barrierTimeout (children : List (Fin 1024))
  /-- SYNC_IN: SYNC_IN is sampled high (R383). -/
  | syncIn
  /-- HERD_ARM: A write of 1 to SUP_HERD_CTRL.ARM (R394). -/
  | herdArm
  /-- SYNC_OUT: SYNC_OUT drives high at a multiple of 2^20 (R383). -/
  | syncOut
  /-- BEACON_SEND: R384 -/
  | beaconSend
  /-- BEACON: The BEACON at the head of a port (R384). -/
  | beacon (p : Fin 32)
  /-- DATA_FLIT_RECEIVE: A DATA flit arrives; `fec` counts the codewords that FEC corrected and those it could not (R407, R439). -/
  | dataFlitReceive (p : Fin 32) (bytes : Bytes) (fec : Nat × Nat)
  /-- IDLE_FLIT: An IDLE flit arrives (R401). -/
  | idleFlit (p : Fin 32) (ack : Fin 4096) (crVc : Fin 4) (crCount : Fin 1024)
  /-- NAK: A NAK arrives (R407). -/
  | nak (p : Fin 32) (seq : Fin 4096)
  /-- REPLAY_TIMEOUT: R407 -/
  | replayTimeout (p : Fin 32)
  /-- VIOLATION: A VIOLATION answer arrives (R431). -/
  | violation (p : Fin 32)
  /-- EPOCH: An EPOCH control flit arrives: a request, or an epoch with its root that includes or excludes this chip (R426). -/
  | epoch (p : Fin 32) (request : Bool) (epoch_ : BitVec 16) (root : Fin 1024) (excludes : Bool)
  /-- FENCED: A FENCED control flit arrives (R432). -/
  | fenced (p : Fin 32)
  /-- EPOCH_REQUEST_REPEAT: R426 -/
  | epochRequestRepeat (p : Fin 32)
  /-- HELD_FLIT_TIMEOUT: R426 -/
  | heldFlitTimeout (p : Fin 32)
  /-- LINK_WRITE: The WRITE segment at the head of a port (R403). -/
  | linkWrite (p : Fin 32)
  /-- LINK_READ: The READ segment at the head of a port (R403). -/
  | linkRead (p : Fin 32)
  /-- LINK_FOLD: The FOLD segment at the head of a port (R415). -/
  | linkFold (p : Fin 32)
  /-- CLOSE: The CLOSE segment at the head of a channel of a port (R413). -/
  | close (p : Fin 32) (vc : Fin 4)
  /-- TRANSFER_SERVED: A transfer of a port has been served whole (R413). -/
  | transferServed (p : Fin 32)
  /-- RDATA: The RDATA segment at the head of a port (R414). -/
  | rdata (p : Fin 32)
  /-- DONE: The DONE segment at the head of a port (R413). -/
  | done (p : Fin 32)
  /-- SEGMENT_HAND_OVER: The next transfer due at a port enters its queue (R412). -/
  | segmentHandOver (p : Fin 32)
  /-- TAG_TIMEOUT: R419 -/
  | tagTimeout (p : Fin 32) (tag : Fin 256)
  /-- CREDIT_STALL: R421 -/
  | creditStall (p : Fin 32) (vc : Fin 4)
  /-- LSREC: The LSREC segment at the head of a port (R380). -/
  | lsrec (p : Fin 32)
  /-- PAIR: The PAIR segment at the head of a port (R378). -/
  | pair (p : Fin 32)
  /-- SUSPECT: The SUSPECT segment at the head of a port (R427). -/
  | suspect (p : Fin 32)
  /-- SUSPECT_TIMEOUT: Every port to a herd index has been down for DEAD_TIME (R427). -/
  | suspectTimeout (x : Fin 1024)
  /-- JOIN: The JOIN segment at the head of a port (R425). -/
  | join (p : Fin 32)
  /-- MEMBER: The MEMBER segment at the head of a port (R424). -/
  | member (p : Fin 32)
  /-- LINK_TRAINING: A training ends: the lanes that passed, and what IDENT and MEASURE gave (R433). -/
  | linkTraining (p : Fin 32) (lanes : BitVec 6) (finished : Bool) (peerId : BitVec 64) (peerPort : Fin 32) (rtt : BitVec 32) (asym : BitVec 32)
  /-- TRAINING_RETRY: R433 -/
  | trainingRetry (p : Fin 32)
  /-- LANE_FAILURE: R434 -/
  | laneFailure (p : Fin 32) (lane : Fin 6)
  /-- DISABLE: A write of LNK_CTRL.DISABLE (R437). -/
  | disable (p : Fin 32) (on : Bool)
  /-- RETRAIN: A write of 1 to LNK_CTRL.RETRAIN (R437). -/
  | retrain (p : Fin 32)
  /-- LINE_RISE: The line of a source rises (R483). -/
  | lineRise (n : Fin 1024)
  /-- FILTER_ACCEPT: R486 -/
  | filterAccept (n : Fin 1024)
  /-- WAKE_LATCH: R487 -/
  | wakeLatch
  /-- INTERRUPT_TAKE: R490 -/
  | interruptTake (k : Fin 20)
  /-- ICU_CORE_CLAIM: A control core reads ICU_CORE_CLAIM (R491). -/
  | icuCoreClaim (k : Fin 20)
  /-- ICU_CORE_COMPLETE: A control core writes ICU_CORE_COMPLETE (R492). -/
  | icuCoreComplete (k : Fin 20) (n : Fin 1024)
  /-- LADLE: LADLE with its two address registers; `steps` elements move before it ends or an interrupt stops it (R478). -/
  | ladle (k : Fin 20) (word : BitVec 32) (src : BitVec 64) (dst : BitVec 64) (steps : Nat)
  /-- STW_TOKEN: A control core of a steward writes STW_TOKEN (R482). -/
  | stwToken (k : Fin 20) (val : BitVec 64)
  /-- STEWARD_TOKEN_DELIVERY: The oldest token of a steward is delivered (R482). -/
  | stewardTokenDelivery (qd : Fin 8)
  /-- STEWARD_EVENT_LOG: A steward logs a routed event; `diag` is the diagnosis it records, as the W1 of the MAP_EXTEND that it asks for (R481). -/
  | stewardEventLog (qd : Fin 8) (source : Fin 1024) (cause : Nat) (diag : Option (BitVec 64))
  /-- GOVERNOR_SAMPLE: Input power now and its 1-ms average in W, the input in 10 mV (R508). -/
  | governorSample (power_ : Nat) (avg : Nat) (rail : Nat)
  /-- GOVERNOR_ADJUST: R509 -/
  | governorAdjust (power_ : Nat)
  /-- DIE_THERMAL_SAMPLE: Junction temperatures in °C (R510). -/
  | dieThermalSample (west : Nat) (east : Nat)
  /-- FAULT_STOP: A critical cause; `stand` says that the main rails stand until the crash record is written (R512, R516). -/
  | faultStop (cause : Fin 256) (rtc : BitVec 48) (stand : Bool)
  /-- EAST_LOST: R523 -/
  | eastLost
  /-- HOLDUP_HEALTH_CHECK: Usable energy in mJ, capacitance and ESR in % (R515). -/
  | holdupHealthCheck (energy : Nat) (cap : Nat) (esr : Nat)
  /-- DURABLE_COMMIT: The oldest waiting commit runs; `energy` is the bank as measured, in mJ (R516). -/
  | durableCommit (energy : Nat)
  /-- TRIGGER: A write of 1 to TEL_SNAP_CTRL.TRIGGER (R528). -/
  | trigger
  /-- PERIODIC_SNAPSHOT: R520 -/
  | periodicSnapshot
  /-- SNAPSHOT_CAPTURE_END: R521 -/
  | snapshotCaptureEnd
  /-- GET_NONCE: `rtc` is the real-time count (R535). -/
  | getNonce (rtc : BitVec 48)
  /-- SUBMIT: R537 -/
  | submit (rtc : BitVec 48)
  /-- TAKE_OWNERSHIP: Step 7 of R537 for an authorisation that passed step 6 (R531). -/
  | takeOwnership (rtc : BitVec 48)
  /-- OWNER_OPEN: Step 7 of R537 for an authorisation that passed step 6 (R531). -/
  | ownerOpen (rtc : BitVec 48)
  /-- SET_POLICY: Step 7 of R537 for an authorisation that passed step 6 (R531). -/
  | setPolicy (rtc : BitVec 48)
  /-- RELEASE_OWNERSHIP: Step 7 of R537 for an authorisation that passed step 6 (R531). -/
  | releaseOwnership (rtc : BitVec 48)
  /-- VENDOR_OPEN: Step 7 of R537 for an authorisation that passed step 6 (R531). -/
  | vendorOpen (rtc : BitVec 48)
  /-- VENDOR_BLANK: Step 7 of R537 for an authorisation that passed step 6 (R531). -/
  | vendorBlank (rtc : BitVec 48)
  /-- SCRAP: Step 7 of R537 for an authorisation that passed step 6 (R531). -/
  | scrap (rtc : BitVec 48)
  /-- SESSION: R547 -/
  | session (level : Fin 4)
  /-- END: R547 -/
  | endSession
  /-- RELOCK: R531 -/
  | relock
  /-- LEASE_EXPIRY: R531 -/
  | leaseExpiry (rtc : BitVec 48)
  /-- NONCE_EXPIRY: R535 -/
  | nonceExpiry (rtc : BitVec 48)
  /-- BYPASS: R545 -/
  | bypass
  /-- IDCODE: R545 -/
  | idcode
  /-- SAMPLE_PRELOAD: `cells` are what is shifted into the boundary scan (R545). -/
  | samplePreload (cells : Bytes)
  /-- EXTEST: R545 -/
  | extest
  /-- DAPACC: R545 -/
  | dapacc
  /-- GET_VERSION: R543 -/
  | getVersion
  /-- GET_CAPABILITIES: R543 -/
  | getCapabilities
  /-- NEGOTIATE_ALGORITHMS: What the requester offers (R543). -/
  | negotiateAlgorithms (ecdsaP384 : Bool) (sha384_ : Bool)
  /-- GET_DIGESTS: R543 -/
  | getDigests
  /-- GET_CERTIFICATE: R543 -/
  | getCertificate (slot : Fin 8) (off : Nat) (len : Nat)
  /-- CHALLENGE: R543 -/
  | challenge (slot : Fin 8) (nonce : Bytes)
  /-- GET_MEASUREMENTS: R544 -/
  | getMeasurements (index : Fin 256) (nonce : Bytes)
  /-- FIRMWARE_UPDATE: A new slot as its checks find it: vendor pair of its keys (4 none), both signatures, SVN, version, body hash right, steward firmware good, body hash (R542). -/
  | firmwareUpdate (pair : Fin 5) (signed : Bool) (svn : BitVec 16) (version : BitVec 32) (bodyOk : Bool) (stewardOk : Bool) (body : Bytes)
  /-- FIRMWARE_ACTIVATION: R542 -/
  | firmwareActivation
  /-- GET_ID: R563 -/
  | getId
  /-- WAKE: R507, R563 -/
  | wake (cond : StartCond)
  /-- RESET: R563 -/
  | reset (cond : StartCond)
  /-- FAULT_CLEAR: R563 -/
  | faultClear
  /-- AUXILIARY_POWER_UP: R568 -/
  | auxiliaryPowerUp (cond : StartCond)
  /-- START_HOLD_RELEASE: A hold condition has cleared (R565). -/
  | startHoldRelease (cond : StartCond)
  /-- SYS_RST_N: SYS_RST_N has been low for 1 µs or more, or rises (R568). -/
  | sysRstN (low : Bool) (cond : StartCond)
  /-- MODULE: A write of SUP_RESET_CTRL with MODULE set (R573). -/
  | moduleRequest (key : BitVec 16)
  /-- COMPUTE: A write of SUP_RESET_CTRL with COMPUTE alone set (R573). -/
  | computeRequest (key : BitVec 16)
  /-- MODULE_RESET: A module reset that was requested takes place (R568). -/
  | moduleReset (cond : StartCond)
  /-- COMPUTE_RESET_END: The stores are zeroed (R568). -/
  | computeResetEnd
  /-- AUXILIARY_RAIL_FAIL: R556 -/
  | auxiliaryRailFail
  /-- PERST_N_RISE: R567 -/
  | perstNRise
  /-- COMPLETION_TIMEOUT: A read of host memory for a command gets no completion (R464). -/
  | completionTimeout (id : Nat)
  /-- LINE_FALL: The line of a source falls (R486). -/
  | lineFall (n : Fin 1024)
  /-- DEBUG_HALT: R546 -/
  | debugHalt (k : Fin 20)
  /-- RESUME: R546 -/
  | resume (k : Fin 20)
  /-- STEWARD_CORE_LOST: R523 -/
  | stewardCoreLost (k : Fin 20)
  /-- NAND_WEAR_MANAGEMENT: Wear as S3 finds it: life and worst block in %, bad blocks, erased MiB (R519). -/
  | nandWearManagement (life : Nat) (worst : Nat) (bad : Nat) (erased : Nat)
  deriving DecidableEq, Repr

end Sys2Proof
end

