-- ==== Sys2Proof/Machine/Posit.lean ====
section
/-! DEFINITION. Posit formats, quires, roundings and conversions (chapter 02), and the exact arithmetic they
rest on. -/

namespace Sys2Proof.Machine

/-! ### Exact dyadic numbers -/

/-- An exact number `m × 2^e`. Every finite operand of the device has one. -/
structure Dy where
  m : Int
  e : Int
  deriving DecidableEq, Repr

/-- An exact number or NaR. -/
inductive Val where
  | nar
  | num (x : Dy)
  deriving DecidableEq, Repr

/-- `2^k` for a non-negative integer exponent, 1 below. -/
def pow2 (k : Int) : Int := (2 ^ k.toNat : Nat)

/-- Zero. -/
def Dy.zero : Dy := ⟨0, 0⟩
/-- An integer. -/
def Dy.ofInt (x : Int) : Dy := ⟨x, 0⟩
/-- Exact sum. -/
def Dy.add (a b : Dy) : Dy :=
  if a.m = 0 then b else if b.m = 0 then a else
  let e := min a.e b.e
  ⟨a.m * pow2 (a.e - e) + b.m * pow2 (b.e - e), e⟩
/-- Exact product. -/
def Dy.mul (a b : Dy) : Dy := ⟨a.m * b.m, a.e + b.e⟩
/-- Exact negation. -/
def Dy.neg (a : Dy) : Dy := ⟨-a.m, a.e⟩
/-- Exact difference. -/
def Dy.sub (a b : Dy) : Dy := a.add b.neg
/-- Exact magnitude. -/
def Dy.abs (a : Dy) : Dy := ⟨a.m.natAbs, a.e⟩
/-- The sign of the exact difference: `a < b`. -/
def Dy.lt (a b : Dy) : Bool := decide ((a.sub b).m < 0)
/-- Exact order. -/
def Dy.le (a b : Dy) : Bool := decide ((a.sub b).m ≤ 0)
/-- The floor as an integer. -/
def Dy.floor (a : Dy) : Int := if 0 ≤ a.e then a.m * pow2 a.e else a.m / pow2 (-a.e)
/-- The nearest integer, ties to the even one (R57, R195). -/
def Dy.roundEven (a : Dy) : Int :=
  let f := a.floor
  let d := (a.sub (Dy.ofInt f)).sub ⟨1, -1⟩
  if d.m < 0 then f else if 0 < d.m then f + 1 else if f % 2 = 0 then f else f + 1

/-- Exact sum, NaR with a NaR operand (R59). -/
def Val.add : Val → Val → Val
  | .num a, .num b => .num (a.add b)
  | _, _ => .nar
/-- Exact product, NaR with a NaR operand, a product of NaR and zero included (R59). -/
def Val.mul : Val → Val → Val
  | .num a, .num b => .num (a.mul b)
  | _, _ => .nar
/-- Exact negation. -/
def Val.neg : Val → Val
  | .num a => .num a.neg
  | .nar => .nar
/-- Exact difference. -/
def Val.sub (a b : Val) : Val := a.add b.neg
/-- The value of zero. -/
def Val.zero : Val := .num Dy.zero
/-- NaR or not. -/
def Val.isNar : Val → Bool
  | .nar => true
  | _ => false
/-- Zero or not. -/
def Val.isZero : Val → Bool
  | .num x => decide (x.m = 0)
  | .nar => false

/-! ### Posit decoding and rounding (R52 to R58) -/

/-- The length of the run of bits equal to `r` in the low `k` bits of `x`, from bit `k - 1` down. -/
def runLen (r : Bool) (x : Nat) : Nat → Nat
  | 0 => 0
  | k + 1 => if x.testBit k = r then runLen r x k + 1 else 0

/-- The exact value of a posit pattern of `n` bits (R54). -/
def pdec (n p : Nat) : Val :=
  let p := p % 2 ^ n
  if p = 0 then .num Dy.zero
  else if p = 2 ^ (n - 1) then .nar
  else
    let neg := p.testBit (n - 1)
    let q := if neg then 2 ^ n - p else p
    let r := q.testBit (n - 2)
    let m := runLen r q (n - 1)
    let k : Int := if r then (m : Int) - 1 else -(m : Int)
    let left := n - 1 - (m + 1)              -- bits after the terminating bit, if present
    let rest := q % 2 ^ left
    let ew := min left 2
    let e := (rest >>> (left - ew)) <<< (2 - ew)
    let fw := left - ew
    let f := rest % 2 ^ fw
    let mag : Int := ((2 ^ fw + f : Nat) : Int)
    .num ⟨if neg then -mag else mag, 4 * k + (e : Int) - (fw : Int)⟩

/-- The pattern of a positive magnitude `m × 2^e` rounded to `n` bits, ties to the even pattern (R57). -/
def pmag (n m : Nat) (e : Int) : Nat :=
  let l := Nat.log2 m
  let big : Int := (l : Int) + e
  let lim : Int := 4 * ((n : Int) - 2)
  if lim ≤ big then 2 ^ (n - 1) - 1
  else if big < -lim ∨ (big = -lim ∧ m = 2 ^ l) then 1
  else
    let k := big / 4
    let ex := (big - 4 * k).toNat
    let regLen : Nat := if 0 ≤ k then k.toNat + 2 else (-k).toNat + 1
    let reg : Nat := if 0 ≤ k then 2 ^ (k.toNat + 2) - 2 else 1
    let frac := m - 2 ^ l
    let body := (reg * 4 + ex) * 2 ^ l + frac
    let tot := regLen + 2 + l
    if tot ≤ n - 1 then body * 2 ^ (n - 1 - tot)
    else
      let sh := tot - (n - 1)
      let head := body >>> sh
      let guard := body.testBit (sh - 1)
      let sticky := decide (body % 2 ^ (sh - 1) ≠ 0)
      if guard && (sticky || head % 2 == 1) then head + 1 else head

/-- One rounding of an exact value to a posit of `n` bits (R57, R58, R59). -/
def penc (n : Nat) : Val → Nat
  | .nar => 2 ^ (n - 1)
  | .num x =>
    if x.m = 0 then 0
    else
      let b := pmag n x.m.natAbs x.e
      if 0 < x.m then b else 2 ^ n - b

/-- The NaR pattern of a width (R53). -/
def narPat (n : Nat) : Nat := 2 ^ (n - 1)
/-- The pattern of 1.0 (R53). -/
def onePat (n : Nat) : Nat := 2 ^ (n - 2)
/-- The pattern of −p modulo 2^n (R52). -/
def pneg (n p : Nat) : Nat := (2 ^ n - p % 2 ^ n) % 2 ^ n

/-- The exact magnitude of the value exceeds maxpos of a width (R77, R95). -/
def aboveMax (n : Nat) : Val → Bool
  | .nar => false
  | .num x => Dy.lt ⟨1, 4 * ((n : Int) - 2)⟩ x.abs
/-- The exact value is nonzero and below minpos in magnitude (R77). -/
def belowMin (n : Nat) : Val → Bool
  | .nar => false
  | .num x => decide (x.m ≠ 0) && Dy.lt x.abs ⟨1, -(4 * ((n : Int) - 2))⟩

/-- Rounding to posit32 (R57). -/
def r32 (v : Val) : Nat := penc 32 v
/-- The value of a posit32 pattern. -/
def v32 (p : Nat) : Val := pdec 32 p
/-- The sum of two posit32 patterns, rounded once. -/
def add32 (a b : Nat) : Nat := r32 ((v32 a).add (v32 b))
/-- `a < b` in posit order, the order of the patterns as signed integers (R56). -/
def plt (n a b : Nat) : Bool := decide (sgn n a < sgn n b)

/-! ### Formats (R50) and IEEE formats (R73, R74) -/

/-- The format codes of R50. -/
inductive Fmt where
  | p8 | p16 | p32 | i8 | i4 | bf16 | b32 | b64 | q128 | q256 | q512
  deriving DecidableEq, Repr

/-- The format a code names; codes 0xB to 0xF are reserved. -/
def Fmt.ofCode : Nat → Option Fmt
  | 0 => some .p8 | 1 => some .p16 | 2 => some .p32 | 3 => some .i8 | 4 => some .i4
  | 5 => some .bf16 | 6 => some .b32 | 7 => some .b64
  | 8 => some .q128 | 9 => some .q256 | 10 => some .q512
  | _ => none

/-- The code of a format. -/
def Fmt.code : Fmt → Nat
  | .p8 => 0 | .p16 => 1 | .p32 => 2 | .i8 => 3 | .i4 => 4 | .bf16 => 5 | .b32 => 6 | .b64 => 7
  | .q128 => 8 | .q256 => 9 | .q512 => 10

/-- Bits of an element (R222). -/
def Fmt.bitsz : Fmt → Nat
  | .p8 => 8 | .p16 => 16 | .p32 => 32 | .i8 => 8 | .i4 => 4 | .bf16 => 16 | .b32 => 32 | .b64 => 64
  | .q128 => 128 | .q256 => 256 | .q512 => 512

/-- Posit formats. -/
def Fmt.isPosit : Fmt → Bool
  | .p8 | .p16 | .p32 => true
  | _ => false
/-- IEEE formats. -/
def Fmt.isIeee : Fmt → Bool
  | .bf16 | .b32 | .b64 => true
  | _ => false

/-- Exponent and fraction widths of an IEEE format. -/
def ieeeDims : Fmt → Nat × Nat
  | .bf16 => (8, 7)
  | .b32 => (8, 23)
  | _ => (11, 52)

/-- The exact value of an IEEE pattern; infinities and NaNs are taken as NaR (R59, R73). -/
def ieeeDec (f : Fmt) (p : Nat) : Val :=
  let (ew, fw) := ieeeDims f
  let neg := p.testBit (ew + fw)
  let ex := bits p (ew + fw - 1) fw
  let fr := p % 2 ^ fw
  if ex = 2 ^ ew - 1 then .nar
  else
    let m : Nat := if ex = 0 then fr else 2 ^ fw + fr
    let bias : Int := 2 ^ (ew - 1) - 1
    let e : Int := (if ex = 0 then 1 else (ex : Int)) - bias - (fw : Int)
    .num ⟨if neg then -(m : Int) else (m : Int), e⟩

/-- The canonical quiet NaN of an IEEE format (R74). -/
def ieeeNan (f : Fmt) : Nat :=
  let (ew, fw) := ieeeDims f
  (2 ^ (ew + 1) - 1) * 2 ^ (fw - 1)

/-- `m × 2^e` in units of `2^u`, rounded to nearest, ties to even. -/
def toUnits (m : Nat) (e u : Int) : Nat := (Dy.roundEven ⟨m, e - u⟩).toNat

/-- One IEEE rounding, ties to even, with overflow to infinity and gradual underflow (R74). The second
value says that a finite value gave an infinity (R77). -/
def ieeeEnc (f : Fmt) : Val → Nat × Bool
  | .nar => (ieeeNan f, false)
  | .num x =>
    let (ew, fw) := ieeeDims f
    if x.m = 0 then (0, false)
    else
      let sgnb := if x.m < 0 then 2 ^ (ew + fw) else 0
      let m := x.m.natAbs
      let bias : Int := 2 ^ (ew - 1) - 1
      let big : Int := (Nat.log2 m : Int) + x.e
      let emin : Int := 1 - bias
      let eb := max big emin
      let u := eb - (fw : Int)
      let t := toUnits m x.e u                 -- up to 2^(fw + 1)
      let pat : Nat := if t < 2 ^ fw then t    -- subnormal or zero
        else ((eb + bias).toNat) * 2 ^ fw + (t - 2 ^ fw)
      let inf := (2 ^ ew - 1) * 2 ^ fw
      if inf ≤ pat then (sgnb + inf, true) else (sgnb + pat, false)

/-! ### Quires (R64 to R69) -/

/-- The posit width n of a quire of w entries of 128 bits: 8, 16 or 32. -/
def qPosit (w : Nat) : Nat := 8 * w
/-- The weight exponent of a quire's lowest bit: 16 − 8n (R64). -/
def qUnit (w : Nat) : Int := 16 - 8 * (qPosit w : Int)

/-- A quire's content: NaR or the integer Q. -/
inductive Quire where
  | nar
  | int (q : Int)
  deriving DecidableEq, Repr

/-- The quire a pattern of 128w bits spells (R64, R65). -/
def qdec (w p : Nat) : Quire :=
  if p % 2 ^ (128 * w) = 2 ^ (128 * w - 1) then .nar else .int (sgn (128 * w) p)
/-- The pattern of a quire. -/
def qenc (w : Nat) : Quire → Nat
  | .nar => 2 ^ (128 * w - 1)
  | .int q => tc (128 * w) q
/-- The exact value of a quire (R64). -/
def qval (w : Nat) : Quire → Val
  | .nar => .nar
  | .int q => .num ⟨q, qUnit w⟩
/-- A value in units of the quire's lowest bit (exact for every value that may enter, R66). -/
def qunits (w : Nat) (x : Dy) : Int := Dy.floor ⟨x.m, x.e - qUnit w⟩
/-- A value as a quire. -/
def qof (w : Nat) : Val → Quire
  | .nar => .nar
  | .num x => .int (qunits w x)
/-- The signed extremes and the range of R65, R67. The second value says that the addition saturated. -/
def qclamp (w : Nat) (q : Int) : Quire × Bool :=
  let top : Int := (2 ^ (128 * w - 1) : Nat) - 1
  if top < q then (.int top, true)
  else if q < -top then (.int (-top), true)
  else (.int q, false)
/-- One quire addition: exact in range, the signed extreme outside it, NaR over everything (R67, R68). -/
def qadd (w : Nat) : Quire → Quire → Quire × Bool
  | .int a, .int b => qclamp w (a + b)
  | _, _ => (.nar, false)
/-- The exact three-way addition of two contributions in one cycle (R92). -/
def qadd3 (w : Nat) : Quire → Quire → Quire → Quire × Bool
  | .int a, .int b, .int c => qclamp w (a + b + c)
  | _, _, _ => (.nar, false)
/-- NaR or not. -/
def Quire.isNar : Quire → Bool
  | .nar => true
  | _ => false
/-- The zero quire. -/
def Quire.zero : Quire := .int 0

/-! ### Elements: decoding, encoding, conversion (R72 to R77) -/

/-- The exact value of an element pattern of a format. -/
def fdec (f : Fmt) (p : Nat) : Val :=
  match f with
  | .p8 => pdec 8 p
  | .p16 => pdec 16 p
  | .p32 => pdec 32 p
  | .i8 => .num (Dy.ofInt (sgn 8 p))
  | .i4 => .num (Dy.ofInt (sgn 4 p))
  | .bf16 | .b32 | .b64 => ieeeDec f p
  | .q128 => qval 1 (qdec 1 p)
  | .q256 => qval 2 (qdec 2 p)
  | .q512 => qval 4 (qdec 4 p)

/-- What one conversion adds to COR_CVT_COUNT (R77). -/
structure CvtTally where
  narIn : Nat
  satHi : Nat
  satLo : Nat
  ovf : Nat
  deriving DecidableEq, Repr

/-- No event. -/
def CvtTally.zero : CvtTally := ⟨0, 0, 0, 0⟩
/-- Events of several conversions. -/
def CvtTally.add (a b : CvtTally) : CvtTally :=
  ⟨a.narIn + b.narIn, a.satHi + b.satHi, a.satLo + b.satLo, a.ovf + b.ovf⟩

/-- One rounding of an exact value to a target format, with the events R77 counts. -/
def roundTo (f : Fmt) (v : Val) : Nat × CvtTally :=
  if f.isIeee then
    let (p, o) := ieeeEnc f v
    (p, { CvtTally.zero with ovf := b2n o })
  else
    let n := f.bitsz
    (penc n v, { CvtTally.zero with satHi := b2n (aboveMax n v), satLo := b2n (belowMin n v) })

/-- The pairs of the conversion table of R72. -/
def convAllowed (s d : Fmt) : Bool :=
  match s with
  | .b64 | .b32 | .bf16 => d.isPosit
  | .p8 | .p16 | .p32 => (d.isPosit && decide (d ≠ s)) || d.isIeee
  | .q128 | .q256 | .q512 => d.isPosit || d.isIeee
  | .i8 | .i4 => false

/-- One conversion of an element (R72 to R75): the target pattern and its events. -/
def convert (s d : Fmt) (p : Nat) : Nat × CvtTally :=
  let v := fdec s p
  let (q, t) := roundTo d v
  (q, { t with narIn := b2n (s.isIeee && v.isNar) })

/-- The element pattern a consumer of a poisoned sector takes (R258, R311): NaR, the quire NaR, integer
zero, or the canonical NaN. -/
def poisonPat (f : Fmt) : Nat :=
  match f with
  | .p8 => narPat 8 | .p16 => narPat 16 | .p32 => narPat 32
  | .i8 | .i4 => 0
  | .bf16 | .b32 | .b64 => ieeeNan f
  | .q128 => 2 ^ 127 | .q256 => 2 ^ 255 | .q512 => 2 ^ 511

/-! ### Max and min records (R105, R106) -/

/-- A record: an index and a posit of the reduction's width. -/
structure Rec where
  idx : Nat
  val : Nat
  deriving DecidableEq, Repr

/-- The empty record (R106). -/
def Rec.empty : Rec := ⟨0xFFFFFFFF, 0⟩
/-- The record of a poisoned sector (R258, R311). -/
def Rec.poison (n : Nat) : Rec := ⟨0xFFFFFFFE, narPat n⟩
/-- A record from its 64-bit container. -/
def Rec.dec (n x : Nat) : Rec := ⟨bits x 63 32, x % 2 ^ n⟩
/-- The 64-bit container. -/
def Rec.enc (r : Rec) : Nat := r.val + r.idx * 2 ^ 32

/-- `combine` of R105 for posits of `n` bits. -/
def combine (n : Nat) (wantMax : Bool) (a b : Rec) : Rec :=
  if a.idx = 0xFFFFFFFF then b
  else if b.idx = 0xFFFFFFFF then a
  else if a.val = narPat n ∨ b.val = narPat n then
    if a.val = narPat n ∧ b.val = narPat n then (if a.idx ≤ b.idx then a else b)
    else if a.val = narPat n then a else b
  else if a.val = b.val then (if a.idx ≤ b.idx then a else b)
  else if wantMax then (if plt n b.val a.val then a else b)
  else (if plt n a.val b.val then a else b)

/-! ### exp2 and log2 (R61, R168)

Both are evaluated in fixed point with `xpPrec` fraction bits and truncation; the truncated value with a
sticky bit is then rounded once. For the inputs that have an exact result the exact result is taken. -/

/-- Fraction bits of the fixed-point evaluation. -/
def xpPrec : Nat := 416

/-- Σ y^i / i! from term `i` on, in units of 2^-xpPrec, `t` being term `i`. -/
def expSeries (y : Nat) : Nat → Nat → Nat → Nat
  | 0, _, _ => 0
  | fuel + 1, i, t => t + expSeries y fuel (i + 1) (t * y / 2 ^ xpPrec / (i + 1))

/-- Σ z^(2i+1) / (2i+1), `p` being z^(2i+1), in units of 2^-xpPrec. -/
def atanhSeries (z2 : Nat) : Nat → Nat → Nat → Nat
  | 0, _, _ => 0
  | fuel + 1, i, p => p / (2 * i + 1) + atanhSeries z2 fuel (i + 1) (p * z2 / 2 ^ xpPrec)

/-- ln of `1 + f/2^xpPrec` for `0 ≤ f < 2^xpPrec`: twice atanh of f / (2 + f). -/
def lnFix (f : Nat) : Nat :=
  let z := f * 2 ^ xpPrec / (2 * 2 ^ xpPrec + f)
  2 * atanhSeries (z * z / 2 ^ xpPrec) 160 0 z

/-- ln 2 in units of 2^-xpPrec. -/
def ln2Fix : Nat := 2 * atanhSeries ((2 ^ xpPrec / 3) * (2 ^ xpPrec / 3) / 2 ^ xpPrec) 160 0 (2 ^ xpPrec / 3)

/-- Bits of the evaluation kept before the sticky bit. -/
def xpKeep : Nat := 352

/-- 2^x for a number x, exact for an integer, otherwise truncated with a sticky bit (R168). -/
def exp2Val (x : Dy) : Dy :=
  let i := x.floor
  let fr := x.sub (Dy.ofInt i)
  if fr.m = 0 then ⟨1, i⟩
  else
    let f := (Dy.floor ⟨fr.m, fr.e + (xpPrec : Int)⟩).toNat
    let s := expSeries (f * ln2Fix / 2 ^ xpPrec) 96 0 (2 ^ xpPrec)
    ⟨((s >>> (xpPrec - xpKeep)) * 2 + 1 : Nat), i - (xpKeep : Int) - 1⟩

/-- log2 x for x > 0, exact for a power of two, otherwise truncated with a sticky bit (R168). -/
def log2Val (x : Dy) : Dy :=
  let m := x.m.natAbs
  let l := Nat.log2 m
  let k : Int := (l : Int) + x.e
  if m = 2 ^ l then ⟨k, 0⟩
  else
    let f := (Dy.floor ⟨(m - 2 ^ l : Nat), (xpPrec : Int) - (l : Int)⟩).toNat
    let g := lnFix f * 2 ^ xpPrec / ln2Fix
    (Dy.ofInt k).add ⟨((g >>> (xpPrec - xpKeep)) * 2 + 1 : Nat), -(xpKeep : Int) - 1⟩

/-- The built-in exp2 of width n with flush threshold T (R61, R168): the pattern. Beyond the range of the
output the result saturates (R58), so the argument may be cut there. -/
def exp2Pat (n : Nat) (t : Int) : Val → Nat
  | .nar => narPat n
  | .num x =>
    if Dy.lt x (Dy.ofInt t) then 0
    else if Dy.le (Dy.ofInt (4 * ((n : Int) - 2))) x then 2 ^ (n - 1) - 1
    else if Dy.le x (Dy.ofInt (-(4 * ((n : Int) - 2)))) then 1
    else penc n (.num (exp2Val x))

/-- The built-in log2 of width n (R168). -/
def log2Pat (n : Nat) : Val → Nat
  | .nar => narPat n
  | .num x => if x.m ≤ 0 then narPat n else penc n (.num (log2Val x))

/-- round_p32(1 / S) (R178): NaR if S is zero or NaR. The quotient is taken to 128 bits with a sticky bit,
more than any posit32 keeps. -/
def recip32 (s : Nat) : Nat :=
  match v32 s with
  | .nar => narPat 32
  | .num x =>
    if x.m = 0 then narPat 32
    else
      let m := x.m.natAbs
      let sh := Nat.log2 m + 128
      let q := 2 ^ sh / m
      let st := if 2 ^ sh % m = 0 then 0 else 1
      let mag : Int := ((2 * q + st : Nat) : Int)
      r32 (.num ⟨if x.m < 0 then -mag else mag, -(sh : Int) - 1 - x.e⟩)

/-! ### Quantisation (R195) -/

/-- `quantise` of R195 on posit patterns: the integer and whether it was clipped. -/
def quantise (srcN x inv : Nat) (z : Int) (i4 : Bool) : Int × Bool :=
  let (lo, hi) : Int × Int := if i4 then (-8, 7) else (-128, 127)
  match (pdec srcN x).mul (v32 inv) with
  | .nar => (z, true)
  | .num p =>
    let t := p.roundEven + z
    if t < lo then (lo, true) else if hi < t then (hi, true) else (t, false)

end Sys2Proof.Machine
end

