-- ==== Sys2Proof/Machine/CoreState.lean ====
section
/-! DEFINITION. The state of one compute core: sequencer, pails, matrix engines and vats, vector engine, stream
unit, tile store and staging (chapters 02 to 09), and what is in flight in it. Plane cycles ("due", "at") are
counted by the plane's own cycle number. -/

namespace Sys2Proof.Machine

/-- A latest-refusal register: COR_SEQ_FAULT, COR_SU_FAULT (R275), COR_ME_FAULT (R151), COR_VE_FAULT (R185),
SEP_FAULT (R241). COUNT stops at 0xFFFF. -/
structure FaultReg where
  count : Nat
  code : Nat
  aux : Nat        -- LAST_ENTRY, LAST_OP or LAST_LABEL
  step : Nat       -- low bits of the step number
  deriving DecidableEq, Repr

/-- No fault since reset. -/
def FaultReg.reset : FaultReg := ⟨0, 0, 0, 0⟩

/-- What a core reports to its steward (R481, R483): the 128 + c and 832 + c causes, and a mesh collision. -/
inductive CoreEv where
  | vat | engine | vector | stream | sequencer | bankCollision | uncorrectable | watchdog
  | pailDrop | tokenRefused | halted
  deriving DecidableEq, Repr

/-! ### Configuration in force (chapter 11's per-core sections) -/

/-- A function table (R187, R188): header and the listed segments as (c0, c1, c2). -/
structure FTable where
  x0 : Nat
  invW : Nat
  loaded : Bool
  linear : Bool
  inW : Nat
  seg : Tab (Nat × Nat × Nat)
  deriving DecidableEq, Repr

/-- A table not loaded. -/
def FTable.reset : FTable := ⟨0, 0, false, false, 0, []⟩

/-- A micro-program (R171, R172, R189). -/
structure UProg where
  loaded : Bool
  cycles : Nat
  steps : List (BitVec 32)
  deriving DecidableEq, Repr

/-- A program not loaded. -/
def UProg.reset : UProg := ⟨false, 0, []⟩

/-- What the image sets in one core (R340). Registers that show a table in force read it from here. -/
structure CoreCfg where
  entry : Nat                    -- PROGRAM: ENTRY
  faultHalt : Bool               -- PROGRAM: FAULT_HALT (R255)
  prog : List (BitVec 256)       -- the step program (R245)
  forms : Tab (BitVec 8)         -- FORMS: engine forms by first bundle of a step
  tallies : List (BitVec 32)     -- TALLIES: initial values
  seams : Tab (BitVec 64)        -- seam table (R252)
  opt : Tab (BitVec 128)         -- operation tables, engine e entry i at 256e + i (R141)
  consts : Tab (BitVec 32)       -- constants (R190)
  ptrs : Tab (BitVec 64)         -- pointers as COR_VE_APTR (R190)
  flush16 : Int                  -- T_P16 (R184)
  flush32 : Int                  -- T_P32 (R184)
  compat : Bool                  -- COMPAT (R175)
  tabs : Tab FTable              -- function tables (R169)
  uprogs : Tab UProg             -- micro-programs (R171)
  quant : Tab (BitVec 128)       -- quantisation table (R214)
  qlimit : BitVec 64             -- COR_QNT_LIMIT (R216)
  desc : Tab (BitVec 1024)       -- descriptor table (R218); an EMPTY slot is not listed
  sep : Tab (BitVec 64)          -- separator programs 1 to 15 (R243)
  moves : Tab (BitVec 128)       -- move table (R263)
  wins : Tab (BitVec 64)         -- windows, window i dimension d at 6i + d (R264)
  pails : Tab (BitVec 8)         -- PAILS: INIT_LEVEL, EDGE, CARRY
  volatile : BitVec 128          -- COR_MEM_VOLATILE (R302)
  deriving DecidableEq, Repr

/-- After a reset that reaches the core: nothing loaded; the flush thresholds of R184. -/
def CoreCfg.reset : CoreCfg :=
  { entry := 0, faultHalt := false, prog := [], forms := [], tallies := [], seams := [], opt := [],
    consts := [], ptrs := [], flush16 := -56, flush32 := -120, compat := false, tabs := [], uprogs := [],
    quant := [], qlimit := 0, desc := [], sep := [], moves := [], wins := [], pails := [], volatile := 0 }

/-! ### Sequencer and pails (chapter 08) -/

/-- STATE of COR_SEQ_STAT (R273). -/
inductive SeqState where
  | idle | run | halted | tripped
  deriving DecidableEq, Repr

/-- A tally: its value and its DATA bit (R248). -/
structure Tally where
  val : BitVec 32
  data : Bool
  deriving DecidableEq, Repr

/-- A pail: tokens, class, OVF (R268, R280), and EDGE tokens held in its crossing queue (R270). -/
structure Pail where
  level : Nat
  edge : Bool
  ovf : Bool
  queue : Nat
  deriving DecidableEq, Repr

/-- After a reset: empty, PLANE, OVF clear (R271). -/
def Pail.reset : Pail := ⟨0, false, false, 0⟩

/-- A seam under way (R253, R351): its count s, the bundle it chose, GAP, and whether it waits at an exchange
point. -/
structure SeamPend where
  s : Nat
  next : Nat
  gap : Nat
  point : Option Nat
  deriving DecidableEq, Repr

/-- An ATOM in flight (R249): kind, the first tally B, target word, operands, cycles of its bank access and of
its result write, the target core, and the old value once the bank has served it. -/
structure AtomOp where
  id : Nat
  kind : Nat
  b : Nat
  target : Nat
  word : Nat
  ops : List Nat
  bankAt : Nat
  writeAt : Nat
  issued : Bool            -- the request has reached the bank
  old : Option (List Nat)
  deriving DecidableEq, Repr

/-- The sequencer (R245 to R255, R272 to R278). -/
structure SeqSt where
  state : SeqState
  faulted : Bool
  bundle : Nat                -- BUNDLE of COR_SEQ_STAT
  rep : Nat                   -- repetitions of the bundle already issued
  nextAt : Option Nat         -- the cycle in which the bundle is due
  stalled : Bool              -- a PLANE WAIT holds the bundle
  step : BitVec 64            -- COR_SEQ_STEP
  seam : Option SeamPend
  tallies : List Tally        -- TL0 to TL15
  atoms : List AtomOp
  fault : FaultReg            -- COR_SEQ_FAULT
  wdogLimit : BitVec 40       -- COR_WDOG_CFG
  wdogCount : Nat
  tripStep : Nat              -- COR_WDOG_STAT
  tripBundle : Nat
  tripWaiting : Bool
  tripEdge : Bool
  tripPail : Nat
  pails : Tab Pail
  ovfCount : Nat              -- COR_PAIL_STAT
  lastOvf : Nat
  stalls : BitVec 64          -- COR_PAIL_STALL
  tokens : List (Nat × Nat)   -- SIGNAL tokens arriving: cycle at whose end they are added, pail
  deriving DecidableEq, Repr

/-- The reset values of R271, R273 to R278. -/
def SeqSt.reset : SeqSt :=
  { state := .idle, faulted := false, bundle := 0, rep := 0, nextAt := none, stalled := false,
    step := 0, seam := none, tallies := List.replicate 16 ⟨0, false⟩, atoms := [],
    fault := FaultReg.reset, wdogLimit := 0x0040000000, wdogCount := 0, tripStep := 0, tripBundle := 0,
    tripWaiting := false, tripEdge := false, tripPail := 0, pails := [], ovfCount := 0, lastOvf := 0,
    stalls := 0, tokens := [] }

/-! ### Tile store and staging (R256 to R261) -/

/-- Who takes what a phase-A read delivers. -/
inductive Consumer where
  | vld (vd w off due : Nat)                   -- bytes of a vector register from `off` on, width, cycle written
  | load (e base fmt : Nat)                    -- background set of engine e from byte `base` on
  | moving (e part fmt : Nat)                  -- a staging row or weight line of engine e
  | block (fmt : Nat)                          -- the background sets of all four engines: an activation block
  | epi (e what idx : Nat)                     -- 0 row scale, 1 column scale, 2 bias; element or byte it starts at
  | fold (e row part : Nat)                    -- fold-in source line
  | su (ch idx off : Nat)                      -- stream channel, stream index, byte of the line the element is at
  | sscale (ch k : Nat)                        -- scale-stream source line
  | strail (ch : Nat) (dst : Bool)             -- the source or destination trailer of a stream channel's move
  deriving DecidableEq, Repr

/-- One byte of a write: byte of the line, mask of the bits it changes, value. -/
structure WByte where
  off : Nat
  mask : Byte
  val : Byte
  deriving DecidableEq, Repr

/-- What an access does in phase A of its bank. -/
inductive AccKind where
  | read (c : Consumer)
  | write (bs : List WByte)
  | adder (off fold fmt recW src key : Nat)   -- bank-adder update of the element at a byte; `key` names its move
  | trailer (src key : Nat)                   -- combined trailer word of a move's QUIRE fold
  | atom (core id kind word : Nat) (ops : List Nat)
  | peerRead (core ch idx off bits_ : Nat)    -- a read for the stream unit of another core
  deriving DecidableEq, Repr

/-- An access of one cycle: staging or tile store, its line or staging row, its place in R257's table (rank,
then the number within the row of the table), and what it does. -/
structure Acc where
  staging : Bool
  line : Nat
  rank : Nat
  sub : Nat
  kind : AccKind
  deriving DecidableEq, Repr

/-- A bank-adder update on its way to its write-back (R260): line, element bytes, due cycle. -/
structure AdderOp where
  line : Nat
  off : Nat
  bytes : Bytes
  due : Nat
  op : Nat                       -- operation code of its write in the signature (R379)
  deriving DecidableEq, Repr

/-- The stores of a core. A sector is named by its byte address over 32. -/
structure StoreSt where
  tile : Mem                     -- 8 MiB tile store
  stage : Mem                    -- 512 KiB staging
  badTile : List Nat             -- tile-store sectors whose code is uncorrectable
  badStage : List Nat            -- staging sectors whose code is uncorrectable
  softTile : List Nat            -- tile-store sectors with one symbol in error, which a read corrects
  softStage : List Nat           -- staging sectors with one symbol in error
  acc : List Acc                 -- accesses of the current cycle's phase A
  served : List Acc              -- accesses of that phase A which commands of their own have already performed
  adders : List AdderOp          -- updates awaiting write-back
  foldSat : List Nat             -- moves whose folds saturated here before their trailer was written (R99)
  collide : Nat                  -- COR_TS_STAT
  corrected : Nat
  uncorr : Nat
  scrubPasses : BitVec 16
  scrubCount : Nat               -- advancing cycles since the scrub restart (R258)
  scrubDone : List (Bool × Nat)  -- banks already scrubbed in this slot
  deriving DecidableEq, Repr

/-- Contents zero, codes good, counts at their reset values (R276). -/
def StoreSt.reset : StoreSt :=
  { tile := [], stage := [], badTile := [], badStage := [], softTile := [], softStage := [], acc := [], served := [], adders := [], foldSat := [], collide := 0,
    corrected := 0, uncorr := 0, scrubPasses := 0, scrubCount := 0, scrubDone := [] }

/-! ### Vats and matrix engines (chapters 03, 04) -/

/-- STATE of COR_VAT_DESC (R82). -/
inductive VatState where
  | idle | vopen | vsealed | draining
  deriving DecidableEq, Repr

/-- The vat flags, COR_VAT_STAT[5:0] (R82). -/
structure VatFlags where
  long : Bool
  sat : Bool
  nar : Bool
  deep : Bool
  overlap : Bool
  vfmt : Bool
  deriving DecidableEq, Repr

/-- All clear. -/
def VatFlags.none : VatFlags := ⟨false, false, false, false, false, false⟩
/-- The byte COR_VAT_STAT[7:0]. -/
def VatFlags.byte (f : VatFlags) : Nat :=
  b2n f.long + 2 * b2n f.sat + 4 * b2n f.nar + 8 * b2n f.deep + 16 * b2n f.overlap + 32 * b2n f.vfmt
/-- The flags a trailer's byte spells. -/
def VatFlags.ofByte (x : Nat) : VatFlags := ⟨bit x 0, bit x 1, bit x 2, bit x 3, bit x 4, bit x 5⟩
/-- OR of two flag sets. -/
def VatFlags.or (a b : VatFlags) : VatFlags :=
  ⟨a.long || b.long, a.sat || b.sat, a.nar || b.nar, a.deep || b.deep, a.overlap || b.overlap,
   a.vfmt || b.vfmt⟩

/-- A vat (R82 to R97). -/
structure Vat where
  gen : BitVec 4
  state : VatState
  mode : Nat                     -- 0 EXACT, 1 COMPACT
  fmt : Nat                      -- format code
  rowBase : Nat
  rowsM1 : Nat
  depth : Nat
  terms : Nat                    -- TERMS, stops at 0xFFFF_FFFF
  chunks : Nat                   -- CHUNKS, stops at 0xFFFF_FFFF
  refuse : Nat
  stale : Nat                    -- STALE, stops at 0xFFFF
  openAt : Nat                   -- the cycle from which the latest OPEN holds (R84)
  flags : VatFlags
  sealAt : Option Nat            -- issue cycle of the SEAL whose cut stands (R84)
  rowChunks : Tab Nat            -- chunks each row of a Compact vat has taken (R95)
  lastOp : Nat                   -- the contribution that issued last, and its last issue cycle (R93)
  lastIssue : Option Nat
  deriving DecidableEq, Repr

/-- IDLE, generation 0, counts and flags clear (R82, R88). -/
def Vat.reset : Vat :=
  { gen := 0, state := .idle, mode := 0, fmt := 0, rowBase := 0, rowsM1 := 0, depth := 0, terms := 0,
    chunks := 0, refuse := 0, stale := 0, openAt := 0, flags := VatFlags.none, sealAt := none, rowChunks := [],
    lastOp := 0, lastIssue := none }

/-- What a column-pipe operation is. -/
inductive ColKind where
  | mma | conv | wsmv
  deriving DecidableEq, Repr

/-- A column-pipe operation (R119, R121, R127, R130): its slot fields, the entry in force at its issue, the
segment of its issue, and, once it runs, its cursor. -/
structure ColOp where
  id : Nat
  kind : ColKind
  vat : Nat
  gen : Nat
  entryNo : Nat
  ent : BitVec 128
  row0 : Nat
  segment : Nat
  t0 : Nat                 -- start cycle
  swapAt : Nat             -- cycle of the next swap
  lastSwap : Nat           -- cycle of the latest swap
  blk : Nat                -- swaps made: blocks or tap steps begun
  loads : List (Nat × Nat) -- image loads under way: block or tap step, first cycle
  lastIssue : Nat          -- its last issue cycle
  deriving DecidableEq, Repr

/-- A held PRELOAD (R120): the entry it names and the first cycle of its load. -/
structure Preload where
  entryNo : Nat
  ent : BitVec 128
  begin_ : Nat
  deriving DecidableEq, Repr

/-- A chunk between its column and its vat row (R113). `sums` are the exact sums of the logical columns. -/
structure Chunk where
  due : Nat
  issue : Nat
  opId : Nat
  vat : Nat
  gen : Nat
  row : Nat
  segment : Nat
  posit : Nat              -- posit width of the operands, 0 for integers
  extent : Nat             -- the contribution's terms
  masked : Bool            -- lands nothing: wholly masked (R118), or stale in its issue cycle (R113)
  sums : List Val
  deriving DecidableEq, Repr

/-- A DRAIN or EXPORT on the epilogue path (R135 to R137). -/
structure EpiOp where
  vexport : Bool
  vat : Nat
  gen : Nat
  ent : BitVec 128
  keep : Bool
  gang : Bool                    -- issued in wide-shallow form
  segment : Nat                  -- the segment of its issue
  earliest : Nat                 -- its issue cycle, or 6 cc after the SEAL (R85)
  start : Option Nat             -- its start cycle, once judged
  rows : Nat
  w : Nat                        -- quire entries of a value, 0 for a Compact vat
  csv : Tab Nat                  -- column scale, bias and row scale patterns read, by element
  bv : Tab Nat
  rsv : Tab Nat
  vals : Tab (List Val)          -- vat rows read and not yet written
  deriving DecidableEq, Repr

/-- A FOLDIN on the fold pipe (R138). -/
structure FoldOp where
  id : Nat
  vat : Nat
  gen : Nat
  ent : BitVec 128
  row0 : Nat
  segment : Nat
  start : Option Nat
  trailer : Nat
  parts : Tab Bytes              -- 64-byte lines of the current row, by line; poison applied
  deriving DecidableEq, Repr

/-- A fold-in row between its last read and its landing (R138). -/
structure FoldRow where
  due : Nat
  issue : Nat
  opId : Nat
  vat : Nat
  gen : Nat
  row : Nat
  segment : Nat
  w : Nat
  trailer : Nat
  quires : List Quire
  last : Bool
  dropped : Bool                 -- stale in its issue cycle (R113)
  deriving DecidableEq, Repr

/-- A matrix engine. -/
structure Engine where
  form : Nat                     -- 0 STANDARD, 1 WIDE_SHALLOW, 2 CONVOLUTION (R150)
  vats : Tab Vat
  slots : Tab (BitVec 32)        -- quire file: column k slot s at 1024k + s (R78)
  setA : Mem                     -- stationary set A: cell k byte j at 128k + j (R116)
  setB : Mem
  activeA : Bool
  bgFree : Nat                   -- the cycle from which the background set is free
  run : Option ColOp
  pend : Option ColOp
  preload : Option Preload       -- the PRELOAD held
  loading : Option Preload       -- the PRELOAD whose load is under way
  moving : List (Nat × Bytes)    -- what the moving and weight ports hold, by part
  chunks : List Chunk
  wsAcc : List (Nat × List Val)  -- wide-shallow partial sums: row, column sums
  epi : Option EpiOp
  epiPend : Option EpiOp
  fold : Option FoldOp
  foldPend : Option FoldOp
  foldRows : List FoldRow
  fault : FaultReg               -- COR_ME_FAULT
  gated : BitVec 64              -- COR_ME_GATED
  stales : List Nat              -- contributions already counted stale (R113)
  termed : List Nat              -- contributions whose terms have been added (R113)
  releases : List (Nat × Nat × Nat)  -- RELEASEs waiting for SEALED: cycle, vat, generation (R85)
  colAt : Nat                    -- the first cycle each pipe has not yet performed
  epiAt : Nat
  foldAt : Nat
  deriving DecidableEq, Repr

/-- Reset values of R82, R116, R150 to R152. -/
def Engine.reset : Engine :=
  { form := 0, vats := [], slots := [], setA := [], setB := [], activeA := true, bgFree := 0, run := none,
    pend := none, preload := none, loading := none, moving := [], chunks := [], wsAcc := [], epi := none, epiPend := none,
    fold := none, foldPend := none, foldRows := [], fault := FaultReg.reset, gated := 0, stales := [],
    termed := [], releases := [], colAt := 0, epiAt := 0, foldAt := 0 }

/-! ### Vector engine (chapter 05) -/

/-- A soft-maximum context (R177). -/
structure SmCtx where
  st : Nat                  -- 0 IDLE, 1 OPEN, 2 CLOSED
  w : Nat                   -- width code, 1 P16, 2 P32
  l : Nat                   -- posit32 scale
  m : Option Nat            -- running maximum, posit32
  q : Quire                 -- Q512
  log : List Nat            -- logged maxima, posit32
  tiles : Nat
  norms : Nat
  merged : Nat
  mFin : Nat                -- M
  sFin : Nat                -- S
  r : Nat
  deriving DecidableEq, Repr

/-- IDLE (R155). -/
def SmCtx.reset : SmCtx := ⟨0, 0, 0, none, Quire.zero, [], 0, 0, 0, 0, 0, 0⟩

/-- What a vector instruction in flight will write (R160). -/
inductive VeRes where
  | reg (vd : Nat) (bs : Bytes)                       -- a whole register
  | part (vd off : Nat) (bs : Bytes)                  -- elements of a register (R164)
  | quire (i : Nat) (clear : Bool) (terms : List Val) -- an addition to a quire, or VQCLR
  | qfold (i : Nat) (src : Quire)                     -- VQFOLD with its source quire
  | store (line : Nat) (bs : Bytes)                   -- VST
  deriving DecidableEq, Repr

/-- A result in flight: due cycle and result; the list is in issue order, and a later issue prevails
(R161). -/
structure VeFlight where
  due : Nat
  res : VeRes
  deriving DecidableEq, Repr

/-- A pointer's moving part; HOLD, BASE and STRIDE are the image's (R167). -/
structure VeSt where
  regs : Tab Bytes               -- V0 to V31, 256 bytes each, zero when not listed
  vqs : Tab Quire                -- VQ0 to VQ7, zero when not listed
  vqSat : BitVec 8
  vqNar : BitVec 8
  cur : Tab Nat                  -- CUR of the pointers
  flush16 : Int                  -- thresholds in force (R184)
  flush32 : Int
  pend16 : Option Int            -- writes waiting for the next seam
  pend32 : Option Int
  fault : FaultReg
  sm : Tab SmCtx
  specialUntil : Nat             -- the special pipe is free from this cycle on
  microUntil : Nat               -- no micro-program runs from this cycle on
  flight : List VeFlight
  deriving DecidableEq, Repr

/-- R155: zero registers and quires, IDLE contexts; R184's thresholds. -/
def VeSt.reset : VeSt :=
  { regs := [], vqs := [], vqSat := 0, vqNar := 0, cur := [], flush16 := -56, flush32 := -120,
    pend16 := none, pend32 := none, fault := FaultReg.reset, sm := [], specialUntil := 0, microUntil := 0,
    flight := [] }

/-! ### Stream unit (chapters 06, 07, 08) -/

/-- A decoded descriptor (R221). -/
structure Desc where
  typ : Nat
  fmt : Nat
  ndim : Nat
  space : Nat
  writable : Bool
  peer : Nat
  arena : Nat
  base : Nat
  fill : Nat
  dims : List (Nat × Int)   -- SIZE and STRIDE
  shards : List Nat         -- the SHARD words
  label : Nat
  deriving DecidableEq, Repr

/-- A move on its channel (R263, R265): what was in force at its issue and its cursors. -/
structure MoveOp where
  id : Nat
  typ : Nat                  -- 1 MOVE, 2 GATHER, 3 SCATTER, 4 ZPCORR
  ent : BitVec 128
  src : Desc
  dst : Desc
  srcWin : List (Int × Nat)
  dstWin : List (Int × Nat)
  sepProg : BitVec 64
  perm : Bool                -- the program permutes
  quant : Option (BitVec 128)
  list : List (List Int × Bool)         -- gather or scatter blocks: coordinates, SKIP
  sstream : Option (BitVec 128 × Nat)   -- SSTREAM entry and tile index
  n : Nat                    -- elements in the stream
  rate : Nat                 -- elements per cc
  t0 : Nat                   -- issue cycle
  off : Nat                  -- cycles from a row's request to its read: 0, the lead, or the PEER routes (R265)
  dDst : Nat                 -- route latency to a PEER destination
  segment : Nat
  herdX : Nat                -- this chip's herd index and the herd size (R409)
  herdN : Nat
  dstFold : Bool             -- the destination's arena is a FOLD arena (R411)
  segs : List (Nat × Nat × List (Byte × Byte))   -- open segments: chip, address, mask and value of each byte
  sent : Tab Nat             -- segments handed over, by chip
  trl : Option (Option Nat × Option Nat)   -- the source and destination trailers of a QUIRE fold, once read (R261)
  data : Tab Nat             -- stream elements read and not yet written, source patterns
  lines : Tab Bytes          -- lines a scale stream has read
  lastWrite : Nat            -- cycle of its last write
  at_ : Nat                  -- the first cycle it has not yet performed
  deriving DecidableEq, Repr

/-- What a core hands to its mesh port in a cycle (R265): `ch` is the move channel, `row` the stream row. -/
inductive Out where
  | peerRead (owner ch row : Nat) (els : List (Nat × Nat × Nat))   -- stream index, byte address, bits
  | peerWrite (owner ch : Nat) (accs : List Acc)
  | extRead (ch row : Nat) (els : List (Nat × Nat × Nat))          -- stream index, device address, bits
  | extWrite (ch fmt : Nat) (bs : List (Nat × Byte × Byte))        -- format, device address, mask, value
  | remRead (ch row chip : Nat) (els : List (Nat × Nat × Nat))     -- elements of another chip (R409)
  | remSeg (ch fmt chip : Nat) (fold more : Bool) (addr : Nat) (bs : List (Byte × Byte))   -- a part of a segment (R411)
  | remClose (ch chip count : Nat) (fold : Bool)                   -- its transfer's CLOSE
  deriving DecidableEq, Repr

/-- A clip pair (R210). -/
structure Clip where
  total : Nat
  clipped : Nat
  deriving DecidableEq, Repr

/-- The stream unit. -/
structure SuSt where
  chans : Tab MoveOp               -- busy move channels, 0 to 3
  clips : Tab Clip                 -- COR_QNT_CLIP as it stood at the end of the previous cycle (R210)
  clipClr : List Nat               -- pairs that the present cycle clears first
  clipNew : List (Nat × Nat × Clip)  -- counts on their way: the cycle at whose end they are added, and the pair
  fault : FaultReg                 -- COR_SU_FAULT
  sepFault : FaultReg              -- SEP_FAULT
  oorW : Nat                       -- SEP_COUNT
  oorR : Nat
  linkOut : List Out               -- segments and CLOSEs on their way to the mesh port, 64 bytes a cycle (R399)
  pendDesc : Tab (BitVec 1024)     -- accepted creations awaiting the next seam
  createReason : Nat               -- SEP_CREATE_STAT
  createSlot : Nat
  narIn : Nat                      -- COR_CVT_COUNT (R77), the epilogues' counts with it
  satHi : Nat
  satLo : Nat
  ovf : Nat
  deriving DecidableEq, Repr

/-- Reset values of R77, R215, R240 to R242, R275. -/
def SuSt.reset : SuSt :=
  { chans := [], clips := [], clipClr := [], clipNew := [], fault := FaultReg.reset, sepFault := FaultReg.reset, oorW := 0, oorR := 0,
    linkOut := [], pendDesc := [], createReason := 0, createSlot := 0, narIn := 0, satHi := 0, satLo := 0, ovf := 0 }

/-- The lock-step signatures of a core (R379, R380): 33 sums and the records queued at seams. -/
structure SigSt where
  sums : Tab (BitVec 64)
  queue : List (Nat × Nat × List (BitVec 64))   -- segment, step, sums
  deriving DecidableEq, Repr

/-- A compute core. -/
structure Core where
  cfg : CoreCfg
  seq : SeqSt
  eng : Tab Engine            -- ME0 to ME3
  ve : VeSt
  su : SuSt
  st : StoreSt
  sig : SigSt
  cols : Tab Nat              -- logical columns of each engine, 64 less the bypassed ones (R31)
  segment : Nat               -- exchanges since the COLD start (R88)
  nextId : Nat                -- numbers operations, requests and transfers of this core
  free : Nat                  -- numbers this core's free values (log entry 2)
  out : List Out              -- what the stream unit hands to the mesh in this cycle
  ev : List CoreEv            -- events on their way to the steward
  deriving DecidableEq, Repr

/-- A core after a reset that reaches it. -/
def Core.reset : Core :=
  { cfg := CoreCfg.reset, seq := SeqSt.reset, eng := [], ve := VeSt.reset, su := SuSt.reset,
    st := StoreSt.reset, sig := ⟨[], []⟩, cols := [], segment := 0, nextId := 1, free := 0, out := [], ev := [] }

/-- Engine e of a core. -/
def Core.me (c : Core) (e : Nat) : Engine := c.eng.get Engine.reset e
/-- The core with engine e replaced. -/
def Core.setMe (c : Core) (e : Nat) (g : Engine) : Core := { c with eng := c.eng.set e g }
/-- Logical columns engine e presents (R31, R132). -/
def Core.ncols (c : Core) (e : Nat) : Nat := c.cols.get 64 e
/-- Vat v of an engine. -/
def Engine.vat (g : Engine) (v : Nat) : Vat := g.vats.get Vat.reset v
/-- The engine with vat v replaced. -/
def Engine.setVat (g : Engine) (v : Nat) (x : Vat) : Engine := { g with vats := g.vats.set v x }
/-- Pail i of a core. -/
def Core.pail (c : Core) (i : Nat) : Pail := c.seq.pails.get Pail.reset i
/-- The core with pail i replaced. -/
def Core.setPail (c : Core) (i : Nat) (p : Pail) : Core :=
  { c with seq := { c.seq with pails := c.seq.pails.set i p } }
/-- The core with an event on its way to the steward. -/
def Core.event (c : Core) (e : CoreEv) : Core := { c with ev := c.ev ++ [e] }

end Sys2Proof.Machine
end

