-- ==== Sys2Proof/Machine/Store.lean ====
section
/-! DEFINITION. Tile store and staging: sector codes, phase A arbitration, bank adders, scrub (R256 to R261). -/

namespace Sys2Proof.Machine

/-- Banks of a store: 32 of the tile store, 8 of staging (R256). -/
def bankOf (staging : Bool) (line : Nat) : Nat := if staging then line % 8 else line % 32
/-- Bytes of a line: 64 of a tile-store line, 128 of a staging row. -/
def lineBytes (staging : Bool) : Nat := if staging then 128 else 64

/-- The byte memory of one of the two stores. -/
def StoreSt.mem (s : StoreSt) (staging : Bool) : Mem := if staging then s.stage else s.tile
/-- The uncorrectable sectors of one of the two stores. -/
def StoreSt.bad (s : StoreSt) (staging : Bool) : List Nat := if staging then s.badStage else s.badTile
/-- The sectors of one of the two stores that hold one symbol in error, which every read corrects. -/
def StoreSt.soft (s : StoreSt) (staging : Bool) : List Nat := if staging then s.softStage else s.softTile
/-- One of the two memories replaced. -/
def StoreSt.setMem (s : StoreSt) (staging : Bool) (m : Mem) : StoreSt :=
  if staging then { s with stage := m } else { s with tile := m }
/-- One of the two code states replaced. -/
def StoreSt.setBad (s : StoreSt) (staging : Bool) (b : List Nat) : StoreSt :=
  if staging then { s with badStage := b } else { s with badTile := b }

/-- One of the two lists of correctable sectors replaced. -/
def StoreSt.setSoft (s : StoreSt) (staging : Bool) (b : List Nat) : StoreSt :=
  if staging then { s with softStage := b } else { s with softTile := b }

/-- Sectors, as a sorted list without repeats, with one inserted. -/
def secIns (n : Nat) : List Nat → List Nat
  | [] => [n]
  | x :: t => if n < x then n :: x :: t else if n = x then x :: t else x :: secIns n t

/-- Plain read of bytes, without any port: contents only. -/
def StoreSt.peek (s : StoreSt) (staging : Bool) (a n : Nat) : Bytes := (s.mem staging).read a n
/-- Whether the sector that holds a byte is uncorrectable. -/
def StoreSt.poisoned (s : StoreSt) (staging : Bool) (a : Nat) : Bool := (s.bad staging).contains (a / 32)

/-- A byte with the bits of a mask replaced. -/
def mergeByte (old mask val : Byte) : Byte := (old &&& ~~~ mask) ||| (val &&& mask)

/-- The masked bytes of a line written one after another. -/
def putBytes (m : Mem) (base : Nat) : List WByte → Mem
  | [] => m
  | w :: t => putBytes (m.put (base + w.off) (mergeByte (m.get (base + w.off)) w.mask w.val)) base t

/-- Whether a write names every byte of the 32-byte sector at byte `o` of the line. -/
def namesAll (ws : List WByte) (o : Nat) : Bool :=
  (List.range 32).all fun i => ws.any fun w => w.off == o + i && w.mask == 0xFF

/-- Whether a write names some byte of the 32-byte sector at byte `o` of the line. -/
def namesSome (ws : List WByte) (o : Nat) : Bool := ws.any fun w => decide (o ≤ w.off) && decide (w.off < o + 32)

/-- The sectors of a line that a write reads and merges: it names some of their bytes and not all (R258). -/
def mergedSectors (staging : Bool) (line : Nat) (ws : List WByte) : List Nat :=
  let base := line * lineBytes staging
  (((List.range (lineBytes staging / 32)).map (· * 32)).filter fun o => namesSome ws o && !namesAll ws o).map
    fun o => (base + o) / 32

/-- A write of bytes of one line: a sector of which every byte is named gets fresh check symbols, another
stays poisoned if it was, and is written corrected if one symbol of it was in error (R258, R288). -/
def StoreSt.writeLine (s : StoreSt) (staging : Bool) (line : Nat) (ws : List WByte) : StoreSt :=
  let base := line * lineBytes staging
  let s1 := s.setMem staging (putBytes (s.mem staging) base ws)
  let offs := (List.range (lineBytes staging / 32)).map (· * 32)
  let full := (offs.filter (namesAll ws)).map (fun o => (base + o) / 32)
  let some_ := (offs.filter (namesSome ws)).map (fun o => (base + o) / 32)
  (s1.setBad staging ((s1.bad staging).filter fun x => !full.contains x)).setSoft staging
    ((s1.soft staging).filter fun x => !some_.contains x)

/-- Whole bytes as a write. -/
def wbytes (off : Nat) (bs : Bytes) : List WByte :=
  (bs.zipIdx).map fun (b, i) => ⟨off + i, 0xFF, b⟩

/-- A byte string written at a byte address, line by line (`fuel` lines at most), without any port: image
data, erasures, host and debug writes. -/
def StoreSt.poke (s : StoreSt) (staging : Bool) (a : Nat) (bs : Bytes) : Nat → StoreSt
  | 0 => s
  | fuel + 1 =>
    if bs.isEmpty then s
    else
      let lb := lineBytes staging
      let k := lb - a % lb
      StoreSt.poke (s.writeLine staging (a / lb) (wbytes (a % lb) (bs.take k))) staging (a + k) (bs.drop k) fuel

/-- The bytes of an element as pending bank-adder updates leave them (forwarding, R260). -/
def StoreSt.forwarded (s : StoreSt) (line off n : Nat) : Bytes :=
  let base := s.peek false (line * 64 + off) n
  (List.range n).map fun i =>
    s.adders.foldl (fun b op =>
      if op.line = line ∧ op.off ≤ off + i ∧ off + i < op.off + op.bytes.length
      then nth op.bytes (off + i - op.off) b else b) (nth base i 0)

/-- A line read in phase A: its bytes and, sector by sector, whether the code is uncorrectable. -/
def StoreSt.readLine (s : StoreSt) (staging : Bool) (line : Nat) : Bytes × List Bool :=
  let lb := lineBytes staging
  (s.peek staging (line * lb) lb,
   (List.range (lb / 32)).map fun i => s.poisoned staging (line * lb + 32 * i))

/-- The value of a fold's destination element after an update (R259): `dst` and `src` are patterns. The second
value says that an addition saturated or a rounding exceeded maxpos (R99); the third that the result is NaR. -/
def foldElem (fold fmt recW dst src : Nat) : Nat × Bool × Bool :=
  match fold with
  | 1 =>
    let w := if fmt = 8 then 1 else if fmt = 9 then 2 else 4
    let (q, sat) := qadd w (qdec w dst) (qdec w src)
    (qenc w q, sat, q.isNar)
  | 2 =>
    let v := (v32 dst).add (v32 src)
    (r32 v, aboveMax 32 v, v.isNar)
  | 3 => ((dst + src) % 2 ^ 32, false, false)
  | 4 | 5 =>
    let n := if recW = 0 then 8 else if recW = 1 then 16 else 32
    ((combine n (fold == 4) (Rec.dec n dst) (Rec.dec n src)).enc, false, false)
  | _ => (src, false, false)

/-- The poisoned value of a fold's destination element (R258). -/
def foldPoison (fold fmt recW : Nat) : Nat :=
  match fold with
  | 1 => poisonPat (if fmt = 8 then .q128 else if fmt = 9 then .q256 else .q512)
  | 2 => narPat 32
  | 3 => 0
  | 4 | 5 => (Rec.poison (if recW = 0 then 8 else if recW = 1 then 16 else 32)).enc
  | _ => 0

/-- Bytes of a fold's element. -/
def foldBytes (fold fmt : Nat) : Nat :=
  match fold with
  | 1 => if fmt = 8 then 16 else if fmt = 9 then 32 else 64
  | 2 | 3 => 4
  | _ => 8

/-- Whether the updates of one line that are due in one cycle name every byte of the line's sector `k`: their write-back
is then one write that gives it fresh check symbols (R258). -/
def wholeUpdate (ops : List AdderOp) (line due k : Nat) : Bool :=
  (List.range 32).all fun i => ops.any fun o =>
    o.line == line && o.due == due && decide (o.off ≤ 32 * k + i) && decide (32 * k + i < o.off + o.bytes.length)

/-- Whether an update finds a sector of its line uncorrectable: one that a waiting write-back names whole is good. -/
def StoreSt.stillBad (s : StoreSt) (line k : Nat) : Bool :=
  s.badTile.contains (2 * line + k) && !s.adders.any fun o => wholeUpdate s.adders line o.due k

/-- A bank-adder update issued at `t` (R259, R260). -/
def StoreSt.adderUpdate (s : StoreSt) (t line off fold fmt recW src : Nat) : StoreSt × Bool × Bool :=
  let n := foldBytes fold fmt
  let bad := (List.range 2).any fun k => decide (off < 32 * k + 32) && decide (32 * k < off + n) && s.stillBad line k
  let dst := if bad then foldPoison fold fmt recW else leNat (s.forwarded line off n)
  let (r, sat, nar) := foldElem fold fmt recW dst src
  ({ s with adders := s.adders ++ [⟨line, off, leBytes n r, t + 2, 1 + fold⟩] }, sat, nar)

/-- The write-backs due by phase B of cycle `t`, in order (R260); `bank` of none takes every bank. -/
def StoreSt.writeBack (s : StoreSt) (t : Nat) (bank : Option Nat) : StoreSt :=
  let mine := fun (o : AdderOp) => decide (o.due ≤ t) && (bank == none || bank == some (o.line % 32))
  let due := s.adders.filter mine
  let s1 := due.foldl (fun s o => s.writeLine false o.line (wbytes o.off o.bytes))
    { s with adders := s.adders.filter fun o => !mine o }
  let good := due.flatMap fun o => ((List.range 2).filter (wholeUpdate due o.line o.due)).map (2 * o.line + ·)
  { s1 with badTile := s1.badTile.filter fun k => !good.contains k }

/-- A plain write cancels the pending write-backs to its line (R260). -/
def StoreSt.cancel (s : StoreSt) (line : Nat) : StoreSt :=
  { s with adders := s.adders.filter fun o => o.line != line }

/-- The result of an ATOM on its word or doubleword (R249): the old parts and the new bytes. A poisoned word is
read as the integer or posit its consumer takes (R258). -/
def atomResult (kind : Nat) (bad : Bool) (oldBytes : Bytes) (ops : List Nat) : List Nat × Option Bytes :=
  let o0 := if bad then (if kind = 1 then narPat 32 else 0) else leAt oldBytes 0 4
  match kind with
  | 0 => ([o0], some (leBytes 4 ((o0 + nth ops 0 0) % 2 ^ 32)))
  | 1 => ([o0], some (leBytes 4 (add32 o0 (nth ops 0 0))))
  | _ =>
    let o1 := if bad then 0 else leAt oldBytes 4 4
    if o0 = nth ops 0 0 ∧ o1 = nth ops 1 0
    then ([o0, o1], some (leBytes 4 (nth ops 2 0) ++ leBytes 4 (nth ops 3 0)))
    else ([o0, o1], none)

/-- The indivisible access of an ATOM at its bank (R249, R300): the store after it, the old value, and whether it writes
its line now, and not with the line's pending write-backs. -/
def StoreSt.atomAccess (s : StoreSt) (kind word : Nat) (ops : List Nat) : StoreSt × List Nat × Bool :=
  let line := word / 16 % 131072
  let off := 4 * (word % 16)
  let n := if kind = 2 then 8 else 4
  let bad := s.stillBad line (off / 32)
  let (old, new) := atomResult kind bad (s.forwarded line off n) ops
  match new with
  | none => (s, old, false)
  | some bs =>
    match (s.adders.filter fun o => o.line = line).getLast? with
    | some p => ({ s with adders := s.adders ++ [⟨line, off, bs, p.due, 0⟩] }, old, false)
    | none => (s.writeLine false line (wbytes off bs), old, true)

/-! ### Phase A (R257) -/

/-- Two accesses meet in one bank. -/
def Acc.sameBank (a b : Acc) : Bool :=
  a.staging == b.staging && bankOf a.staging a.line == bankOf b.staging b.line

/-- `a` stands above `b` in the table of R257. -/
def Acc.above (a b : Acc) : Bool := decide (a.rank < b.rank) || (a.rank == b.rank && decide (a.sub < b.sub))

/-- An access is lost when one that stands higher reaches its bank in the same phase A. -/
def Acc.lost (all : List Acc) (a : Acc) : Bool := all.any fun b => b.sameBank a && b.above a

/-- The place of an engine's load port among the engine read ports, and of its fold port: the lower engine first (R257);
of the two ports of one engine, the load port (DESIGN CHOICE, log entry 32: R257 does not order them). -/
def loadSub (e : Nat) : Nat := 2 * e
/-- The place of an engine's fold port. -/
def foldSub (e : Nat) : Nat := 2 * e + 1

/-- The (bank, port) pairs of accesses that lose against `all`, each once: what COLLIDE counts. -/
def lostPorts (accs all : List Acc) : List (Bool × Nat × Nat × Nat) :=
  ((accs.filter (Acc.lost all)).map fun a => (a.staging, bankOf a.staging a.line, a.rank, a.sub)).eraseDups

/-- Free bytes, numbered from a counter. -/
def freeBytes (from_ n : Nat) : Bytes := (List.range n).map fun i => Config.freeByte (from_ + i)

/-! ### Scrub (R258) -/

/-- What a sector's code says after a fault of its cells (R258). -/
def StoreSt.upset (s : StoreSt) (staging : Bool) (sec : Nat) (u : Upset) : StoreSt :=
  match u with
  | .clean => s
  | .correctable => if (s.bad staging).contains sec then s else s.setSoft staging (secIns sec (s.soft staging))
  | .uncorrectable =>
      (s.setBad staging (secIns sec (s.bad staging))).setSoft staging ((s.soft staging).filter (· != sec))

/-- The scrub of one sector: a correctable one is corrected, written back and counted; a sector that its codes first now
find uncorrectable (`fresh`) is counted. The second value says that one of the two was found. -/
def StoreSt.scrubSector (s : StoreSt) (staging : Bool) (sec : Nat) (fresh : Bool) : StoreSt × Bool :=
  if (s.soft staging).contains sec then
    ({ s.setSoft staging ((s.soft staging).filter (· != sec)) with corrected := satAdd 16 s.corrected 1 }, true)
  else if fresh then ({ s with uncorr := satAdd 16 s.uncorr 1 }, true)
  else (s, false)

/-- One bank's scrub of its row (R258), sector by sector, `found` being what the cells of a sector have taken since it was
last looked at. -/
def scrubSectors (staging : Bool) (line : Nat) : List Upset → Nat → StoreSt × Nat → StoreSt × Nat
  | [], _, r => r
  | u :: t, i, (s, n) =>
    let sec := (line * lineBytes staging + 32 * i) / 32
    let (s1, f) := (s.upset staging sec u).scrubSector staging sec (u == .uncorrectable)
    scrubSectors staging line t (i + 1) (s1, if f then n + 1 else n)

/-- The row a bank scrubs in the slot of the restart count `n` (R258). -/
def scrubRow (staging : Bool) (n bank : Nat) : Nat :=
  if staging then bank + 8 * (n / 64 % 512) else bank + 32 * (n / 64 % 4096)

end Sys2Proof.Machine
end

