-- ==== Sys2Proof/Machine/Vats.lean ====
section
/-! DEFINITION. Vats: lifecycle, contributions, trailers (chapter 03). -/

namespace Sys2Proof.Machine

/-- Quire entries of a quire format code, 0 for any other code. -/
def qwOf (code : Nat) : Nat := if code = 8 then 1 else if code = 9 then 2 else if code = 10 then 4 else 0

/-- Slots of one row of a vat (R79, R80). -/
def Vat.rowSlots (v : Vat) : Nat := if v.mode = 0 then 4 * qwOf v.fmt else v.depth + 1

/-- Slots `s` to `s + n - 1` of a column of the quire file, as one number (R78, R79). -/
def Engine.slotsAt (g : Engine) (k s : Nat) : Nat → Nat
  | 0 => 0
  | n + 1 => (g.slots.get 0 (1024 * k + s)).toNat + 2 ^ 32 * Engine.slotsAt g k (s + 1) n

/-- A number stored in slots `s` to `s + n - 1` of a column. -/
def Engine.putSlots (g : Engine) (k s : Nat) : Nat → Nat → Engine
  | 0, _ => g
  | n + 1, x =>
    Engine.putSlots { g with slots := g.slots.set (1024 * k + s) (BitVec.ofNat 32 x) } k (s + 1) n (x / 2 ^ 32)

/-- Every slot of a range of one vat reads as zero, in every column (R84: rows read as zero). -/
def Engine.zeroSlots (g : Engine) (s n : Nat) : Engine :=
  { g with slots := g.slots.filter fun p => decide (p.1 % 1024 < s) || decide (s + n ≤ p.1 % 1024) }

/-- The quire of a row and column of an Exact vat (R79). -/
def Engine.quire (g : Engine) (v : Vat) (k row : Nat) : Quire :=
  let w := qwOf v.fmt
  qdec w (g.slotsAt k (v.rowBase + 4 * w * row) (4 * w))

/-- The engine with one quire stored. -/
def Engine.putQuire (g : Engine) (v : Vat) (k row : Nat) (q : Quire) : Engine :=
  let w := qwOf v.fmt
  g.putSlots k (v.rowBase + 4 * w * row) (4 * w) (qenc w q)

/-- Level `l` of a row and column of a Compact vat (R80). -/
def Engine.level (g : Engine) (v : Vat) (k row l : Nat) : Nat :=
  g.slotsAt k (v.rowBase + row * (v.depth + 1) + l) 1

/-- A stale drop (R87): STALE rises and the vat-fault event is raised. -/
def Core.staleDrop (c : Core) (e v : Nat) : Core :=
  let g := c.me e
  let x := g.vat v
  (c.setMe e (g.setVat v { x with stale := satAdd 16 x.stale 1 })).event .vat

/-- A contribution dropped as stale counts once (R113): in the issue cycle of its first chunk or row that the vat does not
take (R84, R92), or where it lands in a later segment (R88, R353). DEDUCED (log entry 51). -/
def Core.staleOnce (c : Core) (e v opId : Nat) : Core :=
  let g := c.me e
  if g.stales.contains opId then c
  else ((c.setMe e { g with stales := opId :: g.stales })).staleDrop e v

/-! ### Lifecycle (R84 to R88) -/

/-- The shape a VAT_SHAPE entry names (R142). -/
structure Shape where
  mode : Nat
  fmt : Nat
  rowBase : Nat
  rowsM1 : Nat
  depth : Nat
  deriving DecidableEq, Repr

/-- The fields of a VAT_SHAPE entry (R142). -/
def shapeOf (ent : Nat) : Shape :=
  ⟨bits ent 123 122, bits ent 121 118, bits ent 117 108, bits ent 107 98, bits ent 97 93⟩

/-- Slots a vat of a shape takes. -/
def Shape.slots (s : Shape) : Nat :=
  (s.rowsM1 + 1) * (if s.mode = 0 then 4 * qwOf s.fmt else s.depth + 1)

/-- The code of the first check of R86 that an OPEN with the right generation fails on an IDLE vat, 0 if none:
MODE_FMT, DEPTH, RANGE, ALIGN, ROWS_OVERLAP. -/
def openCheck (g : Engine) (v : Nat) (s : Shape) : Nat :=
  let fmtOk := (s.mode == 0 && qwOf s.fmt != 0) || (s.mode == 1 && s.fmt == 2)
  let overlap := g.vats.any fun (j, x) =>
    j != v && x.state != .idle &&
      decide (s.rowBase < x.rowBase + (x.rowsM1 + 1) * x.rowSlots) &&
      decide (x.rowBase < s.rowBase + s.slots)
  if !fmtOk then 4
  else if (s.mode = 1 ∧ 24 < s.depth) ∨ (s.mode = 0 ∧ s.depth ≠ 0) then 5
  else if 1024 < s.rowBase + s.slots then 1
  else if s.mode = 0 ∧ s.rowBase % (4 * qwOf s.fmt) ≠ 0 then 2
  else if overlap then 3
  else 0

/-- OPEN (v, g) of one engine at cycle `t`, in effect one cycle later (R84, R86). -/
def Core.vatOpen (c : Core) (t e v gen : Nat) (s : Shape) : Core :=
  let g := c.me e
  let x := g.vat v
  if BitVec.ofNat 4 gen ≠ x.gen + 1 then
    (c.setMe e (g.setVat v { x with refuse := 7 })).event .vat
  else if x.state ≠ .idle then
    (c.setMe e (g.setVat v { x with refuse := 6 })).event .vat
  else
    let code := openCheck g v s
    if code ≠ 0 then
      (c.setMe e (g.setVat v { x with gen := BitVec.ofNat 4 gen, refuse := code })).event .vat
    else
      let y : Vat := { Vat.reset with
        gen := BitVec.ofNat 4 gen, state := .vopen, mode := s.mode, fmt := s.fmt, rowBase := s.rowBase,
        rowsM1 := s.rowsM1, depth := s.depth, stale := x.stale, openAt := t + 1 }
      c.setMe e ((g.zeroSlots s.rowBase s.slots).setVat v y)

/-- SEAL (v, g) at cycle `t` (R84). -/
def Core.vatSeal (c : Core) (t e v gen : Nat) : Core :=
  let g := c.me e
  let x := g.vat v
  if BitVec.ofNat 4 gen = x.gen ∧ x.state = .vopen ∧ x.sealAt = none then
    c.setMe e (g.setVat v { x with sealAt := some t })
  else c.staleDrop e v

/-- A vat whose SEAL issued 6 cc ago becomes SEALED (R84). -/
def Vat.settle (t : Nat) (x : Vat) : Vat :=
  match x.state, x.sealAt with
  | .vopen, some s => if s + 6 ≤ t then { x with state := .vsealed } else x
  | _, _ => x

/-- The cycle from which a DRAIN, EXPORT or RELEASE issued at `t` may start (R85). -/
def Vat.earliest (x : Vat) (t gen : Nat) : Nat :=
  match x.sealAt with
  | some s => if BitVec.ofNat 4 gen = x.gen ∧ t < s + 6 then s + 6 else t
  | none => t

/-- RELEASE judged at its start cycle (R84). -/
def Core.vatRelease (c : Core) (e v gen : Nat) : Core :=
  let g := c.me e
  let x := g.vat v
  if BitVec.ofNat 4 gen = x.gen ∧ x.state = .vsealed then
    c.setMe e (g.setVat v { x with state := .idle })
  else c.staleDrop e v

/-- A vat after an image exchange (R83, R88): IDLE, generation 0, flags and counts clear; STALE and REFUSE
kept. -/
def Vat.exchange (x : Vat) : Vat := { Vat.reset with stale := x.stale, refuse := x.refuse }

/-! ### Contributions (R88 to R97, R111, R113) -/

/-- Whether a contribution issued at `issue` enters the vat: OPEN with its generation in that cycle, before any SEAL's
cut, and of the segment in force (R84, R88, R113). -/
def Vat.accepts (x : Vat) (gen issue segment nowSegment : Nat) : Bool :=
  x.state == .vopen && x.gen == BitVec.ofNat 4 gen && segment == nowSegment && decide (x.openAt ≤ issue) &&
    (match x.sealAt with | some s => decide (issue < s) | none => true)

/-- TERMS grows, and VAT_LONG rises past 2^31 − 1 (R89, R90). -/
def Vat.addTerms (x : Vat) (n : Nat) : Vat :=
  let t := satAdd 32 x.terms n
  { x with terms := t, flags := { x.flags with long := x.flags.long || decide (2 ^ 31 - 1 < t) } }

/-- One column's landing of a chunk partial in the tree of a Compact row (R95): the level that takes it, the
value, and whether VAT_SAT, VAT_NAR and VAT_DEEP rise. `i` is the row's chunk count. DEDUCED (log entry 49): for depths
from 1 on, the pseudocode of R95 and the words of R96 differ on the chunks beyond 2^D, and the pseudocode is followed. -/
def compactTake (level : Nat → Nat) (depth i : Nat) : Nat → Nat → Nat → Bool → Nat × Nat × Bool × Bool
  | 0, l, p, sat => (l, p, sat, false)
  | fuel + 1, l, p, sat =>
    if l < depth ∧ i.testBit l then
      let v := (v32 (level l)).add (v32 p)
      compactTake level depth i fuel (l + 1) (r32 v) (sat || aboveMax 32 v)
    else if l = depth ∧ 2 ^ depth ≤ i then
      let v := (v32 (level l)).add (v32 p)
      (l, r32 v, sat || aboveMax 32 v, true)
    else (l, p, sat, false)

/-- Whether a level of a row that took `n` chunks is in use (R95). -/
def levelUsed (depth n l : Nat) : Bool := if l < depth then n.testBit l else decide (2 ^ depth ≤ n)

/-- `compact_result` of R95 over levels `l` upward: the value and whether a rounding exceeded maxpos. -/
def compactResult (level : Nat → Nat) (depth n : Nat) : Nat → Nat → Option Nat → Bool → Nat × Bool
  | 0, _, acc, sat => (acc.getD 0, sat)
  | fuel + 1, l, acc, sat =>
    if levelUsed depth n l then
      match acc with
      | none => compactResult level depth n fuel (l + 1) (some (level l)) sat
      | some a =>
        let v := (v32 (level l)).add (v32 a)
        compactResult level depth n fuel (l + 1) (some (r32 v)) (sat || aboveMax 32 v)
    else compactResult level depth n fuel (l + 1) acc sat

/-- The contributions of one cycle land in a row of an Exact vat: column by column one exact sum of the stored
quire and everything that arrives (R67, R68, R92). -/
def landExact (v : Vat) (row : Nat) : List (Nat × List Quire) → Engine × Bool × Bool → Engine × Bool × Bool
  | [], r => r
  | (k, qs) :: t, (g, sat, nar) =>
    let old := g.quire v k row
    let (q, s) := match qs with
      | [a] => qadd (qwOf v.fmt) old a
      | [a, b] => qadd3 (qwOf v.fmt) old a b
      | _ => (old, false)
    landExact v row t (g.putQuire v k row q, sat || s, nar || q.isNar)

/-- A chunk lands in a row of a Compact vat, column by column (R94, R95). -/
def landCompact (v : Vat) (row : Nat) : List (Nat × Val) → Engine × VatFlags → Engine × VatFlags
  | [], r => r
  | (k, s) :: t, (g, f) =>
    let i := v.rowChunks.get 0 row
    let p := r32 s
    let (l, x, sat, deep) := compactTake (g.level v k row) v.depth i 26 0 p (aboveMax 32 s)
    let g1 := g.putSlots k (v.rowBase + row * (v.depth + 1) + l) 1 x
    landCompact v row t (g1, { f with sat := f.sat || sat, nar := f.nar || x == narPat 32,
                                      deep := f.deep || deep })

/-- The whole landing of one chunk, with the fold-in row that lands in the same quire row in the same cycle, if
any (R92, R111, R113). -/
def Core.landChunk (c : Core) (e : Nat) (ch : Chunk) (with_ : Option (List Quire)) : Core :=
  let g := c.me e
  let x := g.vat ch.vat
  if ch.masked then c
  else if !x.accepts ch.gen ch.issue ch.segment c.segment then c.staleOnce e ch.vat ch.opId
  else if x.rowsM1 < ch.row then c
  else if x.mode = 0 ∧ 8 * qwOf x.fmt < ch.posit then
    c.setMe e (g.setVat ch.vat { x with flags := { x.flags with vfmt := true } })
  else
    let first := !g.termed.contains ch.opId
    let x1 := if first then x.addTerms ch.extent else x
    let g1 := if first then { g with termed := ch.opId :: g.termed } else g
    if x.mode = 0 then
      let w := qwOf x.fmt
      let cols := (ch.sums.zipIdx).map fun (s, k) =>
        (k, qof w s :: (match with_ with | some qs => [nth qs k Quire.zero] | none => []))
      let (g2, sat, nar) := landExact x ch.row cols (g1, x1.flags.sat, x1.flags.nar)
      c.setMe e (g2.setVat ch.vat { x1 with flags := { x1.flags with sat := sat, nar := nar } })
    else
      let cols := (ch.sums.zipIdx).map fun (s, k) => (k, s)
      let (g2, f) := landCompact x ch.row cols (g1, x1.flags)
      let n := x.rowChunks.get 0 ch.row + 1
      c.setMe e (g2.setVat ch.vat { x1 with
        flags := f, rowChunks := x.rowChunks.set ch.row n, chunks := min (max x1.chunks n) (2 ^ 32 - 1) })

/-- A contribution's issue in a cycle `t` into a vat that takes it, seen by a Compact vat: two contributions in flight
together set VAT_OVERLAP, and CHUNKS and VAT_DEEP become unpredictable (R93). One that is dropped as stale changes no flag
(R87) and makes no overlap (DEDUCED, log entry 51). -/
def Core.noteIssue (c : Core) (t e v opId : Nat) : Core :=
  let g := c.me e
  let x := g.vat v
  if x.mode ≠ 1 then c
  else
    let lap := match x.lastIssue with
      | some l => x.lastOp != opId && decide (t < l + 6)
      | none => false
    let x1 := { x with lastOp := opId, lastIssue := some t }
    if lap then
      { c with free := c.free + 1 }.setMe e (g.setVat v { x1 with
        chunks := Config.freeNat c.free % 2 ^ 32,
        flags := { x1.flags with overlap := true, deep := Config.freeBool c.free } })
    else c.setMe e (g.setVat v x1)

/-- A chunk or a fold-in row of contribution `opId` issues in cycle `t`, judged by the state of its vat in that cycle
(R84, R93, R113): taken, or dropped as stale and counted then (DEDUCED, log entry 51). The second value says that it is
dropped. -/
def Core.judge (c : Core) (t e v gen opId segment : Nat) : Core × Bool :=
  if ((c.me e).vat v).accepts gen t segment c.segment then (c.noteIssue t e v opId, false)
  else (c.staleOnce e v opId, true)

/-! ### Trailers (R98, R99) -/

/-- The trailer word of a vat (R98). -/
def Vat.trailer (x : Vat) : Nat :=
  let d := if x.mode = 0 then 0 else if x.flags.deep then x.depth else clog2 x.chunks
  fld x.terms 32 32 + fld d 5 27 + fld x.mode 2 25 + fld x.fmt 4 21 + fld x.flags.byte 8 0

/-- Whether two trailers agree in MODE and FMT (R99). -/
def trlMatch (a b : Nat) : Bool := bits a 26 21 == bits b 26 21

/-- The destination trailer after a source is combined into it; `sat` says that an addition of the values
saturated or a rounding exceeded maxpos (R99). -/
def trlCombine (src dst : Nat) (sat : Bool) : Nat :=
  let terms := satAdd 32 (bits src 63 32) (bits dst 63 32)
  let exact := bits dst 26 25 == 0
  let d := if exact then 0 else min (max (bits src 31 27) (bits dst 31 27) + 1) 31
  let f := (VatFlags.ofByte (bits src 7 0)).or (VatFlags.ofByte (bits dst 7 0))
  let f1 := { f with long := f.long || decide (2 ^ 31 - 1 < terms), sat := f.sat || sat,
                     deep := f.deep || (!exact && decide (24 < d)) }
  fld terms 32 32 + fld d 5 27 + fld (bits dst 26 21) 6 21 + fld f1.byte 8 0

/-- The destination trailer with VAT_FMT set (R99). -/
def trlFmt (dst : Nat) : Nat := dst ||| 0x20

/-- A fold-in row lands in an Exact vat (R92, R99, R138); a row above the vat's rows, which no check of R149 has seen, lands
nothing (DEDUCED, log entry 30). -/
def Core.landFold (c : Core) (e : Nat) (fr : FoldRow) : Core :=
  let g := c.me e
  let x := g.vat fr.vat
  if fr.dropped then c
  else if !x.accepts fr.gen fr.issue fr.segment c.segment then c.staleOnce e fr.vat fr.opId
  else if x.rowsM1 < fr.row then c
  else if x.mode ≠ 0 ∨ bits fr.trailer 26 25 ≠ 0 ∨ bits fr.trailer 24 21 ≠ x.fmt ∨ fr.w ≠ qwOf x.fmt then
    c.setMe e (g.setVat fr.vat { x with flags := { x.flags with vfmt := true } })
  else
    let first := !g.termed.contains fr.opId
    let x1 := if first then
        let y := x.addTerms (bits fr.trailer 63 32)
        { y with flags := y.flags.or (VatFlags.ofByte (bits fr.trailer 7 0)) }
      else x
    let g1 := if first then { g with termed := fr.opId :: g.termed } else g
    let cols := (fr.quires.zipIdx).map fun (q, k) => (k, [q])
    let (g2, sat, nar) := landExact x fr.row cols (g1, x1.flags.sat, x1.flags.nar)
    c.setMe e (g2.setVat fr.vat { x1 with flags := { x1.flags with sat := sat, nar := nar } })

/-! ### Reading rows (R84, R95, R97) -/

/-- Free values of a row of a vat that an exchange has taken away under the operation that reads it, by column: quires of
width `w`, or posit32 (R350: the quire file is unpredictable; log entry 30). -/
def freeRow (free n w : Nat) : List Val :=
  (List.range n).map fun k =>
    if w = 0 then v32 (Config.freeWord (free + k)).toNat else qval w (qdec w (Config.freeNat (free + k) % 2 ^ (128 * w)))

/-- The values of a row of a vat, column 0 upward, as DRAIN reads them, with the flags that the Compact tree
raises. A row of an overlapped Compact vat is unpredictable (R93): free values. -/
def Core.rowVals (c : Core) (e v row : Nat) : Core × List Val :=
  let g := c.me e
  let x := g.vat v
  let n := c.ncols e
  if x.mode = 0 then (c, (List.range n).map fun k => qval (qwOf x.fmt) (g.quire x k row))
  else if x.flags.overlap then
    ({ c with free := c.free + n },
     (List.range n).map fun k => v32 (Config.freeWord (c.free + k)).toNat)
  else
    let rs := (List.range n).map fun k =>
      compactResult (g.level x k row) x.depth (x.rowChunks.get 0 row) (x.depth + 1) 0 none false
    let f := { x.flags with sat := x.flags.sat || rs.any (·.2),
                            nar := x.flags.nar || rs.any (fun r => r.1 == narPat 32) }
    (c.setMe e (g.setVat v { x with flags := f }), rs.map fun r => v32 r.1)

end Sys2Proof.Machine
end

