-- ==== Sys2Proof/Machine/Engines.lean ====
section
/-! DEFINITION. Matrix engines: slots and refusals, column pipe, stationary sets, epilogue, fold pipe
(chapter 04). `r` is the plane cycle being performed. -/

namespace Sys2Proof.Machine

/-! ### Slots and entries (R139 to R149) -/

/-- The fields of an engine slot below its opcode (R139). -/
structure MeSlot where
  vat : Nat
  gen : Nat
  entry : Nat
  keep : Nat
  row0 : Nat
  deriving DecidableEq, Repr

/-- The fields of the 27 bits below an engine opcode. -/
def meSlot (a : Nat) : MeSlot := ⟨bits a 26 23, bits a 22 19, bits a 18 11, bits a 10 10, bits a 9 0⟩

/-- A refused engine instruction (R149): COUNT, LAST_CODE, LAST_OP and LAST_STEP, the engine-fault event, and
FAULTED of the core (R255). -/
def Core.meRefuse (c : Core) (e code op : Nat) : Core :=
  let g := c.me e
  let c1 := c.setMe e { g with
    fault := ⟨satAdd 16 g.fault.count 1, code, op, c.seq.step.toNat % 2 ^ 32⟩ }
  { c1 with seq := { c1.seq with faulted := true } }.event .engine

/-- Block extent X and cycles per row c of a pairing in standard form (R109); codes of R50. -/
def stdPair (mov stat : Nat) : Option (Nat × Nat) :=
  match mov, stat with
  | 0, 0 => some (128, 1)
  | 3, 3 => some (128, 1)
  | 4, 4 => some (256, 1)
  | 3, 4 => some (256, 2)
  | 1, 1 => some (64, 2)
  | 2, 2 => some (32, 4)
  | _, _ => none

/-- The same in convolution form: equal formats only (R109, R144). -/
def convPair (mov stat : Nat) : Option (Nat × Nat) := if mov = stat then stdPair mov stat else none

/-- Wide-shallow pairings, weights × activations (R109, R126): block capacity A, weights per strip w, cycles
per chunk. -/
def wsPair (wf af : Nat) : Option (Nat × Nat × Nat) :=
  match wf, af with
  | 0, 0 => some (128, 8, 16)
  | 3, 3 => some (128, 8, 16)
  | 4, 4 => some (256, 16, 16)
  | 4, 3 => some (128, 16, 8)
  | 1, 1 => some (64, 4, 8)
  | 2, 2 => some (32, 2, 4)
  | _, _ => none

/-- Formats an engine operand field allows: posits, int8, int4 (R51). -/
def opFmtOk (f : Nat) : Bool := decide (f ≤ 4)

/-- Posit width of an operand format, 0 for integers. -/
def positW (f : Nat) : Nat := if f = 0 then 8 else if f = 1 then 16 else if f = 2 then 32 else 0

/-- An OPERAND entry fit for use (R143, R148). -/
def operandOk (x : Nat) : Bool :=
  bits x 127 124 == 2 && bits x 21 0 == 0 && opFmtOk (bits x 123 120) && opFmtOk (bits x 119 116) &&
  bits x 63 59 % (if bit x 58 then 16 else 8) == 0 &&
  (match stdPair (bits x 123 120) (bits x 119 116) with
   | some (ext, _) => decide (bits x 103 96 < ext)
   | none => true)

/-- A CONV entry fit for use (R144, R148). -/
def convOk (x : Nat) : Bool :=
  bits x 127 124 == 3 && bits x 24 0 == 0 && opFmtOk (bits x 123 120) && opFmtOk (bits x 119 116) &&
  bits x 54 50 % (if bit x 49 then 16 else 8) == 0

/-- A WS entry fit for use (R126, R145, R148): posit32 takes at most 4 rows. -/
def wsOk (x : Nat) : Bool :=
  bits x 127 124 == 4 && bits x 57 0 == 0 && opFmtOk (bits x 123 120) && opFmtOk (bits x 119 116) &&
  !(bits x 123 120 == 2 && bits x 115 114 == 3)

/-- An EPILOGUE entry fit for use (R134, R146, R148). -/
def epilogueOk (x : Nat) : Bool :=
  let act := bits x 119 117
  bits x 127 124 == 5 && [0, 1, 2, 6, 7].contains (bits x 123 120) && decide (act ≤ 4) &&
  !(act == 3 && bits x 116 113 == 0) &&
  !(act == 2 && (bits x 31 16 == 0x8000 || bits x 15 0 == 0x8000)) &&
  !(act == 4 && bits x 31 16 == 0x8000)

/-- A DEST entry fit for use (R147, R148). -/
def destOk (foldin : Bool) (x : Nat) : Bool :=
  bits x 127 124 == 6 && bits x 94 0 == 0 && !(foldin && bits x 96 95 == 3)

/-- A VAT_SHAPE entry fit for use; MODE, FMT and DEPTH are OPEN's to judge (R142, R148). -/
def shapeOk (x : Nat) : Bool := bits x 127 124 == 1 && bits x 92 0 == 0

/-- Whether an opcode's unused fields are zero (R140). -/
def meFieldsOk (op : Nat) (s : MeSlot) : Bool :=
  match op with
  | 0x01 => s.keep == 0 && s.row0 == 0
  | 0x02 => s.entry == 0 && s.keep == 0 && s.row0 == 0
  | 0x03 => s.row0 == 0
  | 0x04 => s.keep == 0 && s.row0 == 0
  | 0x05 => s.entry == 0 && s.keep == 0 && s.row0 == 0
  | 0x06 => s.vat == 0 && s.gen == 0 && s.keep == 0 && s.row0 == 0
  | 0x08 | 0x09 | 0x0A | 0x0B => s.keep == 0
  | 0x00 => s.vat == 0 && s.gen == 0 && s.entry == 0 && s.keep == 0 && s.row0 == 0
  | _ => false

/-- Whether an engine's form allows an opcode (R125, R140). -/
def meFormOk (form e op : Nat) : Bool :=
  match form with
  | 0 => !(op == 0x09 || op == 0x0A)
  | 1 => e == 0 && !(op == 0x06 || op == 0x08 || op == 0x09 || op == 0x04 || op == 0x0B)
  | _ => !(op == 0x08 || op == 0x0A)

/-- The entry an opcode uses is unfit (R148). -/
def meEntryBad (op x : Nat) : Bool :=
  match op with
  | 0x01 => !shapeOk x
  | 0x03 => !epilogueOk x
  | 0x04 => !destOk false x
  | 0x0B => !destOk true x
  | 0x06 => !(operandOk x || convOk x)
  | 0x08 => !operandOk x
  | 0x09 => !convOk x
  | 0x0A => !wsOk x
  | _ => false

/-- The pairing of the entry is not allowed (R110). -/
def mePairBad (op x : Nat) : Bool :=
  let a := bits x 123 120
  let b := bits x 119 116
  match op with
  | 0x08 => (stdPair a b).isNone
  | 0x09 => (convPair a b).isNone
  | 0x0A => (wsPair a b).isNone
  | 0x06 => if bits x 127 124 = 2 then (stdPair a b).isNone else (convPair a b).isNone
  | _ => false

/-- The pipe of one engine that an opcode needs already holds a pending operation, or another PRELOAD is held (R149): the
code, 0 if none. -/
def mePipeCode (g : Engine) (op : Nat) : Nat :=
  match op with
  | 0x08 | 0x09 | 0x0A => if g.pend.isSome then 5 else 0
  | 0x03 | 0x04 => if g.epiPend.isSome then 5 else 0
  | 0x0B => if g.foldPend.isSome then 5 else 0
  | 0x06 => if g.preload.isSome then 6 else 0
  | _ => 0

/-- Vat rows a contribution names: M, C or ROWS (R118, R128, R126, R138). -/
def meRows (op x : Nat) : Nat :=
  match op with
  | 0x08 => bits x 95 88 + 1
  | 0x09 => bits x 115 108 + 1
  | 0x0A => 2 ^ bits x 115 114
  | _ => bits x 106 97 + 1

/-- ROW0 plus rows exceeds the rows of an OPEN vat of matching generation (R149). -/
def meRowsBad (g : Engine) (op : Nat) (s : MeSlot) (x : Nat) : Bool :=
  (op == 0x08 || op == 0x09 || op == 0x0A || op == 0x0B) &&
  (let v := g.vat s.vat
   v.state == .vopen && v.gen == BitVec.ofNat 4 s.gen && decide (v.rowsM1 + 1 < s.row0 + meRows op x))

/-- The engines an operation acts on: all four in wide-shallow form (R125). -/
def Core.gang (c : Core) (e : Nat) : List Nat := if (c.me e).form = 1 then [0, 1, 2, 3] else [e]

/-- `mePipeCode` over the engines an operation acts on (R125, R149). -/
def Core.mePipes (c : Core) (e op : Nat) : Nat :=
  (((c.gang e).map fun i => mePipeCode (c.me i) op).find? (· != 0)).getD 0

/-- The refusal code of an engine slot, 0 when it is accepted: the first condition in the order of R149. -/
def Core.meCheck (c : Core) (e op : Nat) (s : MeSlot) : Nat :=
  let g := c.me e
  let x := (c.cfg.opt.get 0 (256 * e + s.entry)).toNat
  if g.form = 1 ∧ e ≠ 0 then 4
  else if !meFieldsOk op s then 1
  else if op = 0 then 0
  else if !meFormOk g.form e op then 4
  else if meEntryBad op x then 2
  else if mePairBad op x then 3
  else if c.mePipes e op ≠ 0 then c.mePipes e op
  else if meRowsBad g op s x then 7
  else 0

/-- The entry in force that a slot names. -/
def Core.meEnt (c : Core) (e entry : Nat) : BitVec 128 := c.cfg.opt.get 0 (256 * e + entry)

/-- OPEN on every engine it acts on (R84, R125). -/
def Core.meOpen (c : Core) (r e : Nat) (s : MeSlot) : Core :=
  (c.gang e).foldl (fun c i => c.vatOpen r i s.vat s.gen (shapeOf (c.meEnt e s.entry).toNat)) c

/-- SEAL on every engine it acts on (R84, R125). -/
def Core.meSeal (c : Core) (r e : Nat) (s : MeSlot) : Core :=
  (c.gang e).foldl (fun c i => c.vatSeal r i s.vat s.gen) c

/-- RELEASE, at once or 6 cc after the SEAL of its generation (R84, R85, R125). -/
def Core.meRelease (c : Core) (r e : Nat) (s : MeSlot) : Core :=
  (c.gang e).foldl (fun c i =>
    let g := c.me i
    let d := (g.vat s.vat).earliest r s.gen
    if d ≤ r then c.vatRelease i s.vat s.gen
    else c.setMe i { g with releases := g.releases ++ [(d, s.vat, s.gen)] }) c

/-- DRAIN or EXPORT takes its place on the epilogue path (R85, R137). -/
def Core.meEpi (c : Core) (r e : Nat) (vexport : Bool) (s : MeSlot) : Core :=
  (c.gang e).foldl (fun c i =>
    let g := c.me i
    let op : EpiOp :=
      { vexport := vexport, vat := s.vat, gen := s.gen, ent := c.meEnt e s.entry,
        keep := s.keep == 1, gang := (c.me e).form == 1, segment := c.segment, earliest := (g.vat s.vat).earliest r s.gen,
        start := none, rows := 0, w := 0, csv := [], bv := [], rsv := [], vals := [] }
    if g.epi.isNone then c.setMe i { g with epi := some op } else c.setMe i { g with epiPend := some op }) c

/-- Load time L of an operand or convolution entry (R117). -/
def loadTime (x : Nat) : Nat :=
  if bits x 127 124 = 2 then (if bit x 58 then 8 else 16) else (if bit x 49 then 8 else 16)

/-- PRELOAD (R120). -/
def Core.mePreload (c : Core) (r e : Nat) (s : MeSlot) : Core :=
  let g := c.me e
  let ent := c.meEnt e s.entry
  let busy := match g.loading with | some l => l.begin_ + loadTime l.ent.toNat | none => 0
  let p : Preload := ⟨s.entry, ent, max r (max g.bgFree busy)⟩
  c.setMe e { g with preload := some p, loading := some p }

/-- MMA, CONV or WSMV takes its place on the column pipe (R121). -/
def Core.meCol (c : Core) (e : Nat) (k : ColKind) (s : MeSlot) : Core :=
  let g := c.me e
  let op : ColOp :=
    { id := c.nextId, kind := k, vat := s.vat, gen := s.gen, entryNo := s.entry,
      ent := c.meEnt e s.entry, row0 := s.row0, segment := c.segment, t0 := 0, swapAt := 0, lastSwap := 0,
      blk := 0, loads := [], lastIssue := 0 }
  { c with nextId := c.nextId + 1 }.setMe e { g with pend := some op }

/-- FOLDIN takes its place on the fold pipe (R138). -/
def Core.meFoldin (c : Core) (e : Nat) (s : MeSlot) : Core :=
  let g := c.me e
  let op : FoldOp :=
    { id := c.nextId, vat := s.vat, gen := s.gen, ent := c.meEnt e s.entry, row0 := s.row0,
      segment := c.segment, start := none, trailer := 0, parts := [] }
  { c with nextId := c.nextId + 1 }.setMe e
    (if g.fold.isNone then { g with fold := some op } else { g with foldPend := some op })

/-- One engine slot: refused by the first check that fails, otherwise performed by the opcode's operation. -/
def Core.meIssue (c : Core) (e op : Nat) (s : MeSlot) (act : Core → Core) : Core :=
  let code := c.meCheck e op s
  if code ≠ 0 then c.meRefuse e code op else act c

/-! ### Timing of the column pipe (R119, R127, R130) -/

/-- Blocks, cycles per row, rows of an MMA. -/
def mmaDims (x : Nat) : Nat × Nat × Nat :=
  (bits x 115 104 + 1, ((stdPair (bits x 123 120) (bits x 119 116)).getD (128, 1)).2, bits x 95 88 + 1)

/-- A tap step of a convolution: height tap, channel block, width tap, whether it reloads, its shift (R128). -/
structure Tap where
  h : Nat
  cb : Nat
  wt : Nat
  reload : Bool
  shift : Nat
  deriving DecidableEq, Repr

/-- Width taps in their order (R128): ascending with stride 1; even, then odd, with stride 2. -/
def tapOrder (tw : Nat) (stride2 : Bool) : List Nat :=
  if stride2 then (List.range tw).filter (· % 2 == 0) ++ (List.range tw).filter (· % 2 == 1) else List.range tw

/-- Tap step τ of a CONV entry (R128, R130). -/
def tapOf (x τ : Nat) : Tap :=
  let tw := bits x 107 104 + 1
  let cbs := bits x 98 91 + 1
  let s2 := bit x 99
  let wt := nth (tapOrder tw s2) (τ % tw) 0
  ⟨τ / tw / cbs, τ / tw % cbs, wt, if s2 then wt < 2 else wt == 0, if s2 then wt / 2 else wt⟩

/-- Tap steps of a CONV entry. -/
def tapCount (x : Nat) : Nat := (bits x 107 104 + 1) * (bits x 103 100 + 1) * (bits x 98 91 + 1)

/-- Chunks of a tap step, cC (R128). -/
def convLen (x : Nat) : Nat :=
  ((convPair (bits x 123 120) (bits x 119 116)).getD (128, 1)).2 * (bits x 115 108 + 1)

/-- Cycles from the swap of step τ − 1 to that of step τ (R130). -/
def convStep (x τ : Nat) : Nat := max (convLen x + 1) (if (tapOf x τ).reload then loadTime x else 1)

/-- Weight cycles of a WSMV, ⌈K / w⌉ (R127). -/
def wsCycles (x : Nat) : Nat :=
  ceilDiv (bits x 113 94 + 1) ((wsPair (bits x 123 120) (bits x 119 116)).getD (128, 8, 16)).2.1

/-- The last swap cycle of an operation whose first swap is at `s`. -/
def lastSwapOf (k : ColKind) (x s : Nat) : Nat :=
  match k with
  | .mma => let (nb, c, m) := mmaDims x; s + (nb - 1) * max (c * m + 1) (loadTime x)
  | .conv => (List.range (tapCount x - 1)).foldl (fun s i => s + convStep x (i + 1)) s
  | .wsmv => s

/-- Chunks per block or tap step. -/
def chunksPer (k : ColKind) (x : Nat) : Nat :=
  match k with
  | .mma => let (_, c, m) := mmaDims x; c * m
  | .conv => convLen x
  | .wsmv => wsCycles x

/-- The terms of a contribution, its reduction extent (R89, R118, R130, R126). DESIGN CHOICE (log entry 30): R130 takes the
masked channels of a CB block off the extent of a CONV, and its entry (R144) has no field that gives the number of
channels; the model masks none. -/
def extentOf (k : ColKind) (x : Nat) : Nat :=
  match k with
  | .mma =>
    let ext := ((stdPair (bits x 123 120) (bits x 119 116)).getD (128, 1)).1
    bits x 115 104 * ext + (if bits x 103 96 = 0 then ext else bits x 103 96)
  | .conv => tapCount x * ((convPair (bits x 123 120) (bits x 119 116)).getD (128, 1)).1
  | .wsmv => bits x 113 94 + 1

/-- Whether every column pipe an operation needs is free (R121): in wide-shallow form all four, on none of which an
operation of the form before still waits. -/
def Core.pipesFree (c : Core) (e : Nat) (k : ColKind) : Bool :=
  match k with
  | .wsmv => (List.range 4).all fun i => (c.me i).run.isNone && (i == 0 || (c.me i).pend.isNone)
  | _ => (c.me e).run.isNone && (e == 0 || (match (c.me 0).run with | some o => o.kind != .wsmv | none => true))

/-- Cycles a block of a WSMV lasts, and its blocks (R126, R127). -/
def wsBlocks (x : Nat) : Nat × Nat :=
  let (a, w, _) := (wsPair (bits x 123 120) (bits x 119 116)).getD (128, 8, 16)
  let m := 2 ^ bits x 115 114
  (a / m / w, ceilDiv (bits x 113 94 + 1) (a / m))

/-- A pending column operation starts at `r` (R119, R120, R121, R127, R130). A held PRELOAD of the same entry
serves it; any other is discarded with its load, except a load that an exchange has left without its PRELOAD, which goes on
(R120). DEDUCED (log entry 30): the next MMA or CONV after a PRELOAD is the next to start. -/
def Core.startCol (c : Core) (r e : Nat) : Core :=
  let g := c.me e
  match g.pend with
  | none => c
  | some op =>
    if !c.pipesFree e op.kind then c
    else
      let x := op.ent.toNat
      if op.kind = .wsmv then
        let (per, n) := wsBlocks x
        (List.range 4).foldl (fun (c : Core) i => c.setMe i { c.me i with bgFree := r + 1 + (n - 1) * per })
          (c.setMe e { g with pend := none, moving := [],
                              run := some { op with t0 := r, lastIssue := r + wsCycles x } })
      else
        let l := loadTime x
        let hit := match g.preload with | some p => p.entryNo == op.entryNo | none => false
        let b := match g.preload with | some p => p.begin_ | none => 0
        let s := if hit then max r (b + l) else r + l
        let ls := lastSwapOf op.kind x s
        c.setMe e { g with
          pend := none, preload := none, moving := [], bgFree := ls,
          loading := if hit || g.preload.isNone then g.loading else none,
          run := some { op with t0 := r, swapAt := s, loads := if hit then [] else [(0, r)],
                                lastIssue := ls + chunksPer op.kind x } }

/-! ### Stationary images (R115 to R117, R129) -/

/-- The tile-store line of image line `i`, in the stagger of R117. -/
def imageLine (base bb w i : Nat) : Nat := 32 * ((base + i / w) % 4096) + bb + i % w

/-- Positions of the even run of a stride-2 image (R129). -/
def evenRun (tw : Nat) : Nat := 64 + ceilDiv tw 2 - 1

/-- The image line at which a chain's run begins: the odd run starts at a position that is a multiple of 16, the first one
at or after the end of the even run (DEDUCED, log entry 30: R129 does not say which). -/
def runStart (x wt : Nat) : Nat :=
  if bit x 99 ∧ wt % 2 = 1 then 2 * (16 * ceilDiv (evenRun (bits x 107 104 + 1)) 16) else 0

/-- The tile-store line of line `i` of block or tap step `b` of an entry. -/
def stationLine (x b i : Nat) : Nat :=
  if bits x 127 124 = 2 then
    imageLine (bits x 87 76 + b * bits x 75 64) (bits x 63 59) (if bit x 58 then 16 else 8) i
  else
    let t := tapOf x b
    imageLine (bits x 90 79 + t.h * bits x 78 67 + t.cb * bits x 66 55) (bits x 54 50)
      (if bit x 49 then 16 else 8) (runStart x t.wt + i)

/-- Stationary format of an entry. -/
def statFmt (x : Nat) : Nat := bits x 119 116

/-- The reads of a load that began at cycle `b0`, in cycle `r`: W lines, ascending (R117). -/
def loadAccs (x e blk b0 r : Nat) : List Acc :=
  let l := loadTime x
  if b0 ≤ r ∧ r < b0 + l then
    let w := 128 / l
    (List.range w).map fun j =>
      let i := (r - b0) * w + j
      ⟨false, stationLine x blk i, 5, loadSub e, .read (.load e (64 * i) (statFmt x))⟩
  else []

/-- The background set. -/
def Engine.bg (g : Engine) : Mem := if g.activeA then g.setB else g.setA
/-- The active set. -/
def Engine.active (g : Engine) : Mem := if g.activeA then g.setA else g.setB
/-- The engine with its background set replaced. -/
def Engine.setBg (g : Engine) (m : Mem) : Engine := if g.activeA then { g with setB := m } else { g with setA := m }

/-- A swap exchanges the two sets in every cell (R116). -/
def Engine.swap (g : Engine) : Engine := { g with activeA := !g.activeA }

/-- The shift fill of a convolution: column k takes the active position of column k + 1 (R130). -/
def Engine.shiftFill (g : Engine) (n : Nat) : Engine :=
  g.setBg ((g.bg.zero 0 (128 * (n - 1))).write 0 (g.active.read 128 (128 * (n - 1))))

/-- In wide-shallow form the sets of all four engines exchange at the first weight cycle of each block (R116, R126). -/
def Core.wsSwap (c : Core) (r : Nat) (op : ColOp) : Core :=
  if op.t0 < r ∧ r ≤ op.lastIssue ∧ (r - op.t0 - 1) % max 1 (wsBlocks op.ent.toNat).1 = 0 ∧ op.lastSwap ≠ r then
    (List.range 4).foldl (fun (c : Core) i => c.setMe i (c.me i).swap)
      (c.setMe 0 { c.me 0 with run := some { op with lastSwap := r } })
  else c

/-- The swap of a cycle, and what it begins: the next block's load, the next tap step's reload, or its shift
(R119, R130). -/
def Core.swapAct (c : Core) (r e : Nat) : Core :=
  let g := c.me e
  match g.run with
  | none => c
  | some op =>
    let x := op.ent.toNat
    if op.kind = .wsmv then c.wsSwap r op
    else if op.swapAt ≠ r ∨ (op.blk ≠ 0 ∧ op.lastSwap = r) then c
    else
      let total := if op.kind = .mma then (mmaDims x).1 else tapCount x
      if total ≤ op.blk then c
      else
        let g1 := g.swap
        let nb := op.blk + 1
        let op1 := { op with lastSwap := r, blk := nb }
        if total ≤ nb then c.setMe e { g1 with run := some op1 }
        else if op.kind = .mma then
          let (_, cy, m) := mmaDims x
          c.setMe e { g1 with run := some { op1 with swapAt := r + max (cy * m + 1) (loadTime x),
                                                     loads := (op1.loads.filter fun p => r < p.2 + loadTime x) ++ [(nb, r)] } }
        else
          let op2 := { op1 with swapAt := r + convStep x nb }
          if (tapOf x nb).reload then
            c.setMe e { g1 with run := some { op2 with loads := [(nb, r)] } }
          else
            let n := c.ncols e
            let t := tapOf x nb
            let p := runStart x t.wt + 2 * (n - 1 + t.shift)
            let accs := [0, 1].map fun i =>
              (⟨false, stationLine x nb (2 * (n - 1 + t.shift) + i), 5, loadSub e,
                .read (.load e (128 * (n - 1) + 64 * i) (statFmt x))⟩ : Acc)
            let c1 := c.setMe e { (g1.shiftFill n) with run := some { op2 with loads := [] } }
            if p < 2 ^ 32 then { c1 with st := { c1.st with acc := c1.st.acc ++ accs } } else c1

/-! ### The chunk of a cycle (R112, R113, R118, R127, R128) -/

/-- What the column pipe forms in a cycle. -/
structure Forming where
  row : Nat            -- first vat row
  lo : Nat             -- elements of the stationary set it covers
  hi : Nat
  part : Nat           -- cycle within the moving row
  first : Bool         -- this cycle reads the moving row from staging
  stage : Nat          -- staging row it reads, when it reads one
  reads : Bool
  idx : Nat            -- weight cycle, for WSMV
  deriving DecidableEq, Repr

/-- The chunk an MMA or CONV issues in cycle `r` (R118, R119, R128, R130), or the weight cycle of a WSMV. -/
def ColOp.forming (op : ColOp) (r : Nat) : Option Forming :=
  let x := op.ent.toNat
  match op.kind with
  | .wsmv =>
    if op.t0 < r ∧ r ≤ op.lastIssue then some ⟨op.row0, 0, 0, 0, false, 0, false, r - op.t0 - 1⟩ else none
  | .mma =>
    let (nb, c, m) := mmaDims x
    if op.blk = 0 ∨ r ≤ op.lastSwap ∨ op.lastSwap + c * m < r then none
    else
      let i := r - op.lastSwap - 1
      let (ext, _) := (stdPair (bits x 123 120) (bits x 119 116)).getD (128, 1)
      let b := op.blk - 1
      let ci := i % c
      let lo := ci * ext / c
      let hi0 := (ci + 1) * ext / c
      let tail := bits x 103 96
      let hi := if b + 1 = nb ∧ tail ≠ 0 then min hi0 (max lo tail) else hi0
      let two := bits x 123 120 = 3 ∧ bits x 119 116 = 4
      some ⟨op.row0 + i / c, lo, hi, ci, ci == 0,
        (bits x 57 46 + b * bits x 45 34 + (i / c) * bits x 33 22 + (if two then ci else 0)) % 4096,
        ci == 0 || decide two, 0⟩
  | .conv =>
    let len := convLen x
    if op.blk = 0 ∨ r ≤ op.lastSwap ∨ op.lastSwap + len < r then none
    else
      let i := r - op.lastSwap - 1
      let (ext, c) := (convPair (bits x 123 120) (bits x 119 116)).getD (128, 1)
      let ci := i % c
      some ⟨op.row0 + i / c, ci * ext / c, (ci + 1) * ext / c, ci, ci == 0,
        (bits x 48 37 + (op.blk - 1) * bits x 36 25 + i / c) % 4096, ci == 0, 0⟩

/-- The weight and activation reads of a WSMV in cycle `r` (R126, R127): block 0 in the start cycle, each later
block in the first cycle of the block before it (DEDUCED, log entry 30), a line of weights from every bank in each weight
cycle. -/
def wsAccs (op : ColOp) (r : Nat) : List Acc :=
  let x := op.ent.toNat
  let (per, blocks) := wsBlocks x
  let block := fun b => (⟨true, (bits x 81 70 + b * bits x 69 58) % 4096, 7, 10, .read (.block (bits x 119 116))⟩ : Acc)
  if r = op.t0 then [block 0]
  else
    let i := r - op.t0 - 1
    let next := i / max 1 per + 1
    (if i % max 1 per = 0 ∧ next < blocks then [block next] else []) ++ (List.range 32).map fun bk =>
      ⟨false, 32 * ((bits x 93 82 + i) % 4096) + bk, 5, loadSub (bk / 8), .read (.moving 0 (100 + bk) (bits x 123 120))⟩

/-- Element `j` of a byte string in an operand format, as an exact value (R63, R66). -/
def operandElem (f : Nat) (bs : Bytes) (j : Nat) : Val :=
  match f with
  | 0 => pdec 8 (nth bs j 0).toNat
  | 1 => pdec 16 (leAt bs (2 * j) 2)
  | 2 => pdec 32 (leAt bs (4 * j) 4)
  | 3 => .num (Dy.ofInt (sgn 8 (nth bs j 0).toNat))
  | _ => .num (Dy.ofInt (sgn 4 ((nth bs (j / 2) 0).toNat >>> (4 * (j % 2)))))

/-- The exact sum of the products of two element lists (R112). -/
def dotVal : List Val → List Val → Val
  | a :: s, b :: t => (a.mul b).add (dotVal s t)
  | _, _ => Val.zero

/-- A column is gated when all its products are exact zeros (R131). -/
def gatedCol (mov stat : List Val) : Bool :=
  (stat.all Val.isZero && !mov.any Val.isNar) || (mov.all Val.isZero && !stat.any Val.isNar)

/-- What the moving port holds in a part. -/
def Engine.part (g : Engine) (i : Nat) : Bytes := Tab.get [] g.moving i

/-- The chunk of an MMA or CONV at `r`, once its moving row has been read: exact column sums, gating counted,
the chunk on its way to its landing (R112, R113, R131). -/
def Core.formChunk (c : Core) (r e : Nat) (op : ColOp) (f : Forming) : Core :=
  let g := c.me e
  let x := op.ent.toNat
  let mf := bits x 123 120
  let sf := bits x 119 116
  let two := mf == 3 && sf == 4
  let js := (List.range (f.hi - f.lo)).map (· + f.lo)
  let mbytes := g.part (if two then f.part else 0)
  let mov := js.map fun j => operandElem mf mbytes (if two then j - 128 * f.part else j)
  let n := c.ncols e
  let set := g.active
  let cells := (List.range n).map fun k => set.read (128 * k) 128
  let stat := cells.map fun bs => js.map fun j => operandElem sf bs j
  let gated := (stat.filter (gatedCol mov)).length
  let masked := f.lo == f.hi
  let ch : Chunk :=
    { due := r + 6, issue := r, opId := op.id, vat := op.vat, gen := op.gen, row := f.row,
      segment := op.segment, posit := positW mf, extent := extentOf op.kind x, masked := masked,
      sums := stat.map fun s => dotVal mov s }
  let c1 := c.setMe e { g with gated := g.gated + BitVec.ofNat 64 gated }
  let (c2, drop) := if masked then (c1, false) else c1.judge r e op.vat op.gen op.id op.segment
  c2.setMe e { c2.me e with chunks := (c2.me e).chunks ++ [{ ch with masked := masked || drop }] }

/-- Column `k` of a gang engine: its strip of weights, 8 bytes of the line of its bank (R126). -/
def stripOf (g0 : Engine) (j : Nat) : Bytes := slice (g0.part (100 + j / 8)) (8 * (j % 8)) 8

/-- One weight cycle of a WSMV on engine `e` of the gang (R126, R127): the products of the strip with each row's
activations join the row's partial sums; a complete chunk issues for all M rows. -/
def Core.formWs (c : Core) (r e : Nat) (op : ColOp) (f : Forming) : Core :=
  let g0 := c.me 0
  let g := c.me e
  let x := op.ent.toNat
  let wf := bits x 123 120
  let af := bits x 119 116
  let (a, w, per) := (wsPair wf af).getD (128, 8, 16)
  let m := 2 ^ bits x 115 114
  let kws := a / m
  let k := bits x 113 94 + 1
  let js := ((List.range w).map (· + f.idx * w)).filter (· < k)
  let n := c.ncols e
  let blockBytes := g.active.read 0 128
  let weights := (List.range n).map fun col =>
    js.map fun j => operandElem wf (stripOf g0 (64 * e + col)) (j - f.idx * w)
  let acts := (List.range m).map fun mi => js.map fun j => operandElem af blockBytes (mi * kws + j % kws)
  let gated := (weights.filter fun ws => acts.all fun av => gatedCol ws av).length
  let fresh := f.idx % per == 0
  let sums := (acts.zipIdx).map fun (av, mi) =>
    (mi, (weights.zipIdx).map fun (ws, col) =>
      (if fresh then Val.zero else nth (Tab.get [] g.wsAcc mi) col Val.zero).add (dotVal ws av))
  let done := (f.idx + 1) % per == 0 || r == op.lastIssue
  let chs := if done then sums.map fun (mi, s) =>
      ({ due := r + 6, issue := r, opId := op.id, vat := op.vat, gen := op.gen, row := f.row + mi,
         segment := op.segment, posit := positW wf, extent := extentOf .wsmv x, masked := false,
         sums := s } : Chunk)
    else []
  let c1 := c.setMe e { g with gated := g.gated + BitVec.ofNat 64 gated, wsAcc := sums }
  let (c2, drop) := if done then c1.judge r e op.vat op.gen op.id op.segment else (c1, false)
  c2.setMe e { c2.me e with chunks := (c2.me e).chunks ++ chs.map fun ch => { ch with masked := drop } }

/-! ### The epilogue (R133 to R137) -/

/-- The activation of R134 on an exact value. -/
def activation (x : Nat) (y : Val) : Val :=
  match y with
  | .nar => .nar
  | .num a =>
    let hi := match pdec 16 (bits x 31 16) with | .num h => h | .nar => Dy.zero
    let lo := match pdec 16 (bits x 15 0) with | .num l => l | .nar => Dy.zero
    let mx := fun (p q : Dy) => if p.lt q then q else p
    let mn := fun (p q : Dy) => if p.lt q then p else q
    match bits x 119 117 with
    | 1 => .num (mx a Dy.zero)
    | 2 => if hi.lt lo then .num lo else .num (mn (mx a lo) hi)
    | 3 => if a.m < 0 then .num ⟨a.m, a.e - (bits x 116 113 : Int)⟩ else .num a
    | 4 => .num (mn (mx a Dy.zero) hi)
    | _ => .num a

/-- One output element of the epilogue (R133): value, scales and bias in, target pattern and its conversion
events out. -/
def epilogueElem (x : Nat) (v rs cs b : Val) : Nat × CvtTally :=
  let y1 := if bit x 112 then v.mul rs else v
  let y2 := if bit x 111 then y1.mul cs else y1
  let y3 := if bit x 109 then y2.add b else y2
  roundTo ((Fmt.ofCode (bits x 123 120)).getD .p32) (activation x y3)

/-- The conversion counts of a core grow (R77). -/
def Core.cvt (c : Core) (t : CvtTally) : Core :=
  { c with su := { c.su with narIn := satAdd 16 c.su.narIn t.narIn, satHi := satAdd 16 c.su.satHi t.satHi,
                             satLo := satAdd 16 c.su.satLo t.satLo, ovf := satAdd 16 c.su.ovf t.ovf } }

/-- Bytes of a scale or bias element: posit16 or posit32 (R146). -/
def scBytes (p32 : Bool) : Nat := if p32 then 4 else 2

/-- The reads of a DRAIN in cycle `r` (R133), by the load port: column vectors in its start cycle, the row scale with each
row. The gang of wide-shallow form reads a row's scale once: `shared` says that a lower engine of it reads it for all
(DEDUCED, log entry 30). Lines wrap modulo 131,072, as bank rows do (R115). -/
def drainAccs (e : Nat) (op : EpiOp) (shared : Bool) (d r : Nat) : List Acc :=
  let x := op.ent.toNat
  let base := if op.gang then 64 * e else 0
  let vec := fun (what line sz : Nat) =>
    (List.range sz).map fun i =>
      (⟨false, (line + base * sz / 64 + i) % 131072, 5, loadSub e, .read (.epi e what (64 * i / sz))⟩ : Acc)
  let col := if r = d ∧ bit x 111 then vec 1 (bits x 107 91) (scBytes (bit x 110)) else []
  let bia := if r = d ∧ bit x 109 then vec 2 (bits x 73 57) (scBytes (bit x 108)) else []
  let row := if bit x 112 ∧ !shared ∧ r < d + op.rows then
      let o := (r - d) * scBytes (bit x 110)
      [(⟨false, (bits x 90 74 + o / 64) % 131072, 5, loadSub e, .read (.epi e 0 (r - d))⟩ : Acc)] else []
  col ++ bia ++ row

/-- Engine `i` performs a DRAIN that its gang started in cycle `d`. -/
def Core.gangDrain (c : Core) (d i : Nat) : Bool :=
  match (c.me i).epi with
  | some o => o.gang && !o.vexport && o.start == some d
  | none => false

/-- The output row a DRAIN writes in cycle `r`, four cycles after the vat row was read (R135): one access a
line, and the conversion events. -/
def drainWrite (e n : Nat) (op : EpiOp) (d r : Nat) : List Acc × CvtTally :=
  let x := op.ent.toNat
  if r < d + 4 ∨ d + 4 + op.rows ≤ r then ([], CvtTally.zero)
  else
    let i := r - d - 4
    let f := (Fmt.ofCode (bits x 123 120)).getD .p32
    let sz := f.bitsz / 8
    let sw := if bit x 110 then 32 else 16
    let bw := if bit x 108 then 32 else 16
    let vs := Tab.get [] op.vals i
    let outs := ((vs.take n).zipIdx).map fun (v, k) =>
      epilogueElem x v (pdec sw (op.rsv.get 0 i)) (pdec sw (op.csv.get 0 k)) (pdec bw (op.bv.get 0 k))
    let bs := outs.flatMap fun o => leBytes sz o.1
    let a0 := 64 * (bits x 56 40 + i * bits x 39 32) + (if op.gang then 64 * e * sz else 0)
    let accs := ((chunksOf 64 64 bs).zipIdx).map fun (p, j) =>
      (⟨false, (a0 / 64 + j) % 131072, 3, e, .write (wbytes 0 p)⟩ : Acc)
    (accs, outs.foldl (fun t o => t.add o.2) CvtTally.zero)

/-- Rows and value width of the vat an epilogue operation reads. -/
def Engine.epiShape (g : Engine) (v : Nat) : Nat × Nat :=
  let x := g.vat v
  (x.rowsM1 + 1, if x.mode = 0 then qwOf x.fmt else 0)

/-- A DRAIN or EXPORT that may start at `r` is judged against its vat (R84, R137): stale, it is dropped and ends
in that cycle. -/
def Core.startEpi (c : Core) (r e : Nat) : Core :=
  let g := c.me e
  match g.epi with
  | none => c
  | some op =>
    if op.start.isSome ∨ r < op.earliest then c
    else
      let x := g.vat op.vat
      if x.state = .vsealed ∧ x.gen = BitVec.ofNat 4 op.gen then
        let (rows, w) := g.epiShape op.vat
        let g1 := if op.vexport then g else g.setVat op.vat { x with state := .draining }
        c.setMe e { g1 with epi := some { op with start := some r, rows := rows, w := w } }
      else (c.setMe e { g with epi := none }).staleDrop e op.vat

/-- Cycles a row of an EXPORT takes on the write port (R136). -/
def EpiOp.rowCycles (op : EpiOp) : Nat := if op.w = 0 then 1 else op.w

/-- The cycle of the last write of an epilogue operation that started at `d` (R135, R136). -/
def EpiOp.lastWrite (op : EpiOp) (d : Nat) : Nat :=
  if op.vexport then d + op.rowCycles * op.rows + 1 else d + op.rows + 3

/-- What an EXPORT writes in cycle `r`: 1,024 bytes of a row, or the trailer (R98, R136). `row` gives the 64
patterns of a row, zero at the positions of bypassed columns (R132). -/
def exportWrite (e : Nat) (op : EpiOp) (trailer : Nat) (row : Nat → List Nat) (d r : Nat) : List Acc :=
  let x := op.ent.toNat
  let line0 := bits x 123 107
  let rl := if op.w = 0 then 4 else 16 * op.w
  let cy := op.rowCycles
  if r = d + cy * op.rows + 1 then
    [⟨false, (line0 + op.rows * rl) % 131072, 3, e, .write (wbytes 0 (leBytes 32 trailer))⟩]
  else if d < r ∧ r ≤ d + cy * op.rows then
    let i := (r - d - 1) / cy
    let p := (r - d - 1) % cy
    let sz := if op.w = 0 then 4 else 16 * op.w
    let bs := slice ((row i).flatMap (leBytes sz)) (1024 * p) (if op.w = 0 then 256 else 1024)
    ((chunksOf 64 16 bs).zipIdx).map fun (q, j) =>
      ⟨false, (line0 + i * rl + 16 * p + j) % 131072, 3, e, .write (wbytes 0 q)⟩
  else []

/-- The patterns of a row of a vat as EXPORT writes them (R98, R132): the raw quires of an Exact vat, the
compact_result of a Compact one, zero above the columns the engine has; `seg` and `w` are the operation's segment and value
width. -/
def Core.exportRow (c : Core) (e v seg w row : Nat) : List Nat :=
  let g := c.me e
  let x := g.vat v
  let n := c.ncols e
  (List.range 64).map fun k =>
    if n ≤ k then 0
    else if seg ≠ c.segment then
      (if w = 0 then (Config.freeWord (c.free + 64 * row + k)).toNat else Config.freeNat (c.free + 64 * row + k) % 2 ^ (128 * w))
    else if x.mode = 0 then g.slotsAt k (x.rowBase + 4 * qwOf x.fmt * row) (4 * qwOf x.fmt)
    else if x.flags.overlap then (Config.freeWord (c.free + 64 * row + k)).toNat
    else (compactResult (g.level x k row) x.depth (x.rowChunks.get 0 row) (x.depth + 1) 0 none false).1

/-- What reading a row for an EXPORT does to its vat: the Compact tree raises VAT_SAT and VAT_NAR, which the
trailer after the last row then carries (R95, R98). -/
def Core.exportRead (c : Core) (e : Nat) (op : EpiOp) (d r : Nat) : Core :=
  if op.segment = c.segment ∧ d < r ∧ r ≤ d + op.rowCycles * op.rows then (c.rowVals e op.vat ((r - d - 1) / op.rowCycles)).1 else c

/-! ### The fold pipe (R138) -/

/-- Quire width of a FOLDIN's source, rows, and lines between rows. -/
def foldDims (x : Nat) : Nat × Nat × Nat :=
  let w := 2 ^ bits x 96 95
  (w, bits x 106 97 + 1, 16 * w)

/-- The reads of a FOLDIN in cycle `r`: the trailer in its start cycle, then a row every w cycles. -/
def foldAccs (e : Nat) (op : FoldOp) (d r : Nat) : List Acc :=
  let x := op.ent.toNat
  let (w, rows, rl) := foldDims x
  let line0 := bits x 123 107
  if r = d then [⟨false, (line0 + rows * rl) % 131072, 5, foldSub e, .read (.fold e 0 9999)⟩]
  else if d < r ∧ r ≤ d + w * rows then
    let i := (r - d - 1) / w
    let p := (r - d - 1) % w
    (List.range 16).map fun j =>
      ⟨false, (line0 + i * rl + 16 * p + j) % 131072, 5, foldSub e, .read (.fold e i (16 * p + j))⟩
  else []

/-! ### One cycle of an engine -/

/-- A chunk and a fold-in row land in one quire row in one cycle, and both enter the vat (R92). -/
def Engine.pairOk (g : Engine) (segNow : Nat) (ch : Chunk) (f : FoldRow) : Bool :=
  let x := g.vat f.vat
  f.vat == ch.vat && f.row == ch.row && f.due == ch.due &&
  x.accepts f.gen f.issue f.segment segNow && !f.dropped && x.mode == 0 && bits f.trailer 26 25 == 0 &&
  bits f.trailer 24 21 == x.fmt && f.w == qwOf x.fmt &&
  x.accepts ch.gen ch.issue ch.segment segNow && !ch.masked &&
  decide (ch.posit ≤ 8 * qwOf x.fmt) && decide (ch.row ≤ x.rowsM1)

/-- Every chunk and fold-in row due by `r` lands (R92, R113, R138). -/
def Core.landDue (c : Core) (r e : Nat) : Core :=
  let g := c.me e
  let due := g.chunks.filter (·.due ≤ r)
  let dueF := g.foldRows.filter (·.due ≤ r)
  let c1 := c.setMe e { g with
    chunks := g.chunks.filter (r < ·.due)
    foldRows := g.foldRows.filter (r < ·.due) }
  let c2 := due.foldl (fun (c : Core) ch =>
    c.landChunk e ch ((dueF.find? fun f => g.pairOk c.segment ch f).map (·.quires))) c1
  dueF.foldl (fun (c : Core) f =>
    let paired := due.any fun ch => g.pairOk c.segment ch f
    c.landFold e (if paired then { f with quires := [] } else f)) c2

/-- Vats whose SEAL issued 6 cc ago become SEALED (R84), and the RELEASEs that waited for it are judged (R85). -/
def Core.settleVats (c : Core) (r e : Nat) : Core :=
  let g := c.me e
  let rel := g.releases.filter (·.1 ≤ r)
  let c1 := c.setMe e { g with
    vats := g.vats.map fun (p : Nat × Vat) => (p.1, p.2.settle r)
    releases := g.releases.filter (r < ·.1) }
  rel.foldl (fun (c : Core) p => c.vatRelease e p.2.1 p.2.2) c1

/-- The epilogue path after its operation's last write: the vat leaves DRAINING, the pending operation takes the
place (R84, R135, R137). -/
def Core.settleEpi (c : Core) (r e : Nat) : Core :=
  let g := c.me e
  match g.epi with
  | none => c.setMe e { g with epi := g.epiPend, epiPend := none }
  | some op =>
    match op.start with
    | none => c
    | some d =>
      if op.lastWrite d < r then
        let x := g.vat op.vat
        let g1 := if op.vexport ∨ x.state ≠ VatState.draining then g
          else g.setVat op.vat { x with state := if op.keep then .vsealed else .idle }
        c.setMe e { g1 with epi := g1.epiPend, epiPend := none }
      else c

/-- The column pipe is free after the last issue cycle of its operation (R121). -/
def Engine.settleCol (g : Engine) (r : Nat) : Engine :=
  match g.run with
  | some op => if op.lastIssue < r then { g with run := none } else g
  | none => g

/-- Pending operations of all four column pipes start where their pipes are free by cycle `r` (R121). -/
def Core.startCols (c : Core) (r : Nat) : Core := (List.range 4).foldl (fun (c : Core) e => c.startCol r e) c

/-- The fold pipe is free after the last read of its FOLDIN (R138). -/
def Engine.settleFold (g : Engine) (r : Nat) : Engine :=
  match g.fold with
  | some op =>
    match op.start with
    | some d =>
      let (w, rows, _) := foldDims op.ent.toNat
      if d + w * rows < r then { g with fold := g.foldPend, foldPend := none } else g
    | none => g
  | none => { g with fold := g.foldPend, foldPend := none }

/-- A PRELOAD's load that has ended is in the background set (R120). -/
def Engine.settleLoad (g : Engine) (r : Nat) : Engine :=
  match g.loading with
  | some l => if l.begin_ + loadTime l.ent.toNat ≤ r then { g with loading := none } else g
  | none => g

/-- Before the bundles of cycle `r` issue: what was due by then has happened in engine `e`. -/
def Core.engSettle (c : Core) (r e : Nat) : Core :=
  let c1 := ((c.landDue r e).settleVats r e).settleEpi r e
  c1.setMe e ((((c1.me e).settleCol r).settleFold r).settleLoad r)

/-- The column pipe begins its cycle `r`: a pending operation starts, a swap is made, reads are asked for. -/
def Core.colAct (c : Core) (r e : Nat) : Core :=
  if r < (c.me e).colAt then c
  else
    let c1 := (c.startCol r e).swapAct r e
    let g := c1.me e
    let pre := match g.loading with | some l => loadAccs l.ent.toNat e 0 l.begin_ r | none => []
    let own := match g.run with
      | some op =>
        let x := op.ent.toNat
        let ld := op.loads.flatMap fun (b, b0) => loadAccs x e b b0 r
        let mv := match op.kind with
          | .wsmv => if op.t0 ≤ r ∧ r ≤ op.lastIssue then wsAccs op r else []
          | _ => match op.forming r with
            | some f => if f.reads then
                [(⟨true, f.stage, 7, 10 + e, .read (.moving e (if f.first then 0 else f.part) (bits x 123 120))⟩ : Acc)]
              else []
            | none => []
        ld ++ mv
      | none => []
    { c1 with st := { c1.st with acc := c1.st.acc ++ pre ++ own } }

/-- The column pipe ends its cycle `r`: the chunk is formed from what was read. -/
def Core.colFinish (c : Core) (r e : Nat) : Core :=
  let g := c.me e
  if r < g.colAt then c
  else
    let c1 := match g.run with
      | some op =>
        match op.forming r with
        | some f => if op.kind = ColKind.wsmv then (List.range 4).foldl (fun (c : Core) i => c.formWs r i op f) c
                    else c.formChunk r e op f
        | none => c
      | none => c
    c1.setMe e { c1.me e with colAt := r + 1 }

/-- The epilogue path begins its cycle `r`: start and judgement, vat row, reads, and the writes due. -/
def Core.epiAct (c : Core) (r e : Nat) : Core :=
  if r < (c.me e).epiAt then c
  else
    let c1 := c.startEpi r e
    let g := c1.me e
    let c2 := match g.epi with
      | some op =>
        match op.start with
        | some d =>
          if op.vexport then
            let row := fun i => c1.exportRow e op.vat op.segment op.w i
            let trl := if op.segment = c1.segment then (g.vat op.vat).trailer else Config.freeNat c1.free % 2 ^ 64
            let accs := exportWrite e op trl row d r
            let c2 := c1.exportRead e op d r
            { c2 with free := c2.free + 64 * op.rows, st := { c2.st with acc := c2.st.acc ++ accs } }
          else
            let (c2, vs) := if d + op.rows ≤ r then (c1, [])
              else if op.segment = c1.segment then c1.rowVals e op.vat (r - d)
              else ({ c1 with free := c1.free + 64 }, freeRow c1.free (c1.ncols e) op.w)
            let op1 := if r < d + op.rows then { op with vals := op.vals.set (r - d) vs } else op
            let (wr, t) := drainWrite e (c2.ncols e) op1 d r
            let g2 := c2.me e
            let c3 := (c2.setMe e { g2 with epi := some { op1 with vals := op1.vals.filter fun p => r < d + p.1 + 4 } }).cvt t
            let accs := drainAccs e op1 (op1.gang && (List.range e).any (c3.gangDrain d)) d r ++ wr
            { c3 with st := { c3.st with acc := c3.st.acc ++ accs } }
        | none => c1
      | none => c1
    c2.setMe e { c2.me e with epiAt := r + 1 }

/-- The fold pipe begins its cycle `r`. -/
def Core.foldAct (c : Core) (r e : Nat) : Core :=
  let g := c.me e
  if r < g.foldAt then c
  else
    match g.fold with
    | none => c
    | some op =>
      let d := op.start.getD r
      let c1 := c.setMe e { g with fold := some { op with start := some d } }
      { c1 with st := { c1.st with acc := c1.st.acc ++ foldAccs e op d r } }

/-- The fold pipe ends its cycle `r`: a row whose last line was read goes on its way to its landing. -/
def Core.foldFinish (c : Core) (r e : Nat) : Core :=
  let g := c.me e
  if r < g.foldAt then c
  else
    let c1 := match g.fold with
      | none => c
      | some op =>
        match op.start with
        | none => c
        | some d =>
          let (w, rows, _) := foldDims op.ent.toNat
          if d < r ∧ r ≤ d + w * rows ∧ (r - d) % w = 0 then
            let i := (r - d - 1) / w
            let bs := (List.range (16 * w)).flatMap fun j => op.parts.get (fillBytes 64 0) j
            let qs := (List.range (c.ncols e)).map fun k => qdec w (leAt bs (16 * w * k) (16 * w))
            let (c1, drop) := c.judge r e op.vat op.gen op.id op.segment
            let fr : FoldRow := ⟨r + 6, r, op.id, op.vat, op.gen, op.row0 + i, op.segment, w, op.trailer, qs,
              i + 1 == rows, drop⟩
            let g2 := c1.me e
            c1.setMe e { g2 with fold := some { op with parts := [] }, foldRows := g2.foldRows ++ [fr] }
          else c
    c1.setMe e { c1.me e with foldAt := r + 1 }

/-! ### What the engines' reads deliver (R258) -/

/-- A byte string with every poisoned sector replaced by the poison pattern of a format (R258). -/
def poisonBytes (f : Fmt) (bad : List Bool) (bs : Bytes) : Bytes :=
  (List.range bs.length).map fun i =>
    if nth bad (i / 32) false then
      let sz := max 1 (f.bitsz / 8)
      nth (leBytes sz (poisonPat f)) (i % sz) 0
    else nth bs i 0

/-- A read delivers to an engine. -/
def Core.engDeliver (c : Core) (k : Consumer) (bs : Bytes) (bad : List Bool) : Core :=
  match k with
  | .load e base fmt =>
    let g := c.me e
    c.setMe e (g.setBg (g.bg.write base (poisonBytes ((Fmt.ofCode fmt).getD .p8) bad bs)))
  | .moving e part fmt =>
    let g := c.me e
    c.setMe e { g with moving := Tab.set g.moving part (poisonBytes ((Fmt.ofCode fmt).getD .p8) bad bs) }
  | .block fmt =>
    let bs1 := poisonBytes ((Fmt.ofCode fmt).getD .p8) bad bs
    (List.range 4).foldl (fun (c : Core) i =>
      c.setMe i ((c.me i).setBg ((List.range 64).foldl (fun m k => Mem.write m (128 * k) bs1) (c.me i).bg))) c
  | .epi e what idx =>
    let g := c.me e
    match g.epi with
    | none => c
    | some op =>
      let x := op.ent.toNat
      let p32 := if what = 2 then bit x 108 else bit x 110
      let f : Fmt := if p32 then .p32 else .p16
      let ps := poisonBytes f bad bs
      let sz := scBytes p32
      if what = 0 then
        let v := leAt ps (idx * sz % 64) sz
        ((List.range 4).filter fun i => i == e || (op.gang && op.start.any fun d => c.gangDrain d i)).foldl
          (fun (c : Core) i => match (c.me i).epi with
            | some o => c.setMe i { c.me i with epi := some { o with rsv := o.rsv.set idx v } }
            | none => c) c
      else
        let vs := (List.range (64 / sz)).map fun i => (idx + i, leAt ps (i * sz) sz)
        let ins := fun (t : Tab Nat) => vs.foldl (fun t p => Tab.set t p.1 p.2) t
        c.setMe e { g with epi := some (if what = 1 then { op with csv := ins op.csv } else { op with bv := ins op.bv }) }
  | .fold e _ part =>
    let g := c.me e
    match g.fold with
    | none => c
    | some op =>
      if part = 9999 then
        let w := if nth bad 0 false then 0 else leAt bs 0 8
        c.setMe e { g with fold := some { op with trailer := w } }
      else
        let w := (foldDims op.ent.toNat).1
        let f : Fmt := if w = 1 then .q128 else if w = 2 then .q256 else .q512
        -- a Q512 with either sector poisoned is the quire NaR
        let bad' := if w = 4 ∧ bad.any id then bad.map fun _ => true else bad
        c.setMe e { g with fold := some { op with parts := op.parts.set part (poisonBytes f bad' bs) } }
  | _ => c

end Sys2Proof.Machine
end

