-- ==== Sys2Proof/Machine/Vector.lean ====
section
/-! DEFINITION. The vector engine: slots and refusals, lane operations, quires, records, exp2 and log2, function
tables, micro-programs and the soft maximum (chapter 05). -/

namespace Sys2Proof.Machine

/-- The fields of a vector slot below its opcode (R157). -/
structure VeSlot where
  w : Nat
  vd : Nat
  va : Nat
  vb : Nat
  vc : Nat
  md : Nat
  deriving DecidableEq, Repr

/-- The fields of the 26 bits below a vector opcode. -/
def veSlot (a : Nat) : VeSlot := ⟨bits a 25 24, bits a 23 19, bits a 18 14, bits a 13 9, bits a 8 4, bits a 3 0⟩

/-- Bits of an element of width code W (R154). -/
def wBits (w : Nat) : Nat := 8 * 2 ^ w
/-- Elements of a register at width code W (R154). -/
def wCount (w : Nat) : Nat := 256 / 2 ^ w

/-- The element patterns of a register (R154). -/
def elems (w : Nat) (bs : Bytes) : List Nat :=
  (List.range (wCount w)).map fun i => leAt bs (i * 2 ^ w) (2 ^ w)
/-- Element patterns as bytes. -/
def packElems (w : Nat) (es : List Nat) : Bytes := es.flatMap (leBytes (2 ^ w))

/-- A zero register. -/
def zeroReg : Bytes := fillBytes 256 0
/-- A vector register. -/
def VeSt.reg (v : VeSt) (i : Nat) : Bytes := Tab.get zeroReg v.regs i
/-- A vector quire. -/
def VeSt.vq (v : VeSt) (i : Nat) : Quire := Tab.get Quire.zero v.vqs i
/-- A soft-maximum context. -/
def VeSt.ctx (v : VeSt) (i : Nat) : SmCtx := Tab.get SmCtx.reset v.sm i

/-! ### Refusals (R159, R162, R182) -/

/-- A refused vector slot (R182). -/
def Core.veRefuse (c : Core) (code op : Nat) : Core :=
  { c with
    ve := { c.ve with fault := ⟨satAdd 16 c.ve.fault.count 1, code, op, c.seq.step.toNat % 2 ^ 32⟩ }
    seq := { c.seq with faulted := true } }.event .vector

/-- Whether every field the opcode does not use is zero, and the opcode exists (R158, R159). -/
def veFieldsOk (op : Nat) (s : VeSlot) : Bool :=
  let z := fun (d a b c : Bool) (m : Nat) =>
    (d || s.vd == 0) && (a || s.va == 0) && (b || s.vb == 0) && (c || s.vc == 0) && s.md &&& (15 - m) == 0
  match op with
  | 0x00 => z false false false false 0 && s.w == 0
  | 0x01 => z true true false false 1
  | 0x02 => z true true false false 1
  | 0x03 => z true true false false 0
  | 0x04 => z true true false false 0
  | 0x05 => z true true false false 15
  | 0x08 => z true true true false 1
  | 0x09 => z true true true false 0
  | 0x0A => z true true true true 3
  | 0x0B => z true true true false 0
  | 0x0C => z true true true false 0
  | 0x0D => z true true false false 1
  | 0x0E => z true true true false 3
  | 0x0F => z true true true true 0
  | 0x10 => z true false false false 0
  | 0x11 => z true true true false 0
  | 0x12 => z true true false false 0
  | 0x13 => z true true false false 0
  | 0x14 => z true true false false 0
  | 0x15 => z true true true true 1
  | 0x16 => z true true true true 1
  | 0x18 => z true true false false 0
  | 0x19 => z true true false false 0
  | 0x1A => z true true false false 7
  | 0x1B => z true true true true 1
  | 0x20 => z true true false false 0
  | 0x21 => z true true false true 0
  | 0x22 => z true true false false 0
  | 0x23 => z true true false false 1
  | 0x24 => z true true false true 0
  | 0x25 => z true true false false 0
  | _ => false

/-- The width or part of a VCVT is not allowed (R164). -/
def cvtBad (w md : Nat) : Bool :=
  let t := md % 4
  let p := md / 4
  t == 3 || (if w = t then p != 0 else decide (2 ^ (max w t - min w t) ≤ p))

/-- A width that the slot's own fields do not allow (R154, R159, R164, R175, R176). -/
def Core.veFmtBad (c : Core) (op : Nat) (s : VeSlot) : Bool :=
  s.w == 3 ||
  (s.w == 0 && [0x18, 0x19, 0x1A, 0x1B, 0x20, 0x21, 0x22, 0x23, 0x24, 0x25].contains op) ||
  (op == 0x05 && cvtBad s.w s.md) ||
  ((op == 0x18 || op == 0x19) && c.cfg.compat && s.w == 2) ||
  (op == 0x1A && bit s.md 2 && s.w != 1) ||
  (op == 0x20 && (c.cfg.consts.get 0 s.va).toNat == narPat 32)

/-- Whether an opcode goes to the special pipe (R158). -/
def veSpecial (op : Nat) : Bool := [0x18, 0x19, 0x1A, 0x21, 0x22, 0x23, 0x24].contains op

/-- VE_BUSY at cycle `r` (R162). -/
def Core.veBusy (c : Core) (r op : Nat) : Bool :=
  decide (r < c.ve.microUntil) || ((veSpecial op || op == 0x1B) && decide (r < c.ve.specialUntil))

/-- The function table a slot names. -/
def Core.ftab (c : Core) (t : Nat) : FTable := c.cfg.tabs.get FTable.reset t
/-- The micro-program a VUCALL names. -/
def Core.uprog (c : Core) (s : VeSlot) : UProg := c.cfg.uprogs.get UProg.reset (s.vc + 32 * (s.md % 2))

/-- The context a soft-maximum slot names. -/
def smNo (op : Nat) (s : VeSlot) : Nat := if op = 0x21 ∨ op = 0x24 then s.vc % 8 else s.vd % 8

/-- The context's state does not allow the opcode (R177). -/
def smStateBad (op : Nat) (x : SmCtx) : Bool :=
  match op with
  | 0x20 => x.st == 1
  | 0x21 => x.st != 1 || x.tiles == 256
  | 0x22 | 0x23 => x.st != 1
  | 0x24 => x.st != 2 || x.norms == x.tiles
  | _ => false

/-- The refusal code of a vector slot, 0 when accepted: the first condition in the order of R182. -/
def Core.veCheck (c : Core) (r op : Nat) (s : VeSlot) : Nat :=
  if !veFieldsOk op s then 1
  else if op = 0 then 0
  else if c.veFmtBad op s then 2
  else if c.veBusy r op then 3
  else if op == 0x1A && !bit s.md 2 && !(c.ftab (s.md % 4)).loaded then 4
  else if op == 0x1B && !(c.uprog s).loaded then 5
  else if smStateBad op (c.ve.ctx (smNo op s)) then 6
  else if (op == 0x21 || op == 0x24) && (c.ve.ctx (smNo op s)).w != s.w then 2
  else if op == 0x1A && !bit s.md 2 && !(c.ftab (s.md % 4)).linear && (c.ftab (s.md % 4)).inW != s.w then 2
  else 0

/-! ### Lane operations (R158, R163, R164) -/

/-- The posit of width `n` at or above (`want` true) or below another in posit order, NaR if either is
(R158). -/
def laneMax (want : Bool) (n a b : Nat) : Nat :=
  if a = narPat n ∨ b = narPat n then narPat n
  else if want = plt n a b then b else a

/-- VABS (R158). -/
def laneAbs (neg : Bool) (n a : Nat) : Nat :=
  if neg then (if a = narPat n then a else pneg n a)
  else if a ≠ narPat n ∧ a.testBit (n - 1) then pneg n a else a

/-- VCMP (R158). -/
def laneCmp (md n a b : Nat) : Nat :=
  if a = narPat n ∨ b = narPat n then narPat n
  else
    let t := match md % 4 with
      | 0 => plt n b a
      | 1 => !plt n a b
      | 2 => a == b
      | _ => a != b
    if t then onePat n else 0

/-- VSEL (R158). -/
def laneSel (n a b c : Nat) : Nat := if c = narPat n then narPat n else if c ≠ 0 then a else b

/-- One lane of a lane operation of three sources, by opcode (R158, R163). -/
def laneOp (op md n a b c : Nat) : Nat :=
  match op with
  | 0x08 => penc n (if bit md 0 then (pdec n a).sub (pdec n b) else (pdec n a).add (pdec n b))
  | 0x09 => penc n ((pdec n a).mul (pdec n b))
  | 0x0A =>
    let p := (pdec n a).mul (pdec n b)
    penc n ((if bit md 0 then p.neg else p).add (if bit md 1 then (pdec n c).neg else pdec n c))
  | 0x0B => laneMax true n a b
  | 0x0C => laneMax false n a b
  | 0x0D => laneAbs (bit md 0) n a
  | 0x0E => laneCmp md n a b
  | 0x0F => laneSel n a b c
  | _ => a

/-- A lane operation over whole registers. -/
def laneReg (op md w : Nat) (a b c : Bytes) : Bytes :=
  packElems w ((List.range (wCount w)).map fun i =>
    laneOp op md (wBits w) (leAt a (i * 2 ^ w) (2 ^ w)) (leAt b (i * 2 ^ w) (2 ^ w)) (leAt c (i * 2 ^ w) (2 ^ w)))

/-- VCVT (R164): the bytes written, where in VD they go, and the conversion events. -/
def cvtReg (w md : Nat) (a : Bytes) : Nat × Bytes × CvtTally :=
  let t := md % 4
  let p := md / 4
  let n := wBits w
  let m := wBits t
  let one := fun x => if w = t then (x, CvtTally.zero)
    else (penc m (pdec n x), ({ CvtTally.zero with satHi := b2n (aboveMax m (pdec n x)), satLo := b2n (belowMin m (pdec n x)) } : CvtTally))
  if w ≤ t then
    let e := wCount t
    let rs := ((List.range e).map fun i => leAt a ((p * e + i) * 2 ^ w) (2 ^ w)).map one
    (0, packElems t (rs.map (·.1)), CvtTally.zero)
  else
    let rs := (elems w a).map one
    (p * wCount w * 2 ^ t, packElems t (rs.map (·.1)), rs.foldl (fun x y => x.add y.2) CvtTally.zero)

/-- VCONST (R158). -/
def constReg (w k : Nat) : Bytes := packElems w (List.replicate (wCount w) (k % 2 ^ wBits w))

/-! ### exp2, log2 and function tables (R168 to R170, R175, R176) -/

/-- `c0 + c1 t + c2 t²`, exactly (R170). -/
def quadVal (c0 c1 c2 : Nat) (t : Dy) : Val :=
  ((v32 c0).add ((v32 c1).mul (.num t))).add ((v32 c2).mul (.num (t.mul t)))

/-- PATTERN mode's segment and offset for a pattern of `n` bits (R169). -/
def patternIdx (n x : Nat) : Nat × Dy := (x >>> (n - 8), ⟨(x % 2 ^ (n - 8) : Nat), -((n : Int) - 8)⟩)

/-- LINEAR mode's segment and offset (R169). -/
def linearIdx (x x0 invW : Dy) : Nat × Dy :=
  let s := (x.sub x0).mul invW
  if s.m < 0 then (0, Dy.zero)
  else if (Dy.ofInt 256).le s then (255, Dy.ofInt 1)
  else let i := s.floor; (i.toNat, s.sub (Dy.ofInt i))

/-- One element through a table whose segments are `seg` (R170). -/
def tabElem (n : Nat) (linear : Bool) (x0 invW : Nat) (seg : Nat → Nat × Nat × Nat) (x : Nat) : Nat :=
  match pdec n x with
  | .nar => narPat n
  | .num v =>
    if linear then
      match v32 x0, v32 invW with
      | .num a, .num b =>
        let (i, t) := linearIdx v a b
        let (c0, c1, c2) := seg i
        penc n (quadVal c0 c1 c2 t)
      | _, _ => narPat n
    else
      let (i, t) := patternIdx n x
      let (c0, c1, c2) := seg i
      penc n (quadVal c0 c1 c2 t)

/-- Segment `i` of ROM table `f` (R176, R188). -/
def romSeg (f i : Nat) : Nat × Nat × Nat :=
  ((Config.romCoef f i 0).toNat, (Config.romCoef f i 1).toNat, (Config.romCoef f i 2).toNat)

/-- The flush threshold of an output width (R61). -/
def VeSt.flush (v : VeSt) (w : Nat) : Int := if w = 1 then v.flush16 else v.flush32

/-- VEXP2 on one element (R61, R168, R175). -/
def Core.exp2Elem (c : Core) (w x : Nat) : Nat :=
  if c.cfg.compat ∧ w = 1 then tabElem 16 false 0 0 (romSeg 0) x
  else exp2Pat (wBits w) (c.ve.flush w) (pdec (wBits w) x)

/-- VLOG2 on one element (R168, R175). -/
def Core.log2Elem (c : Core) (w x : Nat) : Nat :=
  if c.cfg.compat ∧ w = 1 then
    match pdec 16 x with
    | .nar => narPat 16
    | .num v => if v.m ≤ 0 then narPat 16 else tabElem 16 false 0 0 (romSeg 1) x
  else log2Pat (wBits w) (pdec (wBits w) x)

/-- VTAB on one element (R169, R170, R176). -/
def Core.tabElemOf (c : Core) (w md x : Nat) : Nat :=
  if bit md 2 then tabElem 16 false 0 0 (romSeg (md % 4)) x
  else
    let t := c.ftab (md % 4)
    tabElem (wBits w) t.linear t.x0 t.invW (fun i => t.seg.get (0, 0, 0) i) x

/-- A special function over a register, by opcode. -/
def Core.specialReg (c : Core) (op md w : Nat) (a : Bytes) : Bytes :=
  packElems w ((elems w a).map fun x =>
    match op with
    | 0x18 => c.exp2Elem w x
    | 0x19 => c.log2Elem w x
    | _ => c.tabElemOf w md x)

/-! ### Micro-programs (R171 to R173) -/

/-- The opcode of a micro-step. -/
def ustepOp (u : Nat) : Nat := bits u 31 26
/-- A micro-step that the special pipe performs takes 10 cc, any other 4 cc (R173). -/
def ustepCycles (u : Nat) : Nat := if veSpecial (ustepOp u) then 10 else 4
/-- D(u) (R173). -/
def UProg.dur (p : UProg) : Nat := (p.steps.map fun s => ustepCycles s.toNat).sum

/-- A VTAB micro-step whose table gives it no stated result: not loaded, or of another width (R169, R170, R172). -/
def Core.ustepOpen (c : Core) (op w md : Nat) : Bool :=
  op == 0x1A && (if bit md 2 then w != 1 else !(c.ftab (md % 4)).loaded ||
    (!(c.ftab (md % 4)).linear && (c.ftab (md % 4)).inW != w))

/-- One micro-step on the registers U0 to U15 (R172), with the conversion events of a VCVT (R164); a step whose result the
spec does not state gives free elements numbered from `free`. -/
def Core.ustep (c : Core) (u free : Nat) (us : Tab Bytes) : Tab Bytes × CvtTally :=
  let op := ustepOp u
  let w := bits u 25 24
  let md := bits u 7 4
  let reg := fun i => Tab.get zeroReg us i
  let a := reg (bits u 19 16)
  let d := bits u 23 20
  let full := fun (bs : Bytes) => (Tab.set us d bs, CvtTally.zero)
  match op with
  | 0x03 => full (constReg w (c.cfg.consts.get 0 (bits u 15 8 % 32)).toNat)
  | 0x04 => full a
  | 0x05 =>
    let (off, bs, t) := cvtReg w md a
    let old := reg d
    (Tab.set us d (old.take off ++ bs ++ old.drop (off + bs.length)), t)
  | 0x18 | 0x19 | 0x1A =>
    if c.ustepOpen op w md then
      full (packElems w ((List.range (wCount w)).map fun i => (Config.freeWord (free + i)).toNat % 2 ^ wBits w))
    else full (c.specialReg op md w a)
  | _ => full (laneReg op md w a (reg (bits u 15 12)) (reg (bits u 11 8)))

/-- The whole of a micro-program (R171): U0 at its end, and its conversion events. -/
def Core.urun (c : Core) : List (BitVec 32) → Nat → Tab Bytes → CvtTally → Bytes × CvtTally
  | [], _, us, n => (Tab.get zeroReg us 0, n)
  | s :: t, free, us, n => Core.urun c t (free + 256) (c.ustep s.toNat free us).1 (n.add (c.ustep s.toNat free us).2)

/-! ### Soft maximum (R177 to R179) -/

/-- The larger of two posit32 patterns with NaR as the winner (R178). -/
def maxNar (a b : Nat) : Nat :=
  if a = narPat 32 ∨ b = narPat 32 then narPat 32 else if plt 32 a b then b else a

/-- `exp2_p32(round_p32((a − b) × l))` with the posit32 flush threshold (R178). -/
def smExp (t32 : Int) (a b l : Nat) : Nat :=
  exp2Pat 32 t32 (v32 (r32 (((v32 a).sub (v32 b)).mul (v32 l))))

/-- round_p32 of a Q512. -/
def q32 (q : Quire) : Nat := r32 (qval 4 q)

/-- The context takes a new maximum `mt` if it must, correcting its sum (R178). -/
def SmCtx.raise (x : SmCtx) (t32 : Int) (mt : Nat) : SmCtx :=
  match x.m with
  | none => { x with m := some mt }
  | some m =>
    if mt = narPat 32 ∨ (m ≠ narPat 32 ∧ plt 32 m mt) then
      let f := smExp t32 m mt x.l
      { x with m := some mt, q := qof 4 ((v32 (q32 x.q)).mul (v32 f)) }
    else x

/-- `sm_tile` of R178: the context after it and the partial outputs, for elements of width code w. -/
def SmCtx.tile (x : SmCtx) (t32 tw : Int) (w : Nat) (es : List Nat) : SmCtx × List Nat :=
  let n := wBits w
  let wide := es.map fun e => penc 32 (pdec n e)
  let mt := match wide with
    | [] => 0
    | a :: t => t.foldl maxNar a
  let x1 := x.raise t32 mt
  let m := x1.m.getD 0
  let p := es.map fun e => exp2Pat n tw (pdec n (penc n (((pdec n e).sub (v32 m)).mul (v32 x.l))))
  let s := p.foldl (fun a e => a.add (pdec n e)) Val.zero
  ({ x1 with log := x1.log ++ [m], tiles := x1.tiles + 1, q := (qadd 4 x1.q (qof 4 s)).1 }, p)

/-- `sm_merge` of R178, R179. -/
def SmCtx.merge (x : SmCtx) (t32 : Int) (mo so tiles : Nat) : SmCtx :=
  if tiles = 0 then x
  else
    let x1 := { x with merged := x.merged + tiles }
    match x.m with
    | none => { x1 with m := some mo, q := qof 4 (v32 so) }
    | some m =>
      let mn := maxNar m mo
      let fs := smExp t32 m mn x.l
      let fo := smExp t32 mo mn x.l
      { x1 with m := some mn,
                q := qof 4 (((v32 (q32 x.q)).mul (v32 fs)).add ((v32 so).mul (v32 fo))) }

/-- `sm_close` of R178, R179. -/
def SmCtx.close (x : SmCtx) (rec_ : Option (Nat × Nat)) : SmCtx :=
  let (m, s) := match rec_ with
    | some p => p
    | none => (x.m.getD (narPat 32), q32 x.q)
  { x with st := 2, mFin := m, sFin := s, r := recip32 s }

/-- `sm_norm` of R178. -/
def SmCtx.norm (x : SmCtx) (t32 : Int) (w : Nat) (es : List Nat) : SmCtx × List Nat :=
  let n := wBits w
  let g := smExp t32 (nth x.log x.norms 0) x.mFin x.l
  ({ x with norms := x.norms + 1 }, es.map fun e => penc n (((pdec n e).mul (v32 g)).mul (v32 x.r)))

/-- The state record (R179), a register. -/
def SmCtx.record (x : SmCtx) : Bytes :=
  leBytes 4 (x.m.getD 0) ++ leBytes 4 (q32 x.q) ++ leBytes 4 (x.tiles + x.merged) ++ fillBytes 244 0

/-! ### Issue (R160 to R162) -/

/-- A result goes on its way. -/
def Core.vePut (c : Core) (due : Nat) (res : VeRes) : Core :=
  { c with ve := { c.ve with flight := c.ve.flight ++ [⟨due, res⟩] } }

/-- The special pipe is occupied for four cycles from `r` (R160). -/
def Core.veSpecialTake (c : Core) (r : Nat) : Core := { c with ve := { c.ve with specialUntil := r + 4 } }

/-- CUR of a pointer. -/
def Core.ptrCur (c : Core) (i : Nat) : Nat := c.ve.cur.get 0 i

/-- A post-increment of a pointer (R167). -/
def Core.ptrInc (c : Core) (i : Nat) : Core :=
  let st := sgn 17 (bits (c.cfg.ptrs.get 0 i).toNat 33 17)
  { c with ve := { c.ve with cur := c.ve.cur.set i (tc 17 ((c.ptrCur i : Int) + st)) } }

/-- VLD (R158, R160, R167): four lines asked for in phase A of `r`, written at r + 3. -/
def Core.veLd (c : Core) (r : Nat) (s : VeSlot) : Core :=
  let p := s.va % 16
  let cur := c.ptrCur p
  let accs := (List.range 4).map fun i =>
    (⟨false, (cur + i) % 131072, 6, 0, .read (.vld s.vd s.w (64 * i) (r + 3))⟩ : Acc)
  let c1 := { c with st := { c.st with acc := c.st.acc ++ accs } }
  if bit s.md 0 then c1.ptrInc p else c1

/-- VST (R158, R160, R167): VA read now, the tile store written in phase A of r + 2. -/
def Core.veStore (c : Core) (r : Nat) (s : VeSlot) : Core :=
  let p := s.vd % 16
  let c1 := c.vePut (r + 2) (.store (c.ptrCur p) (c.ve.reg s.va))
  if bit s.md 0 then c1.ptrInc p else c1

/-- A lane operation (R158, R160). -/
def Core.veLane (c : Core) (r op : Nat) (s : VeSlot) : Core :=
  c.vePut (r + 4) (.reg s.vd (laneReg op s.md s.w (c.ve.reg s.va) (c.ve.reg s.vb) (c.ve.reg s.vc)))

/-- VRMAX, VRMIN (R166). -/
def Core.veRec (c : Core) (r : Nat) (want : Bool) (s : VeSlot) : Core :=
  let n := wBits s.w
  let b := leAt (c.ve.reg s.vb) 0 4
  let recs := ((elems s.w (c.ve.reg s.va)).zipIdx).map fun (e, i) =>
    let ix := (b + i) % 2 ^ 32
    if ix = 0xFFFFFFFF then Rec.empty else (⟨ix, e⟩ : Rec)
  let r0 := recs.foldl (combine n want) Rec.empty
  let vc := c.ve.reg s.vc
  let r1 := if bit s.md 0 then combine n want r0 (Rec.dec n (leAt vc 0 8)) else r0
  c.vePut (r + 6) (.reg s.vd (leBytes 4 r1.val ++ leBytes 4 r1.idx ++ fillBytes 248 0))

/-- VEXP2, VLOG2, VTAB (R160, R168, R170). -/
def Core.veFunc (c : Core) (r op : Nat) (s : VeSlot) : Core :=
  (c.vePut (r + 10) (.reg s.vd (c.specialReg op s.md s.w (c.ve.reg s.va)))).veSpecialTake r

/-- VUCALL (R171, R173): the whole engine for D(u) cycles; VD written at r + D(u). The saturations of its VCVT steps count
at its issue, as those of a VCVT slot do (R164; DESIGN CHOICE, log entry 35: R77 gives no cycle). -/
def Core.veUcall (c : Core) (r : Nat) (s : VeSlot) : Core :=
  let p := c.uprog s
  let (u0, n) := c.urun p.steps c.free [(0, c.ve.reg s.va), (1, c.ve.reg s.vb)] CvtTally.zero
  let c1 := { c with free := c.free + 256 * p.steps.length }.vePut (r + p.dur) (.reg s.vd u0)
  { c1 with ve := { c1.ve with microUntil := r + p.dur } }.cvt n

/-- The core with a soft-maximum context replaced. -/
def Core.setCtx (c : Core) (i : Nat) (x : SmCtx) : Core := { c with ve := { c.ve with sm := c.ve.sm.set i x } }

/-- SMOPEN (R178). -/
def Core.smOpen (c : Core) (s : VeSlot) : Core :=
  c.setCtx (s.vd % 8) { SmCtx.reset with st := 1, w := s.w, l := (c.cfg.consts.get 0 s.va).toNat }

/-- SMTILE (R160, R178). -/
def Core.smTile (c : Core) (r : Nat) (s : VeSlot) : Core :=
  let (x, p) := (c.ve.ctx (s.vc % 8)).tile c.ve.flush32 (c.ve.flush s.w) s.w (elems s.w (c.ve.reg s.va))
  ((c.setCtx (s.vc % 8) x).vePut (r + 14) (.reg s.vd (packElems s.w p))).veSpecialTake r

/-- SMMERGE (R178, R179). -/
def Core.smMerge (c : Core) (r : Nat) (s : VeSlot) : Core :=
  let v := c.ve.reg s.va
  (c.setCtx (s.vd % 8) ((c.ve.ctx (s.vd % 8)).merge c.ve.flush32 (leAt v 0 4) (leAt v 4 4) (leAt v 8 4))).veSpecialTake r

/-- SMCLOSE (R178, R179). -/
def Core.smClose (c : Core) (r : Nat) (s : VeSlot) : Core :=
  let v := c.ve.reg s.va
  (c.setCtx (s.vd % 8) ((c.ve.ctx (s.vd % 8)).close
    (if bit s.md 0 then some (leAt v 0 4, leAt v 4 4) else none))).veSpecialTake r

/-- SMNORM (R160, R178). -/
def Core.smNorm (c : Core) (r : Nat) (s : VeSlot) : Core :=
  let (x, p) := (c.ve.ctx (s.vc % 8)).norm c.ve.flush32 s.w (elems s.w (c.ve.reg s.va))
  ((c.setCtx (s.vc % 8) x).vePut (r + 10) (.reg s.vd (packElems s.w p))).veSpecialTake r

/-- SMSTATE (R160, R179). -/
def Core.smState (c : Core) (r : Nat) (s : VeSlot) : Core :=
  c.vePut (r + 4) (.reg s.vd (c.ve.ctx (s.va % 8)).record)

/-- One vector slot: refused by the first check that fails, otherwise performed. -/
def Core.veIssue (c : Core) (r op : Nat) (s : VeSlot) (act : Core → Core) : Core :=
  let code := c.veCheck r op s
  if code ≠ 0 then c.veRefuse code op else act c

/-! ### Results (R160, R161, R165) -/

/-- An addition to a vector quire, its sticky flags with it (R165). -/
def VeSt.addQuire (v : VeSt) (i : Nat) (q : Quire) : VeSt :=
  let (r, sat) := qadd 4 (v.vq i) q
  { v with vqs := v.vqs.set i r,
           vqSat := if sat then v.vqSat ||| (1#8 <<< i) else v.vqSat,
           vqNar := if r.isNar then v.vqNar ||| (1#8 <<< i) else v.vqNar }

/-- A vector result reaches its register or quire. -/
def VeSt.apply (v : VeSt) (res : VeRes) : VeSt :=
  match res with
  | .reg d bs => { v with regs := v.regs.set d bs }
  | .part d off bs =>
    let old := v.reg d
    { v with regs := v.regs.set d (old.take off ++ bs ++ old.drop (off + bs.length)) }
  | .quire i clear terms =>
    if clear then
      { v with vqs := v.vqs.set i Quire.zero, vqSat := v.vqSat &&& ~~~ (1#8 <<< i),
               vqNar := v.vqNar &&& ~~~ (1#8 <<< i) }
    else v.addQuire i (qof 4 (terms.foldl Val.add Val.zero))
  | .qfold i q => v.addQuire i q
  | .store _ _ => v

/-- Whether a result in flight is a store, which takes a bank cycle instead. -/
def VeRes.isStore : VeRes → Bool
  | .store _ _ => true
  | _ => false

/-- Every register or quire result due by `r` is written, in issue order (R160, R161). -/
def VeSt.settle (v : VeSt) (r : Nat) : VeSt :=
  let due := v.flight.filter fun f => decide (f.due ≤ r) && !f.res.isStore
  due.foldl (fun v f => v.apply f.res) { v with flight := v.flight.filter fun f => !(decide (f.due ≤ r) && !f.res.isStore) }

/-- The writes of a VST due by `r` are asked for (R160). -/
def Core.veStores (c : Core) (r : Nat) : Core :=
  let due := c.ve.flight.filter fun f => decide (f.due ≤ r) && f.res.isStore
  let accs := due.flatMap fun f => match f.res with
    | .store line bs => ((chunksOf 64 4 bs).zipIdx).map fun (q, j) =>
        (⟨false, (line + j) % 131072, 4, 0, .write (wbytes 0 q)⟩ : Acc)
    | _ => []
  { c with ve := { c.ve with flight := c.ve.flight.filter fun f => !(decide (f.due ≤ r) && f.res.isStore) },
           st := { c.st with acc := c.st.acc ++ accs } }

/-- A line that a VLD read is on its way to its register; a poisoned sector gives the NaR pattern of the slot's
width (R258). -/
def Core.veDeliver (c : Core) (vd w off due : Nat) (bs : Bytes) (bad : List Bool) : Core :=
  let f : Fmt := if w = 0 then .p8 else if w = 1 then .p16 else .p32
  c.vePut due (.part vd off (poisonBytes f bad bs))

/-- A write of COR_VE_FLUSH (R184): each field queues for the next seam; a value outside −255 to 0 is ignored
for its field. -/
def VeSt.writeFlush (v : VeSt) (x : Nat) : VeSt :=
  let a := sgn 9 (bits x 24 16)
  let b := sgn 9 (bits x 8 0)
  { v with pend16 := if -255 ≤ a ∧ a ≤ 0 then some a else v.pend16,
           pend32 := if -255 ≤ b ∧ b ≤ 0 then some b else v.pend32 }

/-- Queued thresholds take effect and the pointers without HOLD reload, at a seam (R167, R184). -/
def Core.veSeam (c : Core) : Core :=
  let v := c.ve
  let cur := (List.range 16).foldl (fun (t : Tab Nat) i =>
    let p := (c.cfg.ptrs.get 0 i).toNat
    if bit p 51 then t else t.set i (bits p 50 34)) v.cur
  { c with ve := { v with flush16 := v.pend16.getD v.flush16, flush32 := v.pend32.getD v.flush32,
                          pend16 := none, pend32 := none, cur := cur } }

end Sys2Proof.Machine
end

