-- ==== Sys2Proof/Machine/Desc.lean ====
section
/-! DEFINITION. Tensor descriptors: layout, validation, windows, element addresses, the separator's index
exchange (chapter 07). -/

namespace Sys2Proof.Machine

/-- Word `w` of a descriptor (R221). -/
def descWord (d : BitVec 1024) (w : Nat) : Nat := bits d.toNat (64 * w + 63) (64 * w)

/-- The decoded fields of a descriptor (R221). -/
def Desc.of (d : BitVec 1024) : Desc :=
  let h := descWord d 0
  { typ := bits h 63 60, fmt := bits h 59 56, ndim := bits h 55 53, space := bits h 52 51,
    writable := bit h 50, peer := bits h 49 42, arena := bits h 41 38,
    base := bits (descWord d 1) 39 0, fill := descWord d 2,
    dims := (List.range 6).map fun i =>
      (bits (descWord d (3 + i)) 63 32, sgn 32 (bits (descWord d (3 + i)) 31 0)),
    shards := (List.range 6).map fun i => descWord d (9 + i),
    label := bits (descWord d 15) 15 0 }

/-- Bits of an element of a format code, 8 for a reserved code (R222). -/
def codeBits (f : Nat) : Nat := match Fmt.ofCode f with | some x => x.bitsz | none => 8

/-- `reserved_nonzero` of R225. -/
def descReserved (d : BitVec 1024) : Bool :=
  let x := Desc.of d
  let nd := decide (1 ≤ x.ndim) && decide (x.ndim ≤ 6)
  bits (descWord d 0) 37 0 != 0 || bits (descWord d 1) 63 40 != 0 || bits (descWord d 15) 63 16 != 0 ||
  (List.range 6).any (fun i => bits (descWord d (9 + i)) 5 0 != 0) ||
  (x.space != 2 && x.peer != 0) || (x.space != 0 && x.arena != 0) ||
  (x.typ == 1 && (List.range 6).any fun i => descWord d (9 + i) != 0) ||
  (nd && (List.range 6).any fun i => decide (x.ndim ≤ i) && (descWord d (3 + i) != 0 || descWord d (9 + i) != 0))

/-- `shard_ok` of R225, R239 along one dimension. -/
def shardDimOk (w size : Nat) : Bool :=
  let g := bits w 63 32
  let p := bits w 29 18 + 1
  let k := bits w 17 6
  match bits w 31 30 with
  | 0 => size == g && p == 1 && k == 0
  | 1 => let b := ceilDiv g p
         decide (k < p) && decide (p ≤ g) && decide (k * b < g) && size == min b (g - k * b)
  | 2 => decide (k < p) && decide (p ≤ g) && decide (k < g) && size == ceilDiv (g - k) p
  | _ => false

/-- Dimensions with their absolute strides, in ascending order (an insertion sort). -/
def sortDims : List (Nat × Nat) → List (Nat × Nat)
  | [] => []
  | x :: t => ins x (sortDims t)
where
  /-- One dimension put in its place. -/
  ins (x : Nat × Nat) : List (Nat × Nat) → List (Nat × Nat)
    | [] => [x]
    | y :: t => if x.1 < y.1 ∨ (x.1 = y.1 ∧ x.2 ≤ y.2) then x :: y :: t else y :: ins x t

/-- The overlap check of R225 on sorted dimensions: some stride is below the reach of those before it. -/
def dimsOverlap : Nat → List (Nat × Nat) → Bool
  | _, [] => false
  | reach, (s, n) :: t => decide (s < reach) || dimsOverlap (s * n) t

/-- Formats a space accepts (R224). -/
def fmtInSpace (space fmt : Nat) : Bool := if space = 3 then decide (fmt ≤ 4) else decide (fmt ≤ 10)

/-- `validate` of R225: the reason code of R227. `enabled` is the number of enabled cores; `arena` gives the
device range of an arena that the image in force defines. -/
def validate (enabled : Nat) (arena : Nat → Option (Nat × Nat)) (d : BitVec 1024) : Nat :=
  let x := Desc.of d
  let used := x.dims.take x.ndim
  let b := codeBits x.fmt
  let offs := used.map fun (n, s) => s * ((n : Int) - 1)
  let lo : Int := (x.base : Int) + (offs.map (min 0)).sum * (b : Int) / 8
  let hiBits : Int := ((offs.map (max 0)).sum + 1) * (b : Int)
  let hi : Int := (x.base : Int) + -((-hiBits) / 8)
  let range : Nat × Nat := match x.space with
    | 0 => (arena x.arena).getD (0, 0)
    | 3 => (0, 524288)
    | _ => (0, 8388608)
  let dims := sortDims ((used.filter fun p => decide (1 < p.1)).map fun (n, s) => (s.natAbs, n))
  if descReserved d then 1
  else if x.typ ≠ 1 ∧ x.typ ≠ 2 then 2
  else if !fmtInSpace x.space x.fmt then 3
  else if x.ndim = 0 ∨ 6 < x.ndim then 4
  else if used.any (fun p => p.1 == 0) then 5
  else if (if 8 ≤ x.fmt then x.fill != 0 else decide (2 ^ b ≤ x.fill)) then 6
  else if x.space = 0 ∧ (arena x.arena).isNone then 7
  else if x.space = 2 ∧ enabled ≤ x.peer then 8
  else if x.base % max 1 (b / 8) ≠ 0 then 9
  else if lo < (range.1 : Int) ∨ (range.2 : Int) < hi then 10
  else if x.writable ∧ used.any (fun p => p.2 == 0 && decide (1 < p.1)) then 11
  else if x.writable ∧ dimsOverlap 1 dims then 12
  else if x.typ = 2 ∧ !((List.range x.ndim).all fun i => shardDimOk (descWord d (9 + i)) (nth x.dims i (0, 0)).1) then 13
  else 0

/-! ### Windows and addresses (R228, R229) -/

/-- Elements a window covers. -/
def winCount (w : List (Int × Nat)) : Nat := (w.map (·.2)).foldl (· * ·) 1

/-- The index tuple at a place of a window's traversal, dimension 0 fastest (R228). -/
def winTuple : List (Int × Nat) → Nat → List Int
  | [], _ => []
  | (o, x) :: t, p => (o + ((p % x : Nat) : Int)) :: winTuple t (p / x)

/-- The element offset of a tuple, none out of range (R229). -/
def elemOff : List (Nat × Int) → List Int → Option Int
  | (n, s) :: t, i :: u =>
    if i < 0 ∨ (n : Int) ≤ i then none
    else match elemOff t u with
      | some o => some (o + i * s)
      | none => none
  | _, _ => some 0

/-- An element's place: its byte address and, for I4, whether it is the upper half (R222). -/
def Desc.place (d : Desc) (o : Int) : Nat × Bool :=
  let b := codeBits d.fmt
  if b = 4 then (((d.base : Int) + o / 2).toNat, o % 2 == 1)
  else (((d.base : Int) + o * ((b / 8 : Nat) : Int)).toNat, false)

/-- The place of a tuple through a descriptor, none out of range. -/
def Desc.elem (d : Desc) (idx : List Int) : Option (Nat × Bool) :=
  (elemOff (d.dims.take d.ndim) idx).map d.place

/-- Where an element lies: nowhere, on this chip, or on another chip of the herd (R409). -/
inductive Loc where
  | out
  | here (a : Nat × Bool)
  | chip (x : Nat) (a : Nat × Bool)
  deriving DecidableEq, Repr

/-- Owner coordinate, number of parts and local index of a global index along one dimension, none out of range
(R239, R409). -/
def shardOf (w : Nat) (g : Int) : Option (Nat × Nat × Nat) :=
  let size := bits w 63 32
  let p := bits w 29 18 + 1
  if g < 0 ∨ (size : Int) ≤ g then none
  else
    let n := g.toNat
    match bits w 31 30 with
    | 0 => some (0, 1, n)
    | 1 => let b := ceilDiv size p; some (n / b, p, n - n / b * b)
    | _ => some (n % p, p, n / p)

/-- Shard number and local indices of a global tuple; `scale` is the product of the parts below (R409). -/
def shardTuple : List Nat → List Int → Nat → Option (Nat × List Int)
  | w :: ws, g :: gs, scale =>
    match shardOf w g with
    | none => none
    | some (k, p, i) =>
      match shardTuple ws gs (scale * p) with
      | none => none
      | some (σ, is) => some (σ + k * scale, (i : Int) :: is)
  | _, _, _ => some (0, [])

/-- Where a tuple of a move's window lies: chip `x` of `n` is this one (R229, R409, R410). -/
def Desc.loc (d : Desc) (x n : Nat) (idx : List Int) : Loc :=
  if d.typ = 2 ∧ d.space = 0 then
    match shardTuple (d.shards.take d.ndim) idx 1 with
    | none => .out
    | some (σ, is) =>
      if n ≤ σ then .out
      else if σ = x then (match d.elem is with | some a => .here a | none => .out)
      else .chip σ (d.place ((d.dims.zip is).foldl (fun (a : Int) (p : (Nat × Int) × Int) => a + p.2 * p.1.2) 0))
  else match d.elem idx with
    | some a => .here a
    | none => .out

/-- A window with its origin moved by block coordinates (R238). -/
def blockWin (w : List (Int × Nat)) (b : List Int) : List (Int × Nat) :=
  (w.zipIdx).map fun (p, i) => (p.1 + nth b i 0 * (p.2 : Int), p.2)

/-! ### The separator (R233) -/

/-- log2 of the elements of a stream row: 7, 6 or 5 for 1, 2 or 4 bytes. -/
def sepM (bytes : Nat) : Nat := if bytes = 1 then 7 else if bytes = 2 then 6 else 5

/-- Two bits of an index exchanged. -/
def swapBits (x a b : Nat) : Nat :=
  if x.testBit a = x.testBit b then x else x ^^^ (2 ^ a ||| 2 ^ b)

/-- Bits A and B of stage `s` of a program (R243). -/
def sepStage (prog s : Nat) : Nat × Nat := (bits prog (8 * s + 7) (8 * s + 4), bits prog (8 * s + 3) (8 * s))

/-- The input index that leaves at an output index: stages 0 to 6 in order (R233), undone in reverse order. -/
def sepIn (prog x : Nat) : Nat :=
  (List.range 7).reverse.foldl (fun x s => swapBits x (sepStage prog s).1 (sepStage prog s).2) x

/-- A stage with A ≠ B names an index bit at or above 2m (R234). -/
def sepBitBad (prog m : Nat) : Bool :=
  (List.range 7).any fun s =>
    let (a, b) := sepStage prog s
    a != b && (decide (2 * m ≤ a) || decide (2 * m ≤ b))

end Sys2Proof.Machine
end

