-- ==== Sys2Proof/Machine/Stream.lean ====
section
/-! DEFINITION. The stream unit: SU slots, moves and their schedules, quantisation, scale streams, corrections,
gather and scatter (chapters 06, 07, 08). `r` is the plane cycle being performed. -/

namespace Sys2Proof.Machine

/-- What a core's stream unit takes from the chip when it issues a move: route latencies, the effective lead of an
EXT source (R577), the arenas, and a peer's trailer. -/
structure SuEnv where
  enabled : Nat
  latTo : Nat → Nat          -- route latency to a logical core (R40)
  latFrom : Nat → Nat        -- route latency from it
  leadMin : Nat              -- D_out + D_back + 1 of R577
  herdX : Nat                -- this chip's herd index and the herd size
  herdN : Nat
  foldArena : Nat → Bool     -- the arena is a FOLD arena
  peerTrailer : Nat → Nat → Nat   -- the trailer word at a line of a core's tile store

/-! ### Refusals and faults (R234, R267) -/

/-- The fields of an SU slot below its opcode (R262). -/
structure SuSlot where
  entry : Nat
  tlEn : Bool
  tl : Nat
  lead : Nat
  rsv : Nat
  deriving DecidableEq, Repr

/-- The fields of the 27 bits below the opcode. -/
def suSlot (a : Nat) : SuSlot := ⟨bits a 26 21, bit a 20, bits a 19 16, bits a 15 4, bits a 3 0⟩

/-- A refused SU slot (R267). -/
def Core.suRefuse (c : Core) (code entry : Nat) : Core :=
  { c with
    su := { c.su with fault := ⟨satAdd 16 c.su.fault.count 1, code, entry, c.seq.step.toNat % 2 ^ 32⟩ }
    seq := { c.seq with faulted := true } }.event .stream

/-- A faulted move (R234, R241, R255). -/
def Core.moveFault (c : Core) (code label : Nat) : Core :=
  { c with
    su := { c.su with sepFault := ⟨satAdd 16 c.su.sepFault.count 1, code, label, c.seq.step.toNat % 2 ^ 16⟩ }
    seq := { c.seq with faulted := true } }.event .stream

/-- The descriptor in force in a slot, none when EMPTY (R218). -/
def Core.descAt (c : Core) (i : Nat) : Option Desc :=
  let d := c.cfg.desc.get 0 i
  if bits (descWord d 0) 63 60 = 0 then none else some (Desc.of d)

/-- The quantisation-table entry of a number, and its type (R214). -/
def Core.qent (c : Core) (i : Nat) : Nat := (c.cfg.quant.get 0 i).toNat
/-- TYPE of a quantisation-table entry. -/
def qType (x : Nat) : Nat := bits x 127 124

/-- The lowest-numbered free move channel (R263). -/
def Core.freeChan (c : Core) : Option Nat := (List.range 4).find? fun i => (c.su.chans.find? (·.1 == i)).isNone

/-- FOLD of R259 suits the destination element. -/
def foldFmtOk (fold fmt : Nat) : Bool :=
  match fold with
  | 1 => decide (8 ≤ fmt) && decide (fmt ≤ 10)
  | 2 => fmt == 2
  | 3 => fmt == 2 || fmt == 6
  | 4 | 5 => fmt == 7
  | _ => true

/-- The refusal code of an SU slot, 0 when accepted (R261, R263, R267), judged in the order of the codes. -/
def Core.suCheck (c : Core) (s : SuSlot) : Nat :=
  let x := (c.cfg.moves.get 0 s.entry).toNat
  let typ := bits x 127 124
  let fold := bits x 79 77
  let src := c.descAt (bits x 123 117)
  let dst := c.descAt (bits x 116 110)
  let q := c.qent (bits x 92 87)
  let zbad := typ == 4 && (!bit x 93 || qType q != 3 || s.tlEn ||
    x != fld 4 4 124 + fld 1 1 93 + fld (bits x 92 87) 6 87)
  let entryBad := typ == 0 || decide (4 < typ) || zbad ||
    (typ != 4 && bit x 93 && qType q != 1) ||
    (bit x 86 && qType (c.qent (bits x 85 80)) != 2) ||
    ((bit x 29 || bit x 86) && !s.tlEn) ||
    fold == 6 || fold == 7 ||
    (bit x 76 && ((fold != 1 && fold != 2) || (match src with | some d => d.space != 1 | none => false) ||
      (match dst with | some d => d.space != 1 && d.space != 2 | none => false)))
  let fspace := fold != 0 && (match dst with | some d => d.space == 0 || d.space == 3 | none => false)
  let ffmt := fold != 0 && ((typ != 4 && bit x 93) || (match dst with | some d => !foldFmtOk fold d.fmt | none => false))
  let skim := typ != 4 && bit x 93 && bit q 70 && (match dst with | some d => d.space != 3 | none => false)
  if s.rsv ≠ 0 then 1
  else if entryBad then 2
  else if fspace then 3
  else if ffmt then 4
  else if skim then 5
  else if c.freeChan.isNone then 6
  else 0

/-- A window of the window table over a descriptor's dimensions (R264). -/
def Core.window (c : Core) (i ndim : Nat) : List (Int × Nat) :=
  (List.range ndim).map fun d =>
    let w := (c.cfg.wins.get 0 (6 * i + d)).toNat
    (sgn 32 (bits w 63 32), bits w 31 0)

/-- The window with its origin advanced along one dimension (R263). -/
def advance (w : List (Int × Nat)) (dim : Nat) (by_ : Int) : List (Int × Nat) :=
  (w.zipIdx).map fun (p, i) => if i = dim then (p.1 + by_, p.2) else p

/-- The entries of a gather or scatter list as they stand at issue (R237). -/
def Core.blockList (c : Core) (line count : Nat) : List (List Int × Bool) :=
  (List.range count).map fun j =>
    let bs := c.st.peek false (64 * line + 16 * j) 16
    ((List.range 6).map fun d => sgn 16 (leAt bs (2 * d) 2), bit (nth bs 15 0).toNat 7)

/-- Formats a move may join (R231): equal, a pair of R72, or the pair of its QUANT entry. -/
def fmtPairOk (qent : Option Nat) (s d : Nat) : Bool :=
  match qent with
  | some q => bits q 123 120 == s && bits q 119 116 == d
  | none => s == d || (match Fmt.ofCode s, Fmt.ofCode d with
      | some a, some b => convAllowed a b
      | _, _ => false)

/-- The separator element's bytes, 0 when the separator cannot take it (R232, R234). -/
def sepBytes (quant : Bool) (s d : Nat) : Nat :=
  let f := if quant || d == 5 || d == 6 || d == 7 then s else d
  if f = 4 ∨ 7 ≤ f then 0 else codeBits f / 8

/-- The fault code and label of a move, code 0 if none: the first in the order of R234. -/
def Core.moveCheck (c : Core) (s : SuSlot) : Nat × Nat :=
  let x := (c.cfg.moves.get 0 s.entry).toNat
  let typ := bits x 127 124
  let p := bits x 97 94
  let prog := (c.cfg.sep.get 0 p).toNat
  let q := if bit x 93 then some (c.qent (bits x 92 87)) else none
  match c.descAt (bits x 123 117), c.descAt (bits x 116 110) with
  | none, _ => (1, 0)
  | some _, none => (1, 0)
  | some sd, some dd =>
    let ns := winCount (c.window (bits x 109 104) sd.ndim)
    let nd := winCount (c.window (bits x 103 98) dd.ndim)
    let cnt := bits x 58 47 + 1
    let n := if typ = 2 then cnt * ns else ns
    let m := if typ = 3 then cnt * nd else nd
    let eb := sepBytes q.isSome sd.fmt dd.fmt
    let k := sepM eb
    let perm := p ≠ 0
    if p ≠ 0 ∧ !bit prog 56 then (1, sd.label)
    else if !dd.writable then (2, dd.label)
    else if n ≠ m then (3, sd.label)
    else if !fmtPairOk q sd.fmt dd.fmt then (4, sd.label)
    else if perm ∧ eb = 0 then (5, sd.label)
    else if perm ∧ n % (2 ^ k * 2 ^ k) ≠ 0 then (6, sd.label)
    else if perm ∧ sepBitBad prog k then (7, sd.label)
    else if (typ = 2 ∨ typ = 3) ∧ 8388608 < 64 * bits x 75 59 + 16 * cnt then (8, sd.label)
    else (0, 0)

/-! ### Schedules (R236, R265) -/

/-- Elements per cycle: 128 source and destination bytes, 64 over the mesh port (R265). -/
def moveRate (src dst : Desc) : Nat :=
  let cap := fun (d : Desc) => (if d.space = 1 ∨ d.space = 3 then 1024 else 512) / codeBits d.fmt
  max 1 (min (cap src) (cap dst))

/-- Stream rows of a block of the separator, and elements of a stream row: N of R233. -/
def MoveOp.sepN (op : MoveOp) : Nat := 2 ^ sepM (sepBytes op.quant.isSome op.src.fmt op.dst.fmt)

/-- The cycle in which the stream unit reads stream element `i` (R265). -/
def MoveOp.readAt (op : MoveOp) (i : Nat) : Nat := op.t0 + op.off + i / op.rate

/-- The cycle in which the element at place `i` of the output stream is written (R236, R265): 4 cc after its
read, and 1 cc of the identity separator; with a permuting program 4 cc after its output row leaves. -/
def MoveOp.writeAt (op : MoveOp) (i : Nat) : Nat :=
  if op.perm then
    let n := op.sepN
    let blk := i / (n * n)
    op.readAt (blk * n * n + n * n - 1) + 8 + i % (n * n) / n + 4
  else op.readAt i + 5

/-- The input place of the element at place `i` of the output stream (R233). -/
def MoveOp.source (op : MoveOp) (i : Nat) : Nat :=
  if op.perm then
    let n := op.sepN
    i / (n * n) * (n * n) + sepIn op.sepProg.toNat (i % (n * n))
  else i

/-- Places of the output stream written in cycle `r`: one group of places is written per cycle. -/
def MoveOp.groupAt (op : MoveOp) (r : Nat) : List Nat :=
  if op.perm then
    let n := op.sepN
    let per := n * n / op.rate            -- cycles a block takes to enter
    -- block b's row i is written at readAt(last element of b) + 12 + i
    ((List.range (op.n / (n * n))).filter fun b =>
        let w0 := op.readAt (b * n * n + n * n - 1) + 12
        decide (w0 ≤ r) && decide (r < w0 + n) && decide (0 < per)).flatMap fun b =>
      let i := r - (op.readAt (b * n * n + n * n - 1) + 12)
      (List.range n).map fun k => b * n * n + i * n + k
  else
    let j := r - (op.t0 + op.off + 5)
    if r < op.t0 + op.off + 5 then []
    else ((List.range op.rate).map fun k => j * op.rate + k).filter (· < op.n)

/-- Lines a scale stream writes (R200). -/
def sstreamLines (e : Nat) : Nat := ceilDiv ((bits e 81 72 + 1) * (if bits e 119 116 = 1 then 2 else 4)) 64

/-- Quire entries and rows of a ZPCORR entry (R204, R214). -/
def zpDims (q : Nat) : Nat × Nat := (if bits q 123 120 = 8 then 1 else 2, bits q 57 50 + 1)

/-- The cycle of a move's last write. -/
def MoveOp.last (op : MoveOp) : Nat :=
  let a := if op.n = 0 then op.t0 else op.writeAt (op.n - 1) + op.dDst
  let b := match op.sstream with
    | some (e, _) => op.t0 + 3 + sstreamLines e.toNat
    | none => 0
  max a b

/-! ### Issue (R261, R263) -/

/-- The clip pair that a QUANT use clears in its start cycle, before that cycle's counts are added (R210). -/
def Core.clipStart (c : Core) (q : Nat) : Core :=
  if bit q 39 then { c with su := { c.su with clipClr := secIns (bits q 38 37) c.su.clipClr } } else c

/-- The trailer word of a line of this core's own tile store; a poisoned sector reads as zero (R258). -/
def Core.trailerAt (c : Core) (line : Nat) : Nat :=
  if c.st.poisoned false (64 * line) then 0 else leNat (c.st.peek false (64 * line) 8)

/-- A move that passes every check takes its channel (R220, R261, R263 to R265). The trailers of a QUIRE fold are read
in the issue cycle, this core's own in its phase A. -/
def Core.moveStart (c : Core) (env : SuEnv) (r ch : Nat) (s : SuSlot) (sd dd : Desc) : Core :=
  let x := (c.cfg.moves.get 0 s.entry).toNat
  let tl := (nth c.seq.tallies s.tl ⟨0, false⟩).val.toNat
  let adv : Int := if bit x 29 then sgn 16 (bits x 24 9) * (tl : Int) else 0
  let sw := c.window (bits x 109 104) sd.ndim
  let dw := c.window (bits x 103 98) dd.ndim
  let sw1 := if bit x 28 then sw else advance sw (bits x 27 25) adv
  let dw1 := if bit x 28 then advance dw (bits x 27 25) adv else dw
  let typ := bits x 127 124
  let cnt := bits x 58 47 + 1
  let q := if bit x 93 then some (c.cfg.quant.get 0 (bits x 92 87)) else none
  let p := bits x 97 94
  let prog := c.cfg.sep.get 0 p
  let here := !(dd.space == 2)
  let op0 : MoveOp :=
    { id := c.nextId, typ := typ, ent := c.cfg.moves.get 0 s.entry, src := sd, dst := dd, srcWin := sw1,
      dstWin := dw1, sepProg := prog, perm := p != 0, quant := q,
      list := if typ = 2 ∨ typ = 3 then c.blockList (bits x 75 59) cnt else [],
      sstream := if bit x 86 then some (c.cfg.quant.get 0 (bits x 85 80), tl) else none,
      n := (if typ = 2 then cnt else 1) * winCount sw1, rate := moveRate sd dd, t0 := r,
      off := if sd.space = 0 then max s.lead env.leadMin
             else if sd.space = 2 then env.latTo sd.peer + env.latFrom sd.peer else 0,
      dDst := if dd.space = 2 then env.latTo dd.peer else 0, segment := c.segment,
      herdX := env.herdX, herdN := env.herdN, dstFold := env.foldArena dd.arena, segs := [], sent := [],
      trl := if bit x 76 then some (none, if here then none else some (env.peerTrailer dd.peer (bits x 46 30))) else none,
      data := [], lines := [], lastWrite := 0, at_ := r }
  let op := { op0 with lastWrite := op0.last }
  let c1 := match q with | some qv => c.clipStart qv.toNat | none => c
  let accs : List Acc := if bit x 76 then
      ⟨false, bits x 75 59, 7, ch, .read (.strail ch false)⟩ ::
        (if here then [⟨false, bits x 46 30, 7, ch, .read (.strail ch true)⟩] else [])
    else []
  { c1 with nextId := c1.nextId + 1, su := { c1.su with chans := c1.su.chans.set ch op },
            st := { c1.st with acc := c1.st.acc ++ accs } }

/-- A ZPCORR move takes its channel and runs its entry alone (R204, R263). -/
def Core.zpStart (c : Core) (r ch : Nat) (s : SuSlot) : Core :=
  let x := c.cfg.moves.get 0 s.entry
  let q := c.cfg.quant.get 0 (bits x.toNat 92 87)
  let (w, rows) := zpDims q.toNat
  let d : Desc := Desc.of 0
  let op : MoveOp :=
    { id := c.nextId, typ := 4, ent := x, src := d, dst := d, srcWin := [], dstWin := [], sepProg := 0,
      perm := false, quant := some q, list := [], sstream := none, n := 0, rate := 1, t0 := r, off := 0,
      dDst := 0, segment := c.segment, herdX := 0, herdN := 0, dstFold := false, segs := [], sent := [], trl := none, data := [], lines := [],
      lastWrite := r + w * rows + 1, at_ := r }
  { c with nextId := c.nextId + 1, su := { c.su with chans := c.su.chans.set ch op } }

/-- One SU slot that names a MOVE: refused (R267), faulted (R234), or on its channel (R263). -/
def Core.suIssue (c : Core) (env : SuEnv) (r : Nat) (s : SuSlot) : Core :=
  let code := c.suCheck s
  if code ≠ 0 then c.suRefuse code s.entry
  else
    let x := (c.cfg.moves.get 0 s.entry).toNat
    let ch := c.freeChan.getD 0
    if bits x 127 124 = 4 then c.zpStart r ch s
    else
      let (f, label) := c.moveCheck s
      if f ≠ 0 then c.moveFault f label
      else match c.descAt (bits x 123 117), c.descAt (bits x 116 110) with
        | some sd, some dd => c.moveStart env r ch s sd dd
        | _, _ => c

/-! ### Elements -/

/-- Where stream place `i` is read: a SKIP block, or the tuple through the source descriptor (R228, R238). -/
def MoveOp.srcTuple (op : MoveOp) (i : Nat) : Option (List Int) :=
  if op.typ = 2 then
    let b := winCount op.srcWin
    let (co, skip) := nth op.list (i / b) ([], true)
    if skip then none else some (winTuple (blockWin op.srcWin co) (i % b))
  else some (winTuple op.srcWin i)

/-- Where output place `i` is written: a SKIP block, or the tuple through the destination descriptor. -/
def MoveOp.dstTuple (op : MoveOp) (i : Nat) : Option (List Int) :=
  if op.typ = 3 then
    let b := winCount op.dstWin
    let (co, skip) := nth op.list (i / b) ([], true)
    if skip then none else some (winTuple (blockWin op.dstWin co) (i % b))
  else some (winTuple op.dstWin i)

/-- The pattern of an element at a byte offset of a line, poison applied (R222, R258). `fold` 4 or 5 takes a
poisoned B64 container as a poisoned record. -/
def elemOfLine (fmt fold recW off : Nat) (hi : Bool) (bs : Bytes) (bad : List Bool) : Nat :=
  let b := codeBits fmt
  let n := max 1 (b / 8)
  let p := (List.range n).any fun i => nth bad ((off + i) / 32) false
  if p then (if fold = 4 ∨ fold = 5 then foldPoison fold fmt recW else poisonPat ((Fmt.ofCode fmt).getD .p8))
  else if b = 4 then ((nth bs off 0).toNat >>> (if hi then 4 else 0)) % 16
  else leAt bs off n

/-- A stream element has been read (R265): its pattern waits for its write. -/
def Core.suGot (c : Core) (ch idx pat : Nat) : Core :=
  match c.su.chans.find? (·.1 == ch) with
  | some (_, op) => { c with su := { c.su with chans := c.su.chans.set ch { op with data := op.data.set idx pat } } }
  | none => c

/-- The reads of stream row `j` (R229, R265): fills at once, local reads as accesses of the stream port, remote
ones as what the row asks of its peer or of external memory. -/
def Core.suReadRow (c : Core) (ch : Nat) (op : MoveOp) (j : Nat) : Core :=
  let is := ((List.range op.rate).map fun k => j * op.rate + k).filter (· < op.n)
  let places := is.map fun i => (i, (op.srcTuple i).map (op.src.loc op.herdX op.herdN))
  let fills := places.filterMap fun (i, p) => match p with
    | some (.here _) | some (.chip _ _) => none
    | _ => some i
  let oor := (places.filter fun (_, p) => p == some Loc.out).length
  let live := places.filterMap fun (i, p) => match p with
    | some (.here a) => some (i, a)
    | _ => none
  let away := places.filterMap fun (i, p) => match p with
    | some (.chip x a) => some (x, i, a)
    | _ => none
  let data := fills.foldl (fun (t : Tab Nat) i => t.set i op.src.fill) op.data
  let c1 := { c with su := { c.su with oorR := satAdd 32 c.su.oorR oor,
                                       chans := c.su.chans.set ch { op with data := data } } }
  let b := codeBits op.src.fmt
  let nib := fun (a : Nat × Bool) => if b = 4 then (if a.2 then 5 else 4) else b
  match op.src.space with
  | 1 =>
    let accs := live.map fun (i, a) =>
      (⟨false, a.1 / 64, 7, ch, .read (.su ch i (2 * (a.1 % 64) + b2n a.2))⟩ : Acc)
    { c1 with st := { c1.st with acc := c1.st.acc ++ accs } }
  | 3 =>
    let accs := live.map fun (i, a) =>
      (⟨true, a.1 / 128, 7, ch, .read (.su ch i (2 * (a.1 % 128) + b2n a.2))⟩ : Acc)
    { c1 with st := { c1.st with acc := c1.st.acc ++ accs } }
  | 2 => { c1 with out := c1.out ++ [.peerRead op.src.peer ch j (live.map fun (i, a) => (i, a.1, nib a))] }
  | _ =>
    let chips := (away.map (·.1)).eraseDups
    let loc := if live.isEmpty then [] else [Out.extRead ch j (live.map fun (i, a) => (i, a.1, nib a))]
    { c1 with out := c1.out ++ loc ++ chips.map fun x =>
        Out.remRead ch j x ((away.filter (·.1 == x)).map fun (_, i, a) => (i, a.1, nib a)) }

/-! ### Quantisation and skim (R195 to R197, R207, R208) -/

/-- Row and channel index of a destination tuple (R231). -/
def rowChan (t : List Int) : Int × Int := (if t.length ≤ 1 then 0 else nth t 1 0, nth t 0 0)

/-- The inverse scale of a row (R195); poisoned, it is NaR. -/
def Core.invOf (c : Core) (q : Nat) (r : Int) : Nat :=
  let a := 64 * bits q 105 89 + (if bit q 88 then 0 else 4 * r.toNat)
  if c.st.poisoned false a then narPat 32 else leNat (c.st.peek false a 4)

/-- The zero point of a row, clamped to the destination (R195). -/
def Core.zpOf (c : Core) (q : Nat) (r : Int) : Int :=
  let (lo, hi) : Int × Int := if bits q 119 116 = 4 then (-8, 7) else (-128, 127)
  match bits q 115 114 with
  | 1 => sgn 8 (bits q 113 106)
  | 2 =>
    let a := 64 * bits q 87 71 + r.toNat
    let z := if c.st.poisoned false a then 0 else sgn 8 (leNat (c.st.peek false a 1))
    max lo (min hi z)
  | _ => 0

/-- The slots of a skim map entry that are in use, as (slot, channel within the block) (R207). -/
def skimSlots (bs : Bytes) (x : Nat) : List (Nat × Nat) :=
  let n := min 8 (nth bs 8 0).toNat
  ((List.range n).foldl (fun (acc : List (Nat × Nat)) j =>
    let ix := (nth bs j 0).toNat
    if decide (ix < x) && acc.all (fun p => decide (p.2 < ix)) then acc ++ [(j, ix)] else acc) [])

/-- The skim map entry of K-block `b` (R207). -/
def Core.skimEntry (c : Core) (q b : Nat) : List (Nat × Nat) :=
  skimSlots (c.st.peek false (64 * bits q 69 53 + 16 * b) 16) (if bit q 36 then 256 else 128)

/-- What quantising one element gives (R195, R197, R208): the integer pattern, the count it adds, and the skim
writes it makes: staging row, element, posit16. -/
structure QuantOut where
  pat : Nat
  total : Nat
  clipped : Nat
  skim : List (Nat × Nat × Nat)
  deriving DecidableEq, Repr

/-- One element of a move that names a QUANT entry. `rows` is the number of rows in the move; `first` says that the
element is the first of its row that the move writes, so that a block entered in its middle has its unused slots written
as zero too (R208). -/
def Core.quantElem (c : Core) (q rows : Nat) (t : List Int) (first : Bool) (pat : Nat) : QuantOut :=
  let (r, i) := rowChan t
  let i4 := bits q 119 116 == 4
  let srcN := positW (bits q 123 120)
  let inv := c.invOf q r
  let (v, clip) := quantise srcN pat inv (c.zpOf q r) i4
  let plain : QuantOut := ⟨tc (if i4 then 4 else 8) v, b2n (bit q 40), b2n (bit q 40 && clip), []⟩
  if !bit q 70 then plain
  else
    let x := if bit q 36 then 256 else 128
    let b := i.toNat / x
    let used := c.skimEntry q b
    let row := bits q 52 41 + b / 8 * rows + r.toNat
    let el := fun j => 8 * (b % 8) + j
    let zeros := if i.toNat % x = 0 ∨ first then
        ((List.range 8).filter fun j => !used.any fun p => p.1 == j).map fun j => (row, el j, 0)
      else []
    match used.find? fun p => p.2 == i.toNat % x with
    | some (j, _) =>
      ⟨0, 0, 0, zeros ++ [(row, el j, penc 16 ((pdec srcN pat).mul (v32 inv)))]⟩
    | none => { plain with skim := zeros }

/-- Counts of a clip pair, to be added at the end of cycle `at_`, in which their values are written (R197, R210). -/
def Core.clipAdd (c : Core) (at_ q total clipped : Nat) : Core :=
  if total = 0 then c
  else { c with su := { c.su with clipNew := c.su.clipNew ++ [(at_, bits q 38 37, ⟨total, clipped⟩)] } }

/-- The clip pairs at the end of cycle `r`: the clear applies first, then every count of the cycle is added (R210). -/
def SuSt.clipEnd (s : SuSt) (r : Nat) : SuSt :=
  let zeroed := s.clipClr.foldl (fun (t : Tab Clip) i => t.set i ⟨0, 0⟩) s.clips
  { s with
    clipClr := []
    clipNew := s.clipNew.filter fun x => decide (r < x.1)
    clips := (s.clipNew.filter fun x => decide (x.1 ≤ r)).foldl (fun (t : Tab Clip) x =>
      let p := t.get ⟨0, 0⟩ x.2.1
      t.set x.2.1 ⟨satAdd 32 p.total x.2.2.total, satAdd 32 p.clipped x.2.2.clipped⟩) zeroed }

/-! ### Writes -/

/-- The bytes of an element at a place, as masked bytes of its line. -/
def elemWrite (fmt : Nat) (lineSz addr : Nat) (hi : Bool) (pat : Nat) : List WByte :=
  if codeBits fmt = 4 then
    [⟨addr % lineSz, if hi then 0xF0 else 0x0F, BitVec.ofNat 8 (if hi then pat <<< 4 else pat)⟩]
  else wbytes (addr % lineSz) (leBytes (codeBits fmt / 8) pat)

/-- Accesses of one line merged into one, in the order of their lines' first appearance. -/
def mergeWrites (l : List (Nat × List WByte)) : List (Nat × List WByte) :=
  l.foldl (fun acc p =>
    if acc.any fun q => q.1 == p.1 then acc.map fun q => if q.1 = p.1 then (q.1, q.2 ++ p.2) else q
    else acc ++ [p]) []

/-- The write of one output place (R195, R229, R231, R259): the core with its counts, and the element's place and
pattern unless it is dropped. -/
def Core.suElem (c : Core) (op : MoveOp) (r i : Nat) :
    Core × Option (Option Nat × (Nat × Bool) × Nat) × List (Nat × Nat × Nat) :=
  let src := op.source i
  let (c0, pat) := match op.data.find? (·.1 == src) with
    | some (_, p) => (c, p)
    | none => ({ c with free := c.free + 64 },
               leNat (freeBytes c.free (max 1 (codeBits op.src.fmt / 8))) % 2 ^ codeBits op.src.fmt)
  match op.dstTuple i with
  | none => (c0, none, [])
  | some t =>
    let place := match op.dst.loc op.herdX op.herdN t with
      | .out => none
      | .here a => some (none, a)
      | .chip x a => some (some x, a)
    let c1 := if place.isNone then { c0 with su := { c0.su with oorW := satAdd 32 c0.su.oorW 1 } } else c0
    match op.quant with
    | some q =>
      let first := i % (nth op.dstWin 0 (0, 1)).2 == 0
      let o := c1.quantElem q.toNat (nth op.dstWin 1 (0, 1)).2 t first pat
      (c1.clipAdd (r + op.dDst) q.toNat o.total o.clipped, place.map fun a => (a.1, a.2, o.pat), o.skim)
    | none =>
      if op.src.fmt = op.dst.fmt then (c1, place.map fun a => (a.1, a.2, pat), [])
      else
        let (p, tally) := convert ((Fmt.ofCode op.src.fmt).getD .p8) ((Fmt.ofCode op.dst.fmt).getD .p8) pat
        (c1.cvt tally, place.map fun a => (a.1, a.2, p), [])

/-- All elements of a group, one after another. -/
def Core.suElems (c : Core) (op : MoveOp) (r : Nat) : List Nat →
    Core × List (Option Nat × (Nat × Bool) × Nat) × List (Nat × Nat × Nat)
  | [] => (c, [], [])
  | i :: t =>
    let (c1, e, k) := c.suElem op r i
    let (c2, es, ks) := c1.suElems op r t
    (c2, e.toList ++ es, k ++ ks)

/-- The fold of a move's entry (R259). -/
def MoveOp.fold (op : MoveOp) : Nat := bits op.ent.toNat 79 77
/-- REC_W of a move's entry. -/
def MoveOp.recW (op : MoveOp) : Nat := bits op.ent.toNat 8 7

/-- The accesses that write a group of elements to a tile store or staging: rank and number of its port. -/
def groupAccs (op : MoveOp) (rank sub key : Nat) (es : List ((Nat × Bool) × Nat)) : List Acc :=
  let staging := op.dst.space == 3
  let lb := lineBytes staging
  if op.fold = 0 then
    (mergeWrites (es.map fun e => (e.1.1 / lb, elemWrite op.dst.fmt lb e.1.1 e.1.2 e.2))).map fun (l, ws) =>
      ⟨staging, l, rank, sub, .write ws⟩
  else es.map fun e =>
    ⟨false, e.1.1 / 64, rank, sub, .adder (e.1.1 % 64) op.fold op.dst.fmt op.recW e.2 key⟩

/-- Whether bytes can follow others in one segment: only its first byte may lack its low half and only its last the high one,
which is what a WRITE can say (R288; DEDUCED, log entry 38). -/
def segFits (b0 bs : List (Byte × Byte)) : Bool :=
  (match b0.getLast? with
    | some b => b.1 == 0xFF || (b0.length == 1 && b.1 == 0xF0)
    | none => true) &&
  (match bs.head? with
    | some b => b.1 == 0xFF || b.1 == 0x0F
    | none => true)

/-- A remote element joins the open segment of its chip when its bytes follow the segment's last byte and the
segment holds fewer than 480 bytes; otherwise the open segment is handed over and a new one opens (R411). -/
def segJoin (segs : List (Nat × Nat × List (Byte × Byte))) (x a : Nat) (bs : List (Byte × Byte)) :
    List (Nat × Nat × List (Byte × Byte)) × List (Nat × Nat × List (Byte × Byte)) :=
  match segs.find? (·.1 == x) with
  | some (_, a0, b0) =>
    if a = a0 + b0.length ∧ b0.length < 480 ∧ b0.length + bs.length ≤ 480 ∧ segFits b0 bs = true then
      (segs.map fun s => if s.1 = x then (x, a0, b0 ++ bs) else s, [])
    else if a + 1 = a0 + b0.length ∧ bs.length = 1 then
      (segs.map fun s => if s.1 = x then (x, a0, b0.dropLast ++
        (match b0.getLast?, bs with
         | some (m, v), [(m', v')] => [(m ||| m', (v &&& ~~~ m') ||| (v' &&& m'))]
         | _, _ => bs)) else s, [])
    else (segs.map fun s => if s.1 = x then (x, a, bs) else s, [(x, a0, b0)])
  | none => (segs ++ [(x, a, bs)], [])

/-- A segment in parts of 64 bytes, one for each cycle that its link channel takes for it (R399). -/
def segParts (ch fmt chip : Nat) (fold : Bool) (addr : Nat) (bs : List (Byte × Byte)) : List Out :=
  let n := ceilDiv bs.length 64
  (List.range n).map fun i => .remSeg ch fmt chip fold (decide (i + 1 < n)) (addr + 64 * i) ((bs.drop (64 * i)).take 64)

/-- The segments that a group of remote elements opens and hands over, and at the move's end every open segment
and one CLOSE for each chip (R411). -/
def MoveOp.remote (op : MoveOp) (ch : Nat) (es : List (Nat × (Nat × Bool) × Nat)) (last : Bool) :
    MoveOp × List Out :=
  let put := fun (x : Nat × Nat × List (Byte × Byte)) => segParts ch op.dst.fmt x.1 op.dstFold x.2.1 x.2.2
  let (segs, done) := es.foldl
    (fun (st : List (Nat × Nat × List (Byte × Byte)) × List (Nat × Nat × List (Byte × Byte))) e =>
      let ws := elemWrite op.dst.fmt (2 ^ 60) e.2.1.1 e.2.1.2 e.2.2
      let (s, d) := segJoin st.1 e.1 e.2.1.1 (ws.map fun w => (w.mask, w.val))
      (s, st.2 ++ d)) (op.segs, [])
  let out := if last then done ++ segs else done
  let sent := out.foldl (fun (t : Tab Nat) o => t.upd 0 o.1 (· + 1)) op.sent
  ({ op with segs := if last then [] else segs, sent := sent },
   out.flatMap put ++ (if last then sent.map fun p => Out.remClose ch p.1 p.2 op.dstFold else []))

/-- The trailer words of a QUIRE fold, source and destination. -/
def MoveOp.trailers (op : MoveOp) : Option (Nat × Nat) := op.trl.map fun p => (p.1.getD 0, p.2.getD 0)
/-- The trailers differ: every row is dropped (R261). -/
def MoveOp.dropAll (op : MoveOp) : Bool := match op.trailers with | some (s, d) => !trlMatch s d | none => false
/-- The word that a QUIRE fold writes over its destination trailer with its last element (R99, R261). -/
def MoveOp.trailer (op : MoveOp) : Option Nat :=
  op.trailers.map fun p => if trlMatch p.1 p.2 then trlCombine p.1 p.2 false else trlFmt p.2

/-- The writes of a move in cycle `r` (R236, R265): the group of output places due, the trailer with the last of
them, and the skim rows. `key` names the move among those that fold into one store. -/
def Core.suWrites (c : Core) (self r ch : Nat) (op : MoveOp) : Core :=
  let g := op.groupAt r
  if g.isEmpty then c
  else
    let key := self * 2 ^ 40 + op.id
    let (c1, es0, skim) := c.suElems op r g
    let lastOne := g.contains (op.n - 1)
    let es := if op.dropAll then [] else es0.filterMap fun e => if e.1.isNone then some e.2 else none
    let far := if op.dropAll then [] else es0.filterMap fun e => e.1.map fun x => (x, e.2)
    let (op1, outs) := op.remote ch far lastOne
    let trl := match op.trailer with
      | some w => if lastOne then [(w, bits op.ent.toNat 46 30)] else []
      | none => []
    let skimAccs := (mergeWrites (skim.map fun (row, el, p) => (row % 4096, wbytes (2 * el) (leBytes 2 p)))).map
      fun (l, ws) => (⟨true, l, 2, ch, .write ws⟩ : Acc)
    let data := g.foldl (fun (t : Tab Nat) i => t.del (op.source i)) op.data
    let c2 := { c1 with su := { c1.su with chans := c1.su.chans.set ch { op1 with data := data } } }
    match op.dst.space with
    | 2 =>
      let accs := groupAccs op 8 self key es ++
        trl.map fun (w, l) => (⟨false, l, 8, self, .trailer w key⟩ : Acc)
      { c2 with out := c2.out ++ [.peerWrite op.dst.peer ch accs] }
    | 0 =>
      let bs := es.flatMap fun e =>
        (elemWrite op.dst.fmt (2 ^ 60) e.1.1 e.1.2 e.2).map fun w => (w.off, w.mask, w.val)
      { c2 with out := c2.out ++ (if bs.isEmpty then [] else [.extWrite ch op.dst.fmt bs]),
                su := { c2.su with linkOut := c2.su.linkOut ++ outs } }
    | _ =>
      let accs := groupAccs op 2 ch key es ++ trl.map fun (w, l) => (⟨false, l, 2, ch, .trailer w key⟩ : Acc)
      { c2 with st := { c2.st with acc := c2.st.acc ++ accs ++ skimAccs } }

/-- The scale stream beside a move in cycle `r` (R200): line i's source is read at t + i and its destination
written at t + 4 + i; element 0 is read at t when it is broadcast. -/
def Core.suScale (c : Core) (r ch : Nat) (op : MoveOp) : Core :=
  match op.sstream with
  | none => c
  | some (ev, t) =>
    let e := ev.toNat
    let ssz := if bits e 123 120 = 1 then 2 else 4
    let dsz := if bits e 119 116 = 1 then 2 else 4
    let per := 64 / dsz
    let cnt := bits e 81 72 + 1
    let nl := sstreamLines e
    let i := r - op.t0
    let sl := bits e 115 99 + t * bits e 71 60
    let rd := if bit e 59 then (if i = 0 then [sl] else [])
      else if i < nl then [sl + i * per * ssz / 64] else []
    let rdAccs := rd.map fun l => (⟨false, l % 131072, 7, ch, .read (.sscale ch i)⟩ : Acc)
    let wr := if 4 ≤ i ∧ i < 4 + nl then
        let k := i - 4
        let bs := Tab.get (fillBytes 64 0) op.lines (if bit e 59 then 0 else k)
        let els := (List.range (min per (cnt - k * per))).map fun j =>
          let o := if bit e 59 then 0 else ((k * per + j) * ssz) % 64
          let p := leAt bs o ssz
          if ssz = dsz then p else penc 32 (pdec 16 p)
        [(⟨false, (bits e 98 82 + k) % 131072, 2, ch, .write (wbytes 0 (els.flatMap (leBytes dsz)))⟩ : Acc)]
      else []
    { c with st := { c.st with acc := c.st.acc ++ rdAccs ++ wr } }

/-- The zero point a ZPCORR entry uses for row `r` (R196, R203). -/
def Core.zpCorr (c : Core) (q r : Nat) : Int :=
  if bits q 118 117 = 2 then
    let a := 64 * bits q 108 92 + r
    if c.st.poisoned false a then 0 else sgn 8 (leNat (c.st.peek false a 1))
  else sgn 8 (bits q 116 109)

/-- Sum S at an index of a ZPCORR entry (R203). -/
def Core.zpSum (c : Core) (q i : Nat) : Int :=
  let a := 64 * bits q 91 75 + 4 * i
  if c.st.poisoned false a then 0 else sgn 32 (leNat (c.st.peek false a 4))

/-- The writes of a ZPCORR move in cycle `r` (R204). -/
def Core.zpWrites (c : Core) (r ch : Nat) (op : MoveOp) : Core :=
  match op.quant with
  | none => c
  | some qv =>
    let q := qv.toNat
    let (w, rows) := zpDims q
    let line0 := bits q 74 58
    let accs : List Acc :=
      if r = op.t0 + w * rows + 1 then
        [⟨false, (line0 + rows * 16 * w) % 131072, 2, ch,
          .write (wbytes 0 (leBytes 32 (fld (bits q 123 120) 4 21)))⟩]
      else if op.t0 < r ∧ r ≤ op.t0 + w * rows then
        let i := (r - op.t0 - 1) / w
        let p := (r - op.t0 - 1) % w
        let row := (List.range 64).map fun k =>
          let z := -(c.zpCorr q i) * c.zpSum q (if bit q 119 then i else k)
          qenc w (qof w (.num (Dy.ofInt z)))
        let bs := slice (row.flatMap (leBytes (16 * w))) (1024 * p) 1024
        ((chunksOf 64 16 bs).zipIdx).map fun (b, j) =>
          ⟨false, (line0 + i * 16 * w + 16 * p + j) % 131072, 2, ch, .write (wbytes 0 b)⟩
      else []
    { c with st := { c.st with acc := c.st.acc ++ accs } }

/-- A channel performs its cycle `r`: reads asked for, writes made (R265). -/
def Core.suAct (c : Core) (self r ch : Nat) : Core :=
  match c.su.chans.find? (·.1 == ch) with
  | none => c
  | some (_, op0) =>
    if r < op0.at_ then c
    else
      let op := { op0 with at_ := r + 1 }
      let c0 := { c with su := { c.su with chans := c.su.chans.set ch op } }
      if op.typ = 4 then c0.zpWrites r ch op
      else
        let j := r - op.t0
        let c1 := if j * op.rate < op.n then c0.suReadRow ch op j else c0
        let op1 := match c1.su.chans.find? (·.1 == ch) with | some (_, o) => o | none => op
        (c1.suScale r ch op1).suWrites self r ch op1

/-- The move channel an offer belongs to. -/
def Out.chan : Out → Nat
  | .peerRead _ ch .. | .peerWrite _ ch _ | .extRead ch .. | .extWrite ch .. | .remRead ch .. | .remSeg ch ..
  | .remClose ch .. => ch

/-- What a channel has waiting for the link goes to the mesh port, one part or CLOSE a cycle: a link channel moves 64 bytes per cc
(R399; DESIGN CHOICE, log entry 38: R411 does not say when several that are ready in one cycle follow). -/
def Core.linkTurn (c : Core) (ch : Nat) : Core :=
  match takeFirst (fun (o : Out) => o.chan == ch) c.su.linkOut with
  | some (o, rest) => { c with su := { c.su with linkOut := rest }, out := c.out ++ [o] }
  | none => c

/-- The channels whose moves have made their last write by `r` are free (R263). -/
def SuSt.settle (s : SuSt) (r : Nat) : SuSt := { s with chans := s.chans.filter fun p => decide (r ≤ p.2.lastWrite) }

/-- A read delivers to the stream unit. -/
def Core.suDeliver (c : Core) (k : Consumer) (bs : Bytes) (bad : List Bool) : Core :=
  match k with
  | .su ch idx off =>
    match c.su.chans.find? (·.1 == ch) with
    | some (_, op) => c.suGot ch idx (elemOfLine op.src.fmt op.fold op.recW (off / 2) (off % 2 == 1) bs bad)
    | none => c
  | .sscale ch i =>
    match c.su.chans.find? (·.1 == ch) with
    | some (_, op) =>
      let f : Fmt := match op.sstream with
        | some (e, _) => if bits e.toNat 123 120 = 1 then .p16 else .p32
        | none => .p32
      { c with su := { c.su with chans := c.su.chans.set ch { op with lines := op.lines.set i (poisonBytes f bad bs) } } }
    | none => c
  | .strail ch dst =>
    match c.su.chans.find? (·.1 == ch) with
    | some (_, op) =>
      let w := if nth bad 0 false then 0 else leAt bs 0 8
      let t := op.trl.map fun p => if dst then (p.1, some w) else (some w, p.2)
      { c with su := { c.su with chans := c.su.chans.set ch { op with trl := t } } }
    | none => c
  | _ => c

/-- Accepted descriptor creations take effect at a seam (R219). -/
def Core.suSeam (c : Core) : Core :=
  { c with
    cfg := { c.cfg with desc := c.su.pendDesc.foldl (fun (t : Tab (BitVec 1024)) p => t.set p.1 p.2) c.cfg.desc }
    su := { c.su with pendDesc := [] } }

/-- A host creation (R219, R242): the reason, and the core with the creation queued if it is accepted. -/
def Core.createDesc (c : Core) (enabled : Nat) (arena : Nat → Option (Nat × Nat)) (slot : Nat)
    (d : BitVec 1024) : Nat × Core :=
  let code := validate enabled arena d
  let su := { c.su with createReason := code, createSlot := slot }
  (code, { c with su := if code = 0 then { su with pendDesc := su.pendDesc.set slot d } else su })

end Sys2Proof.Machine
end

