-- ==== Sys2Proof/Machine/Chip.lean ====
section
/-! DEFINITION. The chip-wide configuration an image sets (R340 to R344), the placement of device addresses
(R305 to R309), and the mesh: sites, routers, attachments, routes and their latencies (R27, R28, R38 to R41). -/

namespace Sys2Proof.Machine

/-- An arena (R306, R341). `gran` is the granule in bytes. -/
structure Arena where
  kind : Nat        -- 0 NONE, 1 MEMORY, 2 FOLD, 3 COMMAND
  foldOp : Nat
  foldFmt : Nat
  gran : Nat
  mask : Nat
  target : Nat
  base : Nat
  size : Nat
  chanBase : Nat
  deriving DecidableEq, Repr

/-- An exchange point (R343): whether it takes the herd barrier, and its bundle by logical core. -/
structure Point where
  herd : Bool
  bundles : List Nat
  deriving DecidableEq, Repr

/-- An event setting (R344). -/
structure EventSet where
  source : Nat
  priority : Nat
  filter : Nat
  target : Nat
  deriving DecidableEq, Repr

/-- What an image sets for the chip as a whole. -/
structure ChipCfg where
  arenas : Tab Arena
  routes : Tab (Tab Nat)    -- by site, by endpoint: output port (R342); 7 where not listed
  links : Tab Nat           -- LINK_ROUTES: port of a VALID herd index
  herdX : Nat               -- this chip's herd index
  herdN : Nat               -- herd size H, 0 while no image is active
  herdIds : List Nat        -- module identities
  seeds : List Nat
  points : Tab Point        -- VALID points
  events : List EventSet
  deriving DecidableEq, Repr

/-- Channel-local bytes an arena may reach (R308). -/
def chanUsable : Nat := 1491611392

/-- The 64-bit stack numbers in a mask, ascending. -/
def maskStacks (mask : Nat) : List Nat := (List.range 8).filter fun s => bit mask s

/-- Arena 0 while no image is loaded (R309). -/
def defaultArena (stackOk : Nat) : Arena :=
  { kind := if stackOk % 256 = 0 then 0 else 1, foldOp := 0, foldFmt := 0, gran := 256, mask := stackOk % 256,
    target := 0, base := 0, size := 32 * (maskStacks stackOk).length * chanUsable, chanBase := 0 }

/-- No image active: the default arena, nothing else (R309, R340). -/
def ChipCfg.reset (stackOk : Nat) : ChipCfg :=
  { arenas := [(0, defaultArena stackOk)], routes := [], links := [], herdX := 0, herdN := 0, herdIds := [],
    seeds := List.replicate 16 0, points := [], events := [] }

/-- No arena. -/
def Arena.absent : Arena := ⟨0, 0, 0, 256, 0, 0, 0, 0, 0⟩
/-- Arena `i`. -/
def ChipCfg.arena (c : ChipCfg) (i : Nat) : Arena := c.arenas.get Arena.absent i

/-- The range a descriptor of SPACE EXT may use, none while the arena is not defined (R223, R225). -/
def ChipCfg.arenaRange (c : ChipCfg) (i : Nat) : Option (Nat × Nat) :=
  let a := c.arena i
  if a.kind = 0 then none else some (a.base, a.base + a.size)

/-- The arena that holds a device address (R305). -/
def ChipCfg.arenaOf (c : ChipCfg) (a : Nat) : Option (Nat × Arena) :=
  c.arenas.find? fun p => p.2.kind != 0 && decide (p.2.base ≤ a) && decide (a < p.2.base + p.2.size)

/-- `place` of R307: channel and channel-local byte of an address of a MEMORY arena. -/
def Arena.place (ar : Arena) (a : Nat) : Nat × Nat :=
  let off := a - ar.base
  let g := off / ar.gran
  let stacks_ := maskStacks ar.mask
  let k := max 1 stacks_.length
  let n := 32 * k
  let j := g % n
  (32 * nth stacks_ (j % k) 0 + j / k, ar.chanBase + g / n * ar.gran + off % ar.gran)

/-- Where a device address leads. -/
inductive Where where
  | nowhere                                        -- in no arena (R305)
  | memory (chan local_ : Nat)
  | fold (chan local_ op fmt : Nat)
  | command (unit_ off : Nat)
  deriving DecidableEq, Repr

/-- The place of a device address under the arenas in force (R305 to R307, R319, R322). -/
def ChipCfg.whereIs (c : ChipCfg) (a : Nat) : Where :=
  match c.arenaOf a with
  | none => .nowhere
  | some (_, ar) =>
    match ar.kind with
    | 1 => let p := ar.place a; .memory p.1 p.2
    | 2 =>
      let t := c.arena ar.target
      let p := t.place (t.base + (a - ar.base))
      .fold p.1 p.2 ar.foldOp ar.foldFmt
    | _ => .command ((a - ar.base) / 64) ((a - ar.base) % 64)

/-- Bytes of the granule at a device address. -/
def ChipCfg.granAt (c : ChipCfg) (a : Nat) : Nat :=
  match c.arenaOf a with
  | some (_, ar) => if ar.kind = 2 then (c.arena ar.target).gran else ar.gran
  | none => 256

/-- Where a request for a device address goes: a channel, and the granule of it that a request covers (R317); a command port
is one of its own. -/
def ChipCfg.cell (cfg : ChipCfg) (a : Nat) : Option (Nat × Nat) :=
  match cfg.whereIs a with
  | .memory c l => some (c, l / cfg.granAt a)
  | .fold c l _ _ => some (c, l / cfg.granAt a)
  | .command u _ => if u < 256 then some (u, 2 ^ 40) else none
  | .nowhere => none

/-! ### The mesh (R28, R38 to R41, R342) -/

/-- Die of a physical site. -/
def siteDie (t : Nat) : Nat := t / 72
/-- Row and column of a site on its die (R28). -/
def sitePos (t : Nat) : Nat × Nat :=
  let q := t / 18
  let s := t % 18
  (6 * (q % 4 / 2) + s / 3, 3 * (q % 2) + s % 3)
/-- The site at a row and column of a die. -/
def siteAt (die row col : Nat) : Nat :=
  18 * (4 * die + row / 6 * 2 + col / 3) + (row % 6 * 3 + col % 3)

/-- The router an output port leads to, none off the grid (R28, R39). Ports: 0 local, 1 north, 2 east, 3 south,
4 west, 5 bridge, 7 none (R342). -/
def routerNext (t p : Nat) : Option Nat :=
  let d := siteDie t
  let (r, c) := sitePos t
  match p with
  | 1 => if 0 < r then some (siteAt d (r - 1) c) else none
  | 2 => if c < 5 then some (siteAt d r (c + 1)) else none
  | 3 => if r < 11 then some (siteAt d (r + 1) c) else none
  | 4 => if 0 < c then some (siteAt d r (c - 1)) else none
  | 5 => if d = 0 ∧ c = 5 then some (siteAt 1 r 0) else if d = 1 ∧ c = 0 then some (siteAt 0 r 5) else none
  | _ => none

/-- The input port by which a transfer that left by an output port enters the next router. -/
def inPort (p : Nat) : Nat :=
  match p with
  | 1 => 3
  | 2 => 4
  | 3 => 1
  | 4 => 2
  | _ => p

/-- Attachment router and off-grid side of memory channel 32 q + h (R39). -/
def chanAttach (ch : Nat) : Nat × Nat :=
  let q := ch / 32
  let h := ch % 32
  let die := q / 4
  if q = 0 ∨ q = 2 ∨ q = 5 ∨ q = 7 then
    (siteAt die (6 * (q % 4 / 2) + h % 6) (if die = 0 then 0 else 5), if die = 0 then 4 else 2)
  else
    let row := if q % 4 / 2 = 0 then 0 else 11
    (siteAt die row (3 * (q % 2) + h % 3), if row = 0 then 1 else 3)

/-- Attachment router and off-grid side of link port 4 q + i (R39). -/
def linkAttach (p : Nat) : Nat × Nat :=
  let q := p / 4
  let row := if q % 4 / 2 = 0 then 0 else 11
  (siteAt (q / 4) row (3 * (q % 2) + p % 4 % 3), if row = 0 then 1 else 3)

/-- Attachment router and side of an endpoint: a local port, a channel, a link port (R342). -/
def endAttach (d : Nat) : Nat × Nat :=
  if d < 144 then (d, 0) else if d < 400 then chanAttach (d - 144) else linkAttach (d - 400)

/-- The routers and output ports of a route towards endpoint `d`, from a router on (`fuel` routers at most). -/
def walk (routes : Tab (Tab Nat)) (d : Nat) : Nat → Nat → List (Nat × Nat)
  | 0, _ => []
  | fuel + 1, t =>
    let p := Tab.get 7 (Tab.get [] routes t) d
    match routerNext t p with
    | some u => (t, p) :: walk routes d fuel u
    | none => [(t, p)]

/-- The route from a router to an endpoint. -/
def routeOf (routes : Tab (Tab Nat)) (from_ d : Nat) : List (Nat × Nat) := walk routes d 200 from_

/-- Latency of a route: 2 + n + 12 B (R40). -/
def routeLat (rt : List (Nat × Nat)) : Nat := 2 + rt.length + 12 * (rt.filter (·.2 == 5)).length

/-- Latency between endpoints; 0 when both are one core site (R40). -/
def latency (routes : Tab (Tab Nat)) (src dst : Nat) : Nat :=
  if src = dst ∧ src < 144 then 0 else routeLat (routeOf routes (endAttach src).1 dst)

/-- One stay of a transfer on a router output: site, output port, input port, cycle (R40). -/
structure Leg where
  site : Nat
  port : Nat
  inp : Nat
  at_ : Nat
  deriving DecidableEq, Repr

/-- The legs of a route whose transfer was issued in cycle `t` and enters its first router by `inp`. -/
def legsOf (rt : List (Nat × Nat)) (t inp : Nat) : List Leg :=
  (rt.foldl (fun (st : List Leg × Nat × Nat) (h : Nat × Nat) =>
    (st.1 ++ [⟨h.1, h.2, st.2.2, st.2.1⟩], st.2.1 + 1 + (if h.2 = 5 then 12 else 0), inPort h.2)) ([], t + 2, inp)).1

/-- What a transfer carries. -/
inductive Payload where
  | signal (core pail : Nat)
  | atom (owner core id kind word : Nat) (ops : List Nat)
  | atomBack (core id : Nat) (old : List Nat)
  | readReq (owner core ch : Nat) (els : List (Nat × Nat × Nat))
  | data (core ch : Nat) (els : List (Nat × Option Nat))            -- stream index, pattern or poison
  | write (owner : Nat) (accs : List Acc)
  | extRead (core ch chan rel : Nat) (els : List (Nat × Nat × Nat)) -- release cycle; index, device address, bits
  | extWrite (core chan fmt : Nat) (bs : List (Nat × Byte × Byte))
  | remRead (core ch port chip rel : Nat) (els : List (Nat × Nat × Nat))
  | remSeg (core ch port chip fmt : Nat) (fold more : Bool) (addr : Nat) (bs : List (Byte × Byte))
  | remClose (core ch port chip count : Nat) (fold : Bool)
  deriving DecidableEq, Repr

/-- A transfer in the mesh (R40): legs still to come, cycle of delivery, the group of one offer (transfers of
one group are one transfer of the port and do not meet one another), whether it has been dropped. -/
structure Transit where
  group : Nat
  dest : Nat          -- endpoint, with the link channel for a port: 512 m + endpoint
  legs : List Leg
  due : Nat
  lost : Bool
  met : Bool          -- it met a full queue, which has been counted (R333)
  load : Payload
  deriving DecidableEq, Repr

/-- A transfer between two different endpoints, issued in cycle `t` (R40). -/
def transit (routes : Tab (Tab Nat)) (group src dst m t : Nat) (load : Payload) : Transit :=
  let (r0, inp) := endAttach src
  let rt := routeOf routes r0 dst
  { group := group, dest := 512 * m + dst, legs := legsOf rt t inp, due := t + routeLat rt, lost := false,
    met := false, load := load }

/-- The router output a leg uses: off the grid, each attachment and each link channel is one of its own. -/
def outKey (x : Transit) (l : Leg) : Nat × Nat × Nat :=
  (l.site, l.port, if l.port = 5 ∨ (routerNext l.site l.port).isSome then 0 else 1 + x.dest)

/-- How many transfers a router output takes in a cycle: the 4 channels of a bridge router, otherwise 1 (R39). -/
def outWidth (l : Leg) : Nat := if l.port = 5 then 4 else 1

/-- Whether a leg leads off the grid to a memory channel or a link channel: at most one request or payload enters it in a
cycle (R284, R399), so that even the transfers of one offer meet there. -/
def Transit.atEdge (x : Transit) (l : Leg) : Bool := decide (144 ≤ x.dest % 512) && (outKey x l).2.2 != 0

/-- Whether a transfer carries a row's READs for another chip: those that one row sends by one port are one transfer (DESIGN
CHOICE, log entry 38). -/
def Transit.asks (x : Transit) : Bool :=
  match x.load with
  | .remRead .. => true
  | _ => false

/-- Whether transit number `i` of the list `all` loses its output in cycle `r` (R41): as many transfers as the
output takes stand before it, by lower input, then by order of offering. R41 says nothing of two that came by inputs of one
number, as from several attachments on one off-grid side or over several bridge channels: the one offered first is
forwarded (DESIGN CHOICE, log entry 33). -/
def loses (all : List Transit) (r i : Nat) (x : Transit) : Bool :=
  match x.legs.find? fun l => l.at_ == r with
  | none => false
  | some l =>
    let edge := x.atEdge l
    let rivals := (all.zipIdx).filter fun (y, j) => !y.lost && (y.group != x.group || (edge && !(x.asks && y.asks))) &&
      (match y.legs.find? fun m => m.at_ == r with
       | some m => outKey y m == outKey x l && (decide (m.inp < l.inp) || (m.inp == l.inp && decide (j < i)))
       | none => false)
    decide (outWidth l ≤ ((rivals.map fun p => (p.1.group, if edge then p.2 else 0)).eraseDups).length)

/-- The sites at which transfers are dropped in cycle `r`, and the transfers with the dropped ones marked. -/
def meshCollide (all : List Transit) (r : Nat) : List Nat × List Transit :=
  let res := (all.zipIdx).map fun (x, i) =>
    if !x.lost && loses all r i x then
      (((x.legs.filter fun (l : Leg) => l.at_ == r).map fun (l : Leg) => l.site), { x with lost := true, legs := [] })
    else ([], { x with legs := x.legs.filter fun l => decide (r < l.at_) })
  (res.flatMap (·.1), res.map (·.2))

end Sys2Proof.Machine
end

