-- ==== Sys2Proof/Machine/Crc.lean ====
section
/-! DEFINITION. The two check codes the spec names: CRC-64/ECMA-182 (R379, R380) and CRC-32C (R337, R338, R401).
CRC-32C is the named standard's: reflected, polynomial 0x1EDC6F41, initial value and final inversion all ones
(PRESUMED, log entry 11). -/

namespace Sys2Proof.Machine

/-- One bit of CRC-64/ECMA-182. -/
def crc64Bit (c : BitVec 64) : BitVec 64 :=
  if c.msb then (c <<< 1) ^^^ 0x42F0E1EBA9EA3693#64 else c <<< 1

/-- One byte of CRC-64/ECMA-182. -/
def crc64Byte (c : BitVec 64) (b : Byte) : BitVec 64 :=
  crc64Bit (crc64Bit (crc64Bit (crc64Bit (crc64Bit (crc64Bit (crc64Bit (crc64Bit
    (c ^^^ (b.zeroExtend 64 <<< 56)))))))))

/-- CRC-64/ECMA-182 of a byte string: initial value zero, no reflection, no final inversion (R379). -/
def crc64 (bs : Bytes) : BitVec 64 := bs.foldl crc64Byte 0

/-- One bit of CRC-32C. -/
def crc32cBit (c : BitVec 32) : BitVec 32 :=
  if c.getLsbD 0 then (c >>> 1) ^^^ 0x82F63B78#32 else c >>> 1

/-- One byte of CRC-32C. -/
def crc32cByte (c : BitVec 32) (b : Byte) : BitVec 32 :=
  crc32cBit (crc32cBit (crc32cBit (crc32cBit (crc32cBit (crc32cBit (crc32cBit (crc32cBit
    (c ^^^ b.zeroExtend 32))))))))

/-- CRC-32C of a byte string. -/
def crc32c (bs : Bytes) : BitVec 32 := ~~~ (bs.foldl crc32cByte 0xFFFFFFFF#32)

/-- The core signature of 33 closed sums (R380). -/
def coreSig (sums : List (BitVec 64)) : BitVec 64 := crc64 (sums.flatMap fun s => leBytes 8 s.toNat)

end Sys2Proof.Machine
end

