-- ==== Sys2Proof/Machine/Image.lean ====
section
/-! DEFINITION. The configuration image: its layout, its sections and the checks of a load (R336 to R348, R355,
R356). -/

namespace Sys2Proof.Machine

/-- A section table entry (R338). -/
structure Sec where
  typ : Nat
  inst : Nat
  off : Nat
  len : Nat
  crc : Nat
  rsv : Nat
  deriving DecidableEq, Repr

/-- An accepted image as the shadow buffer holds it (R345). -/
structure Image where
  kind : Nat                              -- 0 COLD, 1 PHASE
  hash : Bytes
  chip : ChipCfg
  cores : Tab CoreCfg
  tiles : List (Nat × Nat × Bytes)        -- DATA_TILE: core, offset, bytes
  exts : List (Nat × Bytes)               -- DATA_EXT: device address, bytes
  deriving DecidableEq, Repr

/-- What the checks of a load see of the module. -/
structure LoadEnv where
  enabled : Nat
  partCode : Nat
  shortQuadrant : Nat
  mapDigest : Nat
  eozil : Nat                             -- version, major in [31:16]
  activeHash : Bytes                      -- 48 zero bytes without an active image
  activeArenas : Tab Arena
  anyRun : Bool
  stackOk : Nat
  siteOk : Nat → Bool                     -- an enabled core site
  portUp : Nat → Bool
  portThere : Nat → Bool                  -- on a die that is not lost
  policy : Bytes → Bytes → Bool           -- signatures_meet_policy: image hash, signature block

/-- A refusal: code of R355, section index (0xFFF for none), DETAIL (R356). -/
abbrev LoadRes := Nat × Nat × Nat

/-- Header fields (R337). -/
def imgBodySize (b : Bytes) : Nat := leAt b 16 8
/-- SIG_SIZE. -/
def imgSigSize (b : Bytes) : Nat := leAt b 24 8
/-- A section table entry from its 32 bytes. -/
def secOf (e : Bytes) : Sec := ⟨leAt e 0 2, leAt e 2 2, leAt e 8 8, leAt e 16 8, leAt e 24 4, leAt e 4 4 + leAt e 28 4⟩
/-- The section table. -/
def imgSecs (b : Bytes) : List Sec := (chunksOf 32 (leAt b 12 2) (b.drop (leAt b 32 8))).map secOf
/-- A section's bytes. -/
def secBytes (b : Bytes) (s : Sec) : Bytes := (b.drop s.off).take s.len
/-- The hash stored behind the body. -/
def imgHash (b : Bytes) : Bytes := (b.drop (imgBodySize b)).take 48
/-- The signature block. -/
def imgSig (b : Bytes) : Bytes := (b.drop (imgBodySize b + 48)).take (imgSigSize b)

/-- Whether two byte ranges meet. -/
def meet (a n b m : Nat) : Bool := decide (a < b + m) && decide (b < a + n) && decide (0 < n) && decide (0 < m)

/-- No two of the ranges meet. -/
def disjoint : List (Nat × Nat) → Bool
  | [] => true
  | (a, n) :: t => !(t.any fun p => meet a n p.1 p.2) && disjoint t

/-- `layout_ok` with the whole length (R336 to R338). -/
def layoutOk (b : Bytes) : Bool :=
  let n := imgBodySize b
  let cnt := leAt b 12 2
  let tab := leAt b 32 8
  let secs := imgSecs b
  n + 48 + imgSigSize b == b.length && decide (b.length ≤ 2 ^ 30) && n % 64 == 0 && imgSigSize b % 8 == 0 &&
  decide (imgSigSize b ≤ 65536) && decide (1 ≤ cnt) && decide (cnt ≤ 4095) && tab % 64 == 0 && decide (256 ≤ tab) &&
  decide (tab + 32 * cnt ≤ n) && leAt b 15 1 == 0 && leAt b 50 2 == 0 && leAt b 112 70 == 0 && leAt b 182 70 == 0 &&
  decide (leAt b 14 1 ≤ 1) && (leAt b 14 1 == 1 || (b.drop 56).take 48 == fillBytes 48 0) &&
  secs.all (fun s => s.off % 64 == 0 && decide (s.off + s.len ≤ n) && s.rsv == 0) &&
  disjoint ((0, 256) :: (tab, 32 * cnt) :: secs.map fun s => (s.off, s.len))

/-! ### Sections (R340 to R344) -/

/-- The bytes of the section of a type and instance among those listed, none where it is absent. -/
def secOr (b : Bytes) (secs : List Sec) (typ inst : Nat) : Bytes :=
  match secs.find? fun s => s.typ == typ && s.inst == inst with
  | some s => secBytes b s
  | none => []

/-- `n` records of `size` bytes from `off` on, those that are not zero. -/
def recTab (w : Nat) (bs : Bytes) (off size n : Nat) : Tab (BitVec w) :=
  (chunksOf size n (bs.drop off)).zipIdx.filterMap fun (e, i) =>
    let v := BitVec.ofNat w (leNat e)
    if v = 0 then none else some (i, v)

/-- The signed 9-bit flush threshold at a place of a COR_VE_FLUSH word (R184). -/
def flushAt (w lo : Nat) : Int := sgn 9 (w >>> lo)

/-- A function table from its bytes (R187, R188, R340). -/
def ftabOf (bs : Bytes) (t : Nat) : FTable :=
  let o := 4112 * t
  let lo := leAt bs o 8
  let hi := leAt bs (o + 8) 8
  { x0 := bits lo 63 32, invW := bits lo 31 0, loaded := bit hi 3, linear := bit hi 2, inW := bits hi 1 0
    seg := (List.range 256).filterMap fun i =>
      let p := o + 16 + 16 * i
      let v := (leAt bs p 4, leAt bs (p + 4) 4, leAt bs (p + 8) 4)
      if v = (0, 0, 0) then none else some (i, v) }

/-- A micro-program from its bytes (R172, R189, R340). -/
def uprogOf (bs : Bytes) (u : Nat) : UProg :=
  let o := 1032 * u
  let h := leAt bs o 8
  { loaded := bit h 40, cycles := bits h 31 16
    steps := (List.range (min 256 (bits h 8 0))).map fun j => BitVec.ofNat 32 (leAt bs (o + 8 + 4 * j) 4) }

/-- The configuration an image gives one core (R340). -/
def coreCfgOf (b : Bytes) (secs : List Sec) (c : Nat) : CoreCfg :=
  let s := fun (t : Nat) => secOr b secs t c
  let pr := s 1
  let n := leAt pr 2 2
  let tl := s 3
  let ve := s 6
  let tabs := s 7
  let ups := s 8
  let qn := s 9
  let mv := s 12
  { entry := leAt pr 0 2
    faultHalt := bit (leAt pr 4 1) 0
    prog := (chunksOf 32 n (pr.drop 64)).map fun e => BitVec.ofNat 256 (leNat e)
    forms := recTab 8 (s 2) 0 1 4096
    tallies := (List.range 16).map fun i => BitVec.ofNat 32 (leAt tl (4 * i) 4)
    seams := recTab 64 (s 4) 0 8 64
    opt := recTab 128 (s 5) 0 16 1024
    consts := recTab 32 ve 0 4 32
    ptrs := recTab 64 ve 128 8 16
    flush16 := flushAt (leAt ve 256 8) 16
    flush32 := flushAt (leAt ve 256 8) 0
    compat := bit (leAt ve 264 8) 0
    tabs := if tabs.isEmpty then [] else (List.range 4).map fun t => (t, ftabOf tabs t)
    uprogs := if ups.isEmpty then [] else ((List.range 64).map fun u => (u, uprogOf ups u)).filter (·.2.loaded)
    quant := recTab 128 qn 0 16 64
    qlimit := BitVec.ofNat 64 (leAt qn 1024 8)
    desc := (recTab 1024 (s 10) 0 128 128).filter fun d => (Desc.of d.2).typ != 0
    sep := (recTab 64 (s 11) 0 8 16).filter (·.1 != 0)
    moves := recTab 128 mv 0 16 64
    wins := recTab 64 mv 1024 8 384
    pails := recTab 8 (s 13) 0 1 2048
    volatile := BitVec.ofNat 128 (leAt (s 14) 0 16) }

/-- An arena entry (R341). -/
def arenaAt (bs : Bytes) (i : Nat) : Arena :=
  let o := 32 * i
  { kind := leAt bs o 1, foldOp := leAt bs (o + 1) 1, foldFmt := leAt bs (o + 2) 1
    gran := if leAt bs (o + 3) 1 = 1 then 32 else 256
    mask := leAt bs (o + 4) 1, target := leAt bs (o + 5) 1, base := leAt bs (o + 8) 8, size := leAt bs (o + 16) 8
    chanBase := leAt bs (o + 24) 8 }

/-- The arenas of an ARENAS section. -/
def arenasOf (bs : Bytes) : Tab Arena := ((List.range 16).map fun i => (i, arenaAt bs i)).filter (·.2.kind != 0)

/-- The routes of a ROUTES section: by site, by endpoint, the output port; 7 is not listed. -/
def routesOf (bs : Bytes) : Tab (Tab Nat) :=
  (chunksOf 512 144 bs).zipIdx.map fun (e, t) =>
    (t, (e.take 432).zipIdx.filterMap fun (p, d) => if p = 7 then none else some (d, p.toNat))

/-- What an image sets for the chip (R340 to R344). -/
def chipCfgOf (b : Bytes) (secs : List Sec) : ChipCfg :=
  let secOr := fun (t : Nat) => secOr b secs t 0
  let herd := secOr 0x23
  let h := leAt herd 0 2
  let pts := secOr 0x25
  let evs := secOr 0x26
  let lr := secOr 0x22
  let sd := secOr 0x24
  { arenas := arenasOf (secOr 0x20)
    routes := routesOf (secOr 0x21)
    links := (List.range 1024).filterMap fun x =>
      let w := leAt lr (4 * x) 4
      if bit w 5 then some (x, bits w 4 0) else none
    herdX := leAt herd 2 2
    herdN := h
    herdIds := (List.range h).map fun i => leAt herd (8 + 8 * i) 8
    seeds := (List.range 16).map fun i => leAt sd (8 * i) 8
    points := (List.range (leAt pts 0 4)).filterMap fun i =>
      let o := 16 + 272 * i
      if bit (leAt pts o 1) 0 then
        some (i, ⟨bit (leAt pts o 1) 1, (List.range 128).map fun c => leAt pts (o + 16 + 2 * c) 2⟩)
      else none
    events := (List.range (leAt evs 0 4)).map fun i =>
      let o := 8 + 8 * i
      ⟨leAt evs o 2, leAt evs (o + 2) 1, leAt evs (o + 3) 1, leAt evs (o + 4) 4⟩ }

/-- The image that the bytes of a file spell. -/
def Image.of (b : Bytes) (enabled : Nat) : Image :=
  let secs := imgSecs b
  { kind := leAt b 14 1
    hash := imgHash b
    chip := chipCfgOf b secs
    cores := (List.range enabled).map fun c => (c, coreCfgOf b (secs.filter (·.inst == c)) c)
    tiles := secs.filterMap fun s =>
      let x := secBytes b s
      if s.typ = 0x10 then some (s.inst, leAt x 0 4, x.drop 64) else none
    exts := secs.filterMap fun s =>
      let x := secBytes b s
      if s.typ = 0x30 then some (leAt x 0 8, x.drop 64) else none }

/-! ### Checks (R347) -/

/-- The first of a list of (broken, DETAIL) that is broken, as a code. -/
def firstBad (code : Nat) (l : List (Bool × Nat)) : Nat × Nat :=
  match l.find? (·.1) with
  | some (_, d) => (code, d)
  | none => (0, 0)

/-- The first result that is a refusal. -/
def firstCode : List (Nat × Nat) → Nat × Nat
  | [] => (0, 0)
  | (0, _) :: t => firstCode t
  | x :: _ => x

/-- SEQ slot opcode of a bundle. -/
def seqOp (b : BitVec 256) : Nat := bits (slotWord b 1) 31 27
where slotWord (b : BitVec 256) (i : Nat) : Nat := bits b.toNat (32 * i + 31) (32 * i)

/-- SEQ slot of a bundle. -/
def seqWord (b : BitVec 256) : Nat := bits b.toNat 63 32

/-- The run of bundles a bundle's step takes in program order (R247). -/
def stepRun (prog : List (BitVec 256)) (i : Nat) : Nat × Nat :=
  let seam := fun (j : Nat) => match prog[j]? with | some b => seqOp b == 5 | none => false
  let lo := match ((List.range i).reverse).find? seam with | some j => j + 1 | none => 0
  let hi := match ((List.range (prog.length - i)).map (· + i)).find? seam with | some j => j | none => prog.length - 1
  (lo, hi)

/-- The bundles a bundle reaches (R247). -/
def reachesOf (prog : List (BitVec 256)) (seams : Tab (BitVec 64)) (i : Nat) : List Nat :=
  match prog[i]? with
  | none => []
  | some b =>
    let w := seqWord b
    let e := (seams.get 0 (bits w 19 14)).toNat
    let cond := bits e 63 60
    match seqOp b with
    | 6 => []
    | 5 => if bit w 20 then (if cond = 1 then [] else [i + 1]) ++ (if cond = 0 then [] else [bits e 34 23]) else [i + 1]
    | 4 => [i + 1, bits w 11 0]
    | _ => [i + 1]

/-- The bundles reachable from a work list, `fuel` steps at most. -/
def reachable (prog : List (BitVec 256)) (seams : Tab (BitVec 64)) : Nat → List Nat → List Nat → List Nat
  | 0, _, seen => seen
  | _, [], seen => seen
  | f + 1, i :: t, seen =>
    if seen.contains i then reachable prog seams f t seen
    else reachable prog seams f (reachesOf prog seams i ++ t) (i :: seen)

/-- PROGRAM (R245, R247, R268). `edge` tells whether a pail of a core is EDGE under this image. -/
def checkProgram (c : CoreCfg) (self enabled : Nat) (edge : Nat → Nat → Bool) (bs : Bytes) : Nat × Nat :=
  let n := c.prog.length
  let idx := c.prog.zipIdx
  let at_ := fun (i : Nat) => 64 + 32 * i
  let rep := fun (b : BitVec 256) => bits b.toNat 31 24
  firstCode
    [firstBad 0x0D [(n = 0 || decide (4096 < n) || bs.length != 64 + 32 * n, 2), (decide (1 < leAt bs 4 1) || leAt bs 5 59 != 0, 4)],
     firstBad 0x0D (idx.map fun (b, i) => (bits b.toNat 7 0 != 0, at_ i)),
     firstBad 0x0E [(decide (n ≤ c.entry), 0)],
     firstBad 0x0E (idx.map fun (b, i) => ([4, 5, 6, 7].contains (seqOp b) && rep b != 0, at_ i)),
     firstBad 0x0E (idx.map fun (b, i) =>
       let t := bits (seqWord b) 11 0
       let r := stepRun c.prog i
       (seqOp b == 4 && (decide (t < r.1) || decide (r.2 < t)), at_ i)),
     firstBad 0x0E (idx.map fun (b, i) =>
       let w := seqWord b
       let d := if bit w 15 then bits w 14 8 else self
       (seqOp b == 1 && decide (d < enabled) && edge d (bits w 26 16), at_ i)),
     (let reached := reachable c.prog c.seams (4 * n + 8) [c.entry] []
      firstBad 0x0E (idx.map fun (_, i) => (reached.contains i && (reachesOf c.prog c.seams i).any (n ≤ ·), at_ i)))]

/-- FORMS (R125, R150). -/
def checkForms (bs : Bytes) : Nat × Nat :=
  firstBad 0x0D ((bs.length != 4096, 0) :: bs.zipIdx.map fun (x, i) =>
    let f := (List.range 4).map fun e => bits x.toNat (2 * e + 1) (2 * e)
    (f.contains 3 || (f.contains 1 && f.any (· != 1)), i))

/-- Reserved fields and types of an operation-table entry (R141 to R147). -/
def optBad (x : Nat) : Bool :=
  match bits x 127 124 with
  | 0 => false
  | 1 => bits x 92 0 != 0
  | 2 => bits x 21 0 != 0
  | 3 => bits x 24 0 != 0
  | 4 => bits x 57 0 != 0
  | 5 => false
  | 6 => bits x 94 0 != 0
  | _ => true

/-- ME_TABLES. -/
def checkOpt (bs : Bytes) : Nat × Nat :=
  firstBad 0x0D ((bs.length != 16384, 0) :: (chunksOf 16 1024 bs).zipIdx.map fun (e, i) => (optBad (leNat e), 16 * i))

/-- SEAMS (R252). -/
def checkSeams (bs : Bytes) : Nat × Nat :=
  firstBad 0x0D ((bs.length != 512, 0) :: (List.range 64).map fun i =>
    let e := leAt bs (8 * i) 8
    (decide (4 < bits e 63 60) || bits e 22 0 != 0, 8 * i))

/-- VE_CONFIG (R184, R190). -/
def checkVe (bs : Bytes) : Nat × Nat :=
  let f := leAt bs 256 8
  let out := fun (x : Int) => decide (x < -255) || decide (0 < x)
  firstBad 0x0F ((bs.length != 272, 0) :: ((List.range 16).map fun i => (bits (leAt bs (128 + 8 * i) 8) 63 52 != 0, 128 + 8 * i)) ++
    [(out (flushAt f 16) || out (flushAt f 0) || bits f 63 25 != 0 || bits f 15 9 != 0, 256), (decide (1 < leAt bs 264 8), 264)])

/-- VE_TABLES (R187, R188): headers, and the reserved halves of segments. -/
def checkTabs (bs : Bytes) : Nat × Nat :=
  firstBad 0x0F ((bs.length != 16448, 0) :: (List.range 4).flatMap fun t =>
    let h := leAt bs (4112 * t + 8) 8
    (bits h 63 4 != 0 || (bit h 3 && !bit h 2 && bits h 1 0 != 1 && bits h 1 0 != 2), 4112 * t) ::
      (List.range 256).map fun i => (leAt bs (4112 * t + 16 + 16 * i + 12) 4 != 0, 4112 * t + 16 + 16 * i))

/-- A micro-step passes the checks of R158, R159 and R172. -/
def ustepOk (s : Nat) : Bool :=
  let op := bits s 31 26
  let sl : VeSlot := ⟨bits s 25 24, bits s 23 20, bits s 19 16, bits s 15 12, bits s 11 8, bits s 7 4⟩
  let konst := op == 3
  let sl' : VeSlot := if konst then { sl with va := bits s 12 8, vb := 0, vc := 0 } else sl
  [0x03, 0x04, 0x05, 0x08, 0x09, 0x0A, 0x0B, 0x0C, 0x0D, 0x0E, 0x0F, 0x18, 0x19, 0x1A].contains op &&
  bits s 3 1 == 0 && veFieldsOk op sl' && !(Core.reset.veFmtBad op sl') && (!konst || (bits s 15 13 == 0 && bits s 19 16 == 0))

/-- VE_UPROG (R171, R172). -/
def checkUprog (bs : Bytes) : Nat × Nat :=
  firstBad 0x0F ((bs.length != 66048, 0) :: (List.range 64).map fun u =>
    let h := leAt bs (1032 * u) 8
    let p := uprogOf bs u
    let n := bits h 8 0
    (bits h 63 41 != 0 || bits h 39 32 != 0 || bits h 15 9 != 0 ||
     (bit h 40 && (n == 0 || decide (256 < n) || !(p.steps.zipIdx.all fun (s, j) =>
       ustepOk s.toNat && s.getLsbD 0 == (j + 1 == n)))), 1032 * u))

/-- A quantisation entry breaks R196, R200 or R214. -/
def quantBad (x : Nat) : Bool :=
  match bits x 127 124 with
  | 0 => false
  | 1 =>
    let z := sgn 8 (bits x 113 106)
    decide (2 < bits x 123 120) || (bits x 119 116 != 3 && bits x 119 116 != 4) || bits x 115 114 == 3 || bits x 35 0 != 0 ||
    (bits x 119 116 == 4 && (decide (z < -8) || decide (7 < z)))
  | 2 =>
    let s := bits x 123 120
    let d := bits x 119 116
    (s != 1 && s != 2) || (d != 1 && d != 2) || decide (d < s) || bits x 58 0 != 0
  | 3 =>
    (bits x 123 120 != 8 && bits x 123 120 != 9) || (bits x 118 117 != 1 && bits x 118 117 != 2) || bits x 49 0 != 0 ||
    (bit x 119 && bits x 118 117 != 1)
  | _ => true

/-- QUANT. -/
def checkQuant (bs : Bytes) : Nat × Nat :=
  firstBad 0x0F ((bs.length != 1032, 0) :: (List.range 64).map fun i => (quantBad (leAt bs (16 * i) 16), 16 * i))

/-- DESCRIPTORS (R225, R227). -/
def checkDescs (enabled : Nat) (cfg : ChipCfg) (bs : Bytes) : Nat × Nat :=
  if bs.length ≠ 16384 then (0x0D, 0)
  else firstCode ((chunksOf 128 128 bs).zipIdx.map fun (e, i) =>
    let d := BitVec.ofNat 1024 (leNat e)
    if (Desc.of d).typ = 0 then (0, 0)
    else
      let r := validate enabled cfg.arenaRange d
      if r = 0 then (0, 0) else (0x10, 256 * i + r))

/-- SEP_PROGS (R243). -/
def checkSep (bs : Bytes) : Nat × Nat :=
  firstBad 0x0F ((bs.length != 128, 0) :: (leAt bs 0 8 != 0x0100000000000000, 0) :: (List.range 16).map fun i =>
    let p := leAt bs (8 * i) 8
    (bits p 63 57 != 0 || (List.range 14).any fun k => decide (13 < bits p (4 * k + 3) (4 * k)), 8 * i))

/-- SPACE of a descriptor slot is STAGING. -/
def stagingSlot (c : CoreCfg) (i : Nat) : Bool := match c.desc.find? (·.1 == i) with | some d => (Desc.of d.2).space == 3 | none => false

/-- MOVES: reserved fields (R263), then R298. -/
def checkMoves (c : CoreCfg) (bs : Bytes) : Nat × Nat :=
  firstCode
    [firstBad 0x0D ((bs.length != 4096, 0) :: (List.range 64).map fun i =>
      let x := leAt bs (16 * i) 16
      let t := bits x 127 124
      (decide (4 < t) || bits x 6 0 != 0 || (t == 4 && (bits x 123 94 != 0 || bits x 86 0 != 0)), 16 * i)),
     firstBad 0x11 ((List.range 64).map fun i =>
      let x := leAt bs (16 * i) 16
      let t := bits x 127 124
      (t != 0 && t != 4 && c.volatile.getLsbD (bits x 123 117) && stagingSlot c (bits x 116 110), 0))]

/-- VOLATILE (R298). -/
def checkVolatile (c : CoreCfg) (bs : Bytes) : Nat × Nat :=
  if bs.length ≠ 16 then (0x0D, 0)
  else firstBad 0x11 ((List.range 128).map fun i => (c.volatile.getLsbD i && stagingSlot c i, 0))

/-- PAILS. -/
def checkPails (kind : Nat) (bs : Bytes) : Nat × Nat :=
  firstBad 0x0D ((bs.length != 2048, 0) :: bs.zipIdx.map fun (b, j) =>
    let x := b.toNat
    (decide (16 < bits x 4 0) || bit x 7 || (kind == 0 && bit x 6), j))

/-- Channel-local range of a MEMORY arena. -/
def Arena.chanRange (a : Arena) : Nat × Nat := (a.chanBase, a.size / max 1 (32 * (maskStacks a.mask).length))

/-- The bytes of an arena entry that its KIND does not use, the reserved ones among them (R341). -/
def arenaUnused (kind : Nat) : List Nat :=
  match kind with
  | 0 => (List.range 31).map (· + 1)
  | 1 => [1, 2, 5, 6, 7]
  | 2 => [3, 4, 6, 7] ++ (List.range 8).map (· + 24)
  | _ => [1, 2, 3, 4, 5, 6, 7] ++ (List.range 8).map (· + 24)

/-- Whether a byte of an arena entry holds a value that its field does not have (R50, R306, R341, R355). -/
def arenaField (a : Arena) (k v : Nat) : Bool :=
  (k == 0 && decide (3 < v)) || ((arenaUnused a.kind).contains k && v != 0) || (a.kind == 1 && k == 3 && decide (1 < v)) ||
  (a.kind == 2 && ((k == 1 && decide (5 < v)) || (k == 2 && decide (0xA < v)) || (k == 5 && decide (15 < v))))

/-- An arena breaks R305, R306, R308, R319 or R322. -/
def arenaBad (all : Tab Arena) (stackOk i : Nat) (raw : Bytes) : Bool :=
  let a := arenaAt raw i
  let n := 32 * (maskStacks a.mask).length
  let others := all.filter fun p => p.1 != i
  match a.kind with
  | 0 => false
  | 1 =>
    n == 0 || a.mask &&& (255 - stackOk % 256) != 0 || decide (2 ^ 39 < a.base + a.size) ||
    a.base % a.gran != 0 || a.size % a.gran != 0 || a.chanBase % a.gran != 0 || a.size % (a.gran * n) != 0 ||
    decide (chanUsable < a.chanBase + a.size / n) || (others.any fun p => meet a.base a.size p.2.base p.2.size) ||
    others.any fun p => p.2.kind == 1 && p.2.mask &&& a.mask != 0 &&
      meet a.chanRange.1 a.chanRange.2 p.2.chanRange.1 p.2.chanRange.2
  | 2 =>
    let t := all.get Arena.absent a.target
    t.kind != 1 || t.size != a.size || decide (a.base < 2 ^ 39) || decide (2 ^ 40 < a.base + a.size) ||
    (a.foldOp == 0 && !([8, 9, 10].contains a.foldFmt)) || ((a.foldOp == 3 || a.foldOp == 4) && decide (2 < a.foldFmt)) ||
    (a.foldOp == 0 && a.foldFmt == 10 && t.gran == 32)
  | _ => decide (a.base < 2 ^ 39) || decide (2 ^ 40 < a.base + a.size) || a.size != 16384

/-- ARENAS: reserved fields and values out of range first, then the rules between arenas. -/
def checkArenas (stackOk : Nat) (bs : Bytes) : Nat × Nat :=
  if bs.length ≠ 512 then (0x0D, 0)
  else
    let all := ((List.range 16).map fun i => (i, arenaAt bs i)).filter (·.2.kind != 0)
    firstCode
      [firstBad 0x0D (bs.zipIdx.map fun (b, k) => (arenaField (arenaAt bs (k / 32)) (k % 32) b.toNat, k)),
       firstBad 0x12 ((List.range 16).map fun i => (arenaBad all stackOk i bs, i))]

/-- Whether endpoint `d` can be routed to (R347). -/
def endpointOk (env : LoadEnv) (d : Nat) : Bool :=
  if d < 144 then env.siteOk d else if d < 400 then bit env.stackOk ((d - 144) / 32) else env.portThere (d - 400)

/-- A route from a site ends where its endpoint is attached, without a loop (R39, R347). -/
def routeOk (routes : Tab (Tab Nat)) (d t : Nat) : Bool :=
  match (walk routes d 200 t).getLast? with
  | some (u, p) => (u, p) == endAttach d
  | none => false

/-- ROUTES (R342, R347): the bytes first, then the routes. -/
def checkRoutes (env : LoadEnv) (routes : Tab (Tab Nat)) (bs : Bytes) : Nat × Nat :=
  firstCode
    [firstBad 0x0D ((bs.length != 73728, 0) :: bs.zipIdx.map fun (b, i) =>
      (b == 6 || decide (7 < b.toNat) || (decide (432 ≤ i % 512) && b != 7), i)),
     firstBad 0x13 (bs.zipIdx.map fun (b, i) =>
      (b != 7 && (!endpointOk env (i % 512) || !routeOk routes (i % 512) (i / 512)), i))]

/-- LINK_ROUTES (R340, R421). -/
def checkLinks (env : LoadEnv) (herdX : Nat) (bs : Bytes) : Nat × Nat :=
  firstCode
    [firstBad 0x0D ((bs.length != 4096, 0) :: (List.range 1024).map fun x => (bits (leAt bs (4 * x) 4) 31 6 != 0, 4 * x)),
     firstBad 0x13 ((List.range 1024).map fun x =>
      let w := leAt bs (4 * x) 4
      (bit w 5 && (x == herdX || !env.portUp (bits w 4 0)), 4 * x))]

/-- HERD. -/
def checkHerd (bs : Bytes) : Nat × Nat :=
  let h := leAt bs 0 2
  if h = 0 ∨ 1024 < h ∨ bs.length ≠ 8 + 8 * h ∨ h ≤ leAt bs 2 2 ∨ leAt bs 4 4 ≠ 0 then (0x14, 0) else (0, 0)

/-- POINTS (R343). -/
def checkPoints (cores : Nat → CoreCfg) (enabled : Nat) (bs : Bytes) : Nat × Nat :=
  let x := leAt bs 0 4
  let ent := fun (i c : Nat) => leAt bs (16 + 272 * i + 16 + 2 * c) 2
  let valid := fun (i : Nat) => bit (leAt bs (16 + 272 * i) 1) 0
  let isSeam := fun (c b : Nat) => match (cores c).prog[b]? with | some w => seqOp w == 5 | none => false
  firstCode
    [firstBad 0x0D [(decide (256 < x) || bs.length != 16 + 272 * x || leAt bs 4 12 != 0, 0)],
     firstBad 0x0D ((List.range (min x 256)).flatMap fun i =>
      let o := 16 + 272 * i
      (decide (3 < leAt bs o 1) || leAt bs (o + 1) 15 != 0, o) ::
      (List.range 128).map fun c =>
        (valid i && (if c < enabled then !isSeam c (ent i c) || (List.range i).any fun j => valid j && ent j c == ent i c
          else ent i c != 0xFFFF), o + 16 + 2 * c))]

/-- Data-class sources of the interrupt controller (R483). -/
def dataSource (n : Nat) : Bool :=
  (decide (128 ≤ n) && decide (n < 512)) || (decide (768 ≤ n) && decide (n < 800)) || (decide (832 ≤ n) && decide (n < 960))

/-- EVENTS (R344). -/
def checkEvents (bs : Bytes) : Nat × Nat :=
  let n := leAt bs 0 4
  if bs.length ≠ 8 + 8 * n ∨ leAt bs 4 4 ≠ 0 then (0x0D, 0)
  else firstBad 0x0D ((List.range n).map fun i =>
    let o := 8 + 8 * i
    (!dataSource (leAt bs o 2) || decide (31 < leAt bs (o + 2) 1) || leAt bs (o + 3) 1 == 0 || decide (2 ^ 20 ≤ leAt bs (o + 4) 4), o))

/-- DATA_TILE: `others` are the ranges of the earlier ones of the core. -/
def checkTile (kind : Nat) (others : List (Nat × Nat)) (bs : Bytes) : Nat × Nat :=
  let o := leAt bs 0 4
  let n := bs.length - 64
  firstBad 0x15 [(bs.length < 64 || kind == 1 || o % 64 != 0 || decide (8388608 < o + n) || leAt bs 4 60 != 0 ||
    others.any fun p => meet o n p.1 p.2, 0)]

/-- Whether the device range from `a` up to and not including `e` lies in MEMORY arenas, one after another, `fuel` of them at
most. -/
def covered (own : Tab Arena) (e : Nat) : Nat → Nat → Bool
  | 0, a => decide (e ≤ a)
  | fuel + 1, a => decide (e ≤ a) || match own.find? fun p => p.2.kind == 1 && decide (p.2.base ≤ a) && decide (a < p.2.base + p.2.size) with
    | some p => covered own e fuel (p.2.base + p.2.size)
    | none => false

/-- DATA_EXT. -/
def checkExt (kind : Nat) (own active : Tab Arena) (bs : Bytes) : Nat × Nat :=
  let a := leAt bs 0 8
  let n := bs.length - 64
  firstBad 0x15 [(bs.length < 64 || leAt bs 8 56 != 0 || !covered own (a + n) 16 a ||
    (kind == 1 && active.any fun p => p.2.kind == 1 && meet a n p.2.base p.2.size), 0)]

/-- Whether a section type is per core (R340). -/
def perCore (t : Nat) : Bool := (decide (1 ≤ t) && decide (t ≤ 0xE)) || t == 0x10

/-- A section's type, instance and being the first of its kind (R340, R355). -/
def sectionOk (enabled : Nat) (earlier : List Sec) (s : Sec) : Bool :=
  (perCore s.typ || (decide (0x20 ≤ s.typ) && decide (s.typ ≤ 0x26)) || s.typ == 0x30) &&
  (if perCore s.typ then decide (s.inst < enabled) else s.inst == 0) &&
  (s.typ == 0x10 || s.typ == 0x30 || !(earlier.any fun e => e.typ == s.typ && e.inst == s.inst))

/-- `check_and_place` of one section of a parsed image (R347): code and DETAIL. -/
def checkSection (env : LoadEnv) (b : Bytes) (img : Image) (earlier : List Sec) (s : Sec) : Nat × Nat :=
  let bs := secBytes b s
  let c := img.cores.get CoreCfg.reset s.inst
  let edge := fun (d p : Nat) => ((img.cores.get CoreCfg.reset d).pails.get 0 p).getLsbD 5
  if !sectionOk env.enabled earlier s then (0x0C, 0)
  else match s.typ with
    | 0x01 => checkProgram c s.inst env.enabled edge bs
    | 0x02 => checkForms bs
    | 0x03 => firstBad 0x0D [(bs.length != 64, 0)]
    | 0x04 => checkSeams bs
    | 0x05 => checkOpt bs
    | 0x06 => checkVe bs
    | 0x07 => checkTabs bs
    | 0x08 => checkUprog bs
    | 0x09 => checkQuant bs
    | 0x0A => checkDescs env.enabled img.chip bs
    | 0x0B => checkSep bs
    | 0x0C => checkMoves c bs
    | 0x0D => checkPails img.kind bs
    | 0x0E => checkVolatile c bs
    | 0x10 => checkTile img.kind ((earlier.filter fun e => e.typ == 0x10 && e.inst == s.inst).map fun e =>
        (leAt (secBytes b e) 0 4, e.len - 64)) bs
    | 0x20 => checkArenas env.stackOk bs
    | 0x21 => checkRoutes env img.chip.routes bs
    | 0x22 => checkLinks env img.chip.herdX bs
    | 0x23 => checkHerd bs
    | 0x24 => firstBad 0x0D [(bs.length != 128, 0)]
    | 0x25 => checkPoints (fun c => img.cores.get CoreCfg.reset c) env.enabled bs
    | 0x26 => checkEvents bs
    | _ => checkExt img.kind img.chip.arenas env.activeArenas bs

/-- The sections in table order: CRC, then the checks of each (R346). -/
def checkSections (env : LoadEnv) (b : Bytes) (img : Image) : Nat → List Sec → List Sec → LoadRes
  | _, _, [] => (0, 0xFFF, 0)
  | i, earlier, s :: t =>
    if (crc32c (secBytes b s)).toNat ≠ s.crc then (0x0B, i, 0)
    else match checkSection env b img earlier s with
      | (0, _) => checkSections env b img (i + 1) (earlier ++ [s]) t
      | (code, d) => (code, i, d)

/-- Whether a required section is missing (R340). -/
def missing (b : Bytes) (enabled : Nat) : Bool :=
  let secs := imgSecs b
  let have_ := fun (t c : Nat) => secs.any fun s => s.typ == t && s.inst == c
  ((List.range enabled).any fun c => [1, 2, 3, 4, 5, 6, 9, 10, 11, 12, 13, 14].any fun t => !have_ t c) ||
  [0x20, 0x21, 0x23, 0x24].any fun t => !have_ t 0

/-- The first pass: header and hash (R346). -/
def loadFirst (b : Bytes) : Nat :=
  if (b.take 8) ≠ [0x4A, 0x43, 0x51, 0x49, 0x4D, 0x47, 0, 0] ∨ leAt b 8 2 ≠ 1 ∨ leAt b 10 2 ≠ 256 then 1
  else if (crc32c (b.take 252)).toNat ≠ leAt b 252 4 then 2
  else if !layoutOk b then 3
  else if sha384 (b.take (imgBodySize b)) ≠ imgHash b then 4
  else 0

/-- The second pass up to the section loop (R346). -/
def loadSecond (env : LoadEnv) (b : Bytes) : Nat :=
  if !env.policy (imgHash b) (imgSig b) then 5
  else if env.shortQuadrant ≠ 0 then 6
  else if leAt b 48 2 ≠ env.partCode then 7
  else if leAt b 40 8 ≠ env.mapDigest then 8
  else if env.eozil < leAt b 52 4 then 9
  else if leAt b 14 1 = 1 ∧ ((b.drop 56).take 48 ≠ env.activeHash ∨ env.activeHash = fillBytes 48 0) then 0xA
  else if leAt b 14 1 = 0 ∧ env.anyRun then 0xA
  else 0

/-- The section loop and the required sections (R346). -/
def loadThird (env : LoadEnv) (b : Bytes) : LoadRes :=
  match checkSections env b (Image.of b env.enabled) 0 [] (imgSecs b) with
  | (0, _, _) => if missing b env.enabled then (0x0C, 0xFFF, 0) else (0, 0xFFF, 0)
  | r => r

/-! ### Its state (R345, R357 to R361, R392) -/

/-- A launch that waits for its count or barrier (R389). -/
structure Launch where
  barrier : Bool
  at_ : BitVec 64        -- L of an AT_COUNT launch
  cmd : Nat              -- the host command that completes
  deriving DecidableEq, Repr

/-- Image buffers, library and the run. -/
structure ImgSt where
  active : Nat                    -- 0 NONE, 1 COLD, 2 PHASE
  activeHash : Bytes              -- empty without one
  shadow : Nat                    -- 0 EMPTY, 1 LOADING, 2 READY, 3 ARMED
  image : Option Image            -- the image in the shadow buffer
  second : Bool                   -- PASS
  loading : Bytes                 -- the image whose load waits for its second pass
  loadCmd : Nat                   -- the host command of that load
  loaded : Nat                    -- LOADED: KiB of the current pass, 0 between the commands of a load
  runs : BitVec 16
  code : Nat                      -- IMG_LOAD_STAT
  section_ : Nat
  detail : Nat
  armPoint : Nat                  -- IMG_ARM; ARMED is the shadow state
  armOcc : Nat
  sampled : Option Bool           -- the decision bit, sampled and not yet used (R351): at a point with HERD set
  xchgCount : BitVec 64           -- IMG_XCHG_LAST
  xchgOcc : Nat
  xchgPoint : Nat
  library : Tab Bytes             -- by slot
  launch : Option Launch
  runId : BitVec 64               -- SUP_RUN_ID
  segment : BitVec 16             -- SUP_RUN_STAT
  pstateChanged : Bool
  pstateStart : Bool
  deriving DecidableEq, Repr

/-- Reset values of R357 to R361, R392; the library empty (log entry 6). -/
def ImgSt.reset : ImgSt :=
  { active := 0, activeHash := [], shadow := 0, image := none, second := false, loading := [], loadCmd := 0, loaded := 0,
    runs := 0, code := 0, section_ := 0, detail := 0, armPoint := 0, armOcc := 0, sampled := none, xchgCount := 0, xchgOcc := 0,
    xchgPoint := 0, library := [], launch := none, runId := 0, segment := 0, pstateChanged := false,
    pstateStart := false }

/-- IMG_LOAD_STAT (R359). -/
def ImgSt.loadStat (s : ImgSt) : Nat := fld s.code 8 56 + fld s.section_ 12 44 + s.detail % 2 ^ 32

/-- A load ends with a result: READY with its image, or EMPTY (R345, R355). -/
def ImgSt.loadEnds (s : ImgSt) (r : LoadRes) (img : Option Image) : ImgSt :=
  { s with
    shadow := if r.1 = 0 then 2 else 0
    image := if r.1 = 0 then img else none
    second := false
    loading := []
    code := r.1
    section_ := r.2.1
    detail := r.2.2 }

/-- The hash active_hash() gives (R346). -/
def ImgSt.activeOr (s : ImgSt) : Bytes := if s.activeHash.isEmpty then fillBytes 48 0 else s.activeHash

end Sys2Proof.Machine
end

