-- ==== Sys2Proof/Machine/Seq.lean ====
section
/-! DEFINITION. The sequencer: SEQ slots, bundles, seams, pails, the watchdog and the lock-step signatures of a
core (R245 to R280, R379, R380). `r` is the plane cycle being performed. -/

namespace Sys2Proof.Machine

/-- What a core takes from the chip when it issues a bundle. -/
structure SeqEnv where
  su : SuEnv
  site : Nat                 -- its physical site
  siteOf : Nat → Nat         -- physical site of a logical core
  routes : Tab (Tab Nat)
  point : Nat → Option Nat   -- the VALID exchange point its bundle belongs to (R343)

/-- A refused SEQ slot (R275, R255). -/
def Core.seqRefuse (c : Core) (code op : Nat) : Core :=
  { c with seq := { c.seq with
      fault := ⟨satAdd 16 c.seq.fault.count 1, code, op, c.seq.step.toNat % 2 ^ 32⟩
      faulted := true } }.event .sequencer

/-- A tally. -/
def Core.tally (c : Core) (i : Nat) : Tally := nth c.seq.tallies i ⟨0, false⟩
/-- The core with a tally replaced. -/
def Core.setTally (c : Core) (i : Nat) (x : Tally) : Core :=
  { c with seq := { c.seq with tallies := c.seq.tallies.set i x } }

/-! ### Pails (R268 to R270) -/

/-- A PLANE token reaches a pail: a full pail drops it, sets OVF and counts (R270). A pail that is EDGE refuses
it (R268). -/
def Core.planeToken (c : Core) (i : Nat) : Core :=
  let p := c.pail i
  if p.edge then c.event .tokenRefused
  else if p.level < 16 then c.setPail i { p with level := p.level + 1 }
  else
    let c1 := c.setPail i { p with ovf := true }
    { c1 with seq := { c1.seq with ovfCount := satAdd 16 c1.seq.ovfCount 1, lastOvf := i } }.event .pailDrop

/-- A token from outside the plane reaches a pail: refused by a PLANE pail, held while an EDGE pail is full
(R268, R270). -/
def Core.edgeToken (c : Core) (i : Nat) : Core :=
  let p := c.pail i
  if !p.edge then c.event .tokenRefused
  else if p.level < 16 then c.setPail i { p with level := p.level + 1 }
  else c.setPail i { p with queue := p.queue + 1 }

/-- A WAIT takes one token; a token held in the crossing queue of an EDGE pail then moves in (R269, R270). -/
def Core.takeToken (c : Core) (i : Nat) : Core :=
  let p := c.pail i
  let l := p.level - 1
  if p.edge ∧ 0 < p.queue ∧ l < 16 then c.setPail i { p with level := l + 1, queue := p.queue - 1 }
  else c.setPail i { p with level := l }

/-- Tokens due at the end of cycle `r` are added (R268, R270). -/
def Core.addTokens (c : Core) (r : Nat) : Core :=
  let due := c.seq.tokens.filter (·.1 ≤ r)
  due.foldl (fun (c : Core) p => c.planeToken p.2)
    { c with seq := { c.seq with tokens := c.seq.tokens.filter fun p => r < p.1 } }

/-! ### The SEQ slot (R248 to R250) -/

/-- SIGNAL at `r` (R248, R268): a token on its way; to this core it is added at the end of `r`. A PEER core that
is not enabled is refused (R248). -/
def Core.seqSignal (c : Core) (env : SeqEnv) (self r arg : Nat) : Core × List Transit :=
  let pail := bits arg 26 16
  let dest := if bit arg 15 then bits arg 14 8 else self
  if bits arg 7 0 ≠ 0 ∨ (bit arg 15 ∧ env.su.enabled ≤ dest) then (c.seqRefuse 1 1, [])
  else if env.siteOf dest = env.site then
    if dest = self then ({ c with seq := { c.seq with tokens := c.seq.tokens ++ [(r, pail)] } }, []) else (c, [])
  else (c, [transit env.routes 0 env.site (env.siteOf dest) 0 r (.signal dest pail)])

/-- WAIT at `r` (R248, R269): a reserved bit refuses it; otherwise it takes its token. -/
def Core.seqWait (c : Core) (arg : Nat) : Core :=
  if bits arg 15 0 ≠ 0 then c.seqRefuse 1 2 else c.takeToken (bits arg 26 16)

/-- SETT (R248). -/
def Core.seqSett (c : Core) (arg : Nat) : Core :=
  c.setTally (bits arg 26 23) ⟨BitVec.ofNat 32 (bits arg 22 0), false⟩

/-- LOOP (R248, R250): the core after it and the target when the branch is taken. -/
def Core.seqLoop (c : Core) (arg : Nat) : Core × Option Nat :=
  let i := bits arg 26 23
  let t := c.tally i
  if bits arg 22 12 ≠ 0 then (c.seqRefuse 1 4, none)
  else if t.data then (c.seqRefuse 2 4, none)
  else if t.val = 0 then (c, none)
  else (c.setTally i { t with val := t.val - 1 }, some (bits arg 11 0))

/-- CLIP_OVER of R212. -/
def clipOver (limit total clipped : Nat) : Bool := total != 0 && decide (limit * total < clipped * 65536)

/-- The condition of a seam-table entry (R252) on the sources as they stand, and the core with the tally that
TALLY counts down. -/
def Core.seamCond (c : Core) (e : Nat) : Bool × Core :=
  let lim := bits c.cfg.qlimit.toNat (16 * bits e 57 56 + 15) (16 * bits e 57 56)
  match bits e 63 60 with
  | 1 => (true, c)
  | 2 =>
    let p := Tab.get (⟨0, 0⟩ : Clip) c.su.clips (bits e 59 58)
    (clipOver lim p.total p.clipped, c)
  | 3 =>
    let a := 64 * bits e 51 35
    if c.st.poisoned false a then (false, c)
    else (clipOver lim (leNat (c.st.peek false a 4)) (leNat (c.st.peek false (a + 4) 4)), c)
  | 4 =>
    let t := c.tally (bits e 55 52)
    if t.val = 0 then (false, c) else (true, c.setTally (bits e 55 52) { t with val := t.val - 1 })
  | _ => (false, c)

/-- The ATOM slot is refused with BAD_OP (R248, R249). -/
def atomBad (env : SeqEnv) (arg tlB : Nat) : Bool :=
  let b := bits arg 26 23
  let kind := bits arg 22 21
  kind == 3 || bits arg 12 0 != 0 || (bit arg 20 && decide (env.su.enabled ≤ bits arg 19 13)) ||
  (kind == 2 && (decide (15 < b + 4) || tlB % 2 == 1)) || (kind != 2 && decide (15 < b + 1))

/-- ATOM at `r` (R249): captured operands, the cycles of its bank access and result, and its request in the
mesh when the target is another site. -/
def Core.seqAtom (c : Core) (env : SeqEnv) (self r arg : Nat) : Core × List Transit :=
  let b := bits arg 26 23
  let kind := bits arg 22 21
  let word := (c.tally b).val.toNat % 2 ^ 21
  if atomBad env arg word then (c.seqRefuse 1 7, [])
  else
    let dest := if bit arg 20 then bits arg 19 13 else self
    let d := latency env.routes env.site (env.siteOf dest)
    let n := if kind = 2 then 4 else 1
    let ops := (List.range n).map fun i => (c.tally (b + 1 + i)).val.toNat
    let op : AtomOp :=
      { id := c.nextId, kind := kind, b := b, target := dest, word := word, ops := ops, bankAt := r + d + 1,
        writeAt := r + 2 * d + 4, issued := false, old := none }
    let c1 := { c with nextId := c.nextId + 1, seq := { c.seq with atoms := c.seq.atoms ++ [op] } }
    if dest = self then (c1, [])
    else (c1, [transit env.routes 0 env.site (env.siteOf dest) 0 r (.atom dest self op.id kind word ops)])

/-- An own ATOM whose bank cycle is `r` asks for its access, above every other port (R249, R257). -/
def Core.atomAccs (c : Core) (self r : Nat) : Core :=
  let due := c.seq.atoms.filter fun o => o.target == self && !o.issued && decide (o.bankAt ≤ r)
  { c with
    seq := { c.seq with atoms := c.seq.atoms.map fun o =>
      if o.target = self ∧ o.bankAt ≤ r then { o with issued := true } else o }
    st := { c.st with acc := c.st.acc ++ due.map fun o =>
      ⟨false, o.word / 16 % 131072, 1, 0, .atom self o.id o.kind o.word o.ops⟩ } }

/-- The old value of an ATOM has come back. -/
def Core.atomOld (c : Core) (id : Nat) (old : List Nat) : Core :=
  { c with seq := { c.seq with atoms := c.seq.atoms.map fun o =>
      if o.id = id ∧ o.old.isNone then { o with old := some old } else o } }

/-- Free old values of an ATOM that was lost (R41, R300). -/
def freeOld (free kind : Nat) : List Nat :=
  (List.range (if kind = 2 then 2 else 1)).map fun i => (Config.freeWord (free + i)).toNat

/-- ATOM results due by `r` are written, with DATA set; one that never came back leaves unpredictable values
(R249, R300). -/
def Core.atomWrites (c : Core) (r : Nat) : Core :=
  let due := c.seq.atoms.filter (·.writeAt ≤ r)
  due.foldl (fun (c : Core) o =>
    let (vs, f) := match o.old with
      | some v => (v, 0)
      | none => (freeOld c.free o.kind, 2)
    (vs.zipIdx).foldl (fun (c : Core) (v, i) => c.setTally (o.b + 1 + i) ⟨BitVec.ofNat 32 v, true⟩)
      { c with free := c.free + f })
    { c with seq := { c.seq with atoms := c.seq.atoms.filter fun o => r < o.writeAt } }

/-! ### Bundles (R245, R246, R269) -/

/-- The bundle a core issues or holds, none at or above N (R247). -/
def Core.bundle (c : Core) : Option (BitVec 256) := c.cfg.prog[c.seq.bundle]?

/-- Slot `i` of a bundle, 32 bits: 0 header, 1 SEQ, 2 SU, 3 to 6 ME0 to ME3, 7 VE (R245). -/
def slotOf (b : BitVec 256) (i : Nat) : Nat := bits b.toNat (32 * i + 31) (32 * i)

/-- Whether a core has a bundle due in cycle `r`. -/
def Core.due (c : Core) (r : Nat) : Bool :=
  c.seq.state == .run && (match c.seq.nextAt with | some t => decide (t ≤ r) | none => false)

/-- The SEQ slot of the bundle due. -/
def Core.seqSlot (c : Core) : Nat := match c.bundle with | some b => slotOf b 1 | none => 0

/-- The pail a bundle due waits on, when its SEQ slot is a WAIT without reserved bits. -/
def Core.waitPail (c : Core) : Option Nat :=
  let s := c.seqSlot
  if bits s 31 27 = 2 ∧ bits s 15 0 = 0 then some (bits s 26 16) else none

/-- The EDGE pail whose emptiness makes the plane slip at `r` (R269, R366). -/
def Core.edgeEmpty (c : Core) (r : Nat) : Option Nat :=
  if c.due r then match c.waitPail with
    | some i => if (c.pail i).edge ∧ (c.pail i).level = 0 then some i else none
    | none => none
  else none

/-- Whether the core issues a SEAM bundle at `r` (R367). -/
def Core.seamDue (c : Core) (r : Nat) : Bool := c.due r && bits c.seqSlot 31 27 == 5

/-! ### Engine and vector slots by opcode (R139, R140, R157, R158)

One definition a mnemonic; a bundle's slot and the command of that name both run it. `arg` is what stands below the
opcode. -/

/-- OPEN (R84, R140). -/
def Core.slotOpen (c : Core) (r e arg : Nat) : Core := c.meIssue e 1 (meSlot arg) fun c => c.meOpen r e (meSlot arg)
/-- SEAL (R84, R140). -/
def Core.slotSeal (c : Core) (r e arg : Nat) : Core := c.meIssue e 2 (meSlot arg) fun c => c.meSeal r e (meSlot arg)
/-- DRAIN (R135, R140). -/
def Core.slotDrain (c : Core) (r e arg : Nat) : Core :=
  c.meIssue e 3 (meSlot arg) fun c => c.meEpi r e false (meSlot arg)
/-- EXPORT (R136, R140). -/
def Core.slotExport (c : Core) (r e arg : Nat) : Core :=
  c.meIssue e 4 (meSlot arg) fun c => c.meEpi r e true (meSlot arg)
/-- RELEASE (R84, R140). -/
def Core.slotRelease (c : Core) (r e arg : Nat) : Core :=
  c.meIssue e 5 (meSlot arg) fun c => c.meRelease r e (meSlot arg)
/-- PRELOAD (R120, R140). -/
def Core.slotPreload (c : Core) (r e arg : Nat) : Core :=
  c.meIssue e 6 (meSlot arg) fun c => c.mePreload r e (meSlot arg)
/-- MMA (R118, R140). -/
def Core.slotMma (c : Core) (e arg : Nat) : Core := c.meIssue e 8 (meSlot arg) fun c => c.meCol e .mma (meSlot arg)
/-- CONV (R128, R140). -/
def Core.slotConv (c : Core) (e arg : Nat) : Core := c.meIssue e 9 (meSlot arg) fun c => c.meCol e .conv (meSlot arg)
/-- WSMV (R126, R140). -/
def Core.slotWsmv (c : Core) (e arg : Nat) : Core := c.meIssue e 10 (meSlot arg) fun c => c.meCol e .wsmv (meSlot arg)
/-- FOLDIN (R138, R140). -/
def Core.slotFoldin (c : Core) (e arg : Nat) : Core := c.meIssue e 11 (meSlot arg) fun c => c.meFoldin e (meSlot arg)

/-- An ME slot of a bundle, by opcode; a slot of all zeros is a NOP (R245). -/
def Core.meSlotRun (c : Core) (r e raw : Nat) : Core :=
  let arg := raw % 2 ^ 27
  match bits raw 31 27 with
  | 0 => if raw = 0 then c else c.meIssue e 0 (meSlot arg) id
  | 1 => c.slotOpen r e arg
  | 2 => c.slotSeal r e arg
  | 3 => c.slotDrain r e arg
  | 4 => c.slotExport r e arg
  | 5 => c.slotRelease r e arg
  | 6 => c.slotPreload r e arg
  | 8 => c.slotMma e arg
  | 9 => c.slotConv e arg
  | 10 => c.slotWsmv e arg
  | 11 => c.slotFoldin e arg
  | n => c.meIssue e n (meSlot arg) id

/-- VCVT: part of a register, and the conversion counts (R164). -/
def Core.veCvt (c : Core) (r : Nat) (s : VeSlot) : Core :=
  let (off, bs, t) := cvtReg s.w s.md (c.ve.reg s.va)
  (c.vePut (r + 4) (.part s.vd off bs)).cvt t

/-- VQRD: one rounding of a quire into every element (R75, R165). -/
def Core.veQrd (c : Core) (r : Nat) (s : VeSlot) : Core :=
  let p := penc (wBits s.w) (qval 4 (c.ve.vq (s.va % 8)))
  c.vePut (r + 6) (.reg s.vd (packElems s.w (List.replicate (wCount s.w) p)))

/-- The products of VQDOT (R158). -/
def dotTerms (w : Nat) (a b : Bytes) : List Val :=
  ((elems w a).zip (elems w b)).map fun (x, y) => (pdec (wBits w) x).mul (pdec (wBits w) y)

/-- A vector opcode's own effect in cycle `r` (R158). -/
def Core.veAct (c : Core) (r op : Nat) (s : VeSlot) : Core :=
  match op with
  | 0x01 => c.veLd r s
  | 0x02 => c.veStore r s
  | 0x03 => c.vePut (r + 4) (.reg s.vd (constReg s.w (c.cfg.consts.get 0 s.va).toNat))
  | 0x04 => c.vePut (r + 4) (.reg s.vd (c.ve.reg s.va))
  | 0x05 => c.veCvt r s
  | 0x10 => c.vePut (r + 6) (.quire (s.vd % 8) true [])
  | 0x11 => c.vePut (r + 6) (.quire (s.vd % 8) false (dotTerms s.w (c.ve.reg s.va) (c.ve.reg s.vb)))
  | 0x12 => c.vePut (r + 6) (.quire (s.vd % 8) false ((elems s.w (c.ve.reg s.va)).map (pdec (wBits s.w))))
  | 0x13 => c.vePut (r + 6) (.qfold (s.vd % 8) (c.ve.vq (s.va % 8)))
  | 0x14 => c.veQrd r s
  | 0x15 => c.veRec r true s
  | 0x16 => c.veRec r false s
  | 0x18 | 0x19 | 0x1A => c.veFunc r op s
  | 0x1B => c.veUcall r s
  | 0x20 => c.smOpen s
  | 0x21 => c.smTile r s
  | 0x22 => c.smMerge r s
  | 0x23 => c.smClose r s
  | 0x24 => c.smNorm r s
  | 0x25 => c.smState r s
  | 0x00 => c
  | _ => c.veLane r op s

/-- One VE instruction in cycle `r`: refused by the first check that fails, otherwise performed (R158, R182). -/
def Core.slotVe (c : Core) (r op arg : Nat) : Core :=
  c.veIssue r op (veSlot arg) fun c => c.veAct r op (veSlot arg)

/-- A VE slot of a bundle; a slot of all zeros is a NOP (R245). -/
def Core.veSlotRun (c : Core) (r raw : Nat) : Core :=
  if raw = 0 then c else c.slotVe r (bits raw 31 26) (raw % 2 ^ 26)

/-- An SU slot of a bundle (R262): OP 0x00 is a NOP, whatever its other fields. -/
def Core.suSlotRun (c : Core) (env : SuEnv) (r raw : Nat) : Core :=
  if bits raw 31 27 = 0 ∧ bits raw 3 0 = 0 then c
  else if bits raw 31 27 = 1 then c.suIssue env r (suSlot (raw % 2 ^ 27))
  else c.suRefuse 1 (suSlot (raw % 2 ^ 27)).entry

/-! ### Issue of a bundle (R246 to R254, R269) -/

/-- What the SEQ slot of an issuing bundle directs. -/
inductive Flow where
  | next                    -- the next repetition or bundle
  | jump (b : Nat)
  | seam
  | halt
  deriving DecidableEq, Repr

/-- The SEQ slot of a bundle in cycle `r` (R248): the core after it, the transfers it offers, and what follows. -/
def Core.seqSlotRun (c : Core) (env : SeqEnv) (self r raw : Nat) : Core × List Transit × Flow :=
  let arg := raw % 2 ^ 27
  match bits raw 31 27 with
  | 0 => if raw = 0 then (c, [], .next) else (c.seqRefuse 1 0, [], .next)
  | 1 => let (c1, t) := c.seqSignal env self r arg; (c1, t, .next)
  | 2 => (c.seqWait arg, [], .next)
  | 3 => (c.seqSett arg, [], .next)
  | 4 => match c.seqLoop arg with
    | (c1, some b) => (c1, [], .jump b)
    | (c1, none) => (c1, [], .next)
  | 5 => if bits arg 26 21 ≠ 0 ∨ bits arg 13 0 ≠ 0 then (c.seqRefuse 1 5, [], .next) else (c, [], .seam)
  | 6 => if arg ≠ 0 then (c.seqRefuse 1 6, [], .next) else (c, [], .halt)
  | 7 => let (c1, t) := c.seqAtom env self r arg; (c1, t, .next)
  | n => (c.seqRefuse 1 n, [], .next)

/-- HALT at `r`: no further bundle (R254). -/
def Core.halt (c : Core) : Core :=
  { c with seq := { c.seq with state := .halted, nextAt := none, stalled := false, seam := none } }.event .halted

/-- A SEAM of the bundle at `r` (R251 to R253): its condition is read on `c0`, the core as it stood at the start of
the cycle; the seam waits at the exchange point it belongs to. -/
def Core.seamStart (c c0 : Core) (env : SeqEnv) (r arg gap : Nat) : Core :=
  let e := (c0.cfg.seams.get 0 (bits arg 19 14)).toNat
  let (t, cT) := c0.seamCond e
  let c1 := if bit arg 20 then { c with seq := { c.seq with tallies := cT.seq.tallies } } else c
  let taken := if bit arg 20 ∧ t then some (bits e 34 23) else none
  { c1 with seq := { c1.seq with
      nextAt := none
      wdogCount := 0
      seam := some ⟨r, taken.getD (c.seq.bundle + 1), gap, env.point c.seq.bundle⟩ } }

/-- A bundle issues all its slots at `r` (R246): every slot reads state as it stood at the start of the cycle. -/
def Core.issue (c : Core) (env : SeqEnv) (self r : Nat) : Core × List Transit :=
  match c.bundle with
  | none => ({ c with seq := { c.seq with nextAt := none } }, [])
  | some b =>
    let rep := bits (slotOf b 0) 31 24
    let gap := bits (slotOf b 0) 23 8
    let c1 := c.suSlotRun env.su r (slotOf b 2)
    let c2 := (List.range 4).foldl (fun (c : Core) e => c.meSlotRun r e (slotOf b (3 + e))) c1
    let c3 := c2.veSlotRun r (slotOf b 7)
    let (c4, ts, flow) := c3.seqSlotRun env self r (slotOf b 1)
    let go := fun (c : Core) (bundle rp at_ : Nat) =>
      { c with seq := { c.seq with bundle := bundle, rep := rp, nextAt := some at_, stalled := false } }
    match flow with
    | .next => if c.seq.rep < rep then (go c4 c.seq.bundle (c.seq.rep + 1) (r + 1), ts)
        else (go c4 (c.seq.bundle + 1) 0 (r + 1 + gap), ts)
    | .jump t => (go c4 t 0 (r + 1 + gap), ts)
    | .seam => (c4.seamStart c env r (slotOf b 1 % 2 ^ 27) gap, ts)
    | .halt => (c4.halt, ts)

/-- A core's turn in cycle `r` (R246, R269): nothing due; a PLANE WAIT on an empty pail stalls it; otherwise its
bundle issues. -/
def Core.turn (c : Core) (env : SeqEnv) (self r : Nat) : Core × List Transit :=
  if !c.due r then (c, [])
  else match c.waitPail with
    | some i =>
      if (c.pail i).level = 0 then
        if (c.pail i).edge then (c, [])
        else ({ c with seq := { c.seq with stalled := true, stalls := c.seq.stalls + 1, nextAt := some (r + 1) } }, [])
      else c.issue env self r
    | none => c.issue env self r

/-! ### Seams (R253, R255) and the watchdog (R272) -/

/-- The engine forms of a step whose first bundle is `b` (R125, R340). -/
def Core.setForms (c : Core) (b : Nat) : Core :=
  let f := (c.cfg.forms.get 0 b).toNat
  (List.range 4).foldl (fun (c : Core) e => c.setMe e { c.me e with form := bits f (2 * e + 1) (2 * e) }) c

/-- Pending changes take effect in cycle `r`, one after the seam (R253): accepted descriptor creations, thresholds,
pointers, the step number, the forms of the next step; a core with FAULTED under FAULT_HALT, or one that the chip
stops (`stop`), halts in place of starting it (R255). `next` is the cycle of the next bundle. -/
def Core.seamEffect (c : Core) (stop : Bool) (next : Nat) : Core :=
  match c.seq.seam with
  | none => c
  | some p =>
    let c1 := (c.suSeam).veSeam
    let c2 := { c1 with seq := { c1.seq with step := c1.seq.step + 1, seam := none, rep := 0, nextAt := some next } }
    if stop ∨ (c.cfg.faultHalt ∧ c.seq.faulted) then c2.halt
    else { c2 with seq := { c2.seq with bundle := p.next } }.setForms p.next

/-- The seam effect due in cycle `r`, unless the core is held at an exchange point. -/
def Core.seamDo (c : Core) (stop : Bool) (r : Nat) : Core :=
  match c.seq.seam with
  | some p => if p.point.isNone ∧ p.s < r then c.seamEffect stop (p.s + 2 + p.gap) else c
  | none => c

/-- The watchdog trips in cycle `r` (R272); WAITING says that a WAIT was due and its pail empty (R274). -/
def Core.trip (c : Core) (r : Nat) : Core :=
  let w := if c.seq.seam.isSome ∨ !c.due r then none else c.waitPail
  let waiting := match w with | some i => (c.pail i).level == 0 | none => false
  { c with seq := { c.seq with
      state := .tripped
      nextAt := none
      stalled := false
      seam := none
      tripStep := c.seq.step.toNat % 2 ^ 32
      tripBundle := c.seq.bundle
      tripWaiting := waiting
      tripEdge := waiting && (match w with | some i => (c.pail i).edge | none => false)
      tripPail := if waiting then w.getD 0 else 0 } }.event .watchdog

/-- COR_WDOG_STAT (R274). -/
def SeqSt.wdogStat (s : SeqSt) : Nat :=
  fld s.tripStep 32 32 + fld s.tripBundle 12 20 + fld (b2n s.tripWaiting) 1 19 + fld (b2n s.tripEdge) 1 18 +
  fld s.tripPail 11 7

/-- Whether the watchdog's count has reached its LIMIT (R272). -/
def Core.wdogOver (c : Core) : Bool :=
  c.seq.state == .run && c.seq.wdogLimit != 0 && decide (c.seq.wdogLimit.toNat ≤ c.seq.wdogCount)

/-- The watchdog counts cycle `r`, and trips the core when the count reaches LIMIT. -/
def Core.wdogTick (c : Core) (r : Nat) : Core :=
  if c.seq.state = .run then
    let c1 := { c with seq := { c.seq with wdogCount := c.seq.wdogCount + 1 } }
    if c1.wdogOver then c1.trip r else c1
  else c

/-! ### Lock-step signatures (R379, R380) -/

/-- h of R379: key, mask of the bytes written, the bytes with unwritten ones zero. -/
def sigHash (kind op addr : Nat) (mask : Nat) (data : Bytes) : BitVec 64 :=
  crc64 (leBytes 8 (fld kind 2 62 + fld op 4 58 + addr % 2 ^ 40) ++ leBytes 8 mask ++ slice data 0 64)

/-- The sum of tile `b` grows. -/
def Core.sigAdd (c : Core) (b : Nat) (h : BitVec 64) : Core :=
  { c with sig := { c.sig with sums := c.sig.sums.upd 0 b (· + h) } }

/-- Mask and bytes of a masked write within 64 bytes. -/
def sigBytes (ws : List WByte) : Nat × Bytes :=
  ws.foldl (fun (st : Nat × Bytes) w =>
    (st.1 ||| (1 <<< w.off), st.2.set w.off (mergeByte (nth st.2 w.off 0) w.mask w.val))) (0, fillBytes 64 0)

/-- A write of a tile-store line joins the signature of its bank (R379). -/
def Core.sigLine (c : Core) (op line : Nat) (ws : List WByte) : Core :=
  let (m, bs) := sigBytes ws
  c.sigAdd (line % 32) (sigHash 0 op (64 * line) m bs)

/-- A sector that a core hands over to external memory joins tile 32 (R379). -/
def Core.sigSector (c : Core) (op addr : Nat) (ws : List WByte) : Core :=
  let (m, bs) := sigBytes ws
  c.sigAdd 32 (sigHash 1 op addr m bs)

/-- The sums close at the seam of cycle `r`, and the record enters the signature queue while the chip compares
(R380). -/
def Core.sigClose (c : Core) (comparing : Bool) (r : Nat) : Core :=
  match c.seq.seam with
  | some p =>
    if p.s = r then
      let sums := (List.range 33).map fun b => c.sig.sums.get 0 b
      let q := if comparing then c.sig.queue ++ [(c.segment, c.seq.step.toNat, sums)] else c.sig.queue
      { c with sig := { sums := [], queue := q } }
    else c
  | none => c

end Sys2Proof.Machine
end

