-- ==== Sys2Proof/Machine/PlaneState.lean ====
section
/-! DEFINITION. The state of the cadence plane: cores, mesh and counts (R362 to R366, R390, R391). `now` is the
plane's own number of the cycle to be performed next; it never goes back, while SUP_PLANE_COUNT restarts at a COLD
start. -/

namespace Sys2Proof.Machine

/-- The cadence plane. -/
structure PlaneSt where
  now : Nat                       -- number of the next plane cycle
  cadence : BitVec 64             -- cadence count (R11)
  launched : Bool                 -- a COLD start has happened since the last reset of the plane
  count : BitVec 64               -- SUP_PLANE_COUNT (R390)
  slipTotal : BitVec 64
  slipCause : Tab (BitVec 64)     -- SUP_SLIP_CAUSE[1..7]
  slipRun : Option (Nat × Nat)    -- slip run in progress: first cause, length
  lastCause : Nat                 -- SUP_SLIP_LAST (R391)
  lastLength : Nat
  lastPlane : BitVec 32
  enabled : Nat                   -- ENABLED_CORES
  sites : Tab Nat                 -- physical site of each valid logical core (R35)
  cores : Tab Core
  mesh : List Transit
  late : List (Nat × Nat × Acc)   -- ATOM requests delivered: cycle of the bank access, core, access
  coll : Tab Nat                  -- collisions by router site (R41)
  group : Nat                     -- numbers the offers to the mesh
  half : Bool                     -- phase A of cycle `now` has been performed, and its end has not
  taken : List Nat                -- cores whose local port has taken a transfer in cycle `now` (R41)
  back : List (Nat × Transit)     -- returned data that waits for a core's local port in cycle `now`
  govDebt : Nat                   -- idle cycles requested (R367)
  thermDebt : Nat
  stop : Bool                     -- every core halts at its next seam
  comparing : Bool                -- lock-step records are queued (R380)
  occ : Tab (BitVec 32)           -- IMG_POINT_COUNT (R361)
  lastHalt : BitVec 64            -- plane count of the latest halt (R459)
  free : Nat                      -- numbers the plane's free values
  reports : List (Nat × CoreEv)   -- core events not yet taken by a steward
  ob : Outbox
  deriving DecidableEq, Repr

/-- The plane at reset: no core usable until the map is built. -/
def PlaneSt.reset : PlaneSt :=
  { now := 0, cadence := 0, launched := false, count := 0, slipTotal := 0, slipCause := [], slipRun := none,
    lastCause := 0, lastLength := 0, lastPlane := 0, enabled := 0, sites := [], cores := [], mesh := [], late := [],
    coll := [], group := 1, half := false, taken := [], back := [], govDebt := 0, thermDebt := 0, stop := false,
    comparing := false, occ := [], lastHalt := 0, free := 0, reports := [], ob := Outbox.empty }

/-- Core `c`. -/
def PlaneSt.core (p : PlaneSt) (c : Nat) : Core := p.cores.get Core.reset c
/-- The plane with a core replaced. -/
def PlaneSt.setCore (p : PlaneSt) (c : Nat) (x : Core) : PlaneSt := { p with cores := p.cores.set c x }
/-- The plane with a core changed by a function. -/
def PlaneSt.onCore (p : PlaneSt) (c : Nat) (f : Core → Core) : PlaneSt := p.setCore c (f (p.core c))
/-- The valid logical cores (R35). -/
def PlaneSt.live (p : PlaneSt) : List Nat := p.sites.map (·.1)
/-- Physical site of a logical core; 999 for one that is not valid. -/
def PlaneSt.site (p : PlaneSt) (c : Nat) : Nat := p.sites.get 999 c
/-- Every valid core changed by a function of its number. -/
def PlaneSt.each (p : PlaneSt) (f : Nat → Core → Core) : PlaneSt :=
  p.live.foldl (fun (p : PlaneSt) c => p.onCore c (f c)) p

end Sys2Proof.Machine
end

