-- ==== Sys2Proof/Machine/Plane.lean ====
section
/-! DEFINITION. One plane cycle of all cores and the mesh, and one slip cycle (R40, R41, R246, R256, R257, R362 to
R369). `r` is the number of the cycle being performed. -/

namespace Sys2Proof.Machine

/-! ### What a core sees of the chip -/

/-- Largest out-and-back latency from a site to the channels and ports its routes lead to, plus one (R577). -/
def leadMin (routes : Tab (Tab Nat)) (site : Nat) : Nat :=
  (((List.range 288).map (· + 144)).filter fun d => decide (Tab.get 7 (Tab.get [] routes site) d ≠ 7)).foldl
    (fun m d => max m (latency routes site d + latency routes d site)) 0 + 1

/-- The exchange point a SEAM bundle of a core belongs to (R343, R351). -/
def ChipCfg.pointOf (cfg : ChipCfg) (core bundle : Nat) : Option Nat :=
  (cfg.points.find? fun p => nth p.2.bundles core 0xFFFF == bundle).map (·.1)

/-- The stream unit's view from core `c`. -/
def PlaneSt.suEnv (p : PlaneSt) (cfg : ChipCfg) (c : Nat) : SuEnv :=
  { enabled := p.enabled
    latTo := fun d => latency cfg.routes (p.site c) (p.site d)
    latFrom := fun d => latency cfg.routes (p.site d) (p.site c)
    leadMin := leadMin cfg.routes (p.site c)
    herdX := cfg.herdX
    herdN := cfg.herdN
    foldArena := fun a => (cfg.arena a).kind == 2
    peerTrailer := fun d line => (p.core d).trailerAt line }

/-- The sequencer's view from core `c`. -/
def PlaneSt.seqEnv (p : PlaneSt) (cfg : ChipCfg) (c : Nat) : SeqEnv :=
  { su := p.suEnv cfg c, site := p.site c, siteOf := p.site, routes := cfg.routes, point := cfg.pointOf c }

/-! ### Start of a cycle -/

/-- What was due by cycle `r` happens in a core (R84, R113, R160, R249, R253, R263), and its watchdog trips if its
count stands at LIMIT (R272). -/
def Core.settle (c : Core) (stop : Bool) (r : Nat) : Core :=
  let c1 := (List.range 4).foldl (fun (c : Core) e => c.engSettle r e) c
  let c2 := ({ c1.startCols r with ve := c1.ve.settle r, su := c1.su.settle r }.atomWrites r).seamDo stop r
  if c2.wdogOver then c2.trip r else c2

/-! ### Reads that come back -/

/-- A pattern, or poison, reaches a stream place; `half` 1 and 2 are the lower and upper sector of a Q512. -/
def Core.suGotOpt (c : Core) (ch idx half : Nat) (v : Option Nat) : Core :=
  match c.su.chans.find? (·.1 == ch) with
  | none => c
  | some (_, op) =>
    let pp := if op.fold = 4 ∨ op.fold = 5 then foldPoison op.fold op.src.fmt op.recW
      else poisonPat ((Fmt.ofCode op.src.fmt).getD .p8)
    let old := op.data.get 0 idx
    match v with
    | none => c.suGot ch idx pp
    | some x =>
      if half = 0 then c.suGot ch idx x
      else if old = pp ∧ pp ≠ 0 then c
      else c.suGot ch idx (old + (if half = 2 then x * 2 ^ 256 else x))

/-- What a bits code of a remote element names: its width, whether an upper half-byte, and its half. -/
def elCode (b : Nat) : Nat × Bool × Nat :=
  if b = 4 then (4, false, 0) else if b = 5 then (4, true, 0)
  else if b = 258 then (256, false, 1) else if b = 257 then (256, false, 2) else (b, false, 0)

/-- Free patterns for the elements of a read that was dropped (R41). -/
def Core.suFree (c : Core) (ch : Nat) (els : List (Nat × Nat)) : Core :=
  els.foldl (fun (c : Core) e =>
    let (w, _, h) := elCode e.2
    { c with free := c.free + 64 }.suGotOpt ch e.1 h (some (leNat (freeBytes c.free (max 1 (w / 8))) % 2 ^ w))) c

/-! ### Phase A (R256, R257) -/

/-- What an arbitrated access sends back to another core. -/
inductive Ret where
  | data (core ch idx half : Nat) (v : Option Nat)
  | old (core id : Nat) (vs : List Nat)
  deriving DecidableEq, Repr

/-- A read's bytes and sector states reach their consumer. -/
def Core.take (c : Core) (k : Consumer) (bs : Bytes) (bad : List Bool) : Core :=
  match k with
  | .vld vd w off due => c.veDeliver vd w off due bs bad
  | .su .. | .sscale .. | .strail .. => c.suDeliver k bs bad
  | _ => c.engDeliver k bs bad

/-- The sectors of a line that hold `n` bytes from byte `o` on. -/
def sectorsAt (base o n : Nat) : List Nat := ((List.range 2).filter fun k => decide (o < 32 * k + 32) && decide (32 * k < o + n)).map (base + ·)

/-- The sectors that an access reads: those of its element, of its line, or those that a write merges (R258). -/
def Core.sectors (c : Core) (a : Acc) : List Nat :=
  let base := a.line * lineBytes a.staging / 32
  match a.kind with
  | .read (.su ch _ off) =>
    let w := match c.su.chans.find? (·.1 == ch) with | some (_, op) => max 1 (codeBits op.src.fmt / 8) | none => 1
    if a.staging then [base + off / 2 / 32] else sectorsAt base (off / 2) w
  | .read (.strail ..) => [base]
  | .read _ => (List.range (lineBytes a.staging / 32)).map (base + ·)
  | .peerRead _ _ _ off b => sectorsAt base off (max 1 ((elCode b).1 / 8))
  | .adder off fold fmt .. => sectorsAt base off (foldBytes fold fmt)
  | .atom _ _ kind word _ => sectorsAt base (4 * (word % 16)) (if kind = 2 then 8 else 4)
  | .write ws => mergedSectors a.staging a.line ws
  | .trailer .. => []

/-- One access is served in phase A of cycle `r`. -/
def Core.serve (c : Core) (self r : Nat) (a : Acc) : Core × List Ret :=
  match a.kind with
  | .read k =>
    let (bs, bad) := c.st.readLine a.staging a.line
    (c.take k bs bad, [])
  | .peerRead core ch idx off b =>
    let (w, hi, half) := elCode b
    let bad := (sectorsAt (2 * a.line) off (max 1 (w / 8))).any c.st.badTile.contains
    let x := leNat (c.st.peek false (64 * a.line + off) (max 1 (w / 8)))
    (c, [.data core ch idx half (if bad then none else some (if w = 4 then (x >>> (if hi then 4 else 0)) % 16 else x))])
  | .write ws =>
    let st := c.st.writeLine a.staging a.line ws
    let c1 := { c with st := if a.staging then st else st.cancel a.line }
    (if a.staging then c1 else c1.sigLine 0 a.line ws, [])
  | .adder off fold fmt recW src key =>
    let (st, sat, _) := c.st.adderUpdate r a.line off fold fmt recW src
    ({ c with st := if sat then { st with foldSat := secIns key st.foldSat } else st }, [])
  | .trailer src key =>
    let w := if c.st.foldSat.contains key then src ||| 2 else src
    let ws := wbytes 0 (leBytes 32 w)
    let st := (c.st.writeLine false a.line ws).cancel a.line
    (({ c with st := { st with foldSat := st.foldSat.filter (· != key) } } : Core).sigLine 0 a.line ws, [])
  | .atom core id kind word ops =>
    let (st, old, wrote) := c.st.atomAccess kind word ops
    let c1 := { c with st := st }
    let n := if kind = 2 then 8 else 4
    let c2 := if wrote then c1.sigLine 0 a.line (wbytes (4 * (word % 16)) (st.peek false (4 * word) n)) else c1
    if core = self then (c2.atomOld id old, []) else (c2, [.old core id old])

/-- One access is lost (R257, R300): a read delivers unpredictable contents, an ATOM's old value is unpredictable,
everything else does nothing. -/
def Core.lose (c : Core) (self : Nat) (a : Acc) : Core × List Ret :=
  match a.kind with
  | .read k =>
    let n := lineBytes a.staging
    ({ c with free := c.free + n }.take k (freeBytes c.free n) [], [])
  | .peerRead core ch idx _ b =>
    let (w, _, half) := elCode b
    ({ c with free := c.free + 64 },
     [.data core ch idx half (some (leNat (freeBytes c.free (max 1 (w / 8))) % 2 ^ w))])
  | .atom core id kind _ _ =>
    let c1 := { c with free := c.free + 2 }
    let old := freeOld c.free kind
    if core = self then (c1.atomOld id old, []) else (c1, [.old core id old])
  | _ => (c, [])

/-- The sectors that accesses read, those that lose against `all` left out, each once. -/
def Core.seen (c : Core) (accs all : List Acc) : List (Bool × Nat) :=
  ((accs.filter fun a => !a.lost all).flatMap fun a => (c.sectors a).map fun s => (a.staging, s)).eraseDups

/-- Uncorrectable and corrected sectors that a core has read are counted and reported (R258). -/
def Core.noteSectors (c : Core) (seen : List (Bool × Nat)) : Core :=
  let bad := (seen.filter fun p => (c.st.bad p.1).contains p.2).length
  let soft := (seen.filter fun p => (c.st.soft p.1).contains p.2).length
  let c1 := { c with st := { c.st with uncorr := satAdd 16 c.st.uncorr bad, corrected := satAdd 16 c.st.corrected soft } }
  if bad + soft = 0 then c1 else c1.event .uncorrectable

/-- Accesses of cycle `r` performed in phase A, judged against `all` that the cycle makes: collisions are counted and
reported, winners served, trailers last. What `StoreSt.served` lists was counted when it was performed. -/
def Core.perform (c : Core) (self r : Nat) (mine all : List Acc) : Core × List Ret :=
  let before := c.st.served
  let lost := ((lostPorts mine all).filter fun p => !(lostPorts before all).contains p).length
  let c0 := { c with st := { c.st with collide := satAdd 16 c.st.collide lost } }
  let c1 := if lost = 0 then c0 else c0.event .bankCollision
  let c2 := c1.noteSectors ((c.seen mine all).filter fun p => !(c.seen before all).contains p)
  let isT := fun (a : Acc) => match a.kind with | .trailer .. => true | _ => false
  ((mine.filter (!isT ·)) ++ mine.filter isT).foldl (fun (st : Core × List Ret) a =>
    let (c, rs) := if a.lost all then st.1.lose self a else st.1.serve self r a
    (c, st.2 ++ rs)) (c2, [])

/-- Phase A of a cycle: what the ports ask of the banks and no command of its own has performed already. -/
def Core.phaseA (c : Core) (self r : Nat) : Core × List Ret :=
  let mine := c.st.acc
  ({ c with st := { c.st with acc := [] } } : Core).perform self r mine (mine ++ c.st.served)

/-- Phase B of cycle `r`: bank-adder write-backs, with their signatures; a sector that they name in part is read and
merged (R258, R260, R379). -/
def Core.phaseB (c : Core) (r : Nat) (bank : Option Nat) : Core :=
  let due := c.st.adders.filter fun o => decide (o.due ≤ r) && (bank == none || bank == some (o.line % 32))
  let read := (due.flatMap fun o => ((mergedSectors false o.line (wbytes o.off o.bytes)).filter fun k =>
    !wholeUpdate due o.line o.due (k % 2)).map fun k => (false, k)).eraseDups
  let c1 := due.foldl (fun (c : Core) o => c.sigLine o.op o.line (wbytes o.off o.bytes)) (c.noteSectors read)
  { c1 with st := c1.st.writeBack r bank }

/-- The scrub walk advances by a cycle (R258): a new slot begins every 64 cycles. -/
def StoreSt.scrubTick (s : StoreSt) : StoreSt :=
  let n := s.scrubCount + 1
  { s with scrubCount := n, scrubDone := if n % 64 = 0 then [] else s.scrubDone,
           scrubPasses := if n % 262144 = 0 then s.scrubPasses + 1 else s.scrubPasses }

/-! ### Deliveries (R40, R41) -/

/-- The masked bytes of a write with free values. -/
def freeWs (free : Nat) (ws : List WByte) : List WByte :=
  (ws.zipIdx).map fun (w, i) => { w with val := Config.freeByte (free + i) }

/-- An access of a dropped transfer: what it would have written is unpredictable (R41). -/
def Acc.unpredictable (free : Nat) (a : Acc) : Acc :=
  match a.kind with
  | .write ws => { a with kind := .write (freeWs free ws) }
  | .adder off fold fmt _ _ _ => { a with kind := .write (wbytes off (freeBytes free (foldBytes fold fmt))) }
  | .trailer _ _ => { a with kind := .write (wbytes 0 (freeBytes free 32)) }
  | _ => a

/-- A transfer that leaves the plane with its data unpredictable, when it was dropped (R41). -/
def freeLoad (free : Nat) (x : Payload) : Payload :=
  match x with
  | .extWrite core chan fmt bs =>
    .extWrite core chan fmt ((bs.zipIdx).map fun (b, i) => (b.1, b.2.1, Config.freeByte (free + i)))
  | .remSeg core ch port chip fmt fold more addr bs =>
    .remSeg core ch port chip fmt fold more addr ((bs.zipIdx).map fun (b, i) => (b.1, Config.freeByte (free + i)))
  | y => y

/-- A transfer reaches its destination endpoint in cycle `r`; what leaves the plane is handed on. -/
def PlaneSt.deliver (p : PlaneSt) (r : Nat) (x : Transit) : PlaneSt × List Payload :=
  match x.load with
  | .signal core pail =>
    if x.lost ∧ !Config.freeBool p.free then ({ p with free := p.free + 1 }, [])
    else ({ p with free := if x.lost then p.free + 1 else p.free }.onCore core fun c =>
      { c with seq := { c.seq with tokens := c.seq.tokens ++ [(r, pail)] } }, [])
  | .atom owner core id kind word ops =>
    if x.lost then
      let n := if kind = 2 then 8 else 4
      let p1 := { p with free := p.free + 16 }.onCore owner fun c =>
        { c with st := c.st.poke false (4 * word % 2 ^ 23) (freeBytes p.free n) 2 }
      (p1.onCore core fun c => c.atomOld id (freeOld (p.free + 8) kind), [])
    else ({ p with late := p.late ++ [(r + 1, owner, ⟨false, word / 16 % 131072, 1, 1 + core, .atom core id kind word ops⟩)] }, [])
  | .atomBack core id old =>
    if x.lost then ({ p with free := p.free + 2 }.onCore core fun c => c.atomOld id (freeOld p.free old.length), [])
    else (p.onCore core fun c => c.atomOld id old, [])
  | .readReq owner core ch els =>
    if x.lost then (p.onCore core fun c => c.suFree ch (els.map fun e => (e.1, e.2.2)), [])
    else (p.onCore owner fun c => { c with st := { c.st with acc := c.st.acc ++ els.map fun e =>
      (⟨false, e.2.1 / 64, 8, core, .peerRead core ch e.1 (e.2.1 % 64) e.2.2⟩ : Acc) } }, [])
  | .data core ch els =>
    if x.lost then (p.onCore core fun c => c.suFree ch (els.map fun e => (e.1 / 4, if e.1 % 4 = 0 then 512 else 256 + 3 - e.1 % 4)), [])
    else (p.onCore core fun c => els.foldl (fun (c : Core) e => c.suGotOpt ch (e.1 / 4) (e.1 % 4) e.2) c, [])
  | .write owner accs =>
    let as_ := if x.lost then (accs.zipIdx).map fun (a, i) => a.unpredictable (p.free + 64 * i) else accs
    ({ p with free := if x.lost then p.free + 64 * accs.length else p.free }.onCore owner fun c =>
      { c with st := { c.st with acc := c.st.acc ++ as_ } }, [])
  | .extRead core ch _ _ els =>
    if x.lost then (p.onCore core fun c => c.suFree ch (els.map fun e => (e.1, e.2.2)), []) else (p, [x.load])
  | .remRead core ch _ _ _ els =>
    if x.lost then (p.onCore core fun c => c.suFree ch (els.map fun e => (e.1, e.2.2)), []) else (p, [x.load])
  | y => if x.lost then ({ p with free := p.free + 512 }, [freeLoad p.free y]) else (p, [y])

/-! ### Offers to the mesh (R41, R265) -/

/-- Elements of a row for external memory, a Q512 as its two sectors (R289). -/
def sectorEls (els : List (Nat × Nat × Nat)) : List (Nat × Nat × Nat) :=
  els.flatMap fun e => if e.2.2 = 512 then [(e.1, e.2.1, 258), (e.1, e.2.1 + 32, 257)] else [e]

/-- The accesses of a stream that miss every arena, as R305 counts them, one for each element: `n` dead entries of a format's
bytes. -/
def deadWrites (fmt n : Nat) : Nat := ceilDiv n (max 1 (codeBits fmt / 8))

/-- What the stream unit hands to its port becomes transfers, at once the answers of addresses in no arena
(R305) and of chips without a route (R417), and the requests that need no mesh. -/
def PlaneSt.offer (p : PlaneSt) (cfg : ChipCfg) (self r g : Nat) (o : Out) : PlaneSt × List Transit × List Payload :=
  let site := p.site self
  let rel := fun (c : Core) (ch row d : Nat) => match c.su.chans.find? (·.1 == ch) with
    | some (_, op) => op.t0 + op.off + row - latency cfg.routes d site
    | none => r
  match o with
  | .peerRead owner ch _ els =>
    (p, if els.isEmpty then [] else [transit cfg.routes g site (p.site owner) 0 r (.readReq owner self ch els)], [])
  | .peerWrite owner _ accs =>
    (p, if accs.isEmpty then [] else [transit cfg.routes g site (p.site owner) 0 r (.write owner accs)], [])
  | .extRead ch row els0 =>
    let els := sectorEls els0
    let live := els.filterMap fun e => (cfg.cell e.2.1).map fun c => (c, e)
    let dead := els.filter fun e => (cfg.cell e.2.1).isNone
    let p1 := if dead.isEmpty then p else p.onCore self fun c =>
      dead.foldl (fun (c : Core) e => c.suGotOpt ch e.1 (elCode e.2.2).2.2 (some 0))
        { c with su := { c.su with oorR := satAdd 32 c.su.oorR (dead.map (·.1)).eraseDups.length } }
    (p1, ((live.map (·.1)).eraseDups).map fun q =>
      transit cfg.routes g site (144 + q.1) 0 r (.extRead self ch q.1 (rel (p.core self) ch row (144 + q.1))
        ((live.filter (·.1 == q)).map (·.2))), [])
  | .extWrite _ fmt bs =>
    let live := bs.filterMap fun b => (cfg.cell b.1).map fun c => (c, b)
    let dead := (bs.filter fun b => (cfg.cell b.1).isNone).length
    let p1 := if dead = 0 then p
      else p.onCore self fun c => { c with su := { c.su with oorW := satAdd 32 c.su.oorW (deadWrites fmt dead) } }
    (p1, ((live.map (·.1)).eraseDups).map fun q =>
      transit cfg.routes g site (144 + q.1) 0 r (.extWrite self q.1 fmt ((live.filter (·.1 == q)).map (·.2))), [])
  | .remRead ch row chip els =>
    match cfg.links.find? (·.1 == chip) with
    | some (_, port) =>
      (p, [transit cfg.routes g site (400 + port) ch r
        (.remRead self ch port chip (rel (p.core self) ch row (400 + port)) (sectorEls els))], [])
    | none => (p, [], [.remRead self ch 99 chip r (sectorEls els)])
  | .remSeg ch fmt chip fold more addr bs =>
    match cfg.links.find? (·.1 == chip) with
    | some (_, port) => (p, [transit cfg.routes g site (400 + port) ch r (.remSeg self ch port chip fmt fold more addr bs)], [])
    | none => (p, [], [.remSeg self ch 99 chip fmt fold more addr bs])
  | .remClose ch chip n fold =>
    match cfg.links.find? (·.1 == chip) with
    | some (_, port) => (p, [transit cfg.routes g site (400 + port) ch r (.remClose self ch port chip n fold)], [])
    | none => (p, [], [.remClose self ch 99 chip n fold])

/-- Transfers that find a core's local port taken are dropped and counted (R41): each arrives with unpredictable data. -/
def PlaneSt.dropAt (p : PlaneSt) (self : Nat) (ts : List Transit) : PlaneSt :=
  if ts.isEmpty then p
  else { p with mesh := p.mesh ++ ts.map fun t => { t with lost := true, legs := [] }
                coll := p.coll.upd 0 (p.site self) (· + ts.length)
                ob := p.ob.line (72 + p.site self / 18) }

/-- The ATOM or SIGNAL that a core issues takes its local port for the cycle, before every other class (R41); a second one
in the same cycle is dropped. -/
def PlaneSt.seqOffer (p : PlaneSt) (self : Nat) (ts : List Transit) : PlaneSt :=
  if ts.isEmpty then p
  else if p.taken.contains self then p.dropAt self ts
  else { p with taken := self :: p.taken, group := p.group + 1, mesh := p.mesh ++ ts.map fun t => { t with group := p.group } }

/-- What a core's stream unit hands to its port in a cycle, one class for each move channel (R265). -/
def PlaneSt.offers (p : PlaneSt) (cfg : ChipCfg) (self r : Nat) : PlaneSt × List (List Transit) × List Payload :=
  let outs := (p.core self).out
  let p0 := p.onCore self fun c => { c with out := [] }
  (List.range 4).foldl
    (fun (st : PlaneSt × List (List Transit) × List Payload) ch =>
      let (q, ts, ds) := (outs.filter fun o => o.chan == ch).foldl
        (fun (s : PlaneSt × List Transit × List Payload) o =>
          let (q, t, d) := s.1.offer cfg self r (s.1.group + ch) o
          (q, s.2.1 ++ t, s.2.2 ++ d)) (st.1, [], [])
      (q, st.2.1 ++ [ts], st.2.2 ++ ds)) (p0, [], [])

/-- A core's offers of cycle `r` at its local port: of returned data and the move channels, in the order of R41, the first
class enters the mesh unless an ATOM or SIGNAL has taken the port, and every other transfer is dropped. Within the returned
data, ATOM old values stand before PEER data, each in the order of service (DESIGN CHOICE, log entry 33: R41 ranks them as
one class). -/
def PlaneSt.inject (p : PlaneSt) (cfg : ChipCfg) (self r : Nat) : PlaneSt × List Payload :=
  let back := (p.back.filter (·.1 == self)).map (·.2)
  let isOld := fun (t : Transit) => match t.load with | .atomBack .. => true | _ => false
  let (p1, chans, direct) := p.offers cfg self r
  let g := p1.group
  let ret := ((back.filter isOld ++ back.filter (!isOld ·)).zipIdx).map fun (q : Transit × Nat) => [{ q.1 with group := g + 4 + q.2 }]
  let classes := (ret ++ chans).filter fun (l : List Transit) => !l.isEmpty
  let p2 := { p1 with group := g + 4 + back.length }
  if p.taken.contains self then (p2.dropAt self classes.flatten, direct)
  else match classes with
    | [] => (p2, direct)
    | w :: rest => (({ p2 with mesh := p2.mesh ++ w } : PlaneSt).dropAt self rest.flatten, direct)

/-! ### One plane cycle -/

/-- The core's units act in cycle `r`: what they ask of the banks and hand to the port. -/
def Core.act (c : Core) (self r : Nat) : Core :=
  let c1 := (List.range 4).foldl (fun (c : Core) e => ((c.colAct r e).epiAct r e).foldAct r e) c
  let c2 := (List.range 4).foldl (fun (c : Core) ch => (c.suAct self r ch).linkTurn ch) (c1.veStores r)
  c2.atomAccs self r

/-- A PEER access that names the core itself needs no mesh: it reaches the bank at once (R40). -/
def PlaneSt.selfPeer (p : PlaneSt) (self : Nat) : PlaneSt :=
  let c := p.core self
  let mine := fun (o : Out) => match o with
    | .peerRead d .. | .peerWrite d .. => d == self
    | _ => false
  let accs := c.out.flatMap fun o => match o with
    | .peerRead d ch _ els => if d = self then els.map fun e =>
        (⟨false, e.2.1 / 64, 8, self, .peerRead self ch e.1 (e.2.1 % 64) e.2.2⟩ : Acc) else []
    | .peerWrite d _ as_ => if d = self then as_ else []
    | _ => []
  p.setCore self { c with out := c.out.filter (!mine ·), st := { c.st with acc := c.st.acc ++ accs } }

/-- The mesh moves through cycle `r`: collisions on its outputs, then the deliveries due (R40, R41). -/
def PlaneSt.meshStep (p : PlaneSt) (r : Nat) : PlaneSt × List Payload :=
  let (sites, ts) := meshCollide p.mesh r
  let p1 := { p with mesh := ts.filter fun x => r < x.due,
                     coll := sites.foldl (fun (t : Tab Nat) s => t.upd 0 s (· + 1)) p.coll,
                     ob := sites.foldl (fun (o : Outbox) s => o.line (72 + s / 18)) p.ob }
  (ts.filter fun x => decide (x.due ≤ r)).foldl (fun (st : PlaneSt × List Payload) x =>
    let (q, o) := st.1.deliver r x
    (q, st.2 ++ o)) (p1, [])

/-- What a core's phase A sends back: at once to the core itself, otherwise as transfers that wait for its local port. -/
def PlaneSt.returns (p : PlaneSt) (cfg : ChipCfg) (self r : Nat) (rs : List Ret) : PlaneSt :=
  let p1 := rs.foldl (fun (p : PlaneSt) x => match x with
    | .data c ch i h v => if c = self then p.onCore c fun k => k.suGotOpt ch i h v else p
    | .old c id vs => if c = self then p.onCore c fun k => k.atomOld id vs else p) p
  let keys := (rs.filterMap fun x => match x with
    | .data c ch .. => if c = self then none else some (c, ch)
    | _ => none).eraseDups
  let datas := keys.map fun (c, ch) =>
    transit cfg.routes 0 (p.site self) (p.site c) 0 r (.data c ch (rs.filterMap fun x => match x with
      | .data c1 ch1 i h v => if c1 = c ∧ ch1 = ch then some (4 * i + h, v) else none
      | _ => none))
  let olds := rs.filterMap fun x => match x with
    | .old c id vs => if c = self then none else some (transit cfg.routes 0 (p.site self) (p.site c) 0 r (.atomBack c id vs))
    | _ => none
  { p1 with back := p1.back ++ (olds ++ datas).map fun t => (self, t) }

/-- The watchdog counts the cycle that ends (R272). -/
def Core.wdogAdd (c : Core) : Core :=
  if c.seq.state = .run then { c with seq := { c.seq with wdogCount := c.seq.wdogCount + 1 } } else c

/-- The scrub walk of a core's stores advances. -/
def Core.scrubStep (c : Core) : Core := { c with st := c.st.scrubTick }

/-- The chunk and fold-in row of cycle `r` are formed in every engine. -/
def Core.engFinish (c : Core) (r : Nat) : Core :=
  (List.range 4).foldl (fun (c : Core) e => (c.colFinish r e).foldFinish r e) c

/-- A core ends its cycle `r` (R113, R138, R210, R256, R258, R268, R272, R380). -/
def Core.finish (c : Core) (comparing : Bool) (r : Nat) : Core :=
  let k := ((((c.engFinish r).phaseB r none).addTokens r).sigClose comparing r).scrubStep.wdogAdd
  { k with su := k.su.clipEnd r, st := { k.st with served := [] } }

/-- What an event of a core sends on: the line of its source, and a host event for a halt or a trip (R462,
R483). -/
def Core.report (c : Core) (self : Nat) (o : Outbox) (e : CoreEv) : Outbox :=
  match e with
  | .pailDrop | .tokenRefused => o.line (832 + self)
  | .halted => o.event 1 self c.seq.step.toNat
  | .watchdog => (o.line (128 + self)).event 2 self c.seq.wdogStat
  | _ => o.line (128 + self)

/-- The events of a core leave it (R481, R483). -/
def PlaneSt.collect (p : PlaneSt) (self : Nat) : PlaneSt :=
  let c := p.core self
  { p.setCore self { c with ev := [] } with
    reports := p.reports ++ c.ev.map fun e => (self, e)
    lastHalt := if c.ev.any fun e => e == .halted || e == .watchdog then p.count else p.lastHalt
    ob := c.ev.foldl (fun (o : Outbox) e => c.report self o e) p.ob }

/-- The first part of cycle `now` (R362, R365): what is due is done, bundles issue, units ask for their accesses, the mesh
moves. What it delivers beyond the plane is returned. -/
def PlaneSt.gather (p : PlaneSt) (cfg : ChipCfg) : PlaneSt × List Payload :=
  let r := p.now
  let p1 := p.each fun _ c => c.settle p.stop r
  let env := fun (c : Nat) => p1.seqEnv cfg c
  let p2 := p1.live.foldl (fun (p : PlaneSt) c =>
    let k := (p.core c).turn (env c) c r
    (p.setCore c k.1).seqOffer c k.2) p1
  let p3 := p2.each fun i c => c.act i r
  let p4 := p3.live.foldl (fun (p : PlaneSt) c => p.selfPeer c) p3
  let lateNow := p4.late.filter (·.1 ≤ r)
  let p5 := lateNow.foldl (fun (p : PlaneSt) l =>
    p.onCore l.2.1 fun c => { c with st := { c.st with acc := c.st.acc ++ [l.2.2] } })
    { p4 with late := p4.late.filter fun l => r < l.1 }
  p5.meshStep r

/-- Cycle `now` up to the end of its phase A; nothing, when that has been performed already. -/
def PlaneSt.front (p : PlaneSt) (cfg : ChipCfg) : PlaneSt × List Payload :=
  if p.half then (p, [])
  else
    let (p1, out) := p.gather cfg
    let p2 := p1.live.foldl (fun (p : PlaneSt) c =>
      let (k, rs) := (p.core c).phaseA c p.now
      (p.setCore c k).returns cfg c p.now rs) p1
    ({ p2 with half := true }, out)

/-- The end of cycle `now`, after its phase A: phase B, tokens and counts, and what the cores offer to the mesh. `inject`
are the transfers that channels and ports release in this cycle. -/
def PlaneSt.rear (p : PlaneSt) (cfg : ChipCfg) (inject : List Transit) : PlaneSt × List Payload :=
  let r := p.now
  let p1 := p.each fun _ c => c.finish p.comparing r
  let (p2, out) := p1.live.foldl (fun (st : PlaneSt × List Payload) c =>
    let (q, d) := st.1.inject cfg c r
    (q, st.2 ++ d)) (p1, [])
  let p3 := p2.live.foldl (fun (p : PlaneSt) c => p.collect c) p2
  let last := match p3.slipRun with
    | some (c, n) => { p3 with lastCause := c, lastLength := n, lastPlane := p3.count.setWidth 32, slipRun := none }
    | none => p3
  ({ last with now := r + 1, cadence := last.cadence + 1, mesh := last.mesh ++ inject, half := false, taken := [], back := [],
               count := if last.launched then last.count + 1 else last.count }, out)

/-- The cores as the watchdogs leave them at the start of cycle `now`: a count that stands at LIMIT trips its core before
the plane looks for a token that the core waits for (R272). -/
def PlaneSt.tripped (p : PlaneSt) : PlaneSt :=
  if p.live.any fun c => (p.core c).wdogOver then p.each fun _ c => if c.wdogOver then c.trip p.now else c else p

/-- Whether some core issues a SEAM bundle in the cycle to be performed next (R367). -/
def PlaneSt.seamDue (p : PlaneSt) : Bool := p.live.any fun c => (p.core c).seamDue p.now

/-- One slip cycle charged to `cause` (R362, R366): no state changes but the slip counters, the debts that a slip run
at a seam pays (R511), and the watchdogs of the cores whose own EDGE WAIT finds its pail empty (R272). -/
def PlaneSt.slip (p : PlaneSt) (cause : Nat) : PlaneSt :=
  let r := p.now
  let seam := p.seamDue
  let p1 := p.tripped.each fun _ c => if (c.edgeEmpty r).isSome then c.wdogTick r else c
  let p2 := p1.live.foldl (fun (p : PlaneSt) c => p.collect c) p1
  { p2 with cadence := p2.cadence + 1, slipTotal := p2.slipTotal + 1,
            slipCause := p2.slipCause.upd 0 cause (· + 1),
            slipRun := some (match p2.slipRun with
              | some (c, n) => (c, min (n + 1) 0x1FFFFFFF)
              | none => (cause, 1)),
            govDebt := if seam then p2.govDebt - 1 else p2.govDebt,
            thermDebt := if seam then p2.thermDebt - 1 else p2.thermDebt }

/-- The plane is quiescent (R576). -/
def Core.quiet (c : Core) : Bool :=
  c.seq.state != .run && c.seq.atoms.isEmpty && c.seq.tokens.isEmpty && c.su.chans.isEmpty && c.su.linkOut.isEmpty && c.ve.flight.isEmpty &&
  c.st.adders.isEmpty && c.st.acc.isEmpty &&
  (List.range 4).all fun e =>
    let g := c.me e
    g.run.isNone && g.pend.isNone && g.loading.isNone && g.chunks.isEmpty && g.epi.isNone && g.epiPend.isNone &&
    g.fold.isNone && g.foldPend.isNone && g.foldRows.isEmpty && g.releases.isEmpty &&
    g.vats.all fun v => !(v.2.state == .vopen && v.2.sealAt.isSome)

/-- Every core has stopped, and nothing any core issued is still under way (R576). -/
def PlaneSt.quiescent (p : PlaneSt) : Bool :=
  p.live.all (fun c => (p.core c).quiet && decide ((p.core c).ve.microUntil ≤ p.now)) && p.mesh.isEmpty && p.late.isEmpty

/-- Whether any core runs. -/
def PlaneSt.anyRun (p : PlaneSt) : Bool := p.live.any fun c => (p.core c).seq.state == .run

end Sys2Proof.Machine
end

