-- ==== Sys2Proof/Machine/CoreRun.lean ====
section
/-! DEFINITION. What a COLD start, an exchange, a reset and an erasure make of a core and of the plane (R88, R155, R258,
R271, R350 to R353, R568). -/

namespace Sys2Proof.Machine

/-! ### Pails (R271, R350, R353) -/

/-- INIT_LEVEL, EDGE and CARRY of a pail in the PAILS section. -/
def CoreCfg.pailByte (k : CoreCfg) (i : Nat) : Nat := (k.pails.get 0 i).toNat

/-- A pail under a new image: its level from PAILS, or kept where CARRY says so and the class is unchanged; tokens
still in the crossing queue of an EDGE pail move in. The number of tokens that the new class refuses comes with it. -/
def newPail (byte : Nat) (carry : Bool) (old : Pail) : Pail × Nat :=
  let edge := bit byte 5
  let lvl := if carry ∧ bit byte 6 ∧ old.edge = edge then old.level else bits byte 4 0
  if edge then
    let m := min (16 - lvl) old.queue
    ({ level := lvl + m, edge := true, ovf := false, queue := old.queue - m }, 0)
  else ({ level := lvl, edge := false, ovf := false, queue := 0 }, old.queue)

/-- Every pail of a core under a new image. -/
def Core.newPails (c : Core) (k : CoreCfg) (carry : Bool) : Tab Pail × Nat :=
  let keys := (k.pails.map (·.1) ++ (c.seq.pails.map (·.1)).filter fun i => !(k.pails.any fun p => p.1 == i))
  keys.foldl (fun (st : Tab Pail × Nat) i =>
    let (p, n) := newPail (k.pailByte i) carry (c.pail i)
    (st.1.set i p, st.2 + n)) ([], 0)

/-- `n` tokens are refused. -/
def Core.refusals (c : Core) : Nat → Core
  | 0 => c
  | n + 1 => (c.event .tokenRefused).refusals n

/-! ### One core -/

/-- A core as after a reset that reaches it; the numbering of its operations and free values goes on. -/
def Core.fresh (c : Core) : Core := { Core.reset with cols := c.cols, nextId := c.nextId, free := c.free, ev := c.ev }

/-- Tallies of an image, DATA clear. -/
def CoreCfg.tallySet (k : CoreCfg) : List Tally := k.tallies.map fun v => ⟨v, false⟩

/-- The current lines that an image's pointers bring: their CUR fields (R190, R350). -/
def CoreCfg.ptrLines (k : CoreCfg) : Tab Nat := (List.range 16).map fun i => (i, bits (k.ptrs.get 0 i).toNat 16 0)

/-- An engine whose image has come into force: vats IDLE, the quire file unpredictable, a held PRELOAD discarded (R88,
R350, R353). `cold` takes the flags, counts and fault register back to reset. -/
def Engine.fresh (g : Engine) (cold : Bool) (free : Nat) : Engine :=
  if cold then { Engine.reset with setA := g.setA, setB := g.setB, activeA := g.activeA, slots := Config.freeSlots free,
                                   colAt := g.colAt, epiAt := g.epiAt, foldAt := g.foldAt }
  else { g with vats := g.vats.map fun p => (p.1, p.2.exchange), slots := Config.freeSlots free, preload := none }

/-- All four engines. -/
def Core.freshEngines (c : Core) (cold : Bool) : Core :=
  { c with eng := (List.range 4).map (fun e => (e, (c.me e).fresh cold (c.free + e))), free := c.free + 4 }

/-- The sequencer of a core whose image has come into force, its ENTRY due in cycle `at_`. -/
def SeqSt.enter (q : SeqSt) (k : CoreCfg) (pails : Tab Pail) (at_ : Nat) : SeqSt :=
  { q with state := .run, faulted := false, bundle := k.entry, rep := 0, nextAt := some at_, stalled := false, step := 0,
           seam := none, tallies := k.tallySet, wdogCount := 0, pails := pails }

/-- The vector engine under a new image: thresholds and pointers from it, contexts IDLE (R184, R350). -/
def VeSt.enter (v : VeSt) (k : CoreCfg) : VeSt :=
  { v with flush16 := k.flush16, flush32 := k.flush32, pend16 := none, pend32 := none, cur := k.ptrLines, sm := [] }

/-- DATA_TILE sections written over a store. -/
def StoreSt.load (st : StoreSt) (tiles : List (Nat × Bytes)) : StoreSt :=
  tiles.foldl (fun (st : StoreSt) t => st.poke false t.1 t.2 (t.2.length / 64 + 2)) st

/-- A COLD start of a core, ENTRY due in cycle `at_` (R350). -/
def Core.launch (c : Core) (k : CoreCfg) (tiles : List (Nat × Bytes)) (at_ : Nat) : Core :=
  let (pails, refused) := c.newPails k false
  let f := c.freshEngines true
  ({ c.fresh with
      cfg := k
      free := f.free
      eng := f.eng
      seq := ({ SeqSt.reset with wdogLimit := c.seq.wdogLimit } : SeqSt).enter k pails at_
      ve := VeSt.reset.enter k
      st := StoreSt.reset.load tiles } : Core).setForms k.entry |>.refusals refused

/-- An exchange of a core's image, ENTRY due in cycle `at_` (R350, R353). -/
def Core.exchange (c : Core) (k : CoreCfg) (at_ : Nat) : Core :=
  let (pails, refused) := c.newPails k true
  let f := c.freshEngines false
  ({ f with
      cfg := k
      seq := c.seq.enter k pails at_
      ve := c.ve.enter k
      su := { c.su with pendDesc := [] }
      segment := c.segment + 1 } : Core).setForms k.entry |>.refusals refused

/-- Every store of a core is zeroed: tile store, staging, quire files, vector registers and quires (R532, R547). -/
def Core.wipe (c : Core) : Core :=
  { c with
    st := { c.st with tile := [], stage := [], badTile := [], badStage := [], softTile := [], softStage := [] }
    eng := c.eng.map fun p => (p.1, { p.2 with slots := [] })
    ve := { c.ve with regs := [], vqs := [], vqSat := 0, vqNar := 0 } }

/-- A core goes on from an exchange point without an exchange: its seam completes with E in place of s (R351). -/
def Core.release (c : Core) (e : Nat) : Core :=
  match c.seq.seam with
  | some p => if p.point.isSome then { c with seq := { c.seq with seam := some { p with s := e, point := none } } } else c
  | none => c

/-! ### The plane -/

/-- Cores, mesh and run of the plane as after a reset that reaches it; the counts that the SUP_ block holds stay
(R568). -/
def PlaneSt.clear (p : PlaneSt) : PlaneSt :=
  { p.each fun _ c => c.fresh with mesh := [], late := [], coll := [], half := false, taken := [], back := [], govDebt := 0,
                                   thermDebt := 0, stop := false, comparing := false, launched := false,
                                   slipRun := none, reports := [] }

/-- A COLD start (R350, R363, R390): every core at its ENTRY, the plane count 0. -/
def PlaneSt.launch (p : PlaneSt) (img : Image) (comparing : Bool) : PlaneSt :=
  let tiles := fun (c : Nat) => (img.tiles.filter (·.1 == c)).map fun t => t.2
  let p1 := p.each fun i c => c.launch (img.cores.get CoreCfg.reset i) (tiles i) p.now
  let p2 := { p1 with launched := true, count := 0, slipTotal := 0, slipCause := [], coll := [],
                      half := false, taken := [], back := [], stop := false, comparing := comparing, occ := [] }
  p2.live.foldl (fun (p : PlaneSt) c => p.collect c) p2

/-- An exchange that follows the performed cycle E (R350, R351): in force from E + 1 on, ENTRY at E + 2. -/
def PlaneSt.exchange (p : PlaneSt) (img : Image) : PlaneSt :=
  let p1 := p.each fun i c => c.exchange (img.cores.get CoreCfg.reset i) (p.now + 1)
  p1.live.foldl (fun (p : PlaneSt) c => p.collect c) p1

/-- Every store of every core is zeroed. -/
def PlaneSt.wipe (p : PlaneSt) : PlaneSt := p.each fun _ c => c.wipe

/-- An unrefused SEAM bundle that a core issues in cycle `r`. -/
def Core.seamAt (c : Core) (r : Nat) : Bool :=
  c.seamDue r && bits c.seqSlot 26 21 == 0 && bits c.seqSlot 13 0 == 0
/-- A HALT that a core issues in cycle `r`. -/
def Core.haltAt (c : Core) (r : Nat) : Bool := c.due r && bits c.seqSlot 31 0 == 6 * 2 ^ 27

/-- Whether a core comes to point `x` in cycle `r` or is held there (R351); `pt` is the point its bundle belongs to. -/
def Core.atPoint (c : Core) (x : Nat) (pt : Option Nat) (r : Nat) : Bool :=
  (match c.seq.seam with
   | some p => p.point == some x
   | none => c.seamAt r && pt == some x)

/-- Whether a core counts as arrived at point `x` in cycle `r` (R351). -/
def Core.arrivedAt (c : Core) (x : Nat) (pt : Option Nat) (r : Nat) : Bool :=
  c.seq.state == .halted || c.seq.state == .tripped || c.haltAt r || c.atPoint x pt r

/-- The exchange point at which every core stands in cycle `now`: issuing its seam there, held there, or stopped. -/
def PlaneSt.pointOn (q : PlaneSt) (cfg : ChipCfg) : Option (Nat × Point) :=
  let pt := fun (c : Nat) => cfg.pointOf c (q.core c).seq.bundle
  cfg.points.find? fun x =>
    q.live.all (fun c => (q.core c).arrivedAt x.1 (pt c) q.now) && q.live.any (fun c => (q.core c).atPoint x.1 (pt c) q.now)

/-- The exchange point whose last core arrives in cycle `now` (R351). -/
def PlaneSt.pointAt (p : PlaneSt) (cfg : ChipCfg) : Option (Nat × Point) :=
  if p.half then p.pointOn cfg else (p.each fun _ c => c.settle p.stop p.now).pointOn cfg

/-- The cores held at an exchange point go on without an exchange, E being the cycle just performed. -/
def PlaneSt.release (p : PlaneSt) : PlaneSt := p.each fun _ c => c.release (p.now - 1)

/-- Occurrences of a point, and one more (R361). -/
def PlaneSt.occurred (p : PlaneSt) (x : Nat) : PlaneSt := { p with occ := p.occ.upd 0 x (· + 1) }

/-- The channel whose inbound queue a transfer needs in cycle `now` and that has room for none (R46): `room` says which
have room. -/
def Transit.waitsFor (x : Transit) (now : Nat) (room : Nat → Bool) : Option Nat :=
  if now < x.due then none
  else match x.load with
    | .extRead _ _ c _ _ => if room c then none else some c
    | .extWrite _ c _ _ => if room c then none else some c
    | _ => none

/-- Channels whose inbound queue a transfer due now needs, with room for none. -/
def PlaneSt.blocked (p : PlaneSt) (room : Nat → Bool) : List Nat :=
  (p.mesh.filterMap fun x => x.waitsFor p.now room).eraseDups

/-- The channels of hand-overs that meet a full queue now and have not been counted (R333), and the plane with them marked. -/
def PlaneSt.meetFull (p : PlaneSt) (room : Nat → Bool) : List Nat × PlaneSt :=
  ((p.mesh.filter (!·.met)).filterMap fun x => x.waitsFor p.now room,
   { p with mesh := p.mesh.map fun x => { x with met := x.met || (x.waitsFor p.now room).isSome } })

end Sys2Proof.Machine
end

