-- ==== Sys2Proof/Machine/Power.lean ====
section
/-! DEFINITION. Power states, governor, thermal limits, hold-up bank, durable commits and NAND wear (R501 to R519,
R524 to R529). -/

namespace Sys2Proof.Machine

/-- What a queued durable commit changes (R514). -/
inductive CommitAct where
  | audit                                  -- flush of the audit records
  | mapExt (entry : Nat)                   -- an extension entry, coded as MAP_EXTEND's W1
  | store (slot : Nat) (img : Bytes)       -- LIB_STORE
  | delete (slot : Nat)                    -- LIB_DELETE
  | firmware (slot svn : Nat)              -- switch of the active slot
  deriving DecidableEq, Repr

/-- A commit waiting, with the host command it completes (R516). -/
structure Commit where
  act : CommitAct
  cmd : Option Nat
  deriving DecidableEq, Repr

/-- Kind code of R514. -/
def CommitAct.kind : CommitAct → Nat
  | .audit => 2
  | .mapExt _ => 3
  | .store .. => 4
  | .delete _ => 4
  | .firmware .. => 5

/-- Energy a kind needs, in mJ (R514). -/
def commitNeed (kind : Nat) : Nat :=
  match kind with
  | 1 => 500
  | 2 => 2000
  | 3 => 3000
  | 4 => 4000
  | 5 => 12000
  | _ => 3000

/-- A journal record (R516): stage 0 INTENT, 1 COMMIT, 2 DONE. -/
structure JRec where
  seq : Nat
  stage : Nat
  kind : Nat
  target : Nat
  hash : Bytes
  deriving DecidableEq, Repr

/-- Power, limits and the nonvolatile store's own records. -/
structure PwrSt where
  state : Nat                 -- PWR_STATE: 0 P0 to 4 P4
  target : Nat
  busy : Bool
  transitions : BitVec 32
  powerCmd : Option Nat       -- the POWER command of the transition
  powerW : Nat                -- PWR_INPUT
  rail : Nat
  peakW : Nat
  lock : Bool                 -- PWR_GOV_CFG
  cap : Nat
  clamped : Bool
  idle : Nat                  -- GOV_IDLE
  excess : Nat                -- E in units of 10 µJ (1 W for 10 µs)
  clamps : Nat
  westC : Nat
  eastC : Nat
  hotWest : Nat               -- consecutive samples at 115 °C or above
  hotEast : Nat
  level : Nat
  changes : Nat
  advances : Nat              -- advancing cycles since the last 256 were charged (R509)
  energy : Nat                -- PWR_HOLDUP, mJ
  capPct : Nat
  esrPct : Nat
  healthy : Bool
  checked : Nat               -- real-time count of the last health check, or of the reset before it
  commits : List Commit       -- waiting, in request order
  done : BitVec 32            -- PWR_COMMIT
  refused : Nat
  journal : List JRec
  nextSeq : Nat
  faultCause : Nat            -- PWR_FAULT
  crashRec : Bool
  faultValid : Bool
  faultRtc : BitVec 48
  crashes : List (Nat × Nat)  -- crash records: cause, real-time count
  audit : List (Nat × Nat)    -- audit records in MRAM: kind, argument (log entry 15)
  auditLog : List (Nat × Nat) -- and those flushed to NAND
  lifePct : Nat               -- SUP_NAND_STAT
  worstPct : Nat
  badBlocks : Nat
  erasedMib : Nat
  railsFailing : Bool         -- the auxiliary rail has failed; the bank feeds the island (R556)
  ob : Outbox
  deriving DecidableEq, Repr

/-- Reset values of R524 to R527, R529; the store as delivered (log entry 6). -/
def PwrSt.reset : PwrSt :=
  { state := 0, target := 0, busy := false, transitions := 0, powerCmd := none, powerW := 0, rail := 0, peakW := 0,
    lock := false, cap := 0xAF0, clamped := false, idle := 0, excess := 0, clamps := 0, westC := 0, eastC := 0,
    hotWest := 0, hotEast := 0, level := 0, changes := 0, advances := 0, energy := 0, capPct := 0, esrPct := 0,
    healthy := false, checked := 0, commits := [], done := 0, refused := 0, journal := [], nextSeq := 0, faultCause := 0,
    crashRec := false, faultValid := false, faultRtc := 0, crashes := [], audit := [], auditLog := [], lifePct := 0,
    worstPct := 0, badBlocks := 0, erasedMib := 0, railsFailing := false, ob := Outbox.empty }

/-- A POWER_EVENT of a reason with its argument (R462, R524). -/
def PwrSt.event (p : PwrSt) (reason arg : Nat) : PwrSt := { p with ob := p.ob.event 0xA (reason + 256 * (arg % 256)) 0 }
/-- An interrupt line that waits to rise (R483). -/
def PwrSt.line (p : PwrSt) (n : Nat) : PwrSt := { p with ob := p.ob.line n }

/-! ### Governor (R508, R509, R511) -/

/-- GOVERNOR_SAMPLE: input power now, its 1-ms average, the rail in 10 mV. The result says whether E reached 50 J while
CLAMPED (R512). -/
def PwrSt.governorSample (p : PwrSt) (power avg rail : Nat) : PwrSt × Bool :=
  let e := p.excess + power - p.cap
  let p1 := { p with excess := e, powerW := avg % 65536, rail := rail % 65536, peakW := max p.peakW (avg % 65536) }
  if p.clamped then
    if e = 0 then ({ p1 with clamped := false, idle := 0 }.event 2 0, false)
    else (p1, decide (5000000 ≤ e))
  else if 4000000 ≤ e ∨ 3300 < avg then
    ({ p1 with clamped := true, idle := 16, clamps := satAdd 16 p.clamps 1 }.event 1 0, false)
  else (p1, false)

/-- GOVERNOR_ADJUST: every 100 µs while CLAMPED. -/
def PwrSt.governorAdjust (p : PwrSt) (power : Nat) : PwrSt :=
  if !p.clamped then p
  else if p.cap < power then { p with idle := min 224 (p.idle + 16) }
  else if power + 100 < p.cap then { p with idle := max 16 (p.idle - 8) }
  else p

/-- Idle cycles per 256 of a thermal level (R510). -/
def thermIdle (level : Nat) : Nat := if level = 1 then 32 else if level = 2 then 96 else if level = 3 then 192 else 0

/-- The level a temperature asks for; a sample leaves at most one level (R510). -/
def thermLevel (old t : Nat) : Nat :=
  let up := if 112 ≤ t then 3 else if 109 ≤ t then 2 else if 105 ≤ t then 1 else 0
  if old < up then up
  else if old = 3 ∧ t ≤ 109 then 2
  else if old = 2 ∧ t ≤ 106 then 1
  else if old = 1 ∧ t ≤ 102 then 0
  else old

/-- DIE_THERMAL_SAMPLE: the state after, and the causes 3 West and 4 East of a fault stop on the second of two hot
samples (R510, R512); a hot die raises its line (R483). -/
def PwrSt.thermalSample (p : PwrSt) (west east : Nat) : PwrSt × Option Nat :=
  let hw := if 115 ≤ west then p.hotWest + 1 else 0
  let he := if 115 ≤ east then p.hotEast + 1 else 0
  let l := thermLevel p.level (max west east)
  let hot := (if 115 ≤ west then [7] else []) ++ (if 115 ≤ east then [8] else [])
  let p1 := hot.foldl PwrSt.line
    { p with westC := min 255 west, eastC := min 255 east, hotWest := hw, hotEast := he, level := l }
  let p2 := if l = p.level then p1 else { p1 with changes := satAdd 16 p.changes 1 }.event 3 l
  (p2, if 2 ≤ hw then some 3 else if 2 ≤ he then some 4 else none)

/-- An advancing cycle: after each 256 the idle cycles of governor and thermal level are owed (R509, R510). -/
def PwrSt.advance (p : PwrSt) : PwrSt × Nat × Nat :=
  if 256 ≤ p.advances + 1 then ({ p with advances := 0 }, p.idle, thermIdle p.level)
  else ({ p with advances := p.advances + 1 }, 0, 0)

/-! ### Hold-up and commits (R514 to R517) -/

/-- The bank is healthy (R515). -/
def bankHealthy (capPct esrPct : Nat) : Bool := decide (85 ≤ capPct) && decide (esrPct ≤ 150)

/-- The usable energy is measured; below 15 J it is reported as HOLDUP_LOW (R483, R515). -/
def PwrSt.measured (p : PwrSt) (energy : Nat) : PwrSt :=
  let p1 := { p with energy := min 65535 energy }
  if energy < 15000 then (p1.event 4 0).line 6 else p1

/-- HOLDUP_HEALTH_CHECK: what the measurement of the bank gives, at a real-time count. -/
def PwrSt.healthCheck (p : PwrSt) (rtc energy capPct esrPct : Nat) : PwrSt :=
  let ok := bankHealthy capPct esrPct
  let p2 := { p with capPct := min 255 capPct, esrPct := min 255 esrPct, healthy := ok, checked := rtc }.measured energy
  if ok then p2 else p2.event 5 0

/-- Whether the hold-up check admits a commit (R516, R517). -/
def PwrSt.admits (p : PwrSt) (kind : Nat) : Bool :=
  p.healthy && decide (commitNeed kind + 3000 ≤ p.energy) && !p.railsFailing

/-- A refused commit is counted. -/
def PwrSt.refuse (p : PwrSt) : PwrSt := { p with refused := satAdd 16 p.refused 1 }

/-- An audit record enters MRAM; once 1,024 of them, 64 KiB, have gathered, a flush is queued (R518; 64 bytes each, log
entry 15). -/
def PwrSt.note (p : PwrSt) (kind arg : Nat) : PwrSt :=
  let p1 := { p with audit := p.audit ++ [(kind, arg)] }
  if 1024 ≤ p1.audit.length ∧ p1.commits.all (fun c => c.act.kind != 2) then { p1 with commits := p1.commits ++ [⟨.audit, none⟩] }
  else p1

/-- The newest `n` of a list: what a ring of `n` places keeps. -/
def newest {α : Type} (n : Nat) (l : List α) : List α := l.drop (l.length - n)

/-- A flush: the oldest 64 KiB of audit records go to the ring in NAND, 1 GiB (R514, R518). -/
def PwrSt.flushed (p : PwrSt) : PwrSt :=
  { p with auditLog := newest (2 ^ 24) (p.auditLog ++ p.audit.take 1024), audit := p.audit.drop 1024 }

/-- The journal's three records of a commit that runs to DONE (R516), and the audit record of R518. -/
def PwrSt.journalled (p : PwrSt) (kind target : Nat) (content : Bytes) : PwrSt :=
  let r := fun (st : Nat) => (⟨p.nextSeq, st, kind, target, sha384 content⟩ : JRec)
  { p with journal := p.journal ++ [r 0, r 1, r 2], nextSeq := p.nextSeq + 1, done := p.done + 1 }.note 5 kind

/-- An MRAM_COUNTER commit of the security block: done, or refused with HOLDUP (R516, R531). -/
def PwrSt.counter (p : PwrSt) (target : Nat) (content : Bytes) : PwrSt × Bool :=
  if p.admits 1 then (p.journalled 1 target content, true) else (p.refuse, false)

/-- Journal replay at start-up (R516): every commit that was begun stands whole or not at all, so what is open is
closed. -/
def PwrSt.replay (p : PwrSt) : PwrSt :=
  { p with journal := p.journal.filter fun r => p.journal.any fun x => x.seq == r.seq && x.stage == 2 }

/-! ### NAND wear (R519) -/

/-- The shares 80, 90 and 100 % that `new` has reached and `old` had not. -/
def wearPassed (old new : Nat) : List Nat := [80, 90, 100].filter fun t => decide (old < t) && decide (t ≤ new)

/-- NAND_WEAR_MANAGEMENT: every share that the mean or the worst block has passed is reported. -/
def PwrSt.nandWear (p : PwrSt) (life worst bad erased : Nat) : PwrSt :=
  let p1 := { p with lifePct := min 255 life, worstPct := min 255 worst, badBlocks := min 65535 bad, erasedMib := min (2 ^ 32 - 1) erased }
  (wearPassed p.lifePct p1.lifePct ++ wearPassed p.worstPct p1.worstPct).foldl (fun (p : PwrSt) t => p.event 7 t) p1

end Sys2Proof.Machine
end

