-- ==== Sys2Proof/Machine/Security.lean ====
section
/-! DEFINITION. The security block and the debug connector: lifecycle, owner record, authorisations, secure boot,
attestation, debug levels (R530 to R554). -/

namespace Sys2Proof.Machine

/-- Lifecycle states (R530, R550). -/
inductive Life where
  | blank | ownedLocked | ownedOpen | vendorOpen | scrapped
  deriving DecidableEq, Repr

/-- Code of SEC_LIFECYCLE.STATE. -/
def Life.code : Life → Nat
  | .blank => 0
  | .ownedLocked => 1
  | .ownedOpen => 2
  | .vendorOpen => 3
  | .scrapped => 4

/-- What the checks of R541 find in a firmware slot; the spec gives a slot no layout (log entry 16). -/
structure FwSlot where
  pair : Nat               -- vendor pair its header keys match, 4 none
  signed : Bool            -- both signatures over the header verify
  svn : BitVec 16
  version : BitVec 32
  bodyOk : Bool            -- SHA-384 of the body equals the header's hash
  stewardOk : Bool         -- its steward firmware verifies
  body : Bytes             -- that hash
  deriving DecidableEq, Repr

/-- JTAG instructions (R545). -/
inductive JtagIr where
  | bypass | idcode | sample | extest | dapacc
  deriving DecidableEq, Repr

/-- The security block and the debug connector. -/
structure SecSt where
  life : Life
  granted : Nat            -- 0 None, 1 Observe, 2 Full
  vendorDead : Bool
  erasePending : Bool
  leaseEnd : Nat           -- real-time count at which the lease runs out
  record : Bytes           -- owner record, 2,752 bytes; empty without one
  ownerFail : Nat
  ownerTries : Nat
  vendorTries : Nat
  waitEnd : Nat            -- real-time count at which WAIT_S becomes 0
  nonce : Option Bytes
  nonceEnd : Nat           -- real-time count at which it is voided
  nonceSeq : BitVec 64
  fallback : Bool          -- SEC_BOOT
  recovery : Bool
  slot : Nat               -- running slot
  svn : BitVec 16
  version : BitVec 32
  revoked : BitVec 4
  rollback : BitVec 16
  activeSlot : Nat         -- named in MRAM
  slots : Tab FwSlot
  scrapFuse : Bool
  keysOff : Bool           -- derivation disabled (R540)
  level : Nat              -- DBG_STAT.LEVEL
  busy : Bool
  result : Nat
  mbox : Mem               -- DBG_MBOX, 8,192 bytes
  auth : Bytes             -- the authorisation that has passed step 6 of R537
  verified : Option Nat    -- its OP
  ir : JtagIr
  dap : Bool               -- DAPACC is selected
  scan : Bytes             -- boundary-scan cells as sampled or preloaded
  driven : Bytes           -- what EXTEST drives on the pins
  version12 : Bool         -- SPDM: the versions, algorithms negotiated
  negotiated : Bool
  deriving DecidableEq, Repr

/-- The slot that the model takes to be fused in at manufacture (log entry 16). -/
def FwSlot.factory : FwSlot :=
  { pair := 0, signed := true, svn := 0, version := 0x10000, bodyOk := true, stewardOk := true, body := fillBytes 48 0 }

/-- A blank module with the factory firmware in both slots (log entry 16); registers as R550 to R553. -/
def SecSt.reset : SecSt :=
  { life := .blank, granted := 0, vendorDead := false, erasePending := false, leaseEnd := 0, record := [], ownerFail := 0,
    ownerTries := 0, vendorTries := 0, waitEnd := 0, nonce := none, nonceEnd := 0, nonceSeq := 0, fallback := false,
    recovery := false, slot := 0, svn := 0, version := 0, revoked := 0, rollback := 0, activeSlot := 0,
    slots := [(0, FwSlot.factory), (1, FwSlot.factory)], scrapFuse := false, keysOff := false, level := 0, busy := false,
    result := 0, mbox := [], auth := [], verified := none, ir := .bypass, dap := false, scan := [], driven := [],
    version12 := false, negotiated := false }

/-! ### The owner record (R533, R551) -/

/-- KEY_ID of a record. -/
def recKeyId (r : Bytes) : Nat := leAt r 0 8
/-- POLICY. -/
def recPolicy (r : Bytes) : Nat := leAt r 8 8
/-- IMG_SIG: bit 0 ECDSA, bit 1 ML-DSA-87. -/
def recImgSig (r : Bytes) : Nat := bits (recPolicy r) 63 62
/-- AUTH_SIG. -/
def recAuthSig (r : Bytes) : Nat := bits (recPolicy r) 61 60
/-- LOCKED_OBSERVE. -/
def recLockedObserve (r : Bytes) : Bool := bit (recPolicy r) 59
/-- MAX_LEASE. -/
def recMaxLease (r : Bytes) : Nat := bits (recPolicy r) 31 0
/-- ECDSA_PUB. -/
def recEcdsa (r : Bytes) : Bytes := slice r 16 97
/-- MLDSA_PUB. -/
def recMlDsa (r : Bytes) : Bytes := slice r 160 2592

/-- Whether a record may be installed (R533). -/
def recOk (r : Bytes) : Bool :=
  recAuthSig r != 0 && (slice r 113 47).all (· == 0) && bits (recPolicy r) 58 32 == 0 && Config.onCurve (recEcdsa r)

/-! ### Signatures (R339, R534, R536, R539) -/

/-- An entry of a signature block. -/
structure SigEnt where
  alg : Nat
  role : Nat
  keyId : Nat
  sig : Bytes
  deriving DecidableEq, Repr

/-- `n` entries, each padded to 8 bytes (R339). -/
def sigEntries : Nat → Bytes → List SigEnt
  | 0, _ => []
  | n + 1, b =>
    let len := leAt b 12 4
    ⟨leAt b 0 2, leAt b 2 1, leAt b 4 8, slice b 16 len⟩ :: sigEntries n (b.drop ((16 + len + 7) / 8 * 8))

/-- The entries of a signature block; a block cannot hold more than one per 16 bytes. -/
def sigBlock (b : Bytes) : List SigEnt := sigEntries (min (leAt b 0 4) (b.length / 16)) (b.drop 8)

/-- Whether an entry's signature over a hash verifies with a key pair. -/
def SigEnt.verifies (e : SigEnt) (ecdsa mlDsa hash : Bytes) : Bool :=
  if e.alg = 1 then Config.ecdsaOk ecdsa hash e.sig else if e.alg = 2 then Config.mlDsaOk mlDsa hash e.sig else false

/-- The owner's entries hold a good one for every algorithm that `need` requires (R534, R536). -/
def ownerSigned (r : Bytes) (need : Nat) (es : List SigEnt) (hash : Bytes) : Bool :=
  let has := fun alg => es.any fun e => e.alg == alg && e.role == 1 && e.keyId == recKeyId r &&
    e.verifies (recEcdsa r) (recMlDsa r) hash
  (!bit need 0 || has 1) && (!bit need 1 || has 2)

/-- A vendor token carries both algorithms by one vendor pair that is not revoked (R536, R539). -/
def SecSt.vendorSigned (s : SecSt) (es : List SigEnt) (hash : Bytes) : Bool :=
  (List.range 4).any fun p => !s.revoked.getLsbD p &&
    ([1, 2].all fun alg => es.any fun e => e.alg == alg && e.role == 2 && e.keyId == Config.vendorKeyId p &&
      e.verifies (Config.vendorEcdsa p) (Config.vendorMlDsa p) hash)

/-- signatures_meet_policy (R346, R534). -/
def SecSt.policy (s : SecSt) (hash sigs : Bytes) : Bool :=
  match s.life with
  | .blank | .vendorOpen => true
  | .scrapped => false
  | .ownedLocked | .ownedOpen => ownerSigned s.record (recImgSig s.record) (sigBlock sigs) hash

/-! ### Nonces (R535, R540) -/

/-- Ticks of the real-time count in a second. -/
def rtcHz : Nat := 32768

/-- The 48 bytes of a device key's derivation (R540). -/
def deviceKey (key : Nat) (extra : Bytes) : Bytes :=
  hkdfExpand (hkdfExtract [] Config.deviceSecret) (Config.keyInfo key ++ extra) 48

/-- The alias seed of the running slot. -/
def SecSt.aliasSeed (s : SecSt) : Bytes := deviceKey 2 (s.slots.get FwSlot.factory s.slot).body

/-- The nonce of a NONCE_SEQ (R535). -/
def nonceOf (seq : BitVec 64) : Bytes := (hmac384 (deviceKey 0 []) (leBytes 8 seq.toNat)).take 32

/-- A held nonce is voided. -/
def SecSt.void (s : SecSt) : SecSt := { s with nonce := none, nonceEnd := 0 }

/-- GET_NONCE, its commit done: NONCE_SEQ rises and a nonce is held for 60 s of the real-time count (R535). -/
def SecSt.newNonce (s : SecSt) (rtc : Nat) : SecSt :=
  let q := s.nonceSeq + 1
  { s with nonceSeq := q, nonce := some (nonceOf q), nonceEnd := rtc + 60 * rtcHz, result := 0 }

/-- NONCE_EXPIRY (R535). -/
def SecSt.nonceExpiry (s : SecSt) (rtc : Nat) : SecSt :=
  if s.nonce.isSome ∧ s.nonceEnd ≤ rtc then s.void else s

/-! ### Authorisations (R536 to R538) -/

/-- Seconds from a real-time count to an end, rounded up. -/
def secondsTo (rtc end_ : Nat) : Nat := ceilDiv (end_ - rtc) rtcHz
/-- WAIT_S at a real-time count. -/
def SecSt.waitS (s : SecSt) (rtc : Nat) : Nat := secondsTo rtc s.waitEnd
/-- LEASE_LEFT. -/
def SecSt.leaseLeft (s : SecSt) (rtc : Nat) : Nat := if s.life = .ownedOpen then secondsTo rtc s.leaseEnd else 0

/-- Whether an OP's transition exists from the state (R531). -/
def opAllowed (l : Life) (op : Nat) : Bool :=
  match l with
  | .blank => op == 1 || op == 7
  | .ownedLocked | .ownedOpen => op == 2 || op == 3 || op == 4 || op == 5
  | .vendorOpen => op == 6 || op == 7
  | .scrapped => false

/-- Whether the fields of an authorisation are as R536 gives them for its OP, under the record in force. -/
def authWellFormed (r a : Bytes) : Bool :=
  let op := leAt a 40 1
  let lvl := leAt a 41 1
  let lease := leAt a 44 4
  let z := fun o n => (slice a o n).all (· == 0)
  z 42 2 && z 48 16 &&
  (if op = 2 then (lvl == 1 || lvl == 2) && decide (1 ≤ lease) && decide (lease ≤ recMaxLease r) else lvl == 0 && lease == 0) &&
  (op == 1 || op == 3 || z 64 2752)

/-- The path of an OP: true the owner's, which WAIT_S and OWNER_TRIES govern (R537, R538). -/
def ownerOp (op : Nat) : Bool := decide (1 ≤ op) && decide (op ≤ 4)

/-- Steps 1 to 3 of R537, judged against the whole mailbox: the result code of the first that fails. -/
def SecSt.submitFirst (s : SecSt) (pstate moduleId rtc : Nat) (a : Bytes) : Option Nat :=
  let op := leAt a 40 1
  if pstate ≠ 0 ∧ pstate ≠ 1 ∧ pstate ≠ 3 then some 7
  else if !opAllowed s.life op || leAt a 32 8 != moduleId || !authWellFormed s.record a then some 1
  else if ownerOp op && s.waitS rtc != 0 then some 5
  else if op = 5 ∧ s.vendorDead then some 9
  else none

/-- Step 4: the attempt counters of the path rise (R537). -/
def SecSt.counted (s : SecSt) (op : Nat) : SecSt :=
  if ownerOp op then { s with ownerFail := satAdd 16 s.ownerFail 1, ownerTries := satAdd 16 s.ownerTries 1 }
  else if op = 5 then { s with vendorTries := s.vendorTries + 1 }
  else s

/-- Step 6: what checks the authorisation finds wrong (R533, R536, R538). -/
def SecSt.submitCheck (s : SecSt) (moduleId : Nat) (a : Bytes) : Nat :=
  let op := leAt a 40 1
  let hash := sha384 (slice a 0 2816)
  let es := sigBlock (a.drop 2816)
  let newRec := slice a 64 2752
  if op = 5 then if sha384 (slice a 0 32 ++ leBytes 8 moduleId) = Config.passwordHash then 0 else 4
  else if op = 6 ∨ op = 7 then if s.vendorSigned es hash then 0 else 3
  else if (op = 1 ∨ op = 3) ∧ !recOk newRec then 0xA
  else
    let by_ := if op = 1 then newRec else s.record
    if ownerSigned by_ (recAuthSig by_) es hash then 0 else 3

/-- After a failure at step 5 or 6 (R538). -/
def SecSt.failed (s : SecSt) (op code rtc : Nat) : SecSt :=
  let s1 := { s with result := code, busy := false }
  if ownerOp op then { s1 with waitEnd := rtc + 2 ^ min s.ownerFail 12 * rtcHz }
  else if op = 5 ∧ 16 ≤ s.vendorTries then { s1 with vendorDead := true }
  else s1

/-- Steps 5 and 6 of R537: the nonce is voided and the signatures or the password checked. -/
def SecSt.submitSecond (s : SecSt) (moduleId rtc : Nat) (a : Bytes) : SecSt :=
  let op := leAt a 40 1
  let good := decide (s.nonce = some (slice a 0 32)) && decide (rtc < s.nonceEnd)
  let s1 := s.void
  if op ≠ 5 ∧ !good then s1.failed op 2 rtc
  else
    let code := s1.submitCheck moduleId a
    if code ≠ 0 then s1.failed op code rtc else { s1 with busy := true, verified := some op, auth := a }

/-- SUBMIT (R537): the states of the block and of the store after steps 1 to 6. -/
def SecSt.submit (s : SecSt) (p : PwrSt) (moduleId rtc : Nat) : SecSt × PwrSt :=
  if s.busy then (s, p)
  else
    let a := s.mbox.read 0 8192
    match s.submitFirst p.state moduleId rtc a with
    | some code => ({ s with result := code }, p)
    | none =>
      let op := leAt a 40 1
      let (p1, ok) := if op ≤ 5 then p.counter 0 [BitVec.ofNat 8 op] else (p, true)
      if !ok then ({ s with result := 6 }, p1)
      else ((s.counted op).submitSecond moduleId rtc a, p1)

/-! ### Transitions (R531) -/

/-- The security state an OP of an authorisation leads to (step 7 of R537); erasure is the caller's. -/
def SecSt.transit (s : SecSt) (op rtc : Nat) : SecSt :=
  let a := s.auth
  match op with
  | 1 => { s with life := .ownedLocked, record := slice a 64 2752, granted := 0 }
  | 2 => { s with life := .ownedOpen, granted := leAt a 41 1, leaseEnd := rtc + leAt a 44 4 * rtcHz }
  | 3 => { s with life := .ownedLocked, record := slice a 64 2752, granted := 0, leaseEnd := 0 }
  | 4 => { s with life := .blank, record := [], granted := 0, leaseEnd := 0, erasePending := true }
  | 5 => { s with life := .vendorOpen, record := [], granted := 0, leaseEnd := 0, erasePending := true, vendorTries := 0 }
  | 6 => { s with life := .blank, erasePending := true }
  | _ => { s with life := .scrapped, erasePending := true, scrapFuse := true, level := 0 }

/-- Whether a transition erases (R531). -/
def opErases (op : Nat) : Bool := decide (4 ≤ op)

/-- The authorisation has been settled with a result. -/
def SecSt.settle (s : SecSt) (code : Nat) : SecSt := { s with busy := false, verified := none, auth := [], result := code }

/-- The highest debug level reachable in the lifecycle state (R530). -/
def SecSt.reach (s : SecSt) : Nat :=
  match s.life with
  | .blank | .vendorOpen => 2
  | .ownedLocked => if recLockedObserve s.record then 1 else 0
  | .ownedOpen => s.granted
  | .scrapped => 0

/-- A session above what the state reaches ends (R530, R548). -/
def SecSt.lowered (s : SecSt) : SecSt := if s.reach < s.level then { s with level := 0 } else s

/-- Step 7 of R537 for one OP: the commit, then the new state with OWNER_FAIL 0; HOLDUP where the commit is refused.
The Bool says that the transition took place. -/
def SecSt.authorise (s : SecSt) (p : PwrSt) (op rtc : Nat) : SecSt × PwrSt × Bool :=
  if s.verified ≠ some op then (s, p, false)
  else
    let (p1, ok) := p.counter 1 (BitVec.ofNat 8 op :: s.auth)
    if ok then (((({ s with ownerFail := 0 }).transit op rtc).settle 0).lowered, p1.note 6 op, true)
    else (s.settle 6, p1, false)

/-- The second commit of an erasure (R532). -/
def SecSt.erased (s : SecSt) (p : PwrSt) : SecSt × PwrSt :=
  let (p1, ok) := p.counter 2 []
  if ok then ({ s with erasePending := false, keysOff := s.keysOff || s.life == .scrapped }, p1) else (s, p1)

/-- OWNED-OPEN goes back to OWNED-LOCKED by one commit and any session ends (R531, R547, R549). -/
def SecSt.relock (s : SecSt) (p : PwrSt) : SecSt × PwrSt :=
  if s.life ≠ .ownedOpen then ({ s with result := 1 }, p)
  else
    let (p1, ok) := p.counter 1 [8]
    if ok then ({ s with life := .ownedLocked, granted := 0, leaseEnd := 0, level := 0, result := 0 }, p1.note 6 8)
    else ({ s with result := 6 }, p1)

/-- LEASE_EXPIRY: the session ends at once and RELOCK is committed (R531, R549). It is no request: RESULT stays (R553). -/
def SecSt.leaseExpiry (s : SecSt) (p : PwrSt) (rtc : Nat) : SecSt × PwrSt :=
  if s.life = .ownedOpen ∧ s.leaseEnd ≤ rtc then
    let (s1, p1) := ({ s with level := 0 }).relock p
    ({ s1 with result := s.result }, p1)
  else (s, p)

/-! ### Debug sessions (R530, R546 to R548) -/

/-- What a SESSION request at a level ends with: 0 granted (R547, R548). -/
def SecSt.sessionResult (s : SecSt) (pstate level : Nat) : Nat :=
  if s.life = .scrapped ∨ s.verified.isSome then 1
  else if s.reach < level ∨ 2 < level then 8
  else if pstate ≠ 0 ∧ pstate ≠ 1 then 7
  else 0

/-- What a reset that reaches the security block leaves: fuses and MRAM fields stay (R531, R535, R547, R550). -/
def SecSt.afterReset (s : SecSt) : SecSt :=
  { s with nonce := none, nonceEnd := 0, fallback := false, recovery := false, slot := 0, svn := 0, version := 0, level := 0,
           busy := false, result := 0, mbox := [], auth := [], verified := none, ir := .bypass, dap := false, scan := [],
           driven := [], version12 := false, negotiated := false,
           life := if s.scrapFuse then .scrapped else s.life }

/-- Lease and wait as MRAM holds them across a power-up that resets the real-time count from `rtc` to 0. -/
def SecSt.rebase (s : SecSt) (rtc : Nat) : SecSt := { s with leaseEnd := s.leaseEnd - rtc, waitEnd := s.waitEnd - rtc }

/-! ### Secure boot and firmware (R539, R541, R542) -/

/-- A slot passes steps 2 to 5 of R541. -/
def SecSt.slotOk (s : SecSt) (f : FwSlot) : Bool :=
  decide (f.pair < 4) && !s.revoked.getLsbD f.pair && f.signed && decide (s.rollback.toNat ≤ f.svn.toNat) && f.bodyOk

/-- Slot `k` runs. -/
def SecSt.runs (s : SecSt) (k : Nat) (fallback : Bool) : SecSt :=
  let f := s.slots.get FwSlot.factory k
  { s with slot := k, fallback := fallback, recovery := false, svn := f.svn, version := f.version }

/-- Steps 1 to 6 of R541 but for the erasure: the active slot, then the other, then RECOVERY. -/
def SecSt.boot (s : SecSt) (fuseOk : Bool) : SecSt :=
  let ok := fun k => let f := s.slots.get FwSlot.factory k; s.slotOk f && f.stewardOk
  let a := s.activeSlot
  if !fuseOk then { s with recovery := true }
  else if ok a then s.runs a false
  else if ok (1 - a) then s.runs (1 - a) true
  else { s with fallback := true, recovery := true }

/-- FIRMWARE_UPDATE: a new slot is checked and written into the slot that is not running (R542). -/
def SecSt.update (s : SecSt) (f : FwSlot) : SecSt :=
  if f.svn.toNat < s.rollback.toNat then s else { s with slots := s.slots.set (1 - s.slot) f }

/-- A FIRMWARE commit done: the slot is named active and ROLLBACK raised (R514, R542). -/
def SecSt.activate (s : SecSt) (slot svn : Nat) : SecSt :=
  { s with activeSlot := slot, rollback := BitVec.ofNat 16 (max s.rollback.toNat svn) }

/-! ### JTAG (R545) -/

/-- A JTAG instruction is loaded; EXTEST acts only in a Full session and is BYPASS otherwise. -/
def SecSt.jtag (s : SecSt) (ir : JtagIr) : SecSt := { s with ir := ir, dap := ir == .dapacc }

/-- IDCODE: version 1, part 0x3C51, maker 0x53D. -/
def idcode : BitVec 32 := 0x13C51A7B

/-! ### Attestation (R543, R544) -/

/-- Facts that measurements show beside the security block's own. -/
structure MeasEnv where
  activeHash : Bytes       -- 48 bytes, zero without an image
  digest : Nat
  partCode : Nat
  runId : Nat
  deriving DecidableEq, Repr

/-- Measurements 1 to 7 (R544): digests, and raw values little-endian in the order the table names them. -/
def SecSt.measure (s : SecSt) (e : MeasEnv) (i : Nat) : Bytes :=
  match i with
  | 1 => Config.romHash
  | 2 => (s.slots.get FwSlot.factory s.slot).body ++ leBytes 2 s.svn.toNat ++ leBytes 4 s.version.toNat
  | 3 => [BitVec.ofNat 8 s.life.code, BitVec.ofNat 8 s.granted, BitVec.ofNat 8 s.level] ++
      leBytes 8 (if s.record.isEmpty then 0 else recKeyId s.record) ++ [BitVec.ofNat 8 (b2n s.vendorDead)]
  | 4 => slice e.activeHash 0 48
  | 5 => leBytes 8 e.digest ++ leBytes 2 e.partCode
  | 6 => leBytes 8 e.runId
  | 7 => if s.record.isEmpty then fillBytes 48 0 else sha384 s.record
  | _ => []

/-- Measurements 1 to 7 joined. -/
def SecSt.measureAll (s : SecSt) (e : MeasEnv) : Bytes := (List.range 7).flatMap fun i => s.measure e (i + 1)

/-- Measurement 8: the ML-DSA-87 alias signature over the hash of the nonce and measurements 1 to 7. -/
def SecSt.measure8 (s : SecSt) (e : MeasEnv) (nonce : Bytes) : Bytes :=
  Config.aliasMlDsa s.aliasSeed (sha384 (nonce ++ s.measureAll e))

/-- SEC_LIFECYCLE (R550). -/
def SecSt.lifeWord (s : SecSt) (rtc : Nat) : Nat :=
  fld s.life.code 3 61 + fld s.granted 2 59 + fld (b2n s.vendorDead) 1 58 + fld (b2n s.erasePending) 1 57 + s.leaseLeft rtc % 2 ^ 32
/-- SEC_BOOT (R550). -/
def SecSt.bootWord (s : SecSt) : Nat :=
  fld (b2n s.fallback) 1 63 + fld (b2n s.recovery) 1 62 + fld s.slot 1 61 + fld s.revoked.toNat 4 48 + fld s.svn.toNat 16 32 +
  s.version.toNat
/-- SEC_ATTEMPTS (R551). -/
def SecSt.attemptsWord (s : SecSt) (rtc : Nat) : Nat :=
  fld s.ownerFail 16 48 + fld s.ownerTries 16 32 + fld s.vendorTries 8 24 + s.waitS rtc % 65536
/-- DBG_STAT (R553). -/
def SecSt.dbgStat (s : SecSt) : Nat := fld s.level 2 62 + fld (b2n s.busy) 1 61 + fld s.result 8 48

end Sys2Proof.Machine
end

