-- ==== Sys2Proof/Machine/ExtMem.lean ====
section
/-! DEFINITION. External memory: channels, their queues, error correction, refresh, scrub, temperature, training,
fences and fold writes (R281 to R289, R303 to R321, R329 to R334). -/

namespace Sys2Proof.Machine

/-- What a request in a channel's inbound queue asks for, at channel-local bytes (R283, R284). -/
inductive ReqKind where
  | read (core ch rel : Nat) (els : List (Nat × Nat × Nat))          -- release cycle; index, byte, bits code
  | write (bs : List (Nat × Byte × Byte))                            -- byte, mask, value
  | fold (op ffmt fmt : Nat) (bs : List (Nat × Byte × Byte))
  | command (rec_ : Bytes)
  | badPort                                                          -- a partial write of a command port
  deriving DecidableEq, Repr

/-- A creamery command that has run and not yet completed (R325, R326): status bytes and where they go, token. -/
structure CmdDone where
  status : Option (Nat × Bytes)     -- channel-local byte of the status sector, its 32 bytes
  token : Option (Nat × Nat)
  deriving DecidableEq, Repr

/-- Whether a command that has run has still to write a sector: its status sector (R325, R326). -/
def CmdDone.holds (d : CmdDone) (sec : Nat) : Bool :=
  match d.status with
  | some (l, _) => l / 32 == sec
  | none => false

/-- One channel with its creamery unit. -/
structure Chan where
  state : Nat                 -- MEM_STAT: 0 DOWN, 1 TRAINING, 2 UP
  level : Nat
  wanted : Nat                -- level requested by the latest temperature sample (R316)
  refresh2x : Bool
  newRepair : Bool
  lanes : Nat                 -- LANES_REPAIRED
  corrected : Nat             -- MEM_ECC
  uncorr : Nat
  lastUncorr : Bool
  lastSector : Nat
  retryCa : Nat               -- MEM_RETRY
  retryWr : Nat
  retryRd : Nat
  attempts : Nat              -- failed attempts of the command now served (R312)
  temp : Nat
  t1 : Nat                    -- MEM_THERM_CFG, held by channel 0 of the stack
  t2 : Nat
  passes : BitVec 16          -- MEM_SCRUB
  position : Nat
  queue : List ReqKind        -- requests in flight, in queue order
  full : BitVec 32            -- MEM_QUEUE.FULL
  wbPend : List Nat           -- corrected sectors queued for write-back, oldest first (R311)
  running : List CmdDone      -- commands executing
  cmds : BitVec 32            -- CRM_STAT
  folds : BitVec 32           -- CRM_FOLD
  droppedFmt : Nat
  poisoned : Nat
  faults : Nat                -- CRM_FAULT
  faultCode : Nat
  faultOp : Nat
  faultLabel : Nat
  fenceTally : Nat            -- fold requests dropped or poisoned since the previous FENCE (R326)
  deriving DecidableEq, Repr

/-- Reset values of R329 to R335. -/
def Chan.reset : Chan :=
  { state := 0, level := 0, wanted := 0, refresh2x := false, newRepair := false, lanes := 0, corrected := 0,
    uncorr := 0, lastUncorr := false, lastSector := 0, retryCa := 0, retryWr := 0, retryRd := 0, attempts := 0,
    temp := 0, t1 := 0x5F, t2 := 0x64, passes := 0, position := 0, queue := [], full := 0, wbPend := [],
    running := [], cmds := 0, folds := 0, droppedFmt := 0, poisoned := 0, faults := 0, faultCode := 0, faultOp := 0,
    faultLabel := 0, fenceTally := 0 }

/-- Read data waiting for its release (R265, R414): core, move channel, source endpoint, release cycle, elements
with their patterns, none for a poisoned one. An element is named 4 × index + half. -/
structure Resp where
  core : Nat
  ch : Nat
  src : Nat
  rel : Nat
  els : List (Nat × Option Nat)
  deriving DecidableEq, Repr

/-- The fault and telemetry counters of a channel and its unit at their reset values (R330, R331, R333 to R335). -/
def Chan.countersReset (k : Chan) : Chan :=
  { k with corrected := 0, uncorr := 0, retryCa := 0, retryWr := 0, retryRd := 0, full := 0, cmds := 0, folds := 0,
           droppedFmt := 0, poisoned := 0, faults := 0 }

/-- External memory as a whole. Channel-local byte `l` of channel `c` stands at `2 ^ 31 c + l`. -/
structure ExtSt where
  mem : Mem
  bad : List Nat              -- uncorrectable sectors, by address over 32, ascending
  soft : List Nat             -- sectors with one symbol in error, likewise
  chans : Tab Chan
  resp : List Resp
  stackOk : Nat               -- SUP_UNIT_STATUS.STACK_OK
  okAtReset : Nat             -- STACK_OK at the last reset (R309)
  fenced : Nat                -- stacks fenced since their training
  fenceHits : Tab Nat         -- accesses to a fenced stack, as its steward counts them (R318)
  repairs : Tab (List Nat)    -- lanes repaired at the previous training, by channel (nonvolatile, R313)
  units : List Nat            -- the unit of each token in the outbox
  ob : Outbox
  deriving DecidableEq, Repr

/-- External memory at reset: nothing listed, every channel DOWN. -/
def ExtSt.reset : ExtSt :=
  { mem := [], bad := [], soft := [], chans := [], resp := [], stackOk := 0, okAtReset := 0, fenced := 0, fenceHits := [],
    repairs := [], units := [], ob := Outbox.empty }

/-- Channel `c`. -/
def ExtSt.chan (x : ExtSt) (c : Nat) : Chan := x.chans.get Chan.reset c
/-- A channel changed by a function. -/
def ExtSt.onChan (x : ExtSt) (c : Nat) (f : Chan → Chan) : ExtSt := { x with chans := x.chans.set c (f (x.chan c)) }
/-- Key of a channel-local byte. -/
def memKey (c l : Nat) : Nat := 2 ^ 31 * c + l
/-- Whether a channel's stack is fenced. -/
def ExtSt.isFenced (x : ExtSt) (c : Nat) : Bool := bit x.fenced (c / 32)
/-- Bytes at a channel-local address. -/
def ExtSt.peek (x : ExtSt) (c l n : Nat) : Bytes := x.mem.read (memKey c l) n
/-- Whether the sector that holds a channel-local byte is uncorrectable. -/
def ExtSt.poisoned (x : ExtSt) (c l : Nat) : Bool := x.bad.contains (memKey c l / 32)
/-- A line rises. -/
def ExtSt.line (x : ExtSt) (n : Nat) : ExtSt := { x with ob := x.ob.line n }

/-! ### Error correction (R310, R311) -/

/-- The cells of one sector hold an error, which its code finds when the controller reads it next. -/
def ExtSt.upset (x : ExtSt) (c sec : Nat) (u : Upset) : ExtSt :=
  let key := memKey c (32 * sec) / 32
  match u with
  | .clean => x
  | .correctable => if x.bad.contains key then x else { x with soft := secIns key x.soft }
  | .uncorrectable => { x with bad := secIns key x.bad, soft := x.soft.filter (· != key) }

/-- A sector read and delivered: one that is uncorrectable is delivered poisoned, one with one symbol in error is corrected
and queued for write-back; both are counted. -/
def ExtSt.noteRead (x : ExtSt) (c sec : Nat) : ExtSt :=
  if x.poisoned c (32 * sec) then
    (x.onChan c fun k => { k with uncorr := satAdd 16 k.uncorr 1, lastUncorr := true, lastSector := sec }).line (512 + c)
  else if x.soft.contains (memKey c (32 * sec) / 32) then
    x.onChan c fun k => { k with corrected := satAdd 16 k.corrected 1, lastUncorr := false, lastSector := sec,
                                 wbPend := if k.wbPend.contains sec then k.wbPend else k.wbPend ++ [sec] }
  else x

/-- Sectors of channels are read, each once. -/
def ExtSt.noteReads (x : ExtSt) (secs : List (Nat × Nat)) : ExtSt :=
  secs.eraseDups.foldl (fun (x : ExtSt) p => x.noteRead p.1 p.2) x

/-- An access to a fenced stack is counted (R318). -/
def ExtSt.fenceHit (x : ExtSt) (c : Nat) : ExtSt := { x with fenceHits := x.fenceHits.upd 0 (c / 32) (· + 1) }

/-- Sectors read, with what their cells are found to hold. -/
def ExtSt.readSectors (x : ExtSt) (c : Nat) : List Nat → List Upset → ExtSt
  | [], _ => x
  | s :: t, us => ((x.upset c s (us.headD .clean)).noteRead c s).readSectors c t us.tail

/-- The sectors of masked bytes, each once. -/
def sectorsOf (bs : List (Nat × Byte × Byte)) : List Nat := (bs.map fun b => b.1 / 32).eraseDups

/-- The sectors of which masked bytes name every byte. -/
def wholeSectors (bs : List (Nat × Byte × Byte)) : List Nat :=
  (sectorsOf bs).filter fun s => (List.range 32).all fun i => bs.any fun b => b.1 == 32 * s + i && b.2.1 == 0xFF

/-- The sectors of which masked bytes name a part: a write of them reads and merges each (R310). -/
def partSectors (bs : List (Nat × Byte × Byte)) : List Nat := (sectorsOf bs).filter fun s => !(wholeSectors bs).contains s

/-- Sectors of a channel get fresh check symbols (R310). -/
def ExtSt.freshen (x : ExtSt) (c : Nat) (secs : List Nat) : ExtSt :=
  let keys := secs.map fun s => memKey c (32 * s) / 32
  { x with bad := x.bad.filter fun k => !keys.contains k }

/-- A write of masked bytes (R288, R310): a sector of which every byte is named gets fresh check symbols, another
stays poisoned if it was; a correctable error of a written sector is gone, and a queued write-back of it is cancelled
(R311). -/
def ExtSt.writeBytes (x : ExtSt) (c : Nat) (bs : List (Nat × Byte × Byte)) : ExtSt :=
  let secs := sectorsOf bs
  let m := bs.foldl (fun (m : Mem) b => m.put (memKey c b.1) (mergeByte (m.get (memKey c b.1)) b.2.1 b.2.2)) x.mem
  { x with mem := m, soft := x.soft.filter fun k => !(secs.map fun s => memKey c (32 * s) / 32).contains k }.freshen c
    (wholeSectors bs) |>.onChan c fun k => { k with wbPend := k.wbPend.filter fun s => !secs.contains s }

/-- A write whose merged sectors the controller reads first (R310). -/
def ExtSt.mergeBytes (x : ExtSt) (c : Nat) (bs : List (Nat × Byte × Byte)) : ExtSt :=
  (x.noteReads ((partSectors bs).map fun s => (c, s))).writeBytes c bs

/-- Whole bytes at consecutive channel-local addresses. -/
def plainBytes (l : Nat) (bs : Bytes) : List (Nat × Byte × Byte) := (bs.zipIdx).map fun (b, i) => (l + i, 0xFF, b)

/-- The value of an element read from a channel, none when its sector is poisoned. -/
def ExtSt.element (x : ExtSt) (c l code : Nat) : Option Nat :=
  let w := if code = 4 ∨ code = 5 then 4 else if code = 257 ∨ code = 258 then 256 else code
  if x.poisoned c l then none
  else
    let v := leNat (x.peek c l (max 1 (w / 8)))
    some (if code = 4 then v % 16 else if code = 5 then v / 16 else v)

/-- Name of an element of a bits code: 4 × index + half of a Q512. -/
def elName (idx code : Nat) : Nat := 4 * idx + (if code = 258 then 1 else if code = 257 then 2 else 0)

/-! ### Fold writes (R319 to R321, R327) -/

/-- FOLD of R259 for a FOLD_OP of R306, 0 for TRAILER. -/
def foldOfOp (op : Nat) : Nat :=
  match op with
  | 0 => 1
  | 1 => 2
  | 2 => 3
  | 3 => 4
  | 4 => 5
  | _ => 0

/-- Whether a request's format suits the fold (R319); TRAILER takes whole sectors. -/
def foldSuits (op ffmt fmt : Nat) (bs : List (Nat × Byte × Byte)) : Bool :=
  match op with
  | 0 => fmt == ffmt
  | 1 => fmt == 2
  | 2 => fmt == 2 || fmt == 6
  | 3 | 4 => fmt == 7
  | _ => fmt == 7 && (sectorsOf bs).all fun s => (List.range 32).all fun i => bs.any fun b => b.1 == 32 * s + i

/-- One element folded at a channel-local byte. The unit that folds the values cannot see their trailers (R320), and a trailer
fold sees no values: that an addition of them saturated reaches no trailer, so it never sets VAT_SAT (DEDUCED, log entry
50). -/
def ExtSt.foldOne (x : ExtSt) (c op ffmt fmt l src : Nat) : ExtSt :=
  if op = 5 then
    let old := if x.poisoned c l then 0 else leNat (x.peek c l 8)
    let w := if trlMatch src old then trlCombine src old false else trlFmt old
    x.writeBytes c (plainBytes l (leBytes 32 w))
  else
    let f := foldOfOp op
    let n := foldBytes f fmt
    let recW := ffmt
    let badDst := (List.range (max 1 (n / 32))).any fun i => x.poisoned c (l + 32 * i)
    let dst := if badDst then foldPoison f fmt recW else leNat (x.peek c l n)
    let (v, _, _) := foldElem f fmt recW dst src
    x.writeBytes c (plainBytes l (leBytes n v))

/-- The elements of a fold request, each its channel-local byte and its value: in the request's order, for TRAILER a sector
each, whose bytes may come in any order (R319). -/
def foldParts (op fmt : Nat) (bs : List (Nat × Byte × Byte)) : List (Nat × Nat) :=
  if op = 5 then (sectorsOf bs).map fun s =>
    (32 * s, leNat ((List.range 8).map fun i => ((bs.reverse.find? fun b => b.1 == 32 * s + i).map fun b => b.2.2).getD 0))
  else
    let n := foldBytes (foldOfOp op) fmt
    (List.range (bs.length / n)).map fun i =>
      let part := (bs.drop (i * n)).take n
      ((part.head?.map (·.1)).getD 0, leNat (part.map fun b => b.2.2))

/-- A fold request at its place in queue order (R319): dropped when its format does not suit, otherwise a
read-modify-write of each element. -/
def ExtSt.foldWrite (x : ExtSt) (c op ffmt fmt : Nat) (bs : List (Nat × Byte × Byte)) (us : List Upset) : ExtSt :=
  if !foldSuits op ffmt fmt bs then
    (x.onChan c fun k => { k with droppedFmt := satAdd 16 k.droppedFmt 1, fenceTally := k.fenceTally + 1 }).line (256 + c)
  else
    let x1 := x.readSectors c (sectorsOf bs) us
    let pois := (sectorsOf bs).any fun s => x1.poisoned c (32 * s)
    let x2 := (foldParts op fmt bs).foldl (fun (x : ExtSt) e => x.foldOne c op ffmt fmt e.1 e.2) x1
    let x3 := (x2.freshen c (wholeSectors bs)).onChan c fun k => { k with
      folds := k.folds + 1
      poisoned := if pois then satAdd 16 k.poisoned 1 else k.poisoned
      fenceTally := if pois then k.fenceTally + 1 else k.fenceTally }
    if pois then x3.line (256 + c) else x3

/-! ### Queues (R284 to R286) -/

/-- The sectors a request touches. -/
def ReqKind.sectors : ReqKind → List Nat
  | .read _ _ _ els => (els.map fun e => e.2.1 / 32).eraseDups
  | .write bs => sectorsOf bs
  | .fold _ _ _ bs => sectorsOf bs
  | _ => []

/-- Whether a request is a creamery command or a write of a command port. -/
def ReqKind.isCmd : ReqKind → Bool
  | .command _ => true
  | .badPort => true
  | _ => false

/-- Whether request number `i` of a queue may be served: no earlier request of the queue touches its sectors or is
a command, and no command of `run` that has run has still to write one of them (R284, R325). -/
def mayServe (run : List CmdDone) (q : List ReqKind) (i : Nat) : Bool :=
  match q[i]? with
  | none => false
  | some r => ((q.take i).all fun e => !e.isCmd && !r.isCmd && e.sectors.all fun s => !r.sectors.contains s) &&
      r.sectors.all fun s => !run.any (·.holds s)

/-- A plain request is served at the point of coherence (R286, R310, R318). -/
def ExtSt.serve (x : ExtSt) (c : Nat) (r : ReqKind) (us : List Upset) : ExtSt :=
  let x0 := x.onChan c fun k => { k with attempts := 0 }
  match r with
  | .read core ch rel els =>
    let x1 := if x0.isFenced c then x0.fenceHit c else x0.readSectors c r.sectors us
    { x1 with resp := x1.resp ++ [⟨core, ch, 144 + c, rel, els.map fun e =>
        (elName e.1 e.2.2, if x1.isFenced c then none else x1.element c e.2.1 e.2.2)⟩] }
  | .write bs =>
    if x0.isFenced c then x0.fenceHit c else (x0.readSectors c (partSectors bs) us).writeBytes c bs
  | .fold op ffmt fmt bs =>
    if x0.isFenced c then x0.fenceHit c else x0.foldWrite c op ffmt fmt bs us
  | _ => x0

/-- The request number `i` leaves the queue; the next command starts with no failed attempt (R312). -/
def ExtSt.unqueue (x : ExtSt) (c i : Nat) : ExtSt := x.onChan c fun k => { k with queue := k.queue.eraseIdx i, attempts := 0 }

/-- CHANNEL_REQUEST_SERVED: request `i` of a channel, if it may be served (R284, R286). -/
def ExtSt.serveAt (x : ExtSt) (c i : Nat) (us : List Upset) : ExtSt :=
  match (x.chan c).queue[i]? with
  | some r => if mayServe (x.chan c).running (x.chan c).queue i && !r.isCmd then (x.unqueue c i).serve c r us else x
  | none => x

/-- A request enters a channel's inbound queue; a read of a fenced stack is answered without waiting (R318). -/
def ExtSt.handIn (x : ExtSt) (c : Nat) (r : ReqKind) : ExtSt :=
  if x.isFenced c ∧ !r.isCmd then x.serve c r [] else x.onChan c fun k => { k with queue := k.queue ++ [r] }

/-- A request of the cadence plane that reached its channel at its hand-over count is placed by the arenas in force
(R283, R353). -/
def ExtSt.handOver (x : ExtSt) (cfg : ChipCfg) (l : Payload) : ExtSt :=
  match l with
  | .extRead core ch chan rel els =>
    -- a request covers bytes of one granule (R317)
    let at_ := fun (e : Nat × Nat × Nat) => match cfg.whereIs e.2.1 with
      | .memory c l => some ((c, l / cfg.granAt e.2.1), e.1, l, e.2.2)
      | .fold c l _ _ => some ((c, l / cfg.granAt e.2.1), e.1, l, e.2.2)
      | _ => none
    let live := els.filterMap at_
    let dead := els.filter fun e => (at_ e).isNone
    let x1 := if dead.isEmpty then x else
      { x with resp := x.resp ++ [⟨core, ch, 144 + chan, rel, dead.map fun e => (elName e.1 e.2.2, some 0)⟩] }
    ((live.map (·.1)).eraseDups).foldl (fun (x : ExtSt) c =>
      x.handIn c.1 (.read core ch rel ((live.filter (·.1 == c)).map (·.2)))) x1
  | .extWrite _ _ fmt bs =>
    let mem := bs.filterMap fun b => match cfg.whereIs b.1 with
      | .memory c l => some ((c, l / cfg.granAt b.1), l, b.2)
      | _ => none
    let fol := bs.filterMap fun b => match cfg.whereIs b.1 with
      | .fold c l op f => some ((c, l / cfg.granAt b.1, op, f), l, b.2)
      | _ => none
    let cmd := bs.filterMap fun b => match cfg.whereIs b.1 with | .command u o => some (u, o, b.2) | _ => none
    let x1 := ((mem.map (·.1)).eraseDups).foldl (fun (x : ExtSt) c =>
      x.handIn c.1 (.write ((mem.filter (·.1 == c)).map (·.2)))) x
    let x2 := ((fol.map (·.1)).eraseDups).foldl (fun (x : ExtSt) k =>
      x.handIn k.1 (.fold k.2.2.1 k.2.2.2 fmt ((fol.filter (·.1 == k)).map (·.2)))) x1
    ((cmd.map (·.1)).eraseDups).foldl (fun (x : ExtSt) u =>
      let mine := (cmd.filter (·.1 == u)).map (·.2)
      let whole := mine.length == 64 && (List.range 64).all fun i => mine.any fun b => b.1 == i && b.2.1 == 0xFF
      let rec_ := (List.range 64).map fun i => ((mine.find? (·.1 == i)).map fun b => b.2.2).getD 0
      if u < 256 then x.handIn u (if whole then .command rec_ else .badPort) else x) x2
  | _ => x

/-- Room in a channel's inbound queue: 64 requests in flight (R46, R317). -/
def ExtSt.room (x : ExtSt) (c : Nat) : Bool := decide ((x.chan c).queue.length < 64)

/-- A hand-over that met a full queue is counted (R333). -/
def ExtSt.noteFull (x : ExtSt) (c : Nat) : ExtSt := x.onChan c fun k => { k with full := k.full + 1 }

/-- Bytes of a device range read by another agent than the plane (R283, R305): each byte, whether its sector is
poisoned, and whether it lies in an arena. Its sectors are noted as read. -/
def ExtSt.agentRead (x : ExtSt) (cfg : ChipCfg) (a n : Nat) : ExtSt × List (Byte × Bool × Bool) :=
  let locs := (List.range n).map fun i => match cfg.whereIs (a + i) with
    | .memory c l => some (c, l)
    | .fold c l _ _ => some (c, l)
    | _ => none
  let secs := (locs.filterMap fun o => o.map fun p => (p.1, p.2 / 32)).eraseDups
  let x1 := secs.foldl (fun (x : ExtSt) p => if x.isFenced p.1 then x.fenceHit p.1 else x.noteRead p.1 p.2) x
  (x1, (List.range n).map fun i => match nth locs i none with
    | some (c, l) => if x1.isFenced c then (0, false, false) else (x1.mem.get (memKey c l), x1.poisoned c l, true)
    | none => (0, false, match cfg.whereIs (a + i) with | .command _ _ => true | _ => false))

/-! ### The commands of the channels' own row -/

/-- A channel fails under R312, or a steward finds a stack failed: the stack is fenced (R318). -/
def ExtSt.fence (x : ExtSt) (s : Nat) : ExtSt :=
  if bit x.fenced s then x
  else
    let x1 := { x with fenced := x.fenced ||| 1 <<< s, stackOk := x.stackOk &&& (255 - 1 <<< s),
                       ob := (x.ob.line (512 + 32 * s)).event 5 s 0 }
    -- requests already queued are answered as for a fenced stack
    (List.range 32).foldl (fun (x : ExtSt) h =>
      let c := 32 * s + h
      let q := (x.chan c).queue
      (q.filter (!·.isCmd)).foldl (fun (x : ExtSt) r => x.serve c r [])
        (x.onChan c fun k => { k with queue := q.filter ReqKind.isCmd, state := 0 })) x1

/-- PARITY_ERROR (R312): an attempt of the command now served failed; the ninth fails the channel. -/
def ExtSt.parity (x : ExtSt) (c kind : Nat) : ExtSt :=
  let n := (x.chan c).attempts + 1
  if n ≤ 8 then
    (x.onChan c fun k => { k with
      attempts := n
      retryCa := if kind = 0 then satAdd 16 k.retryCa 1 else k.retryCa
      retryWr := if kind = 1 then satAdd 16 k.retryWr 1 else k.retryWr
      retryRd := if kind = 2 then satAdd 16 k.retryRd 1 else k.retryRd }).line (512 + c)
  else (x.onChan c fun k => { k with attempts := 0 }).fence (c / 32)

/-- Cells of a channel have taken faults (R310): sectors with what their codes say from then on. -/
def ExtSt.upsets (x : ExtSt) (c : Nat) (faults : List (Nat × Upset)) : ExtSt :=
  faults.foldl (fun (x : ExtSt) f => x.upset c f.1 f.2) x

/-- REFRESH_WINDOW (R314, R316): the refresh rate follows the temperature, a requested level takes effect. -/
def ExtSt.refresh (x : ExtSt) (c : Nat) : ExtSt :=
  let k := x.chan c
  let x1 := x.onChan c fun k => { k with refresh2x := decide (85 ≤ k.temp), level := k.wanted }
  if k.level = k.wanted then x1 else x1.line (512 + c)

/-- A corrected sector is written back: its cells hold no error. -/
def ExtSt.writeBack (x : ExtSt) (c sec : Nat) : ExtSt :=
  { x with soft := x.soft.filter (· != memKey c (32 * sec) / 32) }.onChan c fun k =>
    { k with wbPend := k.wbPend.filter (· != sec) }

/-- PATROL_SCRUB (R311, R315): the next sector of the walk is read; its correction is written back, or, where it needs none,
the oldest write-back queued; an uncorrectable sector is reported and left. -/
def ExtSt.patrol (x : ExtSt) (c : Nat) (u : Upset) : ExtSt :=
  let sec := (x.chan c).position
  let x0 := x.upset c sec u
  let x1 := x0.noteRead c sec
  let x2 := if x0.soft.contains (memKey c (32 * sec) / 32) then x1.writeBack c sec
    else match (x1.chan c).wbPend with
      | s :: _ => x1.writeBack c s
      | [] => x1
  x2.onChan c fun k => { k with
    attempts := 0
    position := (sec + 1) % 46875000
    passes := if sec + 1 = 46875000 then k.passes + 1 else k.passes }

/-- The throttle level a temperature asks for, from the level requested before (R316): level 2 is left to level 1. -/
def throttle (old t t1 t2 : Nat) : Nat :=
  let up := if t2 ≤ t then 2 else if t1 ≤ t then 1 else 0
  if old < up then up
  else if old = 2 then (if t + 3 ≤ t2 then 1 else 2)
  else if old = 1 then (if t + 3 ≤ t1 then 0 else 1)
  else 0

/-- STACK_TEMP_SAMPLE (R316): all 32 channels take the temperature and the level it asks for. -/
def ExtSt.sample (x : ExtSt) (s t : Nat) : ExtSt :=
  let k0 := x.chan (32 * s)
  let lv := throttle k0.wanted t k0.t1 k0.t2
  (List.range 32).foldl (fun (x : ExtSt) h =>
    x.onChan (32 * s + h) fun k => { k with temp := t % 256, wanted := lv }) x

/-- The failed lanes of channel `h` of a stack, in ascending order, each once. -/
def failedLanes (failed : List (List Nat)) (h : Nat) : List Nat := (nth failed h []).foldl (fun l n => secIns n l) []

/-- STACK_TRAINING (R313): failed lanes by channel; spare lanes repair as many as there are spares, and a channel with more
failed lanes than that fails the stack. NEW_REPAIR compares a channel's repaired lanes with those of its previous
training. -/
def ExtSt.train (x : ExtSt) (s spares : Nat) (failed : List (List Nat)) : ExtSt :=
  let ok := (List.range 32).all fun h => decide ((failedLanes failed h).length ≤ spares)
  let x1 := (List.range 32).foldl (fun (x : ExtSt) h =>
    let fixed := (failedLanes failed h).take spares
    { x with repairs := x.repairs.set (32 * s + h) fixed }.onChan (32 * s + h) fun k => { k with
      state := if ok then 2 else 0
      lanes := fixed.length % 256
      newRepair := Tab.get [] x.repairs (32 * s + h) != fixed }) x
  if ok then { x1 with stackOk := x1.stackOk ||| 1 <<< s, fenced := x1.fenced &&& (255 - 1 <<< s) }
  else { x1 with stackOk := x1.stackOk &&& (255 - 1 <<< s) }

end Sys2Proof.Machine
end

