-- ==== Sys2Proof/Machine/Creamery.lean ====
section
/-! DEFINITION. Creamery commands: records, checks, GATHER_FOLD, REDUCE, SCALE_STORE, FENCE, and their completion
(R322 to R328). -/

namespace Sys2Proof.Machine

/-- A creamery command record, decoded (R323). -/
structure Cmd where
  op : Nat
  fmt : Nat
  tgt : Nat
  token : Bool
  statusEn : Bool
  acc : Bool
  weighted : Bool
  min : Bool
  scaleEn : Bool
  core : Nat
  pail : Nat
  label : Nat
  src : Nat
  dst : Nat
  list : Nat
  count : Nat
  rowBytes : Nat
  pitch : Nat
  indexBase : Nat
  scale : Nat
  status : Nat
  raw : List Nat
  deriving DecidableEq, Repr

/-- The record a command port took, 64 bytes. -/
def Cmd.of (bs : Bytes) : Cmd :=
  let w := fun i => leAt bs (8 * i) 8
  { op := bits (w 0) 63 58, fmt := bits (w 0) 57 54, tgt := bits (w 0) 53 50, token := bit (w 0) 49,
    statusEn := bit (w 0) 48, acc := bit (w 0) 47, weighted := bit (w 0) 46, min := bit (w 0) 45,
    scaleEn := bit (w 0) 44, core := bits (w 0) 43 36, pail := bits (w 0) 35 25, label := bits (w 0) 15 0,
    src := bits (w 1) 39 0, dst := bits (w 2) 39 0, list := bits (w 3) 39 0, count := bits (w 4) 63 32,
    rowBytes := bits (w 4) 31 0, pitch := bits (w 5) 39 0, indexBase := bits (w 6) 63 32, scale := bits (w 6) 31 0,
    status := bits (w 7) 39 0, raw := (List.range 8).map w }

/-- A nonzero reserved or unused field, or a reserved OP (R323, R328). -/
def Cmd.badOp (c : Cmd) : Bool :=
  let w := fun i => nth c.raw i 0
  let rsv := bits (w 0) 24 16 != 0 || [1, 2, 3, 5, 7].any fun i => bits (w i) 63 40 != 0
  let z := fun (l : List Nat) => l.all (· == 0)
  let off := (!c.token && !(z [c.core, c.pail])) || (!c.statusEn && c.status != 0) || (!c.scaleEn && c.scale != 0)
  rsv || off || match c.op with
  | 1 => !(z [b2n c.min, b2n c.scaleEn, c.indexBase, c.scale])
  | 2 => !(z [c.tgt, b2n c.weighted, b2n c.scaleEn, c.list, c.rowBytes, c.pitch, c.scale])
  | 3 => !(z [b2n c.acc, b2n c.weighted, b2n c.min, c.list, c.rowBytes, c.pitch, c.indexBase])
  | 4 => !(z [c.fmt, c.tgt, b2n c.acc, b2n c.weighted, b2n c.min, b2n c.scaleEn, c.src, c.dst, c.list, c.count,
      c.rowBytes, c.pitch, c.indexBase, c.scale])
  | _ => true

/-- FMT or TGT_FMT not allowed for the OP (R324). -/
def Cmd.badFmt (c : Cmd) : Bool :=
  match c.op with
  | 1 => !([(0, 0), (1, 1), (1, 5), (2, 2), (2, 6)].contains (c.fmt, c.tgt))
  | 2 => !decide (c.fmt ≤ 2)
  | 3 => !(decide (8 ≤ c.fmt) && decide (c.fmt ≤ 10) && [0, 1, 2, 6, 7].contains c.tgt)
  | _ => false

/-- Bytes of an element of a format code. -/
def fmtBytes (f : Nat) : Nat := max 1 (codeBits f / 8)

/-- The MEMORY arena that holds a whole range. -/
def memArena (cfg : ChipCfg) (a n : Nat) : Option Arena :=
  match cfg.arenaOf a with
  | some (_, ar) => if ar.kind = 1 ∧ a + n ≤ ar.base + ar.size then some ar else none
  | none => none

/-- Channels of an arena's set: n of R307. -/
def Arena.n (ar : Arena) : Nat := 32 * (maskStacks ar.mask).length
/-- Set index of a unit in an arena's set, none outside it (R307). -/
def Arena.setIndex (ar : Arena) (u : Nat) : Option Nat :=
  if bit ar.mask (u / 32) then
    some ((maskStacks ar.mask).length * (u % 32) + ((maskStacks ar.mask).filter (· < u / 32)).length)
  else none
/-- Whether an address is set-aligned (R307). -/
def Arena.setAligned (ar : Arena) (a : Nat) : Bool := (a - ar.base) % (ar.gran * ar.n) == 0

/-- The device address of an arena that stands at channel-local byte `l` of the unit of set index `j` (R307). -/
def Arena.addrAt (ar : Arena) (j l : Nat) : Nat :=
  ar.base + ((l - ar.chanBase) / ar.gran * ar.n + j) * ar.gran + (l - ar.chanBase) % ar.gran

/-- The ranges a command uses: address and bytes, in an arena of granule G and n channels (R324). -/
def Cmd.ranges (c : Cmd) (g n : Nat) : List (Nat × Nat) :=
  let st := if c.statusEn then [(c.status, g * n)] else []
  match c.op with
  | 1 =>
    let rows := ceilDiv c.count (g / 8)
    [(c.src, 1), (c.dst, c.rowBytes), (c.list, max 1 (rows * g * n))] ++ st
  | 2 => [(c.src, max 1 (c.count * fmtBytes c.fmt)), (c.dst, g * n)] ++ st
  | 3 =>
    let s := fmtBytes c.fmt
    [(c.src, max 1 (c.count * s)), (c.dst, max 1 (ceilDiv (c.count * s) g * g))] ++ st
  | _ => st

/-- The alignment of R324 is broken. -/
def Cmd.misaligned (c : Cmd) (ar : Arena) : Bool :=
  let al := fun a => ar.setAligned a
  let pitchOk := c.pitch % (ar.gran * ar.n) == 0
  let stOk := !c.statusEn || al c.status
  !(stOk && match c.op with
    | 1 => al c.src && al c.dst && al c.list && pitchOk && c.rowBytes % fmtBytes c.fmt == 0 &&
        decide (1 ≤ c.rowBytes) && decide (c.rowBytes ≤ c.pitch)
    | 2 => al c.dst && (c.src - ar.base) % fmtBytes c.fmt == 0
    | 3 => al c.src && al c.dst && (c.fmt != 10 || ar.gran == 256)
    | _ => true)

/-- The refusal code of a command at unit `u`, 0 when it is accepted: the lowest code that applies (R328). -/
def Cmd.check (c : Cmd) (cfg : ChipCfg) (fenced : Bool) (u : Nat) : Nat :=
  if c.badOp then 1
  else if c.badFmt then 2
  else
    let first := if c.op = 4 then c.status else c.src
    let home := match cfg.arenaOf first with | some (_, ar) => if ar.kind = 1 then some ar else none | none => none
    match home with
    | none => if c.op = 4 ∧ !c.statusEn then (if fenced then 6 else 0) else 3
    | some ar =>
      let rs := c.ranges ar.gran ar.n
      let arenas := rs.map fun p => memArena cfg p.1 p.2
      if c.op = 4 ∧ !c.statusEn then (if fenced then 6 else 0)
      else if arenas.any Option.isNone then 3
      else if (arenas.any fun a => match a with
          | some b => b.mask != ar.mask || b.gran != ar.gran
          | none => false) || (ar.setIndex u).isNone then 4
      else if c.misaligned ar then 5
      else if fenced then 6
      else 0

/-- Whether a command of unit `u` reads or writes the sector at channel-local byte `l` of its channel (R325): the table of a
GATHER_FOLD is taken as far as its arena goes. -/
def Cmd.touches (c : Cmd) (cfg : ChipCfg) (u l : Nat) : Bool :=
  let home := match cfg.arenaOf c.src with | some (_, ar) => ar | none => Arena.absent
  (c.ranges home.gran home.n).zipIdx.any fun (r, i) =>
    match cfg.arenaOf r.1 with
    | some (_, ar) => match ar.setIndex u with
      | some j =>
        let a := ar.addrAt j l
        let top := if c.op = 1 ∧ i = 0 then ar.base + ar.size else r.1 + r.2
        ar.kind == 1 && decide (ar.chanBase ≤ l) && decide (r.1 < a + 32) && decide (a < top)
      | none => false
    | none => false

/-- Value of an element of a format at a device address, and the sector it was read from. -/
def ExtSt.valAt (x : ExtSt) (cfg : ChipCfg) (f a : Nat) : Val × Option (Nat × Nat) :=
  match cfg.whereIs a with
  | .memory c l =>
    (if x.poisoned c l then .nar else fdec ((Fmt.ofCode f).getD .p32) (leNat (x.peek c l (fmtBytes f))), some (c, l / 32))
  | _ => (Val.zero, none)

/-- Values written at device addresses: the bytes of one channel are one write (R310, R327), so that a sector of which they
name every byte gets fresh check symbols. -/
def ExtSt.putAll (x : ExtSt) (cfg : ChipCfg) (ws : List (Nat × Bytes)) : ExtSt :=
  let bs := ws.flatMap fun w => match cfg.whereIs w.1 with
    | .memory c l => (plainBytes l w.2).map fun b => (c, b)
    | _ => []
  ((bs.map (·.1)).eraseDups).foldl (fun (x : ExtSt) c => x.mergeBytes c ((bs.filter (·.1 == c)).map (·.2))) x

/-- A poisoned sector among sectors of channels. -/
def ExtSt.poisonedOf (x : ExtSt) (secs : List (Nat × Nat)) : List (Nat × Nat) :=
  secs.eraseDups.filter fun p => x.poisoned p.1 (32 * p.2)

/-- An exact sum in a Q512 (R67). -/
def sumQ (vs : List Val) : Val := qval 4 (vs.foldl (fun q v => (qadd 4 q (qof 4 v)).1) Quire.zero)

/-- The list entries of unit j: row index and weight, with the sectors read (R324). -/
def Cmd.entries (c : Cmd) (x : ExtSt) (cfg : ChipCfg) (g n j : Nat) : List (Nat × Val) × List (Nat × Nat) :=
  let es := (List.range c.count).map fun e =>
    let a := c.list + g * (j + n * (e / (g / 8))) + 8 * (e % (g / 8))
    match cfg.whereIs a with
    | .memory ch l =>
      let bad := x.poisoned ch l
      let v := if bad then 0 else leNat (x.peek ch l 8)
      ((v % 2 ^ 32, if c.weighted then (if bad then Val.nar else pdec 32 (v / 2 ^ 32)) else Val.num (Dy.ofInt 1)),
        [(ch, l / 32)])
    | _ => ((0xFFFFFFFF, Val.zero), [])
  (es.map (·.1), es.flatMap (·.2))

/-- GATHER_FOLD at unit j (R324): the store after it, rows skipped out of range, poisoned sectors read. Its output is written
once all of it is formed. -/
def Cmd.gather (c : Cmd) (x : ExtSt) (cfg : ChipCfg) (ar : Arena) (j : Nat) : ExtSt × Nat × List (Nat × Nat) :=
  let (es, p0) := c.entries x cfg ar.gran ar.n j
  let used := es.filter fun e => e.1 != 0xFFFFFFFF
  let inside := fun (i : Nat) => decide (c.src + i * c.pitch + c.rowBytes ≤ ar.base + ar.size)
  let rows := used.filter fun e => inside e.1
  let sz := fmtBytes c.fmt
  let offs := (List.range (c.rowBytes / sz)).map (· * sz)
  let mine := offs.filter fun o => o / ar.gran % ar.n == j
  let outs := mine.map fun o =>
    let reads := rows.map fun e => (e.2, x.valAt cfg c.fmt (c.src + e.1 * c.pitch + o))
    let old := x.valAt cfg c.tgt (c.dst + o)
    let v := sumQ ((reads.map fun r => r.1.mul r.2.1) ++ if c.acc then [old.1] else [])
    let secs := reads.filterMap (fun r => r.2.2) ++ (if c.acc then old.2.toList else [])
    (o, (roundTo ((Fmt.ofCode c.tgt).getD .p32) v).1, secs)
  let secs := p0 ++ outs.flatMap (·.2.2)
  ((x.noteReads secs).putAll cfg (outs.map fun p => (c.dst + p.1, leBytes (fmtBytes c.tgt) p.2.1)),
   used.length - rows.length, x.poisonedOf secs)

/-- REDUCE at unit j (R105, R324). -/
def Cmd.reduce (c : Cmd) (x : ExtSt) (cfg : ChipCfg) (ar : Arena) (j : Nat) : ExtSt × Nat × List (Nat × Nat) :=
  let sz := fmtBytes c.fmt
  let n := 8 * sz
  let mine := (List.range c.count).filter fun i => (c.src + i * sz - ar.base) / ar.gran % ar.n == j
  let recs := mine.map fun i =>
    match cfg.whereIs (c.src + i * sz) with
    | .memory ch l =>
      let ix := (c.indexBase + i) % 2 ^ 32
      ((⟨ix, if x.poisoned ch l then narPat n else leNat (x.peek ch l sz)⟩ : Rec), [(ch, l / 32)])
    | _ => (Rec.empty, [])
  let a := c.dst + ar.gran * j
  let (old, po) := match cfg.whereIs a with
    | .memory ch l => (if x.poisoned ch l then Rec.poison n else Rec.dec n (leNat (x.peek ch l 8)), [(ch, l / 32)])
    | _ => (Rec.empty, [])
  let r0 := (recs.map (·.1)).foldl (combine n (!c.min)) Rec.empty
  let r := if c.acc then combine n (!c.min) r0 old else r0
  let secs := recs.flatMap (·.2) ++ if c.acc then po else []
  ((x.noteReads secs).putAll cfg [(a, leBytes 32 r.enc)], 0, x.poisonedOf secs)

/-- SCALE_STORE at unit j (R75, R324): every granule read whole before its output is written. -/
def Cmd.scaleStore (c : Cmd) (x : ExtSt) (cfg : ChipCfg) (ar : Arena) (j : Nat) : ExtSt × Nat × List (Nat × Nat) :=
  let sz := fmtBytes c.fmt
  let per := ar.gran / sz
  let w := if c.fmt = 8 then 1 else if c.fmt = 9 then 2 else 4
  let grans := (List.range (ceilDiv (c.count * sz) ar.gran)).filter fun i => i % ar.n == j
  grans.foldl (fun (st : ExtSt × Nat × List (Nat × Nat)) i =>
    let x := st.1
    let qs := ((List.range per).filter fun q => i * per + q < c.count).map fun q =>
      match cfg.whereIs (c.src + ar.gran * i + q * sz) with
      | .memory ch l =>
        let bad := (List.range (ceilDiv sz 32)).any fun k => x.poisoned ch (l + 32 * k)
        let v := if bad then Val.nar else qval w (qdec w (leNat (x.peek ch l sz)))
        let y := if c.scaleEn then v.mul (pdec 32 c.scale) else v
        (q, (roundTo ((Fmt.ofCode c.tgt).getD .p32) y).1,
          (List.range (ceilDiv sz 32)).map fun k => (ch, (l + 32 * k) / 32))
      | _ => (q, 0, [])
    let secs := qs.flatMap (·.2.2)
    ((x.noteReads secs).putAll cfg (qs.map fun p => (c.dst + ar.gran * i + p.1 * fmtBytes c.tgt,
        leBytes (fmtBytes c.tgt) p.2.1)),
      0, st.2.2 ++ x.poisonedOf secs)) (x, 0, [])

/-- A status sector (R326). -/
def statusBytes (code rows pois label : Nat) : Bytes :=
  leBytes 8 (fld code 8 56 + fld rows 16 32 + min pois (2 ^ 32 - 1)) ++ leBytes 2 label ++ fillBytes 22 0

/-- Where unit `u` writes its status: STATUS + G × j, when STATUS lies in a MEMORY arena whose set the unit is in. -/
def Cmd.statusAt (c : Cmd) (cfg : ChipCfg) (u : Nat) : Option Nat :=
  if !c.statusEn then none
  else match cfg.arenaOf c.status with
    | some (_, ar) => if ar.kind = 1 then (ar.setIndex u).bind fun j =>
        match cfg.whereIs (c.status + ar.gran * j) with
        | .memory ch l => if ch = u then some l else none
        | _ => none
      else none
    | none => none

/-- Whether the command at the front of unit `u`'s queue may run: it stands first, fewer than 4 run, and none that has run
has still to write a sector that it touches (R325). -/
def ExtSt.frontCmd (x : ExtSt) (cfg : ChipCfg) (u : Nat) : Option Bytes :=
  let k := x.chan u
  match k.queue with
  | .command r :: _ =>
    let held := k.running.any fun d => match d.status with | some (l, _) => (Cmd.of r).touches cfg u l | none => false
    if k.running.length < 4 ∧ !held then some r else none
  | _ => none

/-- A command leaves the queue and executes; it goes on to its completion (R324 to R328). -/
def ExtSt.runCmd (x : ExtSt) (cfg : ChipCfg) (u : Nat) (r : Bytes) : ExtSt :=
  let c := Cmd.of r
  let code := c.check cfg (x.isFenced u) u
  let x0 := if x.isFenced u then (x.unqueue u 0).fenceHit u else x.unqueue u 0
  let tok := if c.token then some (c.core, c.pail) else none
  let st := c.statusAt cfg u
  if code ≠ 0 then
    (x0.onChan u fun k => { k with
      faults := satAdd 16 k.faults 1
      faultCode := code
      faultOp := c.op
      faultLabel := c.label
      running := k.running ++ [⟨st.map fun l => (l, statusBytes code 0 0 c.label), tok⟩] }).line (256 + u)
  else
    let ar := ((cfg.arenaOf c.src).map (·.2)).getD Arena.absent
    let j := (ar.setIndex u).getD 0
    let (x1, rows, pois) := match c.op with
      | 1 => c.gather x0 cfg ar j
      | 2 => c.reduce x0 cfg ar j
      | 3 => c.scaleStore x0 cfg ar j
      | _ => (x0, 0, [])
    let n := if c.op = 4 then (x1.chan u).fenceTally else pois.eraseDups.length
    x1.onChan u fun k => { k with
      fenceTally := if c.op = 4 then 0 else k.fenceTally
      running := k.running ++ [⟨st.map fun l => (l, statusBytes 0 (min rows 65535) n c.label), tok⟩] }

/-- The command at the front runs if it is of the OP asked for; any OP outside 1 to 4 is refused by whichever asks. -/
def ExtSt.runOp (x : ExtSt) (cfg : ChipCfg) (u op : Nat) : ExtSt :=
  match x.frontCmd cfg u with
  | some r =>
    let o := (Cmd.of r).op
    if o = op ∨ (op = 4 ∧ (o = 0 ∨ 4 < o)) then x.runCmd cfg u r else x
  | none => x

/-- A write of a command port that is not one whole record is refused with PARTIAL (R322, R328). -/
def ExtSt.partialPort (x : ExtSt) (u : Nat) : ExtSt :=
  match (x.chan u).queue with
  | .badPort :: _ =>
    ((x.unqueue u 0).onChan u fun k => { k with
      faults := satAdd 16 k.faults 1, faultCode := 7, faultOp := 0, faultLabel := 0, cmds := k.cmds + 1 }).line (256 + u)
  | _ => x

/-- CREAMERY_COMPLETE (R326): the oldest command that has run writes its status sector, then its token is on its
way; CMDS counts it. -/
def ExtSt.complete (x : ExtSt) (u : Nat) : ExtSt :=
  match (x.chan u).running with
  | [] => x
  | d :: t =>
    let x1 := x.onChan u fun k => { k with running := t, cmds := k.cmds + 1 }
    let x2 := match d.status with
      | some (l, bs) => if x1.isFenced u then x1 else x1.writeBytes u (plainBytes l bs)
      | none => x1
    match d.token with
    | some (c, p) => { x2 with ob := x2.ob.token c p, units := x2.units ++ [u] }
    | none => x2

/-- Every command that has run completes. -/
def ExtSt.completeAll (x : ExtSt) (u : Nat) : ExtSt := (x.chan u).running.foldl (fun (x : ExtSt) _ => x.complete u) x

/-- Every request now queued at a channel is served, in order, each command completed before what follows it: what stands
before a request of another agent in the channel's order (R283, R284, R325). -/
def ExtSt.drain (x : ExtSt) (cfg : ChipCfg) (c : Nat) : Nat → ExtSt
  | 0 => x
  | fuel + 1 =>
    match (x.chan c).queue with
    | [] => (x.completeAll c).onChan c fun k => { k with attempts := 0 }
    | .command r :: _ => ((x.completeAll c).runCmd cfg c r).drain cfg c fuel
    | .badPort :: _ => (x.partialPort c).drain cfg c fuel
    | r :: _ => (((x.completeAll c).unqueue c 0).serve c r []).drain cfg c fuel

/-- Channels a device range reaches. -/
def chansOf (cfg : ChipCfg) (a n : Nat) : List Nat :=
  ((List.range (ceilDiv (n + a % 32) 32)).filterMap fun i =>
    match cfg.whereIs (a / 32 * 32 + 32 * i) with
    | .memory c _ => some c
    | .fold c _ _ _ => some c
    | .command u _ => if u < 256 then some u else none
    | .nowhere => none).eraseDups

/-- An access of an agent outside the plane takes its place behind what the channels hold (R283, R284). -/
def ExtSt.settleFor (x : ExtSt) (cfg : ChipCfg) (a n : Nat) : ExtSt :=
  (chansOf cfg a n).foldl (fun (x : ExtSt) c => x.drain cfg c 80) x

/-- A read by another agent (R283): bytes, and for each whether its sector is poisoned and whether it lies in an
arena. -/
def ExtSt.readFor (x : ExtSt) (cfg : ChipCfg) (a n : Nat) : ExtSt × List (Byte × Bool × Bool) :=
  (x.settleFor cfg a n).agentRead cfg a n

/-- A write of masked bytes among `n` from address `a` on by another agent, of a format for fold arenas (R283, R319): the store and how many bytes lay in no
arena or in a fenced stack (R318). -/
def ExtSt.writeMasked (x : ExtSt) (cfg : ChipCfg) (a n fmt : Nat) (ws : List (Nat × Byte × Byte)) : ExtSt × Nat :=
  let x1 := (x.settleFor cfg a n).handOver cfg (.extWrite 0 0 fmt ws)
  let out := (List.range n).filter fun i => match cfg.whereIs (a + i) with
    | .nowhere => true
    | .memory c _ => x.isFenced c
    | .fold c _ _ _ => x.isFenced c
    | .command _ _ => false
  -- what entered is served at once, except creamery commands, which wait for their own step
  ((chansOf cfg a n).foldl (fun (x : ExtSt) c =>
    ((x.chan c).queue.filter (!·.isCmd)).foldl (fun (x : ExtSt) r => x.serve c r [])
      (x.onChan c fun k => { k with queue := k.queue.filter ReqKind.isCmd })) x1, out.length)

/-- A write of whole bytes by another agent. -/
def ExtSt.writeFor (x : ExtSt) (cfg : ChipCfg) (a fmt : Nat) (bs : Bytes) : ExtSt × Nat :=
  x.writeMasked cfg a bs.length fmt (plainBytes a bs)

end Sys2Proof.Machine
end

