-- ==== Sys2Proof/Machine/LinkState.lean ====
section
/-! DEFINITION. The Tuiseiz link: flits and segments on the wire, the state of a port and of the membership (R398 to
R406, R418, R424, R436 to R444). -/

namespace Sys2Proof.Machine

/-- A segment (R402). -/
structure Seg where
  op : Nat
  tag : Nat
  gen : Nat
  fmt : Nat
  mch : Nat
  core : Nat
  aux : Nat
  addr : Nat
  data : Bytes
  deriving DecidableEq, Repr

/-- A DATA flit (R401). CR and ACK are set when it is sent. -/
structure Flit where
  vc : Nat            -- 0 REQUEST, 1 RESPONSE, 2 FOLD, 3 SYNC
  seq : Nat
  ack : Nat
  epoch : Nat
  dest : Nat
  src : Nat
  hops : Nat
  crVc : Nat
  crCount : Nat
  loc : Bool
  segs : List Seg
  deriving DecidableEq, Repr

/-- What a port puts on the wire: DATA and IDLE flits as their 512 bytes, CONTROL flits by their records, whose layout the
spec does not give (R401, R404). -/
inductive Wire where
  | data (bs : Bytes)
  | idle (bs : Bytes)
  | ident (id : BitVec 64) (port : Nat) (credits : List Nat)
  | nak (seq : Nat)
  | violation (cls seq idx : Nat)
  | epochAsk
  | epochTell (epoch root : Nat)
  | fenced
  deriving DecidableEq, Repr

/-- What a tag is held by (R413, R414, R418); `closed` says that a transfer's CLOSE has been handed over. -/
inductive TagUse where
  | read (core ch rel chip addr : Nat) (els : List (Nat × Nat × Nat))
  | xfer (core ch chip : Nat) (fold closed : Bool)
  deriving DecidableEq, Repr

/-- A tag: its generation, its use, and the count of herd ticks at which its timer expires (R418, R419). -/
structure Tag where
  gen : Nat
  use : Option TagUse
  due : Nat
  deriving DecidableEq, Repr

/-- A received flit with those of its segments that wait, each with its index. -/
structure RxFlit where
  flit : Flit
  segs : List (Nat × Seg)
  deriving DecidableEq, Repr

/-- A newer-epoch flit in its receive buffer (R426): the flit, a segment of it that cannot be right, and when it came. -/
structure HeldFlit where
  flit : Flit
  bad : Option Seg
  at_ : Nat
  deriving DecidableEq, Repr

/-- A transfer arriving here (R413): who sends it, its tag, what has been served, and its CLOSE. -/
structure InXfer where
  port : Nat
  src : Nat
  tag : Nat
  gen : Nat
  core : Nat
  mch : Nat
  served : Nat
  close : Option Nat
  status : Nat
  deriving DecidableEq, Repr

/-- One link port (R436 to R442). -/
structure Port where
  state : Nat                -- 0 DOWN, 1 TRAINING, 2 UP, 3 LOW, 4 FENCED, 5 DISABLED
  trained : Bool             -- has trained before
  lanes : Nat                -- lanes in use, a mask
  badLanes : Nat             -- lanes marked bad (R434)
  peerValid : Bool
  peerPort : Nat
  peerId : BitVec 64
  disable : Bool             -- LNK_CTRL.DISABLE
  tagTimeout : BitVec 16     -- LNK_CFG
  violLimit : BitVec 8
  fecCorr : BitVec 32
  fecUncorr : Nat
  naksTx : Nat
  naksRx : Nat
  retrains : Nat
  failovers : Nat
  rxViol : Nat
  txViol : Nat
  lastClass : Nat
  lastSeq : Nat
  violTimes : List Nat       -- when the violations of the latest 2^24 ticks came (R432)
  downSince : Option Nat     -- since when the port is DOWN, DISABLED or FENCED (R427)
  tags : Tab Tag
  stale : Nat
  timeouts : Nat
  doneOk : BitVec 32
  doneErr : Nat
  lastErr : Nat
  credits : List Nat         -- credits held, by channel
  freed : List Nat           -- buffers freed here since training, modulo 1,024
  peerFreed : List Nat       -- the partner's running counts last seen
  crNext : Nat               -- channel whose credit count the next flit carries (R401)
  drySince : Tab Nat         -- channels without credit, each since when (R421)
  rtt : BitVec 32
  asym : BitVec 32
  txSeq : Nat                -- next SEQ to send
  rxSeq : Nat                -- next SEQ expected
  replay : List Flit         -- unacknowledged flits, oldest first
  sendings : Nat             -- sendings of the oldest of them
  outq : List Flit           -- flits waiting for credit
  byre : List (Nat × Flit)   -- flits in transit that came in here, each with the port it leaves by (R420)
  through : List (Nat × Flit)  -- flits in transit in receive buffers, for which the byre has no room
  rx : List RxFlit           -- flits in receive buffers, in order of acceptance
  sync : List (Flit × Nat × Seg)   -- records in the Sync handler, at most 64 (R406)
  held : List HeldFlit       -- newer-epoch flits held (R426)
  asked : Option Nat         -- when the epoch of the held flits was asked for last
  asm : List (Nat × Nat × Nat × List (Byte × Byte))   -- segments on their way in parts: core, channel, chip, bytes so far
  gone : List TagUse         -- transfers settled before their CLOSE came (R417)
  peerFenced : Bool          -- a FENCED answer has been received since training (R432)
  wire : List Wire           -- what has been put on the wire
  deriving DecidableEq, Repr

/-- Receive buffers by channel (R405). -/
def vcSize (vc : Nat) : Nat := if vc = 3 then 32 else 128

/-- Reset values of R436 to R442. -/
def Port.reset : Port :=
  { state := 0, trained := false, lanes := 0, badLanes := 0, peerValid := false, peerPort := 0, peerId := 0,
    disable := false, tagTimeout := 0x18, violLimit := 0x10, fecCorr := 0, fecUncorr := 0, naksTx := 0, naksRx := 0,
    retrains := 0, failovers := 0, rxViol := 0, txViol := 0, lastClass := 0, lastSeq := 0, violTimes := [], downSince := some 0, tags := [],
    stale := 0, timeouts := 0, doneOk := 0, doneErr := 0, lastErr := 0, credits := [0, 0, 0, 0],
    freed := [0, 0, 0, 0], peerFreed := [0, 0, 0, 0], crNext := 0, drySince := [], rtt := 0, asym := 0, txSeq := 0, rxSeq := 0, replay := [],
    sendings := 0, outq := [], byre := [], through := [], rx := [], sync := [], held := [], asked := none, asm := [],
    gone := [], peerFenced := false, wire := [] }

/-- The ports and the membership (R424, R443, R444). -/
structure LinkSt where
  ports : Tab Port
  mstate : Nat               -- 0 NONE, 1 JOINING, 2 MEMBER, 3 FENCED
  epoch : Nat
  root : Nat
  mask : List Nat            -- members, ascending herd indices
  deadTime : BitVec 16       -- SUP_MEMBER_CFG
  xfers : List InXfer
  resp : List Resp           -- the ports' response stores: data on its way into the plane (R406, R414)
  clock : Nat                -- herd ticks since reset: what its times are counted in
  ob : Outbox
  deriving DecidableEq, Repr

/-- Reset values of R443, R444. -/
def LinkSt.reset : LinkSt :=
  { ports := [], mstate := 0, epoch := 0, root := 0, mask := [], deadTime := 0x60, xfers := [], resp := [], clock := 0, ob := Outbox.empty }

/-- Port `p`. -/
def LinkSt.port (l : LinkSt) (p : Nat) : Port := l.ports.get Port.reset p
/-- A port changed by a function. -/
def LinkSt.onPort (l : LinkSt) (p : Nat) (f : Port → Port) : LinkSt := { l with ports := l.ports.set p (f (l.port p)) }
/-- A line rises. -/
def LinkSt.line (l : LinkSt) (n : Nat) : LinkSt := { l with ob := l.ob.line n }

/-- A tag of a port. -/
def Port.tag (p : Port) (t : Nat) : Tag := p.tags.get ⟨0, none, 0⟩ t

/-- The fault and telemetry counters of a port at their reset values (R350). -/
def Port.countersReset (p : Port) : Port :=
  { p with fecCorr := 0, fecUncorr := 0, naksTx := 0, naksRx := 0, retrains := 0, failovers := 0, rxViol := 0, txViol := 0,
           stale := 0, timeouts := 0, doneOk := 0, doneErr := 0 }

/-- `n` herd ticks pass. -/
def LinkSt.pass (l : LinkSt) (n : Nat) : LinkSt := { l with clock := l.clock + n }

end Sys2Proof.Machine
end

