-- ==== Sys2Proof/Machine/Link.lean ====
section
/-! DEFINITION. The Tuiseiz link: encoding, sending, replay, receiving, segments, tags and transfers, training, and
violations (R401 to R422, R430 to R435). -/

namespace Sys2Proof.Machine

/-! ### Encoding (R401, R402) -/

/-- A segment's bytes: header, data, padding to 16 bytes. -/
def Seg.encode (s : Seg) : Bytes :=
  let n := s.data.length
  leBytes 8 (fld s.op 5 59 + fld s.tag 8 51 + fld s.gen 4 47 + fld n 9 38 + fld s.fmt 4 34 + fld s.mch 2 32 +
    fld s.core 8 24 + fld s.aux 24 0) ++ leBytes 8 (fld s.addr 40 0) ++ s.data ++ fillBytes ((16 - n % 16) % 16) 0

/-- A flit's bytes, CRC-32C last: KIND 1 for a DATA flit, 0 for an IDLE flit. -/
def Flit.encodeAs (kind : Nat) (f : Flit) : Bytes :=
  let h0 := fld kind 2 62 + fld f.vc 2 60 + fld f.seq 12 48 + fld f.ack 12 36 + fld f.epoch 16 20 + fld f.dest 10 10 + f.src % 1024
  let h1 := fld f.hops 4 28 + fld f.crVc 2 26 + fld f.crCount 10 16 + fld f.segs.length 8 8 + fld (b2n f.loc) 1 7
  let body := leBytes 8 h0 ++ leBytes 4 h1 ++ slice (f.segs.flatMap Seg.encode) 0 496
  body ++ leBytes 4 (crc32c body).toNat

/-- A DATA flit's bytes. -/
def Flit.encode (f : Flit) : Bytes := f.encodeAs 1

/-- The segments of a payload (R402): those that fit; the first that runs past the payload or has a LEN above 480, by its
header; and whether reserved fields, padding and the bytes after the last segment are zero. -/
def parseSegs : Nat → Bytes → List Seg × Option Seg × Bool
  | 0, bs => ([], none, bs.all (· == 0))
  | n + 1, bs =>
    let w0 := leAt bs 0 8
    let w1 := leAt bs 8 8
    let len := bits w0 46 38
    let pad := ceilDiv len 16 * 16
    let s : Seg := ⟨bits w0 63 59, bits w0 58 51, bits w0 50 47, bits w0 37 34, bits w0 33 32, bits w0 31 24,
      bits w0 23 0, bits w1 39 0, (bs.drop 16).take len⟩
    if bs.length < 16 + pad ∨ 480 < len then ([], some s, true)
    else
      let (t, b, ok) := parseSegs n (bs.drop (16 + pad))
      (s :: t, b, ok && bits w1 63 40 == 0 && (slice bs (16 + len) (pad - len)).all (· == 0))

/-- What a received flit holds (R401, R402): KIND, its fields, whether header and payload are sound, and a segment that does not
fit. None when the CRC is wrong. -/
structure RxParse where
  kind : Nat
  flit : Flit
  sound : Bool
  bad : Option Seg
  deriving DecidableEq, Repr

/-- A received flit read. -/
def Flit.parse (bs : Bytes) : Option RxParse :=
  if bs.length ≠ 512 ∨ leAt bs 508 4 ≠ (crc32c (bs.take 508)).toNat then none
  else
    let h0 := leAt bs 0 8
    let h1 := leAt bs 8 4
    let (segs, b, ok) := parseSegs (bits h1 15 8) (slice bs 12 496)
    let loc := bit h1 7
    some ⟨bits h0 63 62, ⟨bits h0 61 60, bits h0 59 48, bits h0 47 36, bits h0 35 20, bits h0 19 10, bits h0 9 0, bits h1 31 28,
      bits h1 27 26, bits h1 25 16, loc, segs⟩, ok && bits h1 6 0 == 0 && (!loc || bits h0 19 0 == 0), b⟩

/-! ### Sending, credits and replay (R405 to R408) -/

/-- What the membership lets a chip send: a JOINING chip sends SYNC traffic only (R425), a FENCED one beacons and JOIN
only (R428). -/
def maySend (mstate : Nat) (f : Flit) : Bool :=
  if mstate = 1 then f.vc == 3
  else if mstate = 3 then f.segs.all fun s => s.op == 0x10 || s.op == 0x16
  else true

/-- What a port's sending depends on besides the port: state and epoch of the membership, and the time. -/
structure SendEnv where
  mstate : Nat
  epoch : Nat
  clock : Nat
  deriving DecidableEq, Repr

/-- What the ports send under now. -/
def LinkSt.env (l : LinkSt) : SendEnv := ⟨l.mstate, l.epoch, l.clock⟩

/-- ACK and credit count as a flit carries them when it is sent: CR_VC rotates through the channels (R401). -/
def Port.stamp (p : Port) (f : Flit) : Flit :=
  { f with ack := (p.rxSeq + 4095) % 4096, crVc := p.crNext, crCount := nth p.freed p.crNext 0 }

/-- CR_VC goes on to the next channel. -/
def Port.rotate (p : Port) : Port := { p with crNext := (p.crNext + 1) % 4 }

/-- A DATA flit is put on the wire, with the ACK and the credit count of this sending. -/
def Port.emit (p : Port) (f : Flit) : Port :=
  ({ p with wire := p.wire ++ [.data (p.stamp f).encode] } : Port).rotate

/-- An IDLE flit is put on the wire: it carries ACK, epoch and a credit count to the partner (R401). -/
def Port.idle (p : Port) (epoch : Nat) : Port :=
  ({ p with wire := p.wire ++ [.idle ((p.stamp ⟨0, 0, 0, epoch, 0, 0, 0, 0, 0, true, []⟩).encodeAs 0)] } : Port).rotate

/-- Flits waiting are sent while there is credit and room in the replay buffer: one channel never waits for another (R405,
R407). A flit of this chip's own gets the epoch in force at its first sending (R401, R408). -/
def Port.pump (v : SendEnv) : Nat → Port → Port
  | 0, p => p
  | n + 1, p =>
    if (p.state ≠ 2 ∧ p.state ≠ 3) ∨ 512 ≤ p.replay.length then p
    else match takeFirst (fun (f : Flit) => decide (0 < nth p.credits f.vc 0) && maySend v.mstate f) p.outq with
      | none => p
      | some (f, rest) =>
        let g := { f with seq := p.txSeq, epoch := if f.hops = 15 then v.epoch else f.epoch }
        let left := nth p.credits f.vc 0 - 1
        Port.pump v n (Port.emit { p with
          outq := rest
          txSeq := (p.txSeq + 1) % 4096
          credits := p.credits.set f.vc left
          drySince := if left = 0 then p.drySince.set f.vc v.clock else p.drySince
          replay := p.replay ++ [g]
          sendings := if p.replay.isEmpty then 1 else p.sendings } g)

/-- A receive buffer of a channel is freed (R406); the idle line tells the partner by a flit for each channel. -/
def Port.free (p : Port) (epoch vc : Nat) : Port :=
  let p1 := { p with freed := p.freed.set vc ((nth p.freed vc 0 + 1) % 1024) }
  (((p1.idle epoch).idle epoch).idle epoch).idle epoch

/-- Buffers of a port are freed. -/
def LinkSt.freeAt (l : LinkSt) (p vc : Nat) : LinkSt := l.onPort p fun q => q.free l.epoch vc

/-- Flits of a channel that the byre holds for an input port: at most 32 (R420). -/
def Port.byreUse (p : Port) (vc : Nat) : Nat := (p.byre.filter fun x => x.2.vc == vc).length

/-- A flit in transit enters the byre, and frees its receive buffer; with no room there it stays in its buffer. -/
def Port.enterByre (p : Port) (epoch out : Nat) (f : Flit) : Port :=
  if p.byreUse f.vc < 32 then { p with byre := p.byre ++ [(out, f)] : Port }.free epoch f.vc
  else { p with through := p.through ++ [(out, f)] }

/-- The oldest flit of a channel for a port leaves the byre, and the oldest in a receive buffer takes its room. -/
def Port.leaveByre (p : Port) (epoch out vc : Nat) : Port :=
  match takeFirst (fun (x : Nat × Flit) => x.1 == out && x.2.vc == vc) p.byre with
  | none => p
  | some (_, rest) =>
    let p1 := { p with byre := rest }
    match takeFirst (fun (x : Nat × Flit) => x.2.vc == vc) p.through with
    | none => p1
    | some (y, more) => { p1 with through := more : Port }.enterByre epoch y.1 y.2

/-- What stands in the byre: for each flit its input port and the port it leaves by. -/
def LinkSt.byres (l : LinkSt) : List (Nat × Nat × Flit) := l.ports.flatMap fun p => p.2.byre.map fun x => (p.1, x)

/-- Whether a port can send a flit in transit now. -/
def LinkSt.canSend (l : LinkSt) (out : Nat) (f : Flit) : Bool :=
  let q := l.port out
  (q.state == 2 || q.state == 3) && decide (q.replay.length < 512) && decide (0 < nth q.credits f.vc 0) && maySend l.mstate f

/-- The byre forwards what it can, one flit at a time (R420). -/
def LinkSt.forward : Nat → LinkSt → LinkSt
  | 0, l => l
  | n + 1, l =>
    match l.byres.find? fun x => l.canSend x.2.1 x.2.2 with
    | none => l
    | some (p, out, f) =>
      LinkSt.forward n ((l.onPort p fun q => q.leaveByre l.epoch out f.vc).onPort out fun q =>
        { q with outq := q.outq ++ [f] : Port }.pump l.env 1)

/-- The byre forwards all it can. -/
def LinkSt.forwardAll (l : LinkSt) : LinkSt :=
  LinkSt.forward ((l.ports.map fun p => p.2.byre.length + p.2.through.length).foldl (· + ·) 0) l

/-- A port sends what it can, and the byre what the credit left lets it. -/
def LinkSt.pump (l : LinkSt) (p : Nat) : LinkSt := (l.onPort p fun q => q.pump l.env q.outq.length).forwardAll

/-- A flit of one segment as it waits for credit; a LOCAL one carries zero addresses (R401). Its epoch is set when it is first
sent. -/
def Seg.flit (s : Seg) (epoch vc me dest : Nat) (loc : Bool) : Flit :=
  ⟨vc, 0, 0, epoch, if loc then 0 else dest, if loc then 0 else me, 15, 0, 0, loc, [s]⟩

/-- A flit of one segment leaves by a port (R402: one segment a flit). -/
def LinkSt.send (l : LinkSt) (p vc me dest : Nat) (loc : Bool) (s : Seg) : LinkSt :=
  (l.onPort p fun q => { q with outq := q.outq ++ [s.flit l.epoch vc me dest loc] }).pump p

/-- A segment goes to a chip by the image's route; none is VALID: nothing is sent (R420). -/
def LinkSt.sendTo (l : LinkSt) (cfg : ChipCfg) (vc dest : Nat) (s : Seg) : LinkSt :=
  match cfg.links.find? (·.1 == dest) with
  | some (_, p) => l.send p vc cfg.herdX dest false s
  | none => l

/-- A control flit goes out ahead of every DATA flit (R404). -/
def LinkSt.control (l : LinkSt) (p : Nat) (w : Wire) : LinkSt := l.onPort p fun q => { q with wire := q.wire ++ [w] }

/-- A segment of a SYNC operation without data. -/
def syncSeg (op aux addr : Nat) (data : Bytes) : Seg := ⟨op, 0, 0, 0, 0, 0, aux, addr, data⟩

/-- ACK and credit counts of a flit reach the sender (R401, R407). -/
def Port.credit (p : Port) (ack crVc crCount : Nat) : Port :=
  let n := (crCount + 1024 - nth p.peerFreed crVc 0) % 1024
  let k := (p.replay.zipIdx).find? fun q => q.1.seq == ack
  let rep := match k with | some (_, i) => p.replay.drop (i + 1) | none => p.replay
  { p with
    credits := p.credits.set crVc (nth p.credits crVc 0 + n)
    drySince := if n = 0 then p.drySince else p.drySince.del crVc
    peerFreed := p.peerFreed.set crVc crCount
    replay := rep
    sendings := if rep.length = p.replay.length then p.sendings else if rep.isEmpty then 0 else 1 }

/-! ### Tags that end (R414, R417 to R419) -/

/-- A READ or transfer ends with a status: counted, the tag freed, GEN advanced (R417, R418). -/
def LinkSt.endTag (l : LinkSt) (p t status : Nat) : LinkSt :=
  let l1 := l.onPort p fun q => { q with
    tags := q.tags.set t ⟨((q.tag t).gen + 1) % 16, none, 0⟩
    doneOk := if status = 0 then q.doneOk + 1 else q.doneOk
    doneErr := if status = 0 then q.doneErr else satAdd 16 q.doneErr 1
    lastErr := if status = 0 then q.lastErr else status }
  if status = 0 then l1 else l1.line (768 + p)

/-- The answers of a READ's elements, all poisoned. -/
def poisonResp (core ch src rel : Nat) (els : List (Nat × Nat × Nat)) : Resp :=
  ⟨core, ch, src, rel, els.map fun e => (elName e.1 e.2.2, none)⟩

/-- A response enters the ports' store. -/
def LinkSt.respond (l : LinkSt) (r : Resp) : LinkSt := { l with resp := l.resp ++ [r] }

/-- A tag ends without its answer: poison for a READ, the issuing core's token for a transfer (R414, R417). A transfer whose
CLOSE is still to come is remembered, so that it gives no second token. -/
def LinkSt.settleTag (l : LinkSt) (p t status : Nat) : LinkSt :=
  match ((l.port p).tag t).use with
  | none => l
  | some (.read core ch rel _ _ els) => (l.endTag p t status).respond (poisonResp core ch (400 + p) rel els)
  | some (.xfer core ch chip fold closed) =>
    let l1 := (l.endTag p t status).onPort p fun q =>
      { q with gone := if closed then q.gone else q.gone ++ [.xfer core ch chip fold false] }
    { l1 with ob := l1.ob.token core (2040 + ch) }

/-- Every open tag of a port whose destination satisfies a test ends with a status. -/
def LinkSt.settlePort (l : LinkSt) (p status : Nat) (gone : TagUse → Bool) : LinkSt :=
  ((l.port p).tags.filter fun t => match t.2.use with | some u => gone u | none => false).foldl
    (fun (l : LinkSt) t => l.settleTag p t.1 status) l

/-- Whether a port state ends the traffic of the port: DOWN, FENCED, DISABLED. -/
def deadState (st : Nat) : Bool := st == 0 || st == 4 || st == 5

/-- The state of a port changes: the steward hears of it (R483). A port that becomes DOWN, DISABLED or FENCED ends its open
READs and transfers as UNREACHABLE (R417, R432); one that is not in use has no lane up (R436). -/
def LinkSt.setState (l : LinkSt) (p st : Nat) : LinkSt :=
  if (l.port p).state = st then l
  else
    let l1 := (l.onPort p fun q => { q with
      state := st
      lanes := if st = 0 ∨ st = 5 then 0 else q.lanes
      downSince := if !deadState st then none else if deadState q.state then q.downSince else some l.clock
      asm := if deadState st then [] else q.asm }).line (800 + p)
    if deadState st then l1.settlePort p 3 fun _ => true else l1

/-- A training of a port begins; SEQ, replay buffer and tags are kept (R408, R433, R434). -/
def LinkSt.retrain (l : LinkSt) (p : Nat) (all : Bool) : LinkSt :=
  let l1 := l.onPort p fun q => { q with
    retrains := if q.trained then satAdd 16 q.retrains 1 else q.retrains
    badLanes := if all then 0 else q.badLanes
    violTimes := if all then [] else q.violTimes }
  l1.setState p 1

/-- Flits of the replay buffer are sent again, in order; a FENCED chip sends only what it may (R407, R428). -/
def Port.replayAll (p : Port) (mstate : Nat) : Port :=
  (p.replay.filter fun f => maySend mstate f).foldl (fun (p : Port) f => p.emit f) p

/-- Flits from the one at SEQ `seq` on are sent again, in order; one that has been sent 8 times without acceptance retrains the
port (R407, R408). -/
def LinkSt.resend (l : LinkSt) (p seq : Nat) : LinkSt :=
  let q := l.port p
  match (if q.state = 2 ∨ q.state = 3 then (q.replay.zipIdx).find? fun x => x.1.seq == seq else none) with
  | none => l
  | some (_, i) =>
    let sent := if i = 0 then q.sendings else 1
    if 8 ≤ sent then l.retrain p false
    else l.onPort p fun q => ({ q with replay := q.replay.drop i, sendings := sent + 1 } : Port).replayAll l.mstate

/-! ### Violations (R430 to R432) -/

/-- A violation of the partner: dropped, logged, answered; more than VIOL_LIMIT within 2^24 ticks fence the port (R432).
`counts` is false for an older-epoch flit. -/
def LinkSt.violation (l : LinkSt) (p cls seq idx : Nat) (counts : Bool) : LinkSt :=
  let l1 := (l.onPort p fun q => { q with
    rxViol := satAdd 16 q.rxViol 1, lastClass := cls, lastSeq := seq,
    violTimes := if counts then (q.violTimes.filter fun t => decide (l.clock < t + 2 ^ 24)) ++ [l.clock] else q.violTimes }).control p
      (.violation cls seq idx)
  if (l1.port p).violLimit.toNat < (l1.port p).violTimes.length ∧ counts then l1.setState p 4 else l1

/-! ### Receiving (R407, R420, R425, R426) -/

/-- The channel an operation belongs to; CLOSE belongs to two (R403). -/
def opOnVc (op vc : Nat) : Bool :=
  match op with
  | 0x01 | 0x02 => vc == 0
  | 0x03 => vc == 2
  | 0x04 => vc == 0 || vc == 2
  | 0x08 | 0x09 => vc == 1
  | 0x10 | 0x11 | 0x12 | 0x13 | 0x14 | 0x15 | 0x16 | 0x17 => vc == 3
  | _ => false

/-- A READ that breaks R403. -/
def readBad (s : Seg) : Bool :=
  s.op == 2 && (s.data.length != 0 || bits s.aux 8 0 % 32 != 0 || bits s.aux 8 0 == 0 || decide (256 < bits s.aux 8 0) ||
    s.addr % 32 != 0)

/-- Epochs by serial arithmetic: `a` is newer than `b` (R424). -/
def newer (a b : Nat) : Bool := let d := (a + 65536 - b) % 65536; decide (1 ≤ d) && decide (d ≤ 32767)

/-- The transfer a WRITE, FOLD or CLOSE belongs to grows (R413, R430). -/
def LinkSt.xfer (l : LinkSt) (p src : Nat) (s : Seg) (f : InXfer → InXfer) : LinkSt :=
  let same := fun (x : InXfer) => x.src == src && x.tag == s.tag && x.gen == s.gen && x.port == p
  if l.xfers.any same then { l with xfers := l.xfers.map fun x => if same x then f x else x }
  else { l with xfers := l.xfers ++ [f ⟨p, src, s.tag, s.gen, s.core, s.mch, 0, none, 0⟩] }

/-- RDATA answers a READ: the sectors poisoned stand in AUX[7:0], the status of R417 in AUX[15:8] (DESIGN CHOICE, log entry
38). -/
def rdataSeg (s : Seg) (pois status : Nat) (data : Bytes) : Seg :=
  ⟨8, s.tag, s.gen, 0, s.mch, s.core, pois + 256 * status, 0, data⟩

/-- An answer to chip `src` leaves by its route, or back by the port it came from when none is VALID. -/
def LinkSt.answer (l : LinkSt) (cfg : ChipCfg) (p src : Nat) (s : Seg) : LinkSt :=
  match cfg.links.find? (·.1 == src) with
  | some _ => l.sendTo cfg 1 src s
  | none => l.send p 1 cfg.herdX src false s

/-- A segment that is dropped as a violation: a READ is answered with poison, a WRITE or FOLD still counts for its
transfer (R430). -/
def LinkSt.dropSeg (l : LinkSt) (cfg : ChipCfg) (p src seq idx cls : Nat) (s : Seg) : LinkSt :=
  let l1 := l.violation p cls seq idx true
  if s.op = 2 then l1.answer cfg p src (rdataSeg s 255 1 (fillBytes (bits s.aux 8 0) 0))
  else if s.op = 1 ∨ s.op = 3 then l1.xfer p src s fun x => { x with served := x.served + 1, status := 1 }
  else l1

/-- Whether every segment of a flit is a JOIN or MEMBER, which chips of different epochs exchange (R424, R425). -/
def Flit.joins (f : Flit) : Bool := f.segs.all fun s => s.op == 0x16 || s.op == 0x17

/-- Records of SYNC flits move from their receive buffers into the Sync handler while it has room for 64 (R406). -/
def Port.fillSync (epoch : Nat) : Nat → Port → Port
  | 0, p => p
  | n + 1, p =>
    match takeFirst (fun (r : RxFlit) => r.flit.vc == 3) p.rx with
    | none => p
    | some (r, rest) =>
      if 64 < p.sync.length + r.segs.length then p
      else Port.fillSync epoch n (Port.free { p with rx := rest, sync := p.sync ++ r.segs.map fun x => (r.flit, x) } epoch 3)

/-- A flit's segments wait in its buffer, those that break R403 or do not fit dropped as violations (R430). -/
def LinkSt.queue (l : LinkSt) (cfg : ChipCfg) (p : Nat) (f : Flit) (bad : Option Seg) : LinkSt :=
  let all := f.segs.zipIdx
  let sound := fun (x : Seg × Nat) => opOnVc x.1.op f.vc && !readBad x.1
  let wrong := all.filter (!sound ·) ++ (match bad with | some s => [(s, f.segs.length)] | none => [])
  let l1 := wrong.foldl (fun (l : LinkSt) b => l.dropSeg cfg p f.src f.seq b.2 4 b.1) l
  let good := (all.filter sound).map fun x => (x.2, x.1)
  if good.isEmpty then l1.freeAt p f.vc
  else l1.onPort p fun q => ({ q with rx := q.rx ++ [⟨f, good⟩] } : Port).fillSync l.epoch 1

/-- A flit accepted by the link level is dealt with: dropped while the port is fenced or the chip joins; held for its epoch or
dropped for it, in transit or not; forwarded through the byre; or its segments wait in their buffer (R420, R425, R426, R428,
R430). -/
def LinkSt.accept (l : LinkSt) (cfg : ChipCfg) (p : Nat) (f : Flit) (bad : Option Seg) : LinkSt :=
  let q := l.port p
  let transit := !f.loc && f.dest != cfg.herdX
  if q.state = 4 then (l.control p .fenced).freeAt p f.vc
  else if l.mstate = 1 ∧ f.vc ≠ 3 then l.freeAt p f.vc
  else if !f.joins ∧ f.epoch ≠ l.epoch ∧ newer f.epoch l.epoch = true then
    (l.onPort p fun q => { q with held := q.held ++ [⟨f, bad, l.clock⟩], asked := some l.clock }).control p .epochAsk
  else if !f.joins ∧ (f.epoch ≠ l.epoch ∨ (!f.loc ∧ l.mstate = 2 ∧ !l.mask.contains f.src)) then
    ((l.violation p 8 f.seq 0 false).control p (.epochTell l.epoch l.root)).freeAt p f.vc
  else if transit && l.mstate == 3 && !maySend 3 f then l.freeAt p f.vc
  else if transit then
    match cfg.links.find? (·.1 == f.dest) with
    | some (_, out) =>
      if f.hops = 0 then (l.violation p 6 f.seq 0 true).freeAt p f.vc
      else (l.onPort p fun q => q.enterByre l.epoch out { f with hops := f.hops - 1 }).forwardAll
    | none => (l.violation p 6 f.seq 0 true).freeAt p f.vc
  else l.queue cfg p f bad

/-- Buffers of a channel in use at a port. -/
def Port.inUse (p : Port) (vc : Nat) : Nat :=
  (p.rx.filter fun r => r.flit.vc == vc).length + (p.held.filter fun f => f.flit.vc == vc).length +
    (p.through.filter fun x => x.2.vc == vc).length

/-- ACK and credit count of a received flit; the port sends what they let it. -/
def LinkSt.credited (l : LinkSt) (p ack crVc crCount : Nat) : LinkSt := (l.onPort p fun q => q.credit ack crVc crCount).pump p

/-- A received flit of KIND DATA, whose CRC is right (R405, R407). -/
def LinkSt.receiveData (l : LinkSt) (cfg : ChipCfg) (p : Nat) (x : RxParse) : LinkSt :=
  let q := l.port p
  let f := x.flit
  if f.seq = q.rxSeq then
    let l1 := l.onPort p fun q => { q with rxSeq := (q.rxSeq + 1) % 4096 }
    if vcSize f.vc ≤ (l1.port p).inUse f.vc then l1.violation p 2 f.seq 0 true
    else if !x.sound then (l1.violation p 1 f.seq 0 true).freeAt p f.vc
    else l1.accept cfg p f x.bad
  else if (q.rxSeq + 4096 - f.seq) % 4096 ≤ 512 then l
  else ((l.violation p 3 f.seq 0 true).onPort p fun q => { q with naksTx := satAdd 16 q.naksTx 1 }).control p (.nak q.rxSeq)

/-- DATA_FLIT_RECEIVE (R401, R405, R407): `corrected` symbols of the flit's codewords were corrected, `uncorr` codewords were
uncorrectable. IDLE and CONTROL flits bring ACK and credits only; the records of CONTROL have rows of their own. -/
def LinkSt.receive (l : LinkSt) (cfg : ChipCfg) (p : Nat) (bs : Bytes) (corrected uncorr : Nat) : LinkSt :=
  let q := l.port p
  if q.state ≠ 2 ∧ q.state ≠ 3 ∧ q.state ≠ 4 then l
  else
    let l0 := l.onPort p fun q => { q with fecCorr := q.fecCorr + BitVec.ofNat 32 corrected, fecUncorr := satAdd 16 q.fecUncorr uncorr }
    match (if uncorr = 0 then Flit.parse bs else none) with
    | none => (l0.onPort p fun q => { q with naksTx := satAdd 16 q.naksTx 1 }).control p (.nak q.rxSeq)
    | some x =>
      let f := x.flit
      if x.kind = 3 then l0.violation p 1 f.seq 0 true
      else
        let l1 := l0.credited p f.ack f.crVc f.crCount
        if x.kind = 1 then l1.receiveData cfg p x else l1

/-- IDLE_FLIT (R401). -/
def LinkSt.idleFlit (l : LinkSt) (p ack crVc crCount : Nat) : LinkSt := l.credited p (ack % 4096) (crVc % 4) (crCount % 1024)

/-- The next waiting segment of a channel, with its flit and index; of SYNC the next record in the Sync handler. -/
def Port.nextSeg (p : Port) (vc : Nat) : Option (Flit × Nat × Seg) :=
  if vc = 3 then p.sync.head?
  else match p.rx.find? fun r => r.flit.vc == vc with
  | some r => r.segs.head?.map fun s => (r.flit, s)
  | none => none

/-- The next segment of a channel has been taken; its buffer is freed after the last (R406), and the Sync handler takes in what
has waited. -/
def Port.popSeg (p : Port) (epoch vc : Nat) : Port :=
  if vc = 3 then ({ p with sync := p.sync.drop 1 } : Port).fillSync epoch p.rx.length
  else match takeFirst (fun (r : RxFlit) => r.flit.vc == vc) p.rx with
  | none => p
  | some (r, others) =>
    let rest := r.segs.drop 1
    if rest.isEmpty then { p with rx := others : Port }.free epoch vc
    else { p with rx := p.rx.map fun x => if x = r then ⟨r.flit, rest⟩ else x }

/-! ### Segments of requests (R403, R410, R413 to R415, R435) -/

/-- Whether a range lies in one arena of a kind: 1 MEMORY, 2 FOLD. -/
def inArena (cfg : ChipCfg) (kind a n : Nat) : Bool :=
  match cfg.arenaOf a with
  | some (_, ar) => ar.kind == kind && decide (a + n ≤ ar.base + ar.size)
  | none => false

/-- The masked bytes of a WRITE: AUX[0] leaves the low half of the first byte out, AUX[1] the high half of the last, as an I4
element that stands alone in its byte needs it (R222, R288; DESIGN CHOICE, log entry 38). -/
def Seg.masked (s : Seg) : List (Nat × Byte × Byte) :=
  (s.data.zipIdx).map fun (b, i) =>
    (s.addr + i, (if i = 0 ∧ bit s.aux 0 then 0xF0 else 0xFF) &&& (if i + 1 = s.data.length ∧ bit s.aux 1 then 0x0F else 0xFF), b)

/-- LINK_WRITE and LINK_FOLD: the segment's bytes are handed into the channels (R403, R410, R415); at low rate it is
dropped (R435). -/
def LinkSt.store (l : LinkSt) (x : ExtSt) (cfg : ChipCfg) (p : Nat) (f : Flit) (idx kind : Nat) (s : Seg) :
    LinkSt × ExtSt :=
  if (l.port p).state = 3 then (l.xfer p f.src s fun t => { t with served := t.served + 1, status := 5 }, x)
  else if inArena cfg kind s.addr s.data.length then
    (l.xfer p f.src s fun t => { t with served := t.served + 1 },
     (x.writeMasked cfg s.addr s.data.length s.fmt (if kind = 1 then s.masked else plainBytes s.addr s.data)).1)
  else (l.dropSeg cfg p f.src f.seq idx 5 s, x)

/-- LINK_READ: the bytes are read and sent back (R403, R410, R435); a READ that spans two granules breaks R403. -/
def LinkSt.readSeg (l : LinkSt) (x : ExtSt) (cfg : ChipCfg) (p : Nat) (f : Flit) (idx : Nat) (s : Seg) : LinkSt × ExtSt :=
  let n := bits s.aux 8 0
  let g := cfg.granAt s.addr
  if (l.port p).state = 3 then (l.answer cfg p f.src (rdataSeg s 255 5 (fillBytes n 0)), x)
  else if !inArena cfg 1 s.addr n then (l.dropSeg cfg p f.src f.seq idx 5 s, x)
  else if (s.addr - ((cfg.arenaOf s.addr).map fun a => a.2.base).getD 0) % g + n > g then
    (l.dropSeg cfg p f.src f.seq idx 4 s, x)
  else
    let (x1, bs) := x.readFor cfg s.addr n
    let pois := (List.range (n / 32)).foldl (fun m i => m + (if (nth bs (32 * i) (0, false, false)).2.1 then 2 ^ i else 0)) 0
    (l.answer cfg p f.src (rdataSeg s pois 0 (bs.map (·.1))), x1)

/-- One request segment at the head of channel `vc` of a port, when it is of operation `op`. -/
def LinkSt.request (l : LinkSt) (x : ExtSt) (cfg : ChipCfg) (p vc op : Nat) : LinkSt × ExtSt :=
  match (l.port p).nextSeg vc with
  | none => (l, x)
  | some (f, idx, s) =>
    if s.op ≠ op then (l, x)
    else
      let l1 := l.onPort p fun q => q.popSeg l.epoch vc
      match op with
      | 1 => l1.store x cfg p f idx 1 s
      | 3 => l1.store x cfg p f idx 2 s
      | 2 => l1.readSeg x cfg p f idx s
      | 4 => (l1.xfer p f.src s fun t => { t with close := some s.aux,
                                                   status := if (l1.port p).state = 3 then 5 else t.status }, x)
      | _ => (l, x)

/-- TRANSFER_SERVED (R413): a closed transfer whose segments are all served delivers its token and sends DONE. -/
def LinkSt.served (l : LinkSt) (cfg : ChipCfg) (p : Nat) : LinkSt :=
  match takeFirst (fun (x : InXfer) => x.port == p && (match x.close with
      | some n => decide (n ≤ x.served) | none => false)) l.xfers with
  | none => l
  | some (x, rest) =>
    let l1 := { l with xfers := rest, ob := l.ob.token x.core (2044 + x.mch) }
    l1.answer cfg p x.src ⟨9, x.tag, x.gen, 0, x.mch, x.core, x.status, 0, []⟩

/-! ### Tags and hand-over (R412 to R414, R417 to R419) -/

/-- The lowest free tag (R418). -/
def Port.freeTag (p : Port) : Option Nat := (List.range 256).find? fun t => (p.tag t).use.isNone

/-- Whether a port carries traffic: otherwise it ends UNREACHABLE (R417, R432). -/
def LinkSt.reachable (l : LinkSt) (p : Nat) : Bool := decide (p < 32) && [1, 2, 3].contains (l.port p).state

/-- The bytes that an element of a READ occupies, from its first on (R222). -/
def elSpan (e : Nat × Nat × Nat) : Nat := if e.2.2 = 4 ∨ e.2.2 = 5 then 1 else if 256 < e.2.2 ∧ e.2.2 < 259 then 32 else e.2.2 / 8

/-- The granule of its arena that an address lies in (R307). -/
def ChipCfg.granOf (cfg : ChipCfg) (a : Nat) : Nat :=
  match cfg.arenaOf a with
  | some (_, ar) => (a - ar.base) / cfg.granAt a
  | none => a / 256

/-- The READs of a row's elements on one chip (R403, R411): an element joins the READ before it when its bytes directly follow
in one granule, or stand in that READ's last byte. Elements of different rows share none, since each row's request leaves
with its own row (R265; DEDUCED, log entry 38). -/
def readRuns (cfg : ChipCfg) (els : List (Nat × Nat × Nat)) : List (List (Nat × Nat × Nat)) :=
  els.foldl (fun (runs : List (List (Nat × Nat × Nat))) e =>
    match runs.getLast?.bind (·.getLast?) with
    | some b =>
      let next := b.2.1 + elSpan b
      if (e.2.1 = next ∨ (elSpan e = 1 ∧ e.2.1 + 1 = next ∧ b.2.2 = 4 ∧ e.2.2 = 5)) ∧
          cfg.granOf e.2.1 = cfg.granOf b.2.1 then
        runs.dropLast ++ [(runs.getLast?.getD []) ++ [e]]
      else runs ++ [[e]]
    | none => [[e]]) []

/-- A tag is taken for a use, and its segment sent; its timer runs from now by LNK_CFG.TAG_TIMEOUT (R418, R419, R438). -/
def LinkSt.takeTag (l : LinkSt) (cfg : ChipCfg) (p chip vc : Nat) (u : TagUse) (mk : Nat → Nat → Seg) : LinkSt :=
  match (l.port p).freeTag with
  | none => l
  | some t =>
    let g := ((l.port p).tag t).gen
    (l.onPort p fun q => { q with tags := q.tags.set t ⟨g, some u, l.clock + 65536 * q.tagTimeout.toNat⟩ }).send p vc cfg.herdX chip false
      (mk t g)

/-- The tag that a use holds. -/
def Port.tagOf (p : Port) (u : TagUse) : Option Nat := (p.tags.find? fun t => t.2.use == some u).map (·.1)

/-- A payload for another chip that never leaves this one: poison for each READ, the tokens of a transfer at its CLOSE,
counted with the status at its port if it has one (R417). -/
def LinkSt.refuseLoad (l : LinkSt) (cfg : ChipCfg) (status : Nat) (load : Payload) : LinkSt :=
  let count := fun (l : LinkSt) (port n : Nat) =>
    if port < 32 then
      (l.onPort port fun q => { q with doneErr := satAdd 16 q.doneErr n, lastErr := status }).line (768 + port)
    else l
  match load with
  | .remRead core ch port _ rel els => (count l port (readRuns cfg els).length).respond (poisonResp core ch (400 + port) rel els)
  | .remClose core ch port _ _ _ =>
    let l1 := count l port 1
    { l1 with ob := l1.ob.token core (2040 + ch) }
  | _ => l

/-- The bytes of a segment that have come before its last part. -/
def Port.asmOf (q : Port) (core ch chip : Nat) : List (Byte × Byte) :=
  ((q.asm.find? fun x => x.1 == core && x.2.1 == ch && x.2.2.1 == chip).map fun x => x.2.2.2).getD []

/-- The port with those bytes taken out. -/
def Port.dropAsm (q : Port) (core ch chip : Nat) : Port :=
  { q with asm := q.asm.filter fun x => !(x.1 == core && x.2.1 == ch && x.2.2.1 == chip) }

/-- AUX of a WRITE whose first or last byte is written by half (log entry 38). -/
def halfAux (bs : List (Byte × Byte)) : Nat :=
  (if (bs.head?.map (·.1)) = some 0xF0 then 1 else 0) + (if (bs.getLast?.map (·.1)) = some 0x0F then 2 else 0)

/-- The status with which a transaction to a chip ends at once, none when it can be sent (R417, R428). -/
def LinkSt.refusal (l : LinkSt) (port chip : Nat) : Option Nat :=
  if l.mstate = 3 ∨ (l.mstate = 2 ∧ !l.mask.contains chip) then some 2
  else if !l.reachable port then some 3
  else none

/-- A segment whose last part is there is sent on its transfer's tag, or takes one (R411 to R413). -/
def LinkSt.sendSeg (l : LinkSt) (cfg : ChipCfg) (core ch port chip fmt : Nat) (fold : Bool) (addr : Nat) (bs : List (Byte × Byte)) :
    LinkSt :=
  let vc := if fold then 2 else 0
  let mk := fun t gen => (⟨if fold then 3 else 1, t, gen, if fold then fmt else 0, ch, core, if fold then 0 else halfAux bs, addr,
    bs.map (·.2)⟩ : Seg)
  match (l.port port).tagOf (.xfer core ch chip fold false) with
  | some t => l.send port vc cfg.herdX chip false (mk t ((l.port port).tag t).gen)
  | none => l.takeTag cfg port chip vc (.xfer core ch chip fold false) mk

/-- A transfer's CLOSE (R413): sent on its tag; without one the transfer has been settled before (R417), or nothing of it could
be sent, and it ends here. -/
def LinkSt.sendClose (l : LinkSt) (cfg : ChipCfg) (core ch port chip n : Nat) (fold : Bool) : LinkSt :=
  let u : TagUse := .xfer core ch chip fold false
  match (l.port port).tagOf u with
  | some t =>
    let g := (l.port port).tag t
    (l.onPort port fun q => { q with tags := q.tags.set t { g with use := some (.xfer core ch chip fold true) } }).send port
      (if fold then 2 else 0) cfg.herdX chip false ⟨4, t, g.gen, 0, ch, core, n, 0, []⟩
  | none => l.refuseLoad cfg 3 (.remClose core ch port chip n fold)

/-- What reaches a port's outbound queue (R411 to R414): READs, the parts of a segment, a CLOSE. Without a route or a port
that carries traffic, and towards a chip that is no member, it is settled at once (R417); a FENCED chip sends none of it
(R428). -/
def LinkSt.handOver (l : LinkSt) (cfg : ChipCfg) (load : Payload) : LinkSt :=
  match load with
  | .remRead core ch port chip rel els =>
    match l.refusal port chip with
    | some st => l.refuseLoad cfg st load
    | none => (readRuns cfg els).foldl (fun (l : LinkSt) g =>
        let lo := (g.map fun e => e.2.1 / 32 * 32).foldl min (2 ^ 40)
        let hi := (g.map fun e => (e.2.1 + elSpan e + 31) / 32 * 32).foldl max 0
        l.takeTag cfg port chip 0 (.read core ch rel chip lo g) fun t gen => ⟨2, t, gen, 0, ch, core, hi - lo, lo, []⟩) l
  | .remSeg core ch port chip fmt fold more addr bs =>
    let u : TagUse := .xfer core ch chip fold false
    if (l.refusal port chip).isSome ∨ u ∈ (l.port port).gone then l
    else
      let all := (l.port port).asmOf core ch chip ++ bs
      let l1 := l.onPort port fun q => q.dropAsm core ch chip
      if more then l1.onPort port fun q => { q with asm := q.asm ++ [(core, ch, chip, all)] }
      else l1.sendSeg cfg core ch port chip fmt fold (addr + bs.length - all.length) all
  | .remClose core ch port chip n fold =>
    let u : TagUse := .xfer core ch chip fold false
    if u ∈ (l.port port).gone then l.onPort port fun q => { q with gone := q.gone.erase u }
    else match l.refusal port chip with
      | some st =>
        match (l.port port).tagOf u with
        | some t => (l.settleTag port t st).onPort port fun q => { q with gone := q.gone.erase u }
        | none => l.refuseLoad cfg st load
      | none => l.sendClose cfg core ch port chip n fold
  | _ => l

/-- What the ports hold of a run that is over (R350, R568): transfers without a CLOSE get none, parts of segments are gone. -/
def LinkSt.newRun (l : LinkSt) : LinkSt :=
  { l with ports := l.ports.map fun p => (p.1, { p.2 with
      tags := p.2.tags.map fun t => (t.1, { t.2 with use := t.2.use.map fun u => match u with
        | .xfer core ch chip fold _ => .xfer core ch chip fold true
        | v => v })
      asm := []
      gone := [] }) }

/-- A response that arrives for no live use of its tag (R419). -/
def Port.isStale (p : Port) (s : Seg) : Bool := (p.tag s.tag).use.isNone || (p.tag s.tag).gen != s.gen

/-- The next response of a port, when it is of one operation: taken, counted when stale (R419). -/
def LinkSt.response (l : LinkSt) (p op : Nat) (live : LinkSt → Seg → Option TagUse → LinkSt) : LinkSt :=
  match (l.port p).nextSeg 1 with
  | some (_, _, s) =>
    if s.op ≠ op then l
    else
      let l1 := l.onPort p fun q => q.popSeg l.epoch 1
      if (l1.port p).isStale s then l1.onPort p fun q => { q with stale := satAdd 16 q.stale 1 }
      else live l1 s ((l1.port p).tag s.tag).use
  | none => l

/-- What an element of a READ is answered with, none for poison. -/
def rdataVal (s : Seg) (addr : Nat) (e : Nat × Nat × Nat) : Option Nat :=
  let o := e.2.1 - addr
  if bit s.aux (o / 32) then none
  else
    let w := if e.2.2 = 4 ∨ e.2.2 = 5 then 4 else if 256 < e.2.2 ∧ e.2.2 < 259 then 256 else e.2.2
    let v := leAt s.data o (max 1 (w / 8))
    some (if e.2.2 = 4 then v % 16 else if e.2.2 = 5 then v / 16 else v)

/-- RDATA (R414, R417, R419): the READ ends with the status it brings, its data on its way to the core. -/
def LinkSt.rdata (l : LinkSt) (p : Nat) : LinkSt :=
  l.response p 8 fun l1 s u => match u with
    | some (.read core ch rel _ addr els) =>
      (l1.endTag p s.tag (bits s.aux 15 8)).respond
        ⟨core, ch, 400 + p, rel, els.map fun e => (elName e.1 e.2.2, rdataVal s addr e)⟩
    | _ => l1

/-- DONE (R413, R419): the tag is free, the issuing core's token on its way. -/
def LinkSt.done (l : LinkSt) (p : Nat) : LinkSt :=
  l.response p 9 fun l1 s u => match u with
    | some (.xfer core ch _ _ _) =>
      let l2 := l1.endTag p s.tag (bits s.aux 7 0)
      { l2 with ob := l2.ob.token core (2040 + ch) }
    | _ => l1

/-- TAG_TIMEOUT (R419): a tag whose timer has expired. -/
def LinkSt.tagTimeout (l : LinkSt) (p t : Nat) : LinkSt :=
  let g := (l.port p).tag t
  if g.use.isNone ∨ l.clock < g.due then l
  else ((l.settleTag p t 4).onPort p fun q => { q with timeouts := satAdd 16 q.timeouts 1 }).line (768 + p)

/-- The tags that payloads for one port take (R412, R418): one for each READ, one for each transfer that opens. -/
def tagsWanted (cfg : ChipCfg) (q : Port) (loads : List Payload) : Nat :=
  let opens := (loads.filterMap fun x => match x with
    | .remSeg core ch _ chip _ fold false _ _ => some (TagUse.xfer core ch chip fold false)
    | _ => none).eraseDups.filter fun u => (q.tagOf u).isNone
  ((loads.map fun x => match x with
    | .remRead _ _ _ _ _ els => (readRuns cfg els).length
    | _ => 0).foldl (· + ·) 0) + opens.length

/-- Flits that payloads for one port add to its outbound queue. -/
def flitsWanted (cfg : ChipCfg) (loads : List Payload) : Nat :=
  (loads.map fun x => match x with
    | .remRead _ _ _ _ _ els => (readRuns cfg els).length
    | .remSeg _ _ _ _ _ _ false _ _ => 1
    | .remClose .. => 1
    | _ => 0).foldl (· + ·) 0

/-- The chip that a payload for a port goes to. -/
def Payload.chip : Payload → Nat
  | .remRead _ _ _ chip .. | .remSeg _ _ _ chip .. | .remClose _ _ _ chip .. => chip
  | _ => 0

/-- Whether all payloads handed over at a port in one cycle would find room and tags (R365, R412): else the plane slips. What
is settled at once needs neither. -/
def LinkSt.room (l : LinkSt) (cfg : ChipCfg) (p : Nat) (all : List Payload) : Bool :=
  let q := l.port p
  let loads := all.filter fun x => (l.refusal p x.chip).isNone
  loads.isEmpty || (decide (q.outq.length + flitsWanted cfg loads ≤ 512) &&
    decide (tagsWanted cfg q loads + (q.tags.filter fun t => t.2.use.isSome).length ≤ 256))

/-! ### Control flits, training and lanes (R404, R407, R431 to R434) -/

/-- NAK (R407). -/
def LinkSt.nak (l : LinkSt) (p seq : Nat) : LinkSt :=
  (l.onPort p fun q => { q with naksRx := satAdd 16 q.naksRx 1 }).resend p (seq % 4096)

/-- REPLAY_TIMEOUT (R407): the oldest unacknowledged flit and all after it are sent again. -/
def LinkSt.replayTimeout (l : LinkSt) (p : Nat) : LinkSt :=
  match (l.port p).replay with
  | f :: _ => l.resend p f.seq
  | [] => l

/-- VIOLATION (R431). -/
def LinkSt.violated (l : LinkSt) (p : Nat) : LinkSt :=
  (l.onPort p fun q => { q with txViol := satAdd 16 q.txViol 1 }).line (768 + p)

/-- FENCED (R432): the partner's port drops DATA flits. -/
def LinkSt.peerFence (l : LinkSt) (p : Nat) : LinkSt := l.onPort p fun q => { q with peerFenced := true }

/-- EPOCH_REQUEST_REPEAT (R426): 65,536 ticks after the request before it. -/
def LinkSt.askAgain (l : LinkSt) (p : Nat) : LinkSt :=
  match (l.port p).asked with
  | some t =>
    if (l.port p).held.isEmpty ∨ l.clock < t + 65536 then l
    else (l.onPort p fun q => { q with asked := some l.clock }).control p .epochAsk
  | none => l

/-- DEAD_TIME in herd ticks (R427, R443). -/
def LinkSt.deadTicks (l : LinkSt) : Nat := 65536 * l.deadTime.toNat

/-- HELD_FLIT_TIMEOUT (R426): the oldest held flit, held for DEAD_TIME, is dropped as a violation of class EPOCH. -/
def LinkSt.heldTimeout (l : LinkSt) (p : Nat) : LinkSt :=
  match (l.port p).held with
  | f :: t =>
    if l.clock < f.at_ + l.deadTicks then l
    else ((l.onPort p fun q => { q with held := t }).freeAt p f.flit.vc).violation p 8 f.flit.seq 0 true
  | [] => l

/-- CREDIT_STALL (R421): a channel without credit for 2^21 ticks is reported. -/
def LinkSt.creditStall (l : LinkSt) (p vc : Nat) : LinkSt :=
  match (l.port p).drySince.find? (·.1 == vc) with
  | some (_, t) => if [2, 3].contains (l.port p).state ∧ t + 2 ^ 21 ≤ l.clock then l.line (800 + p) else l
  | none => l

/-- Number of lanes in a mask. -/
def laneCount (m : Nat) : Nat := ((List.range 6).filter fun i => bit m i).length

/-- The lowest lane of a mask, as a mask. -/
def lowestLane (m : Nat) : Nat := (((List.range 6).find? fun i => bit m i).map fun i => 2 ^ i).getD 0

/-- LINK_TRAINING (R433): `lanes` passed detection and alignment, and what IDENT and the measurement gave; `me` is the identity
that this port sends in its own IDENT. Fewer than 3 lanes, or a training that does not finish, leave the port DOWN. A training
that finishes marks the lanes that failed in it as bad (R434). At low rate the lowest good lane alone is up (R435). -/
def LinkSt.train (l : LinkSt) (p lanes : Nat) (finished : Bool) (peerId : BitVec 64) (peerPort : Nat) (rtt asym : BitVec 32)
    (low : Bool) (me : BitVec 64) : LinkSt :=
  let q := l.port p
  if q.state ≠ 1 then l
  else
    let good := (lanes % 64) &&& (63 - q.badLanes)
    let failed := 63 - q.badLanes - good
    if !finished ∨ laneCount good < 3 then l.setState p 0
    else
      let l1 := l.onPort p fun q => { q with
        lanes := if low then lowestLane good else good
        badLanes := q.badLanes + failed
        failovers := satAdd 16 q.failovers (laneCount failed)
        peerValid := true
        peerPort := peerPort % 32
        peerId := peerId
        rtt := rtt
        asym := asym
        peerFenced := false
        credits := if q.trained then q.credits else [128, 128, 128, 32]
        freed := if q.trained then q.freed else [0, 0, 0, 0]
        peerFreed := if q.trained then q.peerFreed else [0, 0, 0, 0]
        txSeq := if q.trained then q.txSeq else 0
        rxSeq := if q.trained then q.rxSeq else 0
        sendings := if q.replay.isEmpty then 0 else 1
        wire := q.wire ++ [.ident me p [128, 128, 128, 32]]
        trained := true }
      ((l1.setState p (if low then 3 else 2)).onPort p fun q => q.replayAll l.mstate).pump p

/-- TRAINING_RETRY (R433): a DOWN port trains again. -/
def LinkSt.retry (l : LinkSt) (p : Nat) : LinkSt := if (l.port p).state = 0 then l.retrain p false else l

/-- LANE_FAILURE (R434): the lane is bad, and the port retrains without it; with fewer than 3 it is DOWN. -/
def LinkSt.laneFail (l : LinkSt) (p lane : Nat) : LinkSt :=
  let q := l.port p
  if !bit q.lanes lane ∨ !([2, 3].contains q.state) then l
  else
    let l1 := (l.onPort p fun q => { q with
      badLanes := q.badLanes ||| 2 ^ lane
      lanes := q.lanes &&& (63 - 2 ^ lane)
      failovers := satAdd 16 q.failovers 1 }).line (800 + p)
    if laneCount (63 - (l1.port p).badLanes) < 3 then l1.setState p 0 else l1.retrain p false

/-- LNK_CTRL.DISABLE (R432, R437, R558): 1 takes the port DOWN and keeps it DISABLED; 0 starts a training without the bad
lanes, after which violations count anew, if a cable is seated. -/
def LinkSt.disable (l : LinkSt) (p : Nat) (cable v : Bool) : LinkSt :=
  let l1 := l.onPort p fun q => { q with disable := v, violTimes := if v then q.violTimes else [] }
  if v then l1.setState p 5 else if cable then l1.retrain p false else l1.setState p 0

/-- A port that goes to low rate keeps its lowest good lane up (R435). -/
def LinkSt.slow (l : LinkSt) (p : Nat) : LinkSt :=
  if (l.port p).state = 2 then (l.onPort p fun q => { q with lanes := lowestLane q.lanes }).setState p 3 else l

/-- LNK_CTRL.RETRAIN (R437, R558): a training with all lanes tried again, if a cable is seated. -/
def LinkSt.retrainAll (l : LinkSt) (p : Nat) (cable : Bool) : LinkSt :=
  if (l.port p).disable || !cable then l else l.retrain p true

end Sys2Proof.Machine
end

