-- ==== Sys2Proof/Machine/Herd.lean ====
section
/-! DEFINITION. The herd count, the timing tree, the herd barrier and lock-step comparison (R378 to R389, R393 to
R397). -/

namespace Sys2Proof.Machine

/-- A barrier this chip has arrived at (R385, R386). -/
structure Bar where
  seq : Nat
  bit : Bool                     -- own decision bit, later the AND with the children's
  began : BitVec 64              -- herd count at E
  timeout : Nat                  -- TIMEOUT and MARGIN in force at its arrival (R395)
  margin : Nat
  sent : Bool                    -- ARRIVE or RELEASE has been sent
  release : Option (BitVec 64 × Bool)   -- t and decision
  down : List Nat                -- ports by which the children's ARRIVEs of it came: RELEASE goes on to them
  deriving DecidableEq, Repr

/-- An ARRIVE received: port, sequence, decision bit. -/
structure Arrive where
  port : Nat
  seq : Nat
  bit : Bool
  deriving DecidableEq, Repr

/-- A lock-step record (R380). -/
structure LsRec where
  seg : Nat
  core : Nat
  step : Nat
  sig : BitVec 64
  deriving DecidableEq, Repr

/-- A mismatch whose 33 sums are being fetched (R381): its record and the sums closed here, and the partner's signature, which
the partner's sums have to give. -/
structure LsFetch where
  rec_ : LsRec
  sums : List (BitVec 64)
  theirs : BitVec 64
  deriving DecidableEq, Repr

/-- Herd count, timing tree, barrier and lock-step (R390 to R397). -/
structure HerdSt where
  count : BitVec 64
  state : Nat                    -- 0 FREE, 1 ACQUIRING, 2 ALIGNED, 3 LOST
  parent : Option Nat            -- port to the timing parent
  depth : Option Nat
  offset : Int                   -- latest offset
  good : Nat                     -- consecutive beacons with an offset of at most 2
  slew : Int                     -- ticks still to be slewed while ALIGNED
  slewGap : Nat                  -- ticks since the latest slewed tick
  load : BitVec 64               -- SUP_HERD_LOAD
  armed : Bool                   -- SYNC_ARMED
  loadIn : Option Nat            -- ticks until the load that SYNC_IN began
  syncOut : Nat                  -- ticks SYNC_OUT still drives high
  beaconGap : Nat                -- ticks since the latest beacons were sent, at most 65,536 (R384)
  depths : Tab Nat               -- depth carried by the latest beacon of each port; 0xFFFF for none
  barTimeout : BitVec 32         -- SUP_BAR_CFG
  barMargin : BitVec 32
  barSeq : BitVec 32             -- SUP_BAR_STAT
  late : Nat
  timeouts : Nat
  bar : Option Bar
  arrives : List Arrive
  early : List (Nat × BitVec 64 × Bool)   -- RELEASEs held for the next barrier: sequence, t, decision (R386)
  nextSeq : Nat                  -- sequence of the next barrier of the run (R385)
  degraded : Bool                -- a member was removed during the run (R427)
  lsCfg : BitVec 12              -- SUP_LS_CFG
  lsState : Nat                  -- 0 OFF, 1 PAIRING, 2 COMPARING, 3 MISPAIRED
  lsOn : BitVec 12               -- SUP_LS_CFG in force since the COLD start (R378)
  mismatch : Bool
  unmatched : Bool
  mismatches : Nat
  compared : BitVec 32
  first : Option LsRec           -- SUP_LS_FIRST with its step and local signature
  firstRemote : BitVec 64
  tile : Option Nat
  remote : List LsRec            -- the partner's records not yet compared
  fetches : List LsFetch
  sumsIn : List (List (BitVec 64))   -- sums of the partner for mismatches not found here yet
  pairIn : Tab (BitVec 12)       -- PAIR messages for the coming COLD start, by sender (R378)
  ob : Outbox
  deriving DecidableEq, Repr

/-- Reset values of R393 to R397. -/
def HerdSt.reset : HerdSt :=
  { count := 0, state := 0, parent := none, depth := none, offset := 0, good := 0, slew := 0, slewGap := 0, load := 0,
    armed := false, loadIn := none, syncOut := 0, beaconGap := 65536, depths := [], barTimeout := 0x100, barMargin := 0x2000, barSeq := 0,
    late := 0, timeouts := 0, bar := none, arrives := [], early := [], nextSeq := 0, degraded := false, lsCfg := 0, lsState := 0,
    lsOn := 0, mismatch := false, unmatched := false, mismatches := 0, compared := 0, first := none, firstRemote := 0,
    tile := none, remote := [], fetches := [], sumsIn := [], pairIn := [], ob := Outbox.empty }

/-! ### The herd count (R382, R383) -/

/-- SYNC_OUT drives high for 16 ticks from each count that is a multiple of 2^20 (R383). -/
def HerdSt.syncPulse (h : HerdSt) : HerdSt := if h.count.toNat % 2 ^ 20 = 0 ∧ h.syncOut = 0 then { h with syncOut := 16 } else h

/-- One herd tick (R382 to R384): the load that SYNC_IN began, or an advance of 1, slewed to 0 or 2 on at most one
tick in 4,096 while ALIGNED. -/
def HerdSt.tick (h : HerdSt) : HerdSt :=
  let h1 := { h with syncOut := h.syncOut - 1, beaconGap := min 65536 (h.beaconGap + 1) }
  match h.loadIn with
  | some 0 | some 1 => { h1 with count := h.load, armed := false, loadIn := none, slewGap := h.slewGap + 1 }.syncPulse
  | other =>
    let h2 := { h1 with loadIn := other.map (· - 1) }
    if h.state = 2 ∧ h.slew ≠ 0 ∧ 4095 ≤ h.slewGap then
      let up := decide (0 < h.slew)
      { h2 with count := h.count + (if up then 2 else 0), slew := if up then h.slew - 1 else h.slew + 1, slewGap := 0 }.syncPulse
    else { h2 with count := h.count + 1, slewGap := h.slewGap + 1 }.syncPulse

/-- `n` herd ticks. -/
def HerdSt.ticks (h : HerdSt) : Nat → HerdSt
  | 0 => h
  | n + 1 => h.tick.ticks n

/-- SYNC_IN: while SYNC_ARMED, a reference edge that samples the pin high begins the load 40 ticks later (R383). -/
def HerdSt.syncIn (h : HerdSt) : HerdSt := if h.armed ∧ h.loadIn.isNone then { h with loadIn := some 40 } else h

/-! ### The timing tree (R384) -/

/-- The timing root: that of the membership, or herd index 0 without one. -/
def timingRoot (l : LinkSt) : Nat := if l.mstate = 2 then l.root else 0

/-- Herd index of the chip behind a port, under the HERD section in force (R436). -/
def peerHerd (cfg : ChipCfg) (q : Port) : Option Nat :=
  if q.peerValid then (cfg.herdIds.zipIdx.find? fun x => x.1 == q.peerId.toNat).map (·.2) else none

/-- Whether a port leads to a chip that the timing tree may count (R384, R427): it is UP, and its partner a member while
this chip is one. -/
def LinkSt.inTree (l : LinkSt) (cfg : ChipCfg) (p : Nat) : Bool :=
  (l.port p).state == 2 && (l.mstate != 2 || (match peerHerd cfg (l.port p) with
    | some x => l.mask.contains x
    | none => false))

/-- Depth, parent and state follow from what the neighbours' beacons carried; what came by a port that is UP no more, or from
a chip that has left the membership, is forgotten. -/
def HerdSt.tree (h0 : HerdSt) (l : LinkSt) (cfg : ChipCfg) : HerdSt :=
  let h := { h0 with depths := h0.depths.filter fun x => l.inTree cfg x.1 }
  if cfg.herdX = timingRoot l then { h with depth := some 0, parent := none, state := 0, good := 0, slew := 0 }
  else
    let near := h.depths.filterMap fun x =>
      if x.2 ≠ 0xFFFF then some (x.2, (peerHerd cfg (l.port x.1)).getD 1024, x.1) else none
    let d0 := (near.map (·.1)).foldl min 0xFFFF
    let best := (near.filter (·.1 == d0)).foldl (fun (b : Option (Nat × Nat)) x =>
      match b with
      | some (i, _) => if x.2.1 < i then some (x.2.1, x.2.2) else b
      | none => some (x.2.1, x.2.2)) none
    match best with
    | none => { h with depth := none, parent := none, state := 0, good := 0, slew := 0 }
    | some (_, p) =>
      let h1 := { h with depth := some (d0 + 1), parent := some p }
      if h.parent = some p ∧ h.state ≠ 0 then h1 else { h1 with state := 1, good := 0, slew := 0 }

/-- The count moves by the latest offset: a step to the parent's count. -/
def HerdSt.stepCount (h : HerdSt) (off : Int) : HerdSt := { h with count := h.count + BitVec.ofInt 64 off }

/-- The offset of a beacon that came back from the parent is followed (R384). LOST shows from the beacon that enters it, with
its step, until the next one, which is followed as in ACQUIRING (DEDUCED, log entry 40). -/
def HerdSt.follow (h : HerdSt) (off : Int) : HerdSt :=
  let h0 := { h with offset := off }
  let near := decide (off.natAbs ≤ 2)
  if h.state = 2 ∧ 64 < off.natAbs then
    { h0.stepCount off with state := 3, good := 0, slew := 0, ob := h.ob.line 68 }
  else if h.state = 2 then { h0 with slew := off }
  else if h.state = 3 then { h0.stepCount off with state := 1, good := b2n near }
  else if h.state = 1 then
    let n := if near then h.good + 1 else 0
    if 4 ≤ n then { h0.stepCount off with state := 2, good := n, slew := 0 }
    else { h0.stepCount off with good := n }
  else h0

/-- A beacon's data: t1, t2, t3, depth (R403). AUX[0] tells a return from a beacon. -/
def HerdSt.beaconSeg (h : HerdSt) (ret : Bool) (t1 t2 t3 : Nat) : Seg :=
  syncSeg 0x10 (b2n ret) 0 (leBytes 8 t1 ++ leBytes 8 t2 ++ leBytes 8 t3 ++ leBytes 2 (h.depth.getD 0xFFFF))

/-- Ports that have trained and carry traffic. -/
def LinkSt.upPorts (l : LinkSt) : List Nat := (List.range 32).filter fun p => [2, 3].contains (l.port p).state

/-- A LOCAL SYNC segment to the partner of a port. -/
def LinkSt.tell (l : LinkSt) (cfg : ChipCfg) (p : Nat) (s : Seg) : LinkSt := l.send p 3 cfg.herdX 0 true s

/-- BEACON_SEND (R384): every trained port sends a beacon, 65,536 ticks after the beacons before it. -/
def HerdSt.beaconSend (h : HerdSt) (l : LinkSt) (cfg : ChipCfg) : HerdSt × LinkSt :=
  if h.beaconGap < 65536 then (h, l)
  else ({ h with beaconGap := 0 },
    l.upPorts.foldl (fun (l : LinkSt) p => l.tell cfg p (h.beaconSeg false h.count.toNat 0 0)) l)

/-- The offset of R384 from the four stamps, with the asymmetry that training measured taken off: ASYM is read as the outbound
delay less the inbound one (DESIGN CHOICE, log entry 40). Division goes toward zero (R12). -/
def beaconOffset (t1 t2 t3 t4 : Nat) (asym : BitVec 32) : Int :=
  ((sgn 64 (t2 + 2 ^ 64 - t1) - sgn 64 (t4 + 2 ^ 64 - t3)) - asym.toInt).tdiv 2

/-- The head SYNC segment of a port, when it is of one operation. -/
def LinkSt.syncHead (l : LinkSt) (p op : Nat) : Option (Flit × Nat × Seg) :=
  match (l.port p).nextSeg 3 with
  | some (f, i, s) => if s.op = op then some (f, i, s) else none
  | none => none

/-- The head SYNC segment of a port has been dealt with. -/
def LinkSt.syncPop (l : LinkSt) (p : Nat) : LinkSt := l.onPort p fun q => q.popSeg l.epoch 3

/-- A SYNC segment that has to come from a neighbour does not, or a barrier message names a wrong sequence (R430, class
SYNC). -/
def LinkSt.syncBad (l : LinkSt) (p : Nat) (f : Flit) (idx : Nat) : LinkSt := l.violation p 7 f.seq idx true

/-- BEACON (R384): a beacon is answered, a return from the parent is followed. -/
def HerdSt.beacon (h : HerdSt) (l : LinkSt) (cfg : ChipCfg) (p : Nat) : HerdSt × LinkSt :=
  match l.syncHead p 0x10 with
  | none => (h, l)
  | some (f, i, s) =>
    let l1 := l.syncPop p
    if !f.loc then (h, l1.syncBad p f i)
    else
      let t1 := leAt s.data 0 8
      let t2 := leAt s.data 8 8
      let t3 := leAt s.data 16 8
      let h1 := ({ h with depths := h.depths.set p (leAt s.data 24 2) }).tree l1 cfg
      if s.aux % 2 = 0 then (h1, l1.tell cfg p (h1.beaconSeg true t1 h.count.toNat h.count.toNat))
      else if h1.parent = some p then
        (h1.follow (beaconOffset t1 t2 t3 h.count.toNat (l.port p).asym), l1)
      else (h1, l1)

/-! ### The barrier (R385 to R388) -/

/-- This chip arrives at a barrier with its decision bit; a run that lost a member carries it clear (R427). -/
def HerdSt.arrive (h : HerdSt) (seq : Nat) (bit : Bool) : HerdSt :=
  { h with
    bar := some ⟨seq, bit && !h.degraded, h.count, h.barTimeout.toNat, h.barMargin.toNat, false, none, []⟩
    barSeq := BitVec.ofNat 32 seq }

/-- This chip arrives at barrier 0 of a start: no member has left the run that is to begin (R389, R427). -/
def HerdSt.arriveFirst (h : HerdSt) : HerdSt := ({ h with degraded := false } : HerdSt).arrive 0 true

/-- An ARRIVE or RELEASE payload: sequence, and t for a RELEASE (R403). -/
def barSeg (op seq : Nat) (bit : Bool) (t : Option (BitVec 64)) : Seg :=
  syncSeg op (b2n bit) 0 (leBytes 4 seq ++ (match t with | some x => leBytes 8 x.toNat | none => []))

/-- RELEASE goes to ports. -/
def LinkSt.tellRelease (l : LinkSt) (cfg : ChipCfg) (ps : List Nat) (seq : Nat) (bit : Bool) (t : BitVec 64) : LinkSt :=
  ps.foldl (fun (l : LinkSt) c => l.tell cfg c (barSeg 0x12 seq bit (some t))) l

/-- A RELEASE of the barrier in progress is taken and forwarded to the children at once; one whose count has passed is LATE
(R386, R388). A run that lost a member takes it with the decision bit clear (R427). -/
def HerdSt.takeRelease (h : HerdSt) (l : LinkSt) (cfg : ChipCfg) (b : Bar) (t : BitVec 64) (bit : Bool) : HerdSt × LinkSt :=
  ({ h with bar := some { b with release := some (t, bit && !h.degraded) }
            late := if t < h.count then satAdd 16 h.late 1 else h.late },
   l.tellRelease cfg b.down b.seq bit t)

/-- The port to a chip that can be a child in the timing tree: a beacon from it carried this chip's depth and one more (R384,
R385). -/
def HerdSt.childPort (h : HerdSt) (l : LinkSt) (cfg : ChipCfg) (x : Nat) : Option Nat :=
  (h.depths.find? fun d => l.inTree cfg d.1 && peerHerd cfg (l.port d.1) == some x && (match h.depth with
    | some n => d.2 == n + 1
    | none => false)).map (·.1)

/-- The arrival passes up once every child has arrived (R386). `below` names the children of this chip in the timing tree, each
with the members in its own subtree: which of its neighbours chose it as parent no message tells a chip (log entry 40). A
chip whose ARRIVE has come is a child too. The root releases only when every member has arrived in its subtree (R385). -/
def HerdSt.passUp (h : HerdSt) (l : LinkSt) (cfg : ChipCfg) (below : List (Nat × List Nat)) : HerdSt × LinkSt :=
  match h.bar with
  | none => (h, l)
  | some b =>
    let mine := h.arrives.filter fun a => a.seq == b.seq
    let came := mine.filterMap fun a => peerHerd cfg (l.port a.port)
    let kids := below.filter fun x => (h.childPort l cfg x.1).isSome
    if b.sent ∨ !(kids.all fun x => came.contains x.1) then (h, l)
    else
      let bit := b.bit && mine.all (·.bit)
      let b1 := { b with bit := bit, sent := true, down := mine.map (·.port) }
      let h1 := { h with bar := some b1, arrives := h.arrives.filter fun a => a.seq != b.seq }
      if cfg.herdX = timingRoot l then
        let have_ := cfg.herdX :: came ++ kids.flatMap (·.2)
        if l.mask.all have_.contains then
          let t := h.count + b.margin
          ({ h1 with bar := some { b1 with release := some (t, bit) } }, l.tellRelease cfg b1.down b.seq bit t)
        else (h, l)
      else match h.parent with
        | some p =>
          let l1 := l.tell cfg p (barSeg 0x11 b.seq bit none)
          match takeFirst (fun (x : Nat × BitVec 64 × Bool) => x.1 == b.seq) h.early with
          | some (x, rest) => ({ h1 with early := rest } : HerdSt).takeRelease l1 cfg b1 x.2.1 x.2.2
          | none => (h1, l1)
        | none => (h, l)

/-- Sequences a barrier message may carry (R386): that of the barrier in progress or the one after it; between barriers
the coming one. -/
def HerdSt.seqOk (h : HerdSt) (seq : Nat) : Bool :=
  match h.bar with
  | some b => seq == b.seq || seq == b.seq + 1
  | none => seq == h.nextSeq

/-- BARRIER_ARRIVE: an ARRIVE at the head of a port is kept, then the arrival passes up if it can. -/
def HerdSt.barArrive (h : HerdSt) (l : LinkSt) (cfg : ChipCfg) (p : Nat) (below : List (Nat × List Nat)) : HerdSt × LinkSt :=
  match l.syncHead p 0x11 with
  | none => h.passUp l cfg below
  | some (f, i, s) =>
    let l1 := l.syncPop p
    let seq := leAt s.data 0 4
    if !f.loc ∨ !h.seqOk seq then (h, l1.syncBad p f i)
    else ({ h with arrives := h.arrives ++ [(⟨p, seq, s.aux.testBit 0⟩ : Arrive)] }).passUp l1 cfg below

/-- BARRIER_RELEASE: a RELEASE at the head of a port is taken, or held for a barrier that this chip has not passed up yet
(R386); one for a barrier it has left by timeout changes nothing. It goes to every port whose ARRIVE has passed up, and to
a child that has changed its port since. -/
def HerdSt.barRelease (h : HerdSt) (l : LinkSt) (cfg : ChipCfg) (p : Nat) (children : List Nat) : HerdSt × LinkSt :=
  match l.syncHead p 0x12 with
  | none => (h, l)
  | some (f, i, s) =>
    let l1 := l.syncPop p
    let seq := leAt s.data 0 4
    let t := BitVec.ofNat 64 (leAt s.data 4 8)
    let bit := s.aux.testBit 0
    let hold := { h with early := h.early ++ [(seq, t, bit)] }
    if !f.loc ∨ !h.seqOk seq then (h, l1.syncBad p f i)
    else match h.bar with
      | some b =>
        if seq ≠ b.seq then (hold, l1)
        else if b.release.isSome then (h, l1)
        else if !b.sent then (hold, l1)
        else h.takeRelease l1 cfg { b with down := (b.down ++ children.filterMap (h.childPort l cfg)).eraseDups } t bit
      | none => (hold, l1)

/-- Whether the barrier's TIMEOUT has run out without a RELEASE (R388). -/
def HerdSt.barOver (h : HerdSt) : Bool :=
  match h.bar with
  | some b => b.release.isNone && b.timeout != 0 && decide (b.began.toNat + b.timeout * 65536 ≤ h.count.toNat)
  | none => false

/-- BARRIER_TIMEOUT (R388): the chip leaves the barrier with its decision bit clear. -/
def HerdSt.barTimeoutDo (h : HerdSt) : HerdSt :=
  match h.bar with
  | some b =>
    if h.barOver then
      { h with bar := some { b with sent := true, release := some (h.count, false) }
               timeouts := satAdd 16 h.timeouts 1
               ob := (h.ob.line 67).event 6 b.seq 0 }
    else h
  | none => h

/-- The decision of a barrier whose release count has come. -/
def HerdSt.released (h : HerdSt) : Option Bool :=
  match h.bar with
  | some b => match b.release with
    | some (t, d) => if t ≤ h.count then some d else none
    | none => none
  | none => none

/-- The barrier is over; the next one takes the next sequence (R385). -/
def HerdSt.leave (h : HerdSt) : HerdSt :=
  match h.bar with
  | some b => { h with bar := none, nextSeq := b.seq + 1 }
  | none => h

/-! ### Lock-step (R378 to R381) -/

/-- LS_CFG fields. -/
def lsPartner (c : BitVec 12) : Nat := c.toNat % 1024
/-- ENABLE. -/
def lsEnable (c : BitVec 12) : Bool := c.getLsbD 10
/-- LS_HALT. -/
def lsHalt (c : BitVec 12) : Bool := c.getLsbD 11

/-- PAIR's data: ENABLE and PARTNER, as they stand in SUP_LS_CFG (R403). -/
def HerdSt.pairSeg (h : HerdSt) : Seg := syncSeg 0x14 0 0 (leBytes 8 (h.lsOn.toNat % 2048))

/-- A PAIR message of chip `src` is judged (R378). The partner's pairs this chip, or both are MISPAIRED. Another chip that names
this one learns by an answer that it is not named back; a chip that is not enabled is then MISPAIRED itself. -/
def HerdSt.judgePair (h : HerdSt) (l : LinkSt) (cfg : ChipCfg) (src : Nat) (w : BitVec 12) : HerdSt × LinkSt :=
  let named := lsEnable w && lsPartner w == cfg.herdX
  if lsEnable h.lsOn && lsPartner h.lsOn == src then ({ h with lsState := if named then 2 else 3 }, l)
  else if named then ({ h with lsState := if lsEnable h.lsOn then h.lsState else 3 }, l.sendTo cfg 3 src h.pairSeg)
  else (h, l)

/-- At a COLD start the configuration takes effect, records are dropped, an enabled chip sends its pairing message, and the
messages that came before the start are judged (R378). -/
def HerdSt.coldStart (h : HerdSt) (l : LinkSt) (cfg : ChipCfg) : HerdSt × LinkSt :=
  let on := lsEnable h.lsCfg
  let h1 := { h with
    lsOn := h.lsCfg
    lsState := if on then 1 else 0
    mismatch := false
    unmatched := false
    compared := 0
    first := none
    firstRemote := 0
    tile := none
    remote := []
    fetches := []
    sumsIn := []
    pairIn := []
    degraded := false
    nextSeq := 1 }
  h.pairIn.foldl (fun (st : HerdSt × LinkSt) x => st.1.judgePair st.2 cfg x.1 x.2)
    (h1, if on then l.sendTo cfg 3 (lsPartner h.lsCfg) h1.pairSeg else l)

/-- PAIR (R378): judged in a run; a message that comes outside one, or that the partner sends once this run's pairing is
settled, belongs to the next COLD start and is kept for it. -/
def HerdSt.pair (h : HerdSt) (l : LinkSt) (cfg : ChipCfg) (p : Nat) (active : Bool) : HerdSt × LinkSt :=
  match l.syncHead p 0x14 with
  | none => (h, l)
  | some (f, _, s) =>
    let l1 := l.syncPop p
    let w := BitVec.ofNat 12 (leAt s.data 0 2)
    if !active ∨ (2 ≤ h.lsState ∧ lsEnable h.lsOn ∧ lsPartner h.lsOn = f.src) then
      ({ h with pairIn := h.pairIn.set f.src w }, l1)
    else h.judgePair l1 cfg f.src w

/-- Order of R381 among mismatches: segment, then step, then core. -/
def LsRec.before (a b : LsRec) : Bool :=
  decide (a.seg < b.seg) || (a.seg == b.seg && (decide (a.step < b.step) || (a.step == b.step && decide (a.core < b.core))))

/-- LSREC's data for a record (R380). -/
def LsRec.bytes (r : LsRec) : Bytes :=
  leBytes 2 r.seg ++ leBytes 1 r.core ++ fillBytes 5 0 ++ leBytes 8 r.step ++ leBytes 8 r.sig.toNat ++ fillBytes 8 0

/-- The record spelled by 32 bytes. -/
def LsRec.of (bs : Bytes) : LsRec := ⟨leAt bs 0 2, leAt bs 2 1, leAt bs 8 8, BitVec.ofNat 64 (leAt bs 16 8)⟩

/-- The partner's sums have come for a mismatch: the lowest tile whose sums differ (R381). -/
def HerdSt.tileFound (h : HerdSt) (f : LsFetch) (sums : List (BitVec 64)) : HerdSt :=
  if h.first = some f.rec_ then { h with tile := (List.range 33).find? fun i => nth f.sums i 0 != nth sums i 0 } else h

/-- A mismatch waits for the partner's sums, or finds them here already. -/
def HerdSt.fetch (h : HerdSt) (f : LsFetch) : HerdSt :=
  match takeFirst (fun (s : List (BitVec 64)) => coreSig s == f.theirs) h.sumsIn with
  | some (s, rest) => ({ h with sumsIn := rest } : HerdSt).tileFound f s
  | none => { h with fetches := h.fetches ++ [f] }

/-- A pair of records is compared (R381); on a mismatch the sums are exchanged. `sums` are this chip's. -/
def HerdSt.compare (h : HerdSt) (l : LinkSt) (cfg : ChipCfg) (mine theirs : LsRec) (sums : List (BitVec 64)) :
    HerdSt × LinkSt :=
  let h1 := { h with compared := h.compared + 1 }
  if mine.sig = theirs.sig then (h1, l)
  else
    let takes := match h.first with | some r => mine.before r | none => true
    (({ h1 with
        mismatch := true
        mismatches := satAdd 16 h.mismatches 1
        first := if takes then some mine else h.first
        firstRemote := if takes then theirs.sig else h.firstRemote
        tile := if takes then none else h.tile
        ob := if h.mismatch then h.ob else (h.ob.line 66).event 3 (fld mine.seg 16 48 + fld mine.core 8 40) mine.step } :
          HerdSt).fetch ⟨mine, sums, theirs.sig⟩,
     l.sendTo cfg 3 (lsPartner h.lsOn) (syncSeg 0x13 0 0 (sums.flatMap fun s => leBytes 8 s.toNat)))

/-- 33 sums of the partner arrive: they belong to the mismatch whose signature they give (R380, R381). -/
def HerdSt.fetched (h : HerdSt) (bs : Bytes) : HerdSt :=
  let sums := (List.range 33).map fun i => BitVec.ofNat 64 (leAt bs (8 * i) 8)
  match takeFirst (fun (f : LsFetch) => coreSig sums == f.theirs) h.fetches with
  | some (f, rest) => ({ h with fetches := rest } : HerdSt).tileFound f sums
  | none => { h with sumsIn := h.sumsIn ++ [sums] }

/-- SUP_HERD_STAT (R393). -/
def HerdSt.herdStat (h : HerdSt) : Nat :=
  fld h.state 2 62 + fld (b2n (decide (10 < h.depth.getD 0))) 1 61 + fld (b2n h.parent.isSome) 1 60 +
  fld (h.parent.getD 0) 5 55 + fld (min 127 (h.depth.getD 0)) 7 48 + tc 32 h.offset

end Sys2Proof.Machine
end

