-- ==== Sys2Proof/Machine/Host.lean ====
section
/-! DEFINITION. The host interface: functions, rings, commands, records, events and MSI-X (R445 to R472). -/

namespace Sys2Proof.Machine

/-- HIF_ERR of a function (R469). -/
structure HifErr where
  bad : Nat
  oor : Nat
  dbIgnored : Nat
  cqDrop : Nat
  deriving DecidableEq, Repr

/-- Nothing counted. -/
def HifErr.zero : HifErr := ⟨0, 0, 0, 0⟩

/-- A ring pair (R453, R472). -/
structure Ring where
  sqBase : BitVec 58
  sqEn : Bool
  cls : Nat
  head : Nat
  cq : Nat               -- function-relative
  sqLog : Nat
  tail : Nat
  cqBase : BitVec 58
  cqEn : Bool
  phase : Bool
  irqEn : Bool
  vector : Nat
  coalesce : Nat
  cqLog : Nat
  cqHead : Nat
  cqTail : Nat
  unsignalled : Nat      -- records written since the latest message (R463)
  deriving DecidableEq, Repr

/-- Reset values of R472. -/
def Ring.reset : Ring :=
  { sqBase := 0, sqEn := false, cls := 0, head := 0, cq := 0, sqLog := 0, tail := 0, cqBase := 0, cqEn := false,
    phase := false, irqEn := false, vector := 0, coalesce := 0, cqLog := 0, cqHead := 0, cqTail := 0, unsignalled := 0 }

/-- Entries of a ring of size code `z`. -/
def ringSize (z : Nat) : Nat := 2 ^ (z + 4)

/-- A command the device has fetched (R455, R458). -/
structure HostCmd where
  id : Nat
  fn : Nat               -- 0 the PF, v a VF
  sq : Nat               -- global ring number
  cid : Nat
  quiet : Bool
  order : Bool
  op : Nat
  w : List Nat           -- W1 to W7
  started : Bool
  waits : Bool           -- performed, completes by a later event
  silent : Bool          -- writes no record (R452)
  deriving DecidableEq, Repr

/-- A completion record to be written (R456). -/
structure Record where
  cq : Nat               -- global ring number of the completion ring
  cid : Nat
  sq : Nat               -- as the record shows it; 0xFFFF for an event
  gsq : Option Nat       -- the SQ whose HEAD it shows
  status : Nat
  detail : Nat
  r0 : Nat
  r1 : Nat
  deriving DecidableEq, Repr

/-- What the device puts on the host bus (R446). -/
inductive HostOut where
  | write (fn addr : Nat) (bs : Bytes)
  | msix (fn vector : Nat)
  deriving DecidableEq, Repr

/-- The host interface. -/
structure HostSt where
  linkUp : Bool                    -- the PCIe link has trained (R567)
  linkFree : Nat                   -- numbers the link's speed, width and FLIT mode, free values (R468)
  perst : Bool                     -- PERST_N low
  vfEnable : Bool
  numVfs : Nat
  vfErr : Nat                      -- VF_CFG_ERR
  bar2Log : Nat                    -- log2 of the sizes the system gave BAR2 (R447)
  vfBar2Log : Nat
  err : Tab HifErr
  bar2Base : BitVec 39
  evtEn : Bool
  evtLost : Nat
  evtCq : Nat
  vfCfg : Tab (Nat × Nat)          -- HIF_VF_CFG: low and high
  rings : Tab Ring
  rr : Tab Nat                     -- by class, the ring fetched last
  paused : Bool                    -- no fetching (R504)
  cmds : List HostCmd              -- fetched and not completed, oldest first
  nextId : Nat
  busyNote : Bool                  -- a command of R355 has just been refused with BUSY, for IMG_LOAD_STAT to show
  records : List Record            -- waiting to be written
  events : List (Nat × Nat × Nat)  -- held events, at most 256
  msix : Tab (BitVec 128)          -- MSI-X tables: 2,048 × function + vector
  msixPend : List Nat
  out : List HostOut
  deriving DecidableEq, Repr

/-- Reset values of R468 to R472; BAR2 sizes as the model takes them (log entry 12). -/
def HostSt.reset : HostSt :=
  { linkUp := false, linkFree := 0, perst := false, vfEnable := false, numVfs := 0, vfErr := 0, bar2Log := 39, vfBar2Log := 36, err := [],
    bar2Base := 0, evtEn := false, evtLost := 0, evtCq := 0, vfCfg := [], rings := [], rr := [], paused := false,
    cmds := [], nextId := 0, busyNote := false, records := [], events := [], msix := [], msixPend := [], out := [] }

/-- Ring `i`. -/
def HostSt.ring (h : HostSt) (i : Nat) : Ring := h.rings.get Ring.reset i
/-- A ring changed by a function. -/
def HostSt.onRing (h : HostSt) (i : Nat) (f : Ring → Ring) : HostSt := { h with rings := h.rings.set i (f (h.ring i)) }
/-- HIF_ERR of a function, changed. -/
def HostSt.onErr (h : HostSt) (fn : Nat) (f : HifErr → HifErr) : HostSt := { h with err := h.err.upd HifErr.zero fn f }
/-- A register access of wrong size or alignment (R13, R465). -/
def HostSt.badAccess (h : HostSt) (fn : Nat) : HostSt := h.onErr fn fun e => { e with bad := satAdd 16 e.bad 1 }
/-- Bytes or accesses out of reach or out of every arena (R465). -/
def HostSt.oor (h : HostSt) (fn n : Nat) : HostSt := h.onErr fn fun e => { e with oor := satAdd 16 e.oor n }
/-- An ignored doorbell (R454). -/
def HostSt.dbIgnored (h : HostSt) (fn : Nat) : HostSt := h.onErr fn fun e => { e with dbIgnored := satAdd 16 e.dbIgnored 1 }

/-- The PCIe link trains, unless PERST_N is low (R567); the system then gives BAR2 of the PF and of the VFs a size that
R447 allows it, two free values (log entry 12). -/
def HostSt.train (h : HostSt) (free : Nat) : HostSt :=
  if h.perst then h
  else { h with linkUp := true, linkFree := free, bar2Log := 30 + Config.freeNat (free + 2) % 10, vfBar2Log := 30 + Config.freeNat (free + 3) % 7 }

/-! ### Functions and partitions (R448 to R451) -/

/-- PART_BASE and PART_SIZE of a VF, in bytes. -/
def HostSt.part (h : HostSt) (v : Nat) : Nat × Nat :=
  let lo := (Tab.get (0, 0) h.vfCfg v).1
  (bits lo 8 0 * 2 ^ 30, bits lo 41 32 * 2 ^ 30)
/-- RING_BASE and RING_COUNT of a VF. -/
def HostSt.vfRings (h : HostSt) (v : Nat) : Nat × Nat :=
  let hi := (Tab.get (0, 0) h.vfCfg v).2
  (bits hi 63 50, bits hi 49 40)
/-- A VF is enabled and not marked unusable. -/
def HostSt.usable (h : HostSt) (v : Nat) : Bool :=
  h.vfEnable && decide (1 ≤ v) && decide (v ≤ h.numVfs) && !bit h.vfErr (v - 1)
/-- The usable VFs. -/
def HostSt.vfs (h : HostSt) : List Nat := ((List.range 15).map (· + 1)).filter h.usable

/-- The function that owns a global ring (R450). -/
def HostSt.owner (h : HostSt) (g : Nat) : Nat :=
  (h.vfs.find? fun v => decide ((h.vfRings v).1 ≤ g) && decide (g < (h.vfRings v).1 + (h.vfRings v).2)).getD 0

/-- The global number of a function's ring, none when it is not the function's. -/
def HostSt.global (h : HostSt) (fn j : Nat) : Option Nat :=
  if fn = 0 then (if j < 16384 ∧ h.owner j = 0 then some j else none)
  else if h.usable fn ∧ j < (h.vfRings fn).2 ∧ (h.vfRings fn).1 + j < 16384 then some ((h.vfRings fn).1 + j) else none

/-- A ring's number as its function sees it. -/
def HostSt.relative (h : HostSt) (g : Nat) : Nat :=
  let v := h.owner g
  if v = 0 then g else g - (h.vfRings v).1

/-- Whether a device range lies in a function's device range (R451, R461). -/
def HostSt.inReach (h : HostSt) (fn a n : Nat) : Bool :=
  decide (a + n ≤ 2 ^ 39) &&
  (if fn = 0 then h.vfs.all fun v => decide (a + n ≤ (h.part v).1) || decide ((h.part v).1 + (h.part v).2 ≤ a) || n == 0
   else h.usable fn && decide ((h.part fn).1 ≤ a) && decide (a + n ≤ (h.part fn).1 + (h.part fn).2))

/-- Whether a token of a VF goes to a granted core and pail (R461, R471). -/
def HostSt.granted (h : HostSt) (fn core pail : Nat) : Bool :=
  if fn = 0 then true
  else
    let hi := (Tab.get (0, 0) h.vfCfg fn).2
    decide (bits hi 39 32 ≤ core) && decide (core < bits hi 39 32 + bits hi 31 24) &&
    decide (bits hi 21 11 ≤ pail) && decide (pail < bits hi 21 11 + bits hi 10 0)

/-- VF_ENABLE set (R450): every enabled VF is checked against the lower-numbered ones. -/
def HostSt.enableVfs (h : HostSt) (n : Nat) : HostSt :=
  let vs := (List.range (min n 15)).map (· + 1)
  let touch := fun (a b : Nat × Nat) => decide (a.1 < b.1 + b.2) && decide (b.1 < a.1 + a.2) && a.2 != 0 && b.2 != 0
  let bad := vs.filter fun v =>
    let p := h.part v
    let r := h.vfRings v
    r.2 == 0 || decide (2 ^ 39 < p.1 + p.2) ||
    (vs.filter (· < v)).any fun u => touch p (h.part u) || touch r (h.vfRings u)
  { h with vfEnable := true, numVfs := min n 15, vfErr := (bad.map fun v => 2 ^ (v - 1)).sum }

/-! ### Messages (R463, R485) -/

/-- An entry of the MSI-X tables: address, data, and the mask bit at bit 96, which PCIe resets to 1 (log entry 18). -/
def HostSt.msixEntry (h : HostSt) (k : Nat) : BitVec 128 := h.msix.get (BitVec.ofNat 128 (2 ^ 96)) k

/-- An MSI-X message leaves, or stays pending while its vector is masked. -/
def HostSt.signal (h : HostSt) (fn vec : Nat) : HostSt :=
  let k := 2048 * fn + vec
  if (h.msixEntry k).getLsbD 96 then
    { h with msixPend := if h.msixPend.contains k then h.msixPend else h.msixPend ++ [k] }
  else { h with out := h.out ++ [.msix fn vec] }

/-- A CQ signals its vector for the records written so far (R463). -/
def HostSt.signalCq (h : HostSt) (g : Nat) : HostSt :=
  let r := h.ring g
  let h1 := h.onRing g fun r => { r with unsignalled := 0 }
  if r.irqEn then h1.signal (h.owner g) r.vector else h1

/-- MSIX_COALESCE_TIMEOUT (R463). -/
def HostSt.coalesceTimeout (h : HostSt) (g : Nat) : HostSt :=
  if 0 < (h.ring g).unsignalled then h.signalCq g else h

/-- A table entry written; unmasking sends what is pending. -/
def HostSt.writeMsix (h : HostSt) (fn off : Nat) (v : Nat) : HostSt :=
  let k := 2048 * fn + off / 16
  let old := (h.msixEntry k).toNat
  let new := if off % 16 < 8 then old / 2 ^ 64 * 2 ^ 64 + v else v % 2 ^ 33 * 2 ^ 64 + old % 2 ^ 64
  let h1 := { h with msix := h.msix.set k (BitVec.ofNat 128 new) }
  if h1.msixPend.contains k ∧ !bit new 96 then
    { h1 with msixPend := h1.msixPend.filter (· != k) }.signal fn (off / 16)
  else h1

/-! ### Records (R456, R457, R462) -/

/-- Whether a CQ is full. -/
def Ring.cqFull (r : Ring) : Bool := (r.cqTail + 1) % ringSize r.cqLog == r.cqHead

/-- The bytes of a record. -/
def HostSt.recordBytes (h : HostSt) (x : Record) (phase : Bool) : Bytes :=
  leBytes 2 x.cid ++ leBytes 2 x.sq ++ leBytes 2 (match x.gsq with | some g => (h.ring g).head | none => 0) ++
  leBytes 1 x.status ++ leBytes 1 (b2n phase) ++ leBytes 1 x.detail ++ fillBytes 7 0 ++ leBytes 8 x.r0 ++ leBytes 8 x.r1

/-- A record is written at TAIL of an enabled CQ that is not full (R456, R463). -/
def HostSt.put (h : HostSt) (x : Record) : HostSt :=
  let r := h.ring x.cq
  let t := (r.cqTail + 1) % ringSize r.cqLog
  let h1 := { h with out := h.out ++ [HostOut.write (h.owner x.cq) (r.cqBase.toNat * 64 + 32 * r.cqTail) (h.recordBytes x r.phase)] }
  let h2 := h1.onRing x.cq fun r => { r with
    cqTail := t
    phase := if t = 0 then !r.phase else r.phase
    unsignalled := r.unsignalled + 1 }
  if r.irqEn ∧ r.coalesce + 1 ≤ (h2.ring x.cq).unsignalled then h2.signalCq x.cq else h2

/-- COMPLETION_RECORD_WRITE (R456, R457): the first waiting record whose CQ has room is written; one whose CQ is not
enabled is dropped. -/
def HostSt.writeRecord (h : HostSt) : HostSt :=
  match takeFirst (fun (x : Record) => !(h.ring x.cq).cqEn || !(h.ring x.cq).cqFull) h.records with
  | none => h
  | some (x, rest) =>
    let h1 := { h with records := rest }
    if (h.ring x.cq).cqEn then h1.put x
    else h1.onErr (h.owner x.cq) fun e => { e with cqDrop := satAdd 16 e.cqDrop 1 }

/-- An event is held, or dropped when 256 are held (R462). -/
def HostSt.hold (h : HostSt) (e : Nat × Nat × Nat) : HostSt :=
  if 256 ≤ h.events.length then { h with evtLost := satAdd 16 h.evtLost 1 } else { h with events := h.events ++ [e] }

/-- The oldest held event is written, if events are reported and their ring has room (R462). -/
def HostSt.writeEvent (h : HostSt) : HostSt :=
  match h.events with
  | [] => h
  | e :: t =>
    if h.evtEn ∧ (h.ring h.evtCq).cqEn ∧ !(h.ring h.evtCq).cqFull then
      { h with events := t }.put ⟨h.evtCq, e.1, 0xFFFF, none, 0, 0, e.2.1, e.2.2⟩
    else h

/-! ### Rings and doorbells (R453, R454) -/

/-- SQ_TAIL_DOORBELL. -/
def HostSt.sqDoorbell (h : HostSt) (fn j v : Nat) : HostSt :=
  match h.global fn j with
  | none => h.dbIgnored fn
  | some g =>
    let r := h.ring g
    if !r.sqEn ∨ ringSize r.sqLog ≤ v % 65536 then h.dbIgnored fn
    else h.onRing g fun r => { r with tail := v % 65536 }

/-- CQ_HEAD_DOORBELL. -/
def HostSt.cqDoorbell (h : HostSt) (fn j v : Nat) : HostSt :=
  match h.global fn j with
  | none => h.dbIgnored fn
  | some g =>
    let r := h.ring g
    if !r.cqEn ∨ ringSize r.cqLog ≤ v % 65536 then h.dbIgnored fn
    else h.onRing g fun r => { r with cqHead := v % 65536 }

/-- A size code, unchanged when above 12 (R472). -/
def sizeCode (old z : Nat) : Nat := if 12 < z then old else z

/-- A write of HIF_SQ_CFG of ring `g` (R453, R472). -/
def HostSt.writeSqCfg (h : HostSt) (fn g v : Nat) : HostSt :=
  let r := h.ring g
  if (h.global fn (bits v 33 20)).isNone then h
  else if r.sqEn then (if bit v 63 then h else h.onRing g fun r => { r with sqEn := false })
  else h.onRing g fun r => { r with
    cls := bits v 62 61
    cq := bits v 33 20
    sqLog := sizeCode r.sqLog (bits v 19 16)
    sqEn := bit v 63
    head := if bit v 63 then 0 else r.head
    tail := if bit v 63 then 0 else r.tail }

/-- A write of HIF_CQ_CFG of ring `g` (R453, R472). -/
def HostSt.writeCqCfg (h : HostSt) (fn g v : Nat) : HostSt :=
  let r := h.ring g
  if (if fn = 0 then 2048 else 64) ≤ bits v 60 50 then h
  else if r.cqEn then (if bit v 63 then h else h.onRing g fun r => { r with cqEn := false })
  else h.onRing g fun r => { r with
    irqEn := bit v 61
    vector := bits v 60 50
    coalesce := bits v 49 42
    cqLog := sizeCode r.cqLog (bits v 35 32)
    cqEn := bit v 63
    cqHead := if bit v 63 then 0 else r.cqHead
    cqTail := if bit v 63 then 0 else r.cqTail
    phase := if bit v 63 then true else r.phase
    unsignalled := if bit v 63 then 0 else r.unsignalled }

/-- SQ ENABLE alone set or cleared, the other fields as they stand. -/
def HostSt.sqEnable (h : HostSt) (fn g : Nat) (on : Bool) : HostSt :=
  let r := h.ring g
  h.writeSqCfg fn g (fld (b2n on) 1 63 + fld r.cls 2 61 + fld r.cq 14 20 + fld r.sqLog 4 16)

/-- CQ ENABLE alone set or cleared, the other fields as they stand. -/
def HostSt.cqEnable (h : HostSt) (fn g : Nat) (on : Bool) : HostSt :=
  let r := h.ring g
  h.writeCqCfg fn g (fld (b2n on) 1 63 + fld (b2n r.irqEn) 1 61 + fld r.vector 11 50 + fld r.coalesce 8 42 + fld r.cqLog 4 32)

/-! ### Commands (R455, R458 to R461) -/

/-- What the checks of a command see of the module. -/
structure HostEnv where
  power : Nat
  busy : Bool            -- a transition to P2, P3 or P4 is in progress
  active : Bool          -- an image is active
  cores : List Nat       -- the logical cores that are there (R35)

/-- Opcodes of R459. -/
def hostOps : List Nat :=
  [0, 1, 2, 3, 4, 5, 6, 0x10, 0x11, 0x12, 0x13, 0x14, 0x15, 0x16, 0x17, 0x18, 0x20, 0x21, 0x22]

/-- Image commands (R455). -/
def imageOp (op : Nat) : Bool := decide (0x10 ≤ op) && decide (op ≤ 0x18)

/-- Loads, starts, arms and disarms: IMG_LOAD_STAT shows their codes (R355). -/
def loadStatOp (op : Nat) : Bool := decide (0x10 ≤ op) && decide (op ≤ 0x14)

/-- The bits an opcode uses in W1 to W7 (R459). -/
def usedBits (op : Nat) : List Nat :=
  match op with
  | 1 => [2 ^ 64 - 1, 2 ^ 40 - 1, 2 ^ 32 - 1, 2 ^ 63 + 2 ^ 19 - 1]
  | 2 => [2 ^ 64 - 1, 2 ^ 40 - 1, 2 ^ 32 - 1]
  | 3 => [2 ^ 64 - 2 ^ 48 + 2 ^ 19 - 1]
  | 4 => [2 ^ 64 - 1, 2 ^ 15 - 1]
  | 5 => [2 ^ 40 - 1, 2 ^ 64 - 1, 2 ^ 64 - 1, 2 ^ 64 - 2 ^ 32 + 0xF3]
  | 0x10 => [2 ^ 64 - 1, 2 ^ 64 - 1]
  | 0x11 | 0x18 => [63]
  | 0x12 => [3, 2 ^ 64 - 1]
  | 0x13 => [2 ^ 64 - 2 ^ 32 + 255]
  | 0x17 => [2 ^ 64 - 1, 2 ^ 64 - 1, 63]
  | 0x20 => [7]
  | 0x21 => [2 ^ 63 + 65535]
  | _ => []

/-- Word `i` of a command, W1 being the first. -/
def HostCmd.word (c : HostCmd) (i : Nat) : Nat := nth c.w (i - 1) 0

/-- A command's core and pail, when it names a token (R459). -/
def HostCmd.token (c : HostCmd) : Option (Nat × Nat) :=
  match c.op with
  | 1 => if bit (c.word 4) 63 then some (bits (c.word 4) 18 11, bits (c.word 4) 10 0) else none
  | 3 => some (bits (c.word 1) 18 11, bits (c.word 1) 10 0)
  | _ => none

/-- Bytes of one element of a draw form (R376). -/
def drawSize (form : Nat) : Nat := if form = 0 then 8 else if form = 1 then 4 else 2

/-- A command's device range. -/
def HostCmd.range (c : HostCmd) : Option (Nat × Nat) :=
  match c.op with
  | 1 | 2 => some (c.word 2, c.word 3)
  | 5 => some (c.word 1, bits (c.word 4) 63 32 * drawSize (bits (c.word 4) 1 0))
  | _ => none

/-- Operands outside the values R459 lists (log entry 13). -/
def HostCmd.badValue (c : HostCmd) : Bool :=
  match c.op with
  | 1 | 2 => c.word 3 == 0
  | 3 => bits (c.word 1) 63 48 == 0 || decide (16 < bits (c.word 1) 63 48)
  | 5 => bits (c.word 4) 1 0 == 3
  | 0x12 => c.word 1 == 3
  | 0x20 => decide (4 < c.word 1)
  | _ => false

/-- The function may not send the command, or not to that core and pail (R461). -/
def HostSt.notPermitted (h : HostSt) (c : HostCmd) : Bool :=
  (c.fn != 0 && (!([0, 1, 2, 3, 5, 6].contains c.op) || !h.usable c.fn)) ||
  (match c.token with
   | some t => !h.granted c.fn t.1 t.2
   | none => false)

/-- A range, core or value the command may not name (R461). -/
def HostSt.outOfRange (h : HostSt) (env : HostEnv) (c : HostCmd) : Bool :=
  (match c.range with
   | some r => !h.inReach c.fn r.1 r.2
   | none => false) ||
  (match c.token with
   | some t => !env.cores.contains t.1
   | none => false) ||
  (c.op == 4 && !env.cores.contains (bits (c.word 2) 7 0)) || c.badValue

/-- STATUS by the checks of R461 in their order: opcode, function, state, range; 0 when all pass. -/
def HostSt.judge (h : HostSt) (env : HostEnv) (c : HostCmd) : Nat :=
  let used := usedBits c.op
  let unused := (List.range 7).any fun i => (nth c.w i 0) &&& (2 ^ 64 - 1 - nth used i 0) != 0
  if !hostOps.contains c.op || unused then 2
  else if h.notPermitted c then 3
  else if env.busy || (decide (2 ≤ env.power) && !([0, 6, 0x20].contains c.op)) || (c.op == 5 && !env.active) then 6
  else if h.outOfRange env c then 4
  else 0

/-- A command completes: it leaves, and its record waits unless it is QUIET with OK or silent (R456). -/
def HostSt.complete (h : HostSt) (id status detail r0 r1 : Nat) : HostSt :=
  match takeFirst (fun (c : HostCmd) => c.id == id) h.cmds with
  | none => h
  | some (c, rest) =>
    let h1 := { h with cmds := rest }
    if c.silent ∨ (c.quiet ∧ status = 0) then h1
    else match h.global (h.owner c.sq) (h.ring c.sq).cq with
      | some q => { h1 with records := h1.records ++ [⟨q, c.cid, h.relative c.sq, some c.sq, status, detail, r0, r1⟩] }
      | none => h1

/-- Whether a fetched command may start: its SQ's earlier commands have started, and completed if it has ORDER set
(R455). -/
def HostSt.mayStart (h : HostSt) (c : HostCmd) : Bool :=
  h.cmds.all fun d => d.sq != c.sq || decide (c.id ≤ d.id) || (d.started && !c.order)

/-- Whether a command meets another image command that executes: it is refused with BUSY (R455). -/
def HostSt.meetsImage (h : HostSt) (c : HostCmd) : Bool :=
  imageOp c.op && h.cmds.any fun d => d.id != c.id && d.started && imageOp d.op

/-- One command starts, if it may: judged, and completed at once when it fails or meets another image command. -/
def HostSt.startOne (h : HostSt) (env : HostEnv) (c : HostCmd) : HostSt :=
  if c.started ∨ !h.mayStart c then h
  else
    let h1 := { h with cmds := h.cmds.map fun d => if d.id = c.id then { d with started := true } else d }
    let st := h.judge env c
    if st ≠ 0 then h1.complete c.id st 0 0 0
    else if h.meetsImage c then
      { h1.complete c.id 1 0x16 (if c.op = 0x10 ∨ c.op = 0x11 then fld 0x16 8 56 + fld 0xFFF 12 44 else 0) 0 with
        busyNote := h.busyNote || loadStatOp c.op }
    else h1

/-- Every fetched command that may start does. -/
def HostSt.startAll (h : HostSt) (env : HostEnv) : HostSt := h.cmds.foldl (fun (h : HostSt) c => h.startOne env c) h

/-- A ring the device may fetch from (R455, R457, R504): no record for its full CQ waits. -/
def HostSt.fetchable (h : HostSt) (g : Nat) : Bool :=
  let r := h.ring g
  r.sqEn && r.head != r.tail && !h.paused && decide (h.cmds.length < 64) &&
  !(h.records.any fun x => some x.cq == h.global (h.owner g) r.cq && (h.ring x.cq).cqEn && (h.ring x.cq).cqFull)

/-- The SQ to fetch from: highest CLASS, then round-robin in ring-number order (R455). -/
def HostSt.nextSq (h : HostSt) : Option Nat :=
  let live := (h.rings.map (·.1)).filter h.fetchable
  let top := (live.map fun g => (h.ring g).cls).foldl max 0
  let mine := live.filter fun g => (h.ring g).cls == top
  let last := h.rr.get 16384 top
  match mine.find? (last < ·) with
  | some g => if last = 16384 then mine.head? else some g
  | none => mine.head?

/-- SQ_FETCH (R455, R458): the entry read from the host joins the fetched commands; it completes at once when its
reserved bits are set, otherwise it starts when it may. -/
def HostSt.fetch (h : HostSt) (env : HostEnv) (entry : Bytes) : HostSt :=
  match h.nextSq with
  | none => h
  | some g =>
    let r := h.ring g
    let w0 := leAt entry 0 8
    let c : HostCmd :=
      { id := h.nextId, fn := h.owner g, sq := g, cid := bits w0 31 16, quiet := bit w0 9, order := bit w0 8, op := bits w0 7 0,
        w := (List.range 7).map fun i => leAt entry (8 + 8 * i) 8, started := false, waits := false, silent := false }
    let h1 := { h.onRing g fun r => { r with head := (r.head + 1) % ringSize r.sqLog } with
      nextId := h.nextId + 1
      rr := h.rr.set r.cls g
      cmds := h.cmds ++ [c] }
    if bits w0 63 32 ≠ 0 ∨ bits w0 15 10 ≠ 0 then h1.complete c.id 2 0 0 0 else h1.startAll env

/-- The started command of an opcode and number that has not been performed. -/
def HostSt.ready (h : HostSt) (op id : Nat) : Option HostCmd :=
  h.cmds.find? fun c => c.id == id && c.op == op && c.started && !c.waits

/-- A performed command waits for the event that completes it. -/
def HostSt.wait (h : HostSt) (id : Nat) : HostSt :=
  { h with cmds := h.cmds.map fun c => if c.id = id then { c with waits := true } else c }

/-- A performed command, of an opcode and number, that waits. -/
def HostSt.held (h : HostSt) (op id : Nat) : Option HostCmd :=
  h.cmds.find? fun c => c.id == id && c.op == op && c.waits

/-- The first performed command of an opcode that waits. -/
def HostSt.waiting (h : HostSt) (op : Nat) : Option HostCmd := h.cmds.find? fun c => c.op == op && c.waits

/-! ### Resets (R452, R568) -/

/-- A function's rings, commands and registers are reset (R452). -/
def HostSt.flrOne (h : HostSt) (fn : Nat) : HostSt :=
  let mine := (h.rings.map (·.1)).filter fun g => h.owner g == fn
  { h with
    rings := mine.foldl (fun (t : Tab Ring) g => t.del g) h.rings
    cmds := (h.cmds.filter fun c => c.fn != fn || c.started).map fun c => if c.fn = fn then { c with silent := true } else c
    records := h.records.filter fun x => h.owner x.cq != fn
    err := h.err.del fn
    msix := h.msix.filter fun p => p.1 / 2048 != fn
    msixPend := h.msixPend.filter fun k => k / 2048 != fn }

/-- FUNCTION_LEVEL_RESET: of a VF, or of the PF with every function and the whole block. -/
def HostSt.flr (h : HostSt) (fn : Nat) : HostSt :=
  if fn = 0 then
    let h1 := (List.range 16).foldl (fun (h : HostSt) v => h.flrOne v) h
    { HostSt.reset with
      linkUp := h1.linkUp, linkFree := h1.linkFree, perst := h1.perst, bar2Log := h1.bar2Log, vfBar2Log := h1.vfBar2Log, cmds := h1.cmds,
      nextId := h1.nextId, out := h1.out, paused := h1.paused }
  else h.flrOne fn

end Sys2Proof.Machine
end

