-- ==== Sys2Proof/Machine/Icu.lean ====
section
/-! DEFINITION. The interrupt controller, the control cores as far as interrupts, LADLE and debug reach them, and the
stewards (R473, R477 to R500). -/

namespace Sys2Proof.Machine

/-- One source (R495, R496). -/
structure IcuSrc where
  hostVec : BitVec 11
  target : BitVec 20
  filter : BitVec 8
  level : Bool             -- SENSE: LEVEL
  hostEn : Bool
  prio : BitVec 5
  coalesced : Nat
  grantPri : Nat
  owner : Nat
  active : Bool
  pending : Bool
  latched : Bool           -- its wake latch
  filtered : Bool
  line : Bool
  deriving DecidableEq, Repr

/-- A data-class source (R483). -/
def srcData (n : Nat) : Bool :=
  (decide (128 ≤ n) && decide (n < 512)) || (decide (768 ≤ n) && decide (n < 800)) || (decide (832 ≤ n) && decide (n < 960))

/-- A source that exists and is no data source. -/
def srcMgmt (n : Nat) : Bool :=
  (decide (1 ≤ n) && decide (n ≤ 49)) || (decide (65 ≤ n) && decide (n ≤ 70)) || (decide (72 ≤ n) && decide (n < 88)) ||
  (decide (512 ≤ n) && decide (n < 768)) || (decide (800 ≤ n) && decide (n < 832))

/-- A source with a wake latch. -/
def srcWake (n : Nat) : Bool := decide (1 ≤ n) && decide (n ≤ 49)

/-- Reset PRIORITY and TARGET of a source (R483). `cpq` is CORES_PER_QUADRANT. -/
def srcDefault (cpq n : Nat) : Nat × Nat :=
  let bitT := fun (b : Nat) => 2 ^ b
  if n ≤ 8 ∧ 1 ≤ n then (24, 1)
  else if 9 ≤ n ∧ n < 17 then (24, bitT (4 + 2 * (n - 9)))
  else if 17 ≤ n ∧ n < 49 then (24, bitT (4 + 2 * ((n - 17) / 4)))
  else if n = 49 then (24, 1)
  else if 65 ≤ n ∧ n < 70 then (16, bitT 2)
  else if n = 70 then (16, 1)
  else if 72 ≤ n ∧ n < 80 then (16, bitT (4 + 2 * (n - 72)))
  else if 80 ≤ n ∧ n < 88 then (16, 1)
  else if 128 ≤ n ∧ n < 256 then (8, bitT (4 + 2 * min 7 ((n - 128) / max 1 cpq)))
  else if 256 ≤ n ∧ n < 512 then (8, bitT (4 + 2 * ((n - 256) / 32)))
  else if 512 ≤ n ∧ n < 768 then (16, bitT (5 + 2 * ((n - 512) / 32)))
  else if 768 ≤ n ∧ n < 800 then (8, bitT (4 + 2 * ((n - 768) / 4)))
  else if 800 ≤ n ∧ n < 832 then (16, bitT (5 + 2 * ((n - 800) / 4)))
  else if 832 ≤ n ∧ n < 960 then (8, bitT (4 + 2 * min 7 ((n - 832) / max 1 cpq)))
  else (0, 0)

/-- A source at reset (R483, R495, R496). -/
def IcuSrc.reset (cpq n : Nat) : IcuSrc :=
  let (p, t) := srcDefault cpq n
  { hostVec := 0, target := BitVec.ofNat 20 t, filter := 4, level := false, hostEn := false, prio := BitVec.ofNat 5 p,
    coalesced := 0, grantPri := 0, owner := 0, active := false, pending := false, latched := false, filtered := false,
    line := false }

/-- A control core (R473, R477, R490, R497, R499). -/
structure CtlCore where
  state : Nat              -- 0 RESET, 1 RUN, 2 WFI, 3 DEBUG_HALT, 4 STOPPED
  machine : Bool           -- PRIV
  fetched : BitVec 32
  wrongPath : BitVec 32
  vectored : BitVec 32     -- ICU_CORE_CFG
  threshold : BitVec 5
  vbase : BitVec 48
  pc : BitVec 64
  meie : Bool              -- external-interrupt enable of machine mode (R488; log entry 9)
  mppM : Bool              -- the mode before the trap was machine mode
  seie : Bool              -- external-interrupt enable of supervisor mode
  sppS : Bool              -- the mode before the supervisor trap was supervisor mode
  deleg : Bool             -- mideleg delegates the external interrupt
  mepc : BitVec 64
  mcause : BitVec 64
  mtval : BitVec 64
  sepc : BitVec 64
  scause : BitVec 64
  stval : BitVec 64
  mtvec : BitVec 64        -- where exceptions go
  ladleCnt : BitVec 64     -- JLADLE_CNT, JLADLE_DONE
  ladleDone : BitVec 64
  jicuSrc : BitVec 10      -- JICU_SRC
  deriving DecidableEq, Repr

/-- A control core at reset (R477, R497, R499; the rest log entry 9). -/
def CtlCore.reset : CtlCore :=
  { state := 0, machine := true, fetched := 0, wrongPath := 0, vectored := 0, threshold := 0, vbase := 0, pc := 0, meie := false,
    mppM := true, seie := false, sppS := false, deleg := false, mepc := 0, mcause := 0,
    mtval := 0, sepc := 0, scause := 0, stval := 0, mtvec := 0, ladleCnt := 0, ladleDone := 0, jicuSrc := 0 }

/-- The steward of a quadrant (R481, R482, R500). -/
structure Steward where
  ready : Bool
  logged : BitVec 32
  diag : List Nat                       -- diagnoses that await MAP_EXTEND, each as the entry it would take
  log : List (Nat × Nat)                -- event records: source, cause; newest last (log entry 14)
  tokens : List (Nat × Nat)             -- STW_TOKEN writes not yet delivered: core, pail
  deriving DecidableEq, Repr

/-- A steward at reset (R500). -/
def Steward.reset : Steward := ⟨false, 0, [], [], []⟩

/-- Interrupt controller, control cores and stewards. -/
structure IcuSt where
  cpq : Nat                             -- CORES_PER_QUADRANT, which sets the reset targets
  srcs : Tab IcuSrc
  cores : Tab CtlCore
  spurious : Nat
  badComplete : Nat
  stewards : Tab Steward
  fwSram : Tab Mem                      -- firmware SRAM by cluster: 0 supervisor, 1 + q steward (R474)
  dataSram : Tab Mem                    -- data SRAM by control core
  lostCores : List Nat                  -- control cores that have failed (R523)
  msi : List Nat                        -- host vectors to signal (R485)
  deriving DecidableEq, Repr

/-- Reset (R495 to R500). -/
def IcuSt.reset (cpq : Nat) : IcuSt :=
  { cpq := cpq, srcs := [], cores := [], spurious := 0, badComplete := 0, stewards := [], fwSram := [], dataSram := [],
    lostCores := [], msi := [] }

/-- The control core that a number names: core 1 is the other half of the lockstep pair 0 (R473, R497). -/
def pairCore (c : Nat) : Nat := if c = 1 then 0 else c
/-- Source `n`. -/
def IcuSt.src (i : IcuSt) (n : Nat) : IcuSrc := i.srcs.get (IcuSrc.reset i.cpq n) n
/-- A source replaced. -/
def IcuSt.setSrc (i : IcuSt) (n : Nat) (s : IcuSrc) : IcuSt := { i with srcs := i.srcs.set n s }
/-- Control core `c`. -/
def IcuSt.core (i : IcuSt) (c : Nat) : CtlCore := i.cores.get CtlCore.reset (pairCore c)
/-- A control core changed. -/
def IcuSt.onCore (i : IcuSt) (c : Nat) (f : CtlCore → CtlCore) : IcuSt :=
  { i with cores := i.cores.set (pairCore c) (f (i.core c)) }
/-- Steward of quadrant `q`. -/
def IcuSt.steward (i : IcuSt) (q : Nat) : Steward := i.stewards.get Steward.reset q
/-- A steward changed. -/
def IcuSt.onSteward (i : IcuSt) (q : Nat) (f : Steward → Steward) : IcuSt :=
  { i with stewards := i.stewards.set q (f (i.steward q)) }

/-! ### Sensing (R486, R487, R493) -/

/-- A source becomes pending (R485, R493). -/
def IcuSt.pend (i : IcuSt) (n : Nat) : IcuSt :=
  let s := i.src n
  if s.pending then i.setSrc n { s with coalesced := if srcData n then satAdd 16 s.coalesced 1 else s.coalesced }
  else
    let i1 := i.setSrc n { s with pending := true }
    if s.hostEn then { i1 with msi := i1.msi ++ [s.hostVec.toNat] } else i1

/-- The sensed value of a source (R486). -/
def IcuSrc.sensed (s : IcuSrc) : Bool := if s.level then s.line else s.filtered

/-- The sensed value rises: pending, but for a management source that is ACTIVE (R493). -/
def IcuSt.rise (i : IcuSt) (n : Nat) : IcuSt := if !srcData n ∧ (i.src n).active then i else i.pend n

/-- The sensed value falls: a management source not yet taken is no longer pending (R486). -/
def IcuSt.fall (i : IcuSt) (n : Nat) : IcuSt := if srcData n then i else i.setSrc n { i.src n with pending := false }

/-- LINE_RISE: the synchronised line of a source goes high; while the service clock is stopped its wake latch catches
the edge instead (R483, R487). -/
def IcuSt.lineRise (i : IcuSt) (clock : Bool) (n : Nat) : IcuSt :=
  let s := i.src n
  if !clock then (if srcWake n then i.setSrc n { s with latched := true } else i)
  else if s.line then i
  else
    let i1 := i.setSrc n { s with line := true }
    if s.level then i1.rise n else i1

/-- LINE_FALL (R486). -/
def IcuSt.lineFall (i : IcuSt) (n : Nat) : IcuSt :=
  let s := i.src n
  if !s.line then i
  else
    let i1 := i.setSrc n { s with line := false }
    if s.level then i1.fall n else i1

/-- FILTER_ACCEPT: the filtered value takes the line's, which it has held for FILTER cycles (R486). -/
def IcuSt.filterAccept (i : IcuSt) (n : Nat) : IcuSt :=
  let s := i.src n
  if s.filtered = s.line then i
  else
    let i1 := i.setSrc n { s with filtered := s.line }
    if s.level then i1 else if s.line then i1.rise n else i1.fall n

/-- WAKE_LATCH: every set latch makes its source pending and clears (R487). -/
def IcuSt.wakeLatch (i : IcuSt) : IcuSt :=
  (i.srcs.filter (·.2.latched)).foldl (fun (i : IcuSt) p =>
    (i.setSrc p.1 { i.src p.1 with latched := false }).pend p.1) i

/-! ### Offers (R484, R488, R489) -/

/-- Running priority of a core (R488). -/
def IcuSt.running (i : IcuSt) (c : Nat) : Nat :=
  (i.srcs.filter fun p => p.2.active && p.2.owner == c).foldl (fun m p => max m p.2.grantPri) (i.core c).threshold.toNat

/-- Whether a core is eligible for a priority (R488). -/
def IcuSt.eligible (i : IcuSt) (c p : Nat) : Bool :=
  let k := i.core c
  decide (i.running c < p) && decide (p ≠ 0) && (if k.machine then k.meie else k.seie) && !i.lostCores.contains c

/-- The control cores a mask names; bit 1 is ignored (R484). -/
def maskCores (m : BitVec 20) : List Nat := (List.range 20).filter fun c => c != 1 && m.getLsbD c

/-- The core a pending source is offered to (R489). -/
def IcuSt.offeredTo (i : IcuSt) (n : Nat) : Option Nat :=
  let s := i.src n
  if !s.pending || s.active then none
  else
    let cs := (maskCores s.target).filter fun c => i.eligible c s.prio.toNat
    cs.foldl (fun (b : Option Nat) c => match b with
      | none => some c
      | some d => if i.running c < i.running d then some c else b) none

/-- The source offered to a core: highest PRIORITY, then lowest number (R489). -/
def IcuSt.offer (i : IcuSt) (c : Nat) : Option Nat :=
  (i.srcs.map (·.1)).foldl (fun (b : Option Nat) n =>
    if i.offeredTo n = some c then
      match b with
      | none => some n
      | some m => if (i.src m).prio.toNat < (i.src n).prio.toNat then some n else b
    else b) none

/-- Whether a source is the one offered to its core (R489, R496). -/
def IcuSt.isOffered (i : IcuSt) (n : Nat) : Bool :=
  match i.offeredTo n with
  | some c => i.offer c == some n
  | none => false

/-! ### Takes, claims, completions (R490 to R492) -/

/-- A source becomes ACTIVE on a core. -/
def IcuSt.activate (i : IcuSt) (c n : Nat) : IcuSt :=
  let s := i.src n
  i.setSrc n { s with active := true, pending := false, owner := c, grantPri := s.prio.toNat }

/-- An external interrupt is taken by a core at an address: supervisor mode when it runs below machine mode and the
interrupt is delegated (R490). -/
def CtlCore.trapTo (k : CtlCore) (at_ : BitVec 64) : CtlCore :=
  if k.deleg ∧ !k.machine then
    { k with sepc := k.pc, scause := BitVec.ofNat 64 (2 ^ 63 + 9), sppS := true, pc := at_, state := 1 }
  else
    { k with mepc := k.pc, mcause := BitVec.ofNat 64 (2 ^ 63 + 11), mppM := k.machine,
             machine := true, pc := at_, state := 1 }

/-- An exception of an instruction: machine mode at mtvec, with the standard's cause code (R478; log entry 9). -/
def CtlCore.exception (k : CtlCore) (cause tval : Nat) : CtlCore :=
  { k with mepc := k.pc, mcause := BitVec.ofNat 64 cause, mtval := BitVec.ofNat 64 tval, mppM := k.machine, machine := true,
           pc := k.mtvec }

/-- INTERRUPT_TAKE (R490). -/
def IcuSt.take (i : IcuSt) (core : Nat) : IcuSt :=
  let c := pairCore core
  let k := i.core c
  if k.state ≠ 1 ∧ k.state ≠ 2 then i
  else match i.offer c with
    | none => i
    | some n =>
      let l := (i.src n).prio.toNat
      if k.vectored.getLsbD l then
        (i.activate c n).onCore c fun k => { k.trapTo (BitVec.ofNat 64 (k.vbase.toNat + 8 * l)) with jicuSrc := BitVec.ofNat 10 n }
      else i.onCore c fun k => k.trapTo (BitVec.ofNat 64 k.vbase.toNat)

/-- ICU_CORE_CLAIM by a control core: the state after, and the value read (R491). -/
def IcuSt.claim (i : IcuSt) (core : Nat) : IcuSt × Nat :=
  match i.offer (pairCore core) with
  | some n => (i.activate (pairCore core) n, n)
  | none => ({ i with spurious := satAdd 16 i.spurious 1 }, 0)

/-- ICU_CORE_COMPLETE (R492). -/
def IcuSt.complete (i : IcuSt) (core n : Nat) : IcuSt :=
  let s := i.src n
  if s.active ∧ s.owner = pairCore core then
    let i1 := i.setSrc n { s with active := false, grantPri := 0, owner := 0 }
    if !srcData n ∧ s.sensed then i1.pend n else i1
  else { i with badComplete := satAdd 16 i.badComplete 1 }

/-! ### Registers -/

/-- ICU_SRC_CFG (R495). -/
def IcuSt.cfgWord (i : IcuSt) (n : Nat) : Nat :=
  let s := i.src n
  if srcData n || srcMgmt n then
    fld s.hostVec.toNat 11 44 + fld s.target.toNat 20 24 + fld s.filter.toNat 8 16 + fld (b2n s.level) 1 12 +
    fld (b2n s.hostEn) 1 11 + fld (b2n (srcMgmt n)) 1 10 + fld (b2n (srcWake n)) 1 9 + s.prio.toNat
  else 0

/-- ICU_SRC_STAT (R496). -/
def IcuSt.statWord (i : IcuSt) (n : Nat) : Nat :=
  let s := i.src n
  fld s.coalesced 16 48 + fld (if s.active then s.grantPri else 0) 5 16 + fld s.owner 5 11 +
  fld (b2n (i.isOffered n)) 1 5 + fld (b2n s.active) 1 4 + fld (b2n s.pending) 1 3 + fld (b2n s.latched) 1 2 +
  fld (b2n s.sensed) 1 1 + b2n s.line

/-- A new SENSE has given a management source another sensed value (R486): high, it is pending; low, it no longer is. -/
def IcuSt.resense (i : IcuSt) (n : Nat) (was : Bool) : IcuSt :=
  if srcData n ∨ (i.src n).sensed = was then i else if was then i.fall n else i.rise n

/-- A write of ICU_SRC_CFG by a control core: PRIORITY, FILTER and TARGET of a data source only while no image is
active (R485, R495). -/
def IcuSt.writeCfg (i : IcuSt) (active : Bool) (n v : Nat) : IcuSt :=
  let s := i.src n
  if !(srcData n || srcMgmt n) then i
  else
    let free := !srcData n || !active
    (i.setSrc n { s with
      hostVec := BitVec.ofNat 11 (bits v 54 44)
      target := if free then BitVec.ofNat 20 (bits v 43 24) else s.target
      filter := if free ∧ bits v 23 16 ≠ 0 then BitVec.ofNat 8 (bits v 23 16) else s.filter
      level := bit v 12
      hostEn := bit v 11
      prio := if free then BitVec.ofNat 5 (bits v 4 0) else s.prio }).resense n s.sensed

/-- An event setting of the image in force (R344, R485). -/
def IcuSt.setting (i : IcuSt) (n prio filter target : Nat) : IcuSt :=
  i.setSrc n { i.src n with prio := BitVec.ofNat 5 prio, filter := BitVec.ofNat 8 filter, target := BitVec.ofNat 20 target }

/-- A data source goes back to its reset setting (R485). -/
def IcuSt.unset (i : IcuSt) (n : Nat) : IcuSt :=
  let d := IcuSrc.reset i.cpq n
  i.setSrc n { i.src n with prio := d.prio, filter := d.filter, target := d.target }

/-- An image comes into force: its settings, and reset settings for the data sources it does not name (R340, R485). -/
def IcuSt.useEvents (i : IcuSt) (evs : List (Nat × Nat × Nat × Nat)) : IcuSt :=
  let i1 := ((i.srcs.map (·.1)).filter srcData).foldl (fun (i : IcuSt) n => i.unset n) i
  evs.foldl (fun (i : IcuSt) e => i.setting e.1 e.2.1 e.2.2.1 e.2.2.2) i1

/-! ### Stewards (R481, R482) -/

/-- Cluster of a control core: 0 the supervisor, 1 + q the steward of quadrant q (R22). -/
def clusterOf (c : Nat) : Nat := if c < 4 then 0 else 1 + (c - 4) / 2

/-- STW_TOKEN: a core and pail are kept for delivery (R482). -/
def IcuSt.stwToken (i : IcuSt) (q v : Nat) : IcuSt :=
  i.onSteward q fun s => { s with tokens := s.tokens ++ [(bits v 18 11, bits v 10 0)] }

/-- STEWARD_EVENT_LOG (R481): a record is appended; a third failed built-in check is a diagnosis, which names the map entry
that would take the column or the core out. -/
def IcuSt.stewardLog (i : IcuSt) (q source cause : Nat) (diag : Option Nat) : IcuSt :=
  i.onSteward q fun s => { s with
    logged := s.logged + 1
    diag := s.diag ++ diag.toList
    log := s.log ++ [(source, cause)] }

/-- A map extension has been committed: diagnoses that `gone` says it has settled await it no longer (R481, R500). -/
def IcuSt.diagnosed (i : IcuSt) (gone : Nat → Bool) : IcuSt :=
  (List.range 8).foldl (fun (i : IcuSt) q => i.onSteward q fun s => { s with diag := s.diag.filter fun e => !gone e }) i

/-! ### Debug (R546) -/

/-- DEBUG_HALT. -/
def IcuSt.debugHalt (i : IcuSt) (c : Nat) : IcuSt :=
  if (i.core c).state = 1 ∨ (i.core c).state = 2 then i.onCore c fun k => { k with state := 3 } else i

/-- RESUME. -/
def IcuSt.resume (i : IcuSt) (c : Nat) : IcuSt :=
  if (i.core c).state = 3 then i.onCore c fun k => { k with state := 1 } else i

end Sys2Proof.Machine
end

