-- ==== Sys2Proof/Machine/Map.lean ====
section
/-! DEFINITION. The disabled-unit map, identity, start-up status and reset causes (R27 to R37, R562 to R575). -/

namespace Sys2Proof.Machine

/-- A map: states of the 144 sites (0 ENABLED, 1 SPARE, 2 BAD) and bypass masks at 4 site + engine. -/
structure DuMap where
  sites : Tab Nat
  masks : Tab (BitVec 64)
  deriving DecidableEq, Repr

/-- State of a site. -/
def DuMap.site (m : DuMap) (t : Nat) : Nat := m.sites.get 1 t
/-- Bypass mask of an engine of a site. -/
def DuMap.mask (m : DuMap) (t e : Nat) : BitVec 64 := m.masks.get 0 (4 * t + e)

/-- The map fused at test that the model takes: the first n sites of every quadrant ENABLED, nothing bypassed
(R30; log entry 4). -/
def DuMap.fused (cpq : Nat) : DuMap :=
  { sites := (List.range 144).map fun t => (t, if t % 18 < cpq then 0 else 1), masks := [] }

/-- Number of bits set. -/
def popcount (x : BitVec 64) : Nat := ((List.range 64).filter fun i => x.getLsbD i).length

/-- A site becomes BAD; the lowest SPARE site of its quadrant becomes ENABLED (R33). -/
def DuMap.markBad (m : DuMap) (t : Nat) : DuMap :=
  let m1 := { m with sites := m.sites.set t 2 }
  match ((List.range 18).map (· + t / 18 * 18)).find? fun u => m.site u == 1 with
  | some u => { m1 with sites := m1.sites.set u 0 }
  | none => m1

/-- One extension entry, coded as W1 of MAP_EXTEND (R33, R459). -/
def DuMap.extend (m : DuMap) (entry : Nat) : DuMap :=
  let t := bits entry 7 0
  if bit entry 63 then (if m.site t = 0 then m.markBad t else m)
  else
    let k := 4 * t + bits entry 9 8
    let mask := m.masks.get 0 k ||| (1#64 <<< bits entry 15 10)
    if 4 < popcount mask then (if m.site t = 0 then m.markBad t else m) else { m with masks := m.masks.set k mask }

/-- Whether MAP_EXTEND refuses an entry as INVALID, judged against the map the next reset would build (R32). -/
def DuMap.invalid (m : DuMap) (entry : Nat) : Bool :=
  let t := bits entry 7 0
  decide (144 ≤ t) || m.site t != 0 ||
  (!bit entry 63 && (m.mask t (bits entry 9 8)).getLsbD (bits entry 15 10))

/-- The canonical encoding of a map, 4,644 bytes (R36). -/
def DuMap.encode (m : DuMap) : Bytes :=
  ((List.range 36).map fun b => BitVec.ofNat 8 (((List.range 4).map fun i => m.site (4 * b + i) * 4 ^ i).sum)) ++
  (List.range 576).flatMap fun k => leBytes 8 (if m.site (k / 4) = 0 then (m.masks.get 0 k).toNat else 0)

/-- The map digest (R36). -/
def DuMap.digest (m : DuMap) : Nat := leNat ((sha384 m.encode).take 8)

/-- The usable sites of a quadrant in slot order (R35). -/
def DuMap.usable (m : DuMap) (eastOk : Bool) (q : Nat) : List Nat :=
  if 4 ≤ q ∧ !eastOk then [] else ((List.range 18).map (· + 18 * q)).filter fun t => m.site t == 0

/-- Physical site of each valid logical core (R27, R35). -/
def DuMap.cores (m : DuMap) (cpq : Nat) (eastOk : Bool) : Tab Nat :=
  (List.range (8 * cpq)).filterMap fun c => ((m.usable eastOk (c / cpq))[c % cpq]?).map fun t => (c, t)

/-- Quadrants with fewer than n usable sites, a mask (R33, R35). -/
def DuMap.short (m : DuMap) (cpq : Nat) (eastOk : Bool) : Nat :=
  (((List.range 8).filter fun q => decide ((m.usable eastOk q).length < cpq)).map fun q => 2 ^ q).sum

/-- Supervisor state: identity, map, start-up, resets and pins. -/
structure SupSt where
  partCode : Nat               -- SUP_ID (R37)
  cpq : Nat                    -- CORES_PER_QUADRANT
  serial : BitVec 48           -- SUP_MODULE_ID (R572)
  fuses : DuMap                -- map fused at test
  exts : List Nat              -- extension entries committed, in order (R32)
  built : Nat                  -- how many of them the map in force holds
  map : DuMap                  -- map in force
  mapBuilt : Bool
  digest : BitVec 64           -- SUP_DUMAP_DIGEST
  short : Nat                  -- SHORT_QUADRANT
  eastOk : Bool                -- SUP_UNIT_STATUS
  westOk : Bool
  quadrantOk : Nat
  step : Nat                   -- SUP_START_STAT (R575)
  held : Nat                   -- HOLD_REASON, 0 not held
  startMs : Nat                -- milliseconds the start-up takes, shown from step 9 on
  stacksLeft : Nat             -- stacks whose training start-up still awaits, a mask
  portsLeft : Nat              -- ports whose training start-up still awaits, a mask
  cables : Nat                 -- connectors with a cable seated, a mask (R558)
  cause : Nat                  -- SUP_RESET_CAUSE (R574)
  moduleResets : BitVec 16
  computeResets : BitVec 16
  zeroing : Bool               -- a compute reset zeroes the stores (R568)
  moduleWanted : Option Nat    -- a module reset waits, with its cause (R569)
  computeWanted : Bool         -- a compute reset waits for a load (R569)
  sysRst : Bool                -- SYS_RST_N is low
  rtc : BitVec 48              -- the real-time count
  deriving DecidableEq, Repr

/-- Supervisor state before the first start-up: the grade, fuses and serial of one module (log entry 4), registers at
the reset values of R37, R572 to R575. -/
def SupSt.reset : SupSt :=
  { partCode := 0x8128, cpq := 16, serial := 0, fuses := DuMap.fused 16, exts := [], built := 0, map := ⟨[], []⟩,
    mapBuilt := false, digest := 0, short := 0, eastOk := false, westOk := false, quadrantOk := 0, step := 1, held := 0,
    startMs := 0, stacksLeft := 0, portsLeft := 0, cables := 0xFF, cause := 1, moduleResets := 0, computeResets := 0,
    zeroing := false, moduleWanted := none, computeWanted := false, sysRst := false, rtc := 0 }

/-- ENABLED_CORES. -/
def SupSt.enabled (s : SupSt) : Nat := 8 * s.cpq
/-- The map the next reset would build (R32). -/
def SupSt.nextMap (s : SupSt) : DuMap := s.exts.foldl DuMap.extend s.fuses
/-- EXT_PENDING (R37). -/
def SupSt.extPending (s : SupSt) : Nat := s.exts.length - s.built
/-- The map is built from fuses and entries (R33, R36), and a quadrant it leaves short is marked so. -/
def SupSt.buildMap (s : SupSt) : SupSt :=
  let m := s.nextMap
  { s with map := m, mapBuilt := true, built := s.exts.length, digest := BitVec.ofNat 64 m.digest, short := m.short s.cpq true }
/-- Why the supervisor refuses a map extension, 0 if it does not: INVALID against the map the next reset would build,
or no entry left of the 64 (R32). -/
def SupSt.extCode (s : SupSt) (entry : Nat) : Nat :=
  if s.nextMap.invalid entry then 0x85 else if 64 ≤ s.exts.length then 0x81 else 0
/-- SUP_MODULE_ID (R572). -/
def SupSt.moduleId (s : SupSt) : Nat := 0x4A51 * 2 ^ 48 + s.serial.toNat
/-- SUP_START_STAT (R575). -/
def SupSt.startStat (s : SupSt) : Nat := fld s.step 4 60 + fld (b2n (s.held != 0)) 1 59 + fld s.held 3 56 +
  (if s.step = 9 then s.startMs % 2 ^ 32 else 0)
/-- SUP_RESET_CAUSE (R574). -/
def SupSt.causeWord (s : SupSt) : Nat := fld s.cause 8 56 + fld s.moduleResets.toNat 16 32 + fld s.computeResets.toNat 16 16

end Sys2Proof.Machine
end

