-- ==== Sys2Proof/Machine/Snap.lean ====
section
/-! DEFINITION. What the registers of the blocks hold, read without side effects (the register maps of chapters 01 to
16), and counter snapshots (R520 to R522, R528). An offset lies in its block and is a multiple of 8. -/

namespace Sys2Proof.Machine

/-! ### A core's blocks -/

/-- A latest-refusal register: COUNT, LAST_CODE, the entry, opcode or label from bit `lo` on, LAST_STEP. -/
def FaultReg.word (f : FaultReg) (w lo : Nat) : Nat := fld f.count 16 48 + fld f.code 8 40 + fld f.aux w lo + f.step % 2 ^ 32

/-- COR_VAT_DESC, COR_VAT_COUNT and COR_VAT_STAT (R82). -/
def Vat.word (v : Vat) (which : Nat) : Nat :=
  match which with
  | 0 =>
    let st := match v.state with
      | .idle => 0
      | .vopen => 1
      | .vsealed => 2
      | .draining => 3
    fld v.gen.toNat 4 60 + fld st 2 58 + fld v.mode 2 56 + fld v.fmt 4 52 + fld v.rowBase 10 42 + fld v.rowsM1 10 32 +
    fld v.depth 5 27
  | 1 => fld v.terms 32 32 + v.chunks % 2 ^ 32
  | _ => fld v.refuse 8 56 + fld v.stale 16 40 + v.flags.byte

/-- One half, 0 low and 1 high, of a 128-bit entry. -/
def half128 (x : BitVec 128) (h : Nat) : Nat := bits x.toNat (64 * h + 63) (64 * h)

/-- Halves of a table segment (R188). -/
def segHalf (c0 c1 c2 h : Nat) : Nat := if h = 0 then fld c1 32 32 + c0 % 2 ^ 32 else c2 % 2 ^ 32

/-- COR_SEQ_STAT (R273). -/
def Core.seqStat (c : Core) : Nat :=
  let st := match c.seq.state with
    | .idle => 0
    | .run => 1
    | .halted => 2
    | .tripped => 3
  fld st 2 62 + fld (b2n c.seq.faulted) 1 61 + fld (b2n c.cfg.faultHalt) 1 60 + fld c.seq.bundle 12 48

/-- One byte of COR_PAIL_VIEW (R280). -/
def Pail.view (p : Pail) : Nat := fld (b2n p.edge) 1 6 + fld (b2n p.ovf) 1 5 + p.level % 32

/-- COR_VE_APTR (R190). -/
def Core.aptr (c : Core) (i : Nat) : Nat :=
  fld (bits (c.cfg.ptrs.get 0 i).toNat 51 17) 35 17 + c.ve.cur.get 0 i % 2 ^ 17

/-- COR_VE_SMSTAT (R191). -/
def SmCtx.stat (x : SmCtx) : Nat :=
  fld x.st 2 62 + fld x.tiles 9 53 + fld x.norms 9 44 +
  (if x.st = 1 then x.m.getD 0 else if x.st = 2 then x.mFin else 0) % 2 ^ 32

/-- Registers of the COR_ block from 0x0000 to 0x0FFF: sequencer, watchdog, pails, tallies, seams. -/
def Core.regSeq (c : Core) (off : Nat) : Nat :=
  let q := c.seq
  match off with
  | 0x00 => c.seqStat
  | 0x08 => q.step.toNat
  | 0x10 => q.wdogLimit.toNat
  | 0x18 => q.wdogStat
  | 0x20 => q.fault.word 8 32
  | 0x28 => c.su.fault.word 8 32
  | 0x30 => fld c.st.collide 16 48 + fld c.st.corrected 16 32 + fld c.st.uncorr 16 16 + c.st.scrubPasses.toNat
  | 0x38 => fld q.ovfCount 16 48 + fld q.lastOvf 11 37
  | 0x40 => q.stalls.toNat
  | 0x50 => half128 c.cfg.volatile 0
  | 0x58 => half128 c.cfg.volatile 1
  | _ =>
    if 0x100 ≤ off ∧ off < 0x180 then
      let t := nth q.tallies ((off - 0x100) / 8) ⟨0, false⟩
      fld (b2n t.data) 1 32 + t.val.toNat
    else if 0x200 ≤ off ∧ off < 0x400 then (c.cfg.seams.get 0 ((off - 0x200) / 8)).toNat
    else 0

/-- Registers from 0x1000 to 0x1FFF: vats, engines, vector engine, clips, conversions. -/
def Core.regUnits (c : Core) (off : Nat) : Nat :=
  if off < 0x1600 then
    let k := (off - 0x1000) % 0x200 / 8
    ((c.me (k / 16)).vat (k % 16)).word ((off - 0x1000) / 0x200)
  else if off < 0x1620 then
    if off = 0x1600 then ((List.range 4).map fun e => (c.me e).form % 4 * 4 ^ e).sum else 0
  else if off < 0x1640 then (c.me ((off - 0x1620) / 8)).fault.word 5 35
  else if off < 0x1660 then (c.me ((off - 0x1640) / 8)).gated.toNat
  else if off < 0x1840 then
    match off with
    | 0x1800 => fld ((List.range 4).map fun t => b2n (c.cfg.tabs.get FTable.reset t).loaded * 2 ^ t).sum 4 1 + b2n c.cfg.compat
    | 0x1808 => fld (tc 9 c.ve.flush16) 9 16 + tc 9 c.ve.flush32
    | 0x1810 => c.ve.fault.word 6 34
    | 0x1818 => fld c.ve.vqNar.toNat 8 16 + fld c.ve.vqSat.toNat 8 8 +
        ((List.range 8).map fun x => b2n ((c.ve.sm.get SmCtx.reset x).st == 1) * 2 ^ x).sum
    | _ => 0
  else if off < 0x1880 then
    let t := c.cfg.tabs.get FTable.reset ((off - 0x1840) / 16)
    if off % 16 = 0 then fld t.x0 32 32 + t.invW % 2 ^ 32 else fld (b2n t.loaded) 1 3 + fld (b2n t.linear) 1 2 + t.inW % 4
  else if off < 0x1900 then 0
  else if off < 0x1B00 then
    let u := c.cfg.uprogs.get UProg.reset ((off - 0x1900) / 8)
    fld (b2n u.loaded) 1 40 + fld u.cycles 16 16 + u.steps.length % 512
  else if off < 0x1C00 then (c.cfg.consts.get 0 ((off - 0x1B00) / 8)).toNat
  else if off < 0x1C80 then c.aptr ((off - 0x1C00) / 8)
  else if off < 0x1CC0 then (c.ve.sm.get SmCtx.reset ((off - 0x1C80) / 8)).stat
  else if 0x1D00 ≤ off ∧ off < 0x1D20 then
    let p := c.su.clips.get ⟨0, 0⟩ ((off - 0x1D00) / 8)
    fld p.total 32 32 + p.clipped % 2 ^ 32
  else if off = 0x1D20 then c.cfg.qlimit.toNat
  else if off = 0x1F00 then fld c.su.narIn 16 48 + fld c.su.satHi 16 32 + fld c.su.satLo 16 16 + c.su.ovf % 65536
  else 0

/-- Registers from 0x2000 on: tables, pail view. -/
def Core.regTables (c : Core) (off : Nat) : Nat :=
  let h := off % 16 / 8
  if off < 0x2400 then half128 (c.cfg.quant.get 0 ((off - 0x2000) / 16)) h
  else if off < 0x2800 then half128 (c.cfg.moves.get 0 ((off - 0x2400) / 16)) h
  else if off < 0x3800 then
    let i := (off - 0x2800) / 64
    let d := (off - 0x2800) % 64 / 8
    if d < 6 then (c.cfg.wins.get 0 (6 * i + d)).toNat else 0
  else if off < 0x4000 then ((List.range 8).map fun i => (c.pail (off - 0x3800 + i)).view * 256 ^ i).sum
  else if off < 0x8000 then half128 (c.cfg.opt.get 0 ((off - 0x4000) / 16)) h
  else if off < 0xC000 then
    let s := ((c.cfg.tabs.get FTable.reset ((off - 0x8000) / 0x1000)).seg).get (0, 0, 0) ((off - 0x8000) % 0x1000 / 16)
    segHalf s.1 s.2.1 s.2.2 h
  else if off < 0x1C000 then
    let u := c.cfg.uprogs.get UProg.reset ((off - 0xC000) / 0x400)
    let j := (off - 0xC000) % 0x400 / 8
    fld (nth u.steps (2 * j + 1) 0).toNat 32 32 + (nth u.steps (2 * j) 0).toNat
  else
    let f := (off - 0x1C000) / 0x1000
    let i := (off - 0x1C000) % 0x1000 / 16
    segHalf (Config.romCoef f i 0).toNat (Config.romCoef f i 1).toNat (Config.romCoef f i 2).toNat h

/-- A register of a core's COR_ block. -/
def Core.reg (c : Core) (off : Nat) : Nat :=
  if off < 0x1000 then c.regSeq off else if off < 0x2000 then c.regUnits off else if off < 0x20000 then c.regTables off else 0

/-- A register of a core's SEP_ block (R240 to R244). -/
def Core.regSep (c : Core) (off : Nat) : Nat :=
  match off with
  | 0x00 => fld c.su.oorW 32 32 + c.su.oorR % 2 ^ 32
  | 0x08 =>
    let f := c.su.sepFault
    fld f.count 16 48 + fld f.code 8 40 + fld f.aux 16 16 + f.step % 65536
  | 0x10 => fld c.su.createReason 8 24 + fld c.su.pendDesc.length 8 8 + c.su.createSlot % 128
  | _ =>
    if off = 0x100 then 0x0100000000000000
    else if 0x100 ≤ off ∧ off < 0x180 then (c.cfg.sep.get 0 ((off - 0x100) / 8)).toNat
    else if 0x4000 ≤ off ∧ off < 0x8000 then
      bits (c.cfg.desc.get 0 ((off - 0x4000) / 128)).toNat (64 * ((off - 0x4000) % 128 / 8) + 63) (64 * ((off - 0x4000) % 128 / 8))
    else 0

/-! ### Memory, links -/

/-- A register of a channel's MEM_ block (R329 to R333); channel 0 of the stack holds the thresholds. -/
def ExtSt.regMem (x : ExtSt) (ch off : Nat) : Nat :=
  let k := x.chan ch
  match off with
  | 0x00 => fld k.state 2 62 + fld k.level 2 18 + fld (b2n k.refresh2x) 1 17 + fld (b2n k.newRepair) 1 16 + fld k.lanes 8 8
  | 0x08 => fld k.corrected 16 48 + fld k.uncorr 16 32 + fld (b2n k.lastUncorr) 1 31 + k.lastSector % 2 ^ 26
  | 0x10 => fld k.retryCa 16 48 + fld k.retryWr 16 32 + fld k.retryRd 16 16
  | 0x18 => fld k.temp 8 8
  | 0x20 => fld (x.chan (ch / 32 * 32)).t2 8 8 + (x.chan (ch / 32 * 32)).t1 % 256
  | 0x28 => fld k.passes.toNat 16 48 + k.position % 2 ^ 26
  | 0x30 => fld k.full.toNat 32 32 + k.queue.length % 128
  | _ => 0

/-- A register of a unit's CRM_ block (R334, R335). -/
def ExtSt.regCrm (x : ExtSt) (u off : Nat) : Nat :=
  let k := x.chan u
  match off with
  | 0x00 => fld k.cmds.toNat 32 32 + fld k.running.length 3 16
  | 0x08 => fld k.folds.toNat 32 32 + fld k.droppedFmt 16 16 + k.poisoned % 65536
  | 0x10 => fld k.faults 16 48 + fld k.faultCode 8 40 + fld k.faultOp 6 34 + k.faultLabel % 65536
  | _ => 0

/-- LNK_STAT (R436). -/
def Port.stat (q : Port) (cfg : ChipCfg) : Nat :=
  let h := peerHerd cfg q
  fld q.state 3 61 + fld q.lanes 6 55 + fld (if laneCount q.lanes < 3 then 0 else laneCount q.lanes) 3 52 + fld (b2n q.peerValid) 1 51 + fld q.peerPort 5 46 +
  fld (h.getD 0) 10 36 + fld (b2n h.isSome) 1 35

/-- A register of a port's LNK_ block (R436 to R442). -/
def Port.reg (q : Port) (cfg : ChipCfg) (off : Nat) : Nat :=
  match off with
  | 0x00 => q.stat cfg
  | 0x08 => q.peerId.toNat
  | 0x10 => fld (b2n q.disable) 1 1
  | 0x18 => fld q.tagTimeout.toNat 16 32 + fld q.violLimit.toNat 8 24
  | 0x20 => fld q.fecCorr.toNat 32 32 + fld q.fecUncorr 16 16
  | 0x28 => fld q.naksTx 16 48 + fld q.naksRx 16 32 + fld q.retrains 16 16 + q.failovers % 65536
  | 0x30 => fld q.rxViol 16 48 + fld q.txViol 16 32 + fld q.lastClass 5 27 + fld q.lastSeq 12 12
  | 0x38 => fld (q.tags.filter fun t => t.2.use.isSome).length 9 55 + fld q.stale 16 32 + fld q.timeouts 16 16
  | 0x40 => fld q.doneOk.toNat 32 32 + fld q.doneErr 16 16 + q.lastErr % 256
  | 0x48 => fld (nth q.credits 3 0) 16 48 + fld (nth q.credits 2 0) 16 32 + fld (nth q.credits 1 0) 16 16 + nth q.credits 0 0 % 65536
  | 0x50 => fld q.rtt.toNat 32 32 + q.asym.toNat
  | _ => 0

/-! ### Host interface, interrupts, power, image -/

/-- HIF_STAT (R468): speed, width and FLIT mode of a trained link are free values. -/
def HostSt.stat (h : HostSt) : Nat :=
  (if h.linkUp then
    let speed := Config.freeNat h.linkFree % 6 + 1
    fld speed 4 60 + fld (nth [1, 4, 8, 16] (Config.freeNat (h.linkFree + 1) % 4) 0) 5 55 +
    fld (b2n (speed == 6 || Config.freeBool h.linkFree)) 1 54
  else 0) + fld (if h.vfEnable then h.numVfs else 0) 4 50 + fld h.vfErr 15 35

/-- HIF_ERR of a function (R469). -/
def HostSt.errWord (h : HostSt) (fn : Nat) : Nat :=
  let e := h.err.get HifErr.zero fn
  fld e.bad 16 48 + fld e.oor 16 32 + fld e.dbIgnored 16 16 + e.cqDrop % 65536

/-- Word 0 to 3 of a ring pair (R472). -/
def Ring.word (r : Ring) (k : Nat) : Nat :=
  match k with
  | 0 => r.sqBase.toNat * 64
  | 1 => fld (b2n r.sqEn) 1 63 + fld r.cls 2 61 + fld r.head 16 40 + fld r.cq 14 20 + fld r.sqLog 4 16 + r.tail % 65536
  | 2 => r.cqBase.toNat * 64
  | _ => fld (b2n r.cqEn) 1 63 + fld (b2n r.phase) 1 62 + fld (b2n r.irqEn) 1 61 + fld r.vector 11 50 + fld r.coalesce 8 42 +
      fld r.cqLog 4 32 + fld r.cqHead 16 16 + r.cqTail % 65536

/-- 64 bits of a function's MSI-X pending array. -/
def HostSt.pba (h : HostSt) (fn k : Nat) : Nat :=
  ((List.range 64).map fun i => b2n (h.msixPend.contains (2048 * fn + 64 * k + i)) * 2 ^ i).sum

/-- 8 bytes of a function's MSI-X table (R463). -/
def HostSt.msixWord (h : HostSt) (fn off : Nat) : Nat := half128 (h.msixEntry (2048 * fn + off / 16)) (off % 16 / 8)

/-- A register of the PF's HIF_ block (R463, R468 to R472); a ring of a usable VF reads as zero. -/
def HostSt.reg (h : HostSt) (off : Nat) : Nat :=
  match off with
  | 0x00 => h.stat
  | 0x08 => h.errWord 0
  | 0x10 => h.bar2Base.toNat / 2 ^ h.bar2Log * 2 ^ h.bar2Log
  | 0x18 => fld (b2n h.evtEn) 1 63 + fld h.evtLost 16 32 + h.evtCq % 16384
  | _ =>
    if 0x1010 ≤ off ∧ off < 0x1100 then
      let v := h.vfCfg.get (0, 0) ((off - 0x1000) / 16)
      if off % 16 = 0 then v.1 else v.2
    else if 0x40000 ≤ off ∧ off < 0x48000 then h.msixWord 0 (off - 0x40000)
    else if 0x48000 ≤ off ∧ off < 0x48100 then h.pba 0 ((off - 0x48000) / 8)
    else if 0x80000 ≤ off ∧ off < 0x100000 then
      let g := (off - 0x80000) / 32
      if h.owner g = 0 then (h.ring g).word (off % 32 / 8) else 0
    else 0

/-- A register of a VF's BAR0 (R449). -/
def HostSt.regVf (h : HostSt) (fn off : Nat) : Nat :=
  if off = 0 then h.stat
  else if off = 8 then h.errWord fn
  else if 0x4000 ≤ off ∧ off < 0x4400 then h.msixWord fn (off - 0x4000)
  else if off = 0x5000 then h.pba fn 0
  else if 0x8000 ≤ off then
    match h.global fn ((off - 0x8000) / 32) with
    | some g => (h.ring g).word (off % 32 / 8)
    | none => 0
  else 0

/-- ICU_WAKE and ICU_STAT (R498). -/
def IcuSt.regStat (i : IcuSt) (off : Nat) : Nat :=
  if off = 0x5000 then ((List.range 49).map fun j => b2n (i.src (j + 1)).latched * 2 ^ j).sum
  else if off = 0x5008 then fld i.spurious 16 48 + fld i.badComplete 16 32
  else 0

/-- A register of the ICU_ block (R495 to R498); a claim register reads as zero here. -/
def IcuSt.reg (i : IcuSt) (off : Nat) : Nat :=
  if off < 0x2000 then i.cfgWord (off / 8)
  else if off < 0x4000 then (if srcData ((off - 0x2000) / 8) || srcMgmt ((off - 0x2000) / 8) then i.statWord ((off - 0x2000) / 8) else 0)
  else if off < 0x4280 then
    let k := (off - 0x4000) / 32
    let c := i.core k
    match off % 32 / 8 with
    | 0 => fld c.vectored.toNat 32 32 + fld (i.running (if k = 1 then 0 else k)) 5 5 + c.threshold.toNat
    | 1 => c.vbase.toNat
    | _ => 0
  else i.regStat off

/-- A register of a STW_ block (R500). -/
def IcuSt.regStw (i : IcuSt) (q off : Nat) : Nat :=
  let w := i.steward q
  if off = 0 then fld (b2n w.ready) 1 63 + fld w.logged.toNat 32 16 + fld (min 255 w.diag.length) 8 8 else 0

/-- A register of the PWR_ block (R524 to R527) at a real-time count. -/
def PwrSt.reg (p : PwrSt) (rtc off : Nat) : Nat :=
  match off with
  | 0x00 => fld p.state 3 61 + fld p.target 3 58 + fld (b2n p.busy) 1 57 + p.transitions.toNat
  | 0x08 => fld p.powerW 16 48 + fld p.rail 16 32 + fld p.peakW 16 16
  | 0x10 => fld (b2n p.lock) 1 63 + p.cap % 4096
  | 0x18 => fld (b2n p.clamped) 1 63 + fld p.idle 8 55 + fld (min 65535 (p.excess / 100)) 16 16 + p.clamps % 65536
  | 0x20 => fld p.westC 8 56 + fld p.eastC 8 48 + fld p.level 2 46 + fld (thermIdle p.level) 8 38 + p.changes % 65536
  | 0x28 => fld p.energy 16 48 + fld p.capPct 8 40 + fld p.esrPct 8 32 + fld (b2n p.healthy) 1 31 +
      fld (min 0x7FFF ((rtc - p.checked) / 32768)) 15 16
  | 0x30 => fld p.done.toNat 32 32 + fld p.refused 16 16
  | 0x38 => fld p.faultCause 8 56 + fld (b2n p.crashRec) 1 55 + fld (b2n p.faultValid) 1 54 + p.faultRtc.toNat
  | _ => 0

/-- Bytes 8 i to 8 i + 7 of a hash. -/
def hashWord (h : Bytes) (i : Nat) : Nat := leAt h (8 * i) 8

/-- A register of the IMG_ block below 0x1000 (R357 to R360). -/
def ImgSt.reg (m : ImgSt) (off : Nat) : Nat :=
  if off < 0x30 then hashWord m.activeHash (off / 8)
  else if off < 0x60 then (match m.image with | some i => hashWord i.hash ((off - 0x30) / 8) | none => 0)
  else match off with
    | 0x60 => fld m.active 2 62 + fld m.shadow 3 59 + fld (b2n m.second) 1 58 + fld m.runs.toNat 16 32 + m.loaded % 2 ^ 32
    | 0x68 => m.loadStat
    | 0x70 => if m.shadow = 3 then fld 1 1 63 + fld m.armPoint 8 32 + m.armOcc % 2 ^ 32 else 0
    | 0x78 => m.xchgCount.toNat
    | 0x80 => fld m.xchgOcc 32 32 + fld m.xchgPoint 8 24
    | _ => 0

/-! ### The supervisor's block -/

/-- SUP_PLANE_COUNT (R363, R390): the plane count of the latest plane cycle. -/
def PlaneSt.shown (p : PlaneSt) : Nat := p.count.toNat - 1

/-- Run registers, 0x3000 to 0x305F (R390 to R392). -/
def regRun (p : PlaneSt) (m : ImgSt) (off : Nat) : Nat :=
  match off with
  | 0x3000 => p.shown
  | 0x3008 => p.slipTotal.toNat
  | 0x3048 => fld p.lastCause 3 61 + fld p.lastLength 29 32 + p.lastPlane.toNat
  | 0x3050 => m.runId.toNat
  | 0x3058 => fld m.segment.toNat 16 48 + fld (b2n m.pstateChanged) 1 1 + b2n m.pstateStart
  | _ => if 0x3010 ≤ off ∧ off < 0x3048 then (p.slipCause.get 0 ((off - 0x3008) / 8)).toNat else 0

/-- Herd, barrier and lock-step registers, 0x3060 to 0x30BF (R393 to R397). -/
def HerdSt.reg (h : HerdSt) (off : Nat) : Nat :=
  let f := h.first.getD ⟨0, 0, 0, 0⟩
  match off with
  | 0x3060 => h.count.toNat
  | 0x3068 => h.herdStat
  | 0x3070 => h.load.toNat
  | 0x3078 => fld (b2n h.armed) 1 1
  | 0x3080 => fld h.barTimeout.toNat 32 32 + h.barMargin.toNat
  | 0x3088 => fld h.barSeq.toNat 32 32 + fld h.late 16 16 + h.timeouts % 65536
  | 0x3090 => h.lsCfg.toNat
  | 0x3098 => fld h.lsState 2 62 + fld (b2n h.mismatch) 1 61 + fld (b2n h.unmatched) 1 60 + fld h.mismatches 16 32 + h.compared.toNat
  | 0x30A0 => fld f.seg 16 48 + fld f.core 8 40 + fld (h.tile.getD 0) 6 34 + fld (b2n h.tile.isSome) 1 33
  | 0x30A8 => f.step % 2 ^ 64
  | 0x30B0 => f.sig.toNat
  | 0x30B8 => h.firstRemote.toNat
  | _ => 0

/-- Membership registers, 0x3100 to 0x318F (R443, R444). -/
def LinkSt.reg (l : LinkSt) (off : Nat) : Nat :=
  if off = 0x3100 then fld l.mstate 2 62 + fld l.root 10 52 + fld l.mask.length 11 41 + l.epoch % 65536
  else if off = 0x3108 then l.deadTime.toNat
  else if 0x3110 ≤ off ∧ off < 0x3190 then
    ((List.range 64).map fun j => b2n (l.mask.contains (8 * (off - 0x3110) + j)) * 2 ^ j).sum
  else 0

/-- The parts that a snapshot captures (R522). -/
structure Snap where
  sup : SupSt
  plane : PlaneSt
  chip : ChipCfg
  ext : ExtSt
  link : LinkSt
  herd : HerdSt
  host : HostSt
  icu : IcuSt
  pwr : PwrSt
  img : ImgSt
  deriving DecidableEq, Repr

/-- SUP_ID and SUP_UNIT_STATUS (R37). -/
def Snap.identity (s : Snap) (off : Nat) : Nat :=
  let u := s.sup
  if off = 0 then fld u.partCode 16 48 + fld u.enabled 8 40 + fld u.cpq 8 32 + fld 1 8 24 + 0x3C51
  else if !u.mapBuilt then 0
  else fld u.extPending 8 32 + fld u.short 8 24 + fld (b2n u.eastOk) 1 17 + fld (b2n u.westOk) 1 16 + fld s.ext.stackOk 8 8 +
    u.quadrantOk % 256

/-- A register of the SUP_ block. -/
def Snap.regSup (s : Snap) (off : Nat) : Nat :=
  let u := s.sup
  if off < 0x10 then s.identity off
  else if off = 0x10 then u.digest.toNat
  else if off < 0x1000 then 0
  else if off < 0x1400 then
    let t := s.plane.site ((off - 0x1000) / 8)
    if t < 144 then 0x100 + t else 0
  else if off < 0x2000 then 0
  else if off < 0x3000 then
    let t := s.plane.site ((off - 0x2000) / 32)
    if t < 144 then (u.map.mask t ((off - 0x2000) % 32 / 8)).toNat else 0
  else if off < 0x3060 then regRun s.plane s.img off
  else if off < 0x3100 then s.herd.reg off
  else if off < 0x4000 then s.link.reg off
  else if off < 0x40A0 then
    let k := s.icu.core ((off - 0x4000) / 8)
    fld k.state 3 61 + fld (b2n k.machine) 1 60
  else if 0x4100 ≤ off ∧ off < 0x41A0 then
    let k := s.icu.core ((off - 0x4100) / 8)
    fld k.fetched.toNat 32 32 + k.wrongPath.toNat
  else match off with
    | 0x5000 => fld s.pwr.lifePct 8 56 + fld s.pwr.worstPct 8 48 + fld s.pwr.badBlocks 16 32 + s.pwr.erasedMib % 2 ^ 32
    | 0x6000 => u.moduleId
    | 0x6010 => u.causeWord
    | 0x6018 => u.startStat
    | _ => 0

/-! ### Which blocks answer (R49, R501) -/

/-- A unit of quadrant `q` whose quadrant has a steward and whose die is there (R49): East's only under EAST_OK, whatever
the step of start-up. -/
def Snap.quadrant (s : Snap) (q : Nat) : Bool :=
  decide (s.pwr.state ≤ 3) && (s.sup.eastOk || decide (q < 4)) && (bit s.sup.quadrantOk q || decide (s.sup.step < 7))

/-- A core's blocks hold registers: it is valid, and powered. -/
def Snap.coreThere (s : Snap) (c : Nat) : Bool := decide (s.pwr.state ≤ 2) && s.plane.live.contains c

/-- A channel's and its unit's blocks hold registers: the stack is not fenced, its die is there. -/
def Snap.chanThere (s : Snap) (ch : Nat) : Bool := !s.ext.isFenced ch && s.quadrant (ch / 32)

/-- A port's block holds registers. A port FENCED by R432 keeps its own, by which the host brings it back. -/
def Snap.portThere (s : Snap) (p : Nat) : Bool := s.quadrant (p / 4)

/-- A register of BAR0 outside TEL_, SEC_ and DBG_ by its offset in BAR0 (R48), without side effects. -/
def Snap.reg (s : Snap) (a : Nat) : Nat :=
  let o := a % 0x8000
  if a < 0x100000 then s.regSup a
  else if a < 0x200000 then s.host.reg (a - 0x100000)
  else if a < 0x300000 then s.icu.reg (a - 0x200000)
  else if a < 0x310000 then s.pwr.reg s.sup.rtc.toNat (a - 0x300000)
  else if a < 0x330000 then 0
  else if a < 0x340000 then
    let off := a - 0x330000
    if off < 0x1000 then s.img.reg off
    else if off < 0x1800 then (s.plane.occ.get 0 ((off - 0x1000) / 8)).toNat
    else 0
  else if a < 0x800000 then 0
  else if a < 0x1000000 then
    let q := (a - 0x800000) / 0x100000
    if s.quadrant q then s.icu.regStw q (a % 0x100000) else 0
  else if a < 0x1400000 then
    let p := (a - 0x1000000) / 0x20000
    if s.portThere p then (s.link.port p).reg s.chip (a % 0x20000) else 0
  else if a < 0x1800000 then
    let c := (a - 0x1400000) / 0x8000
    if s.coreThere c then (s.plane.core c).regSep o else 0
  else if a < 0x2000000 then
    let ch := (a - 0x1800000) / 0x8000
    if s.chanThere ch then s.ext.regMem ch o else 0
  else if a < 0x2800000 then
    let u := (a - 0x2000000) / 0x8000
    if s.chanThere u then s.ext.regCrm u o else 0
  else if a < 0x3800000 then
    let c := (a - 0x2800000) / 0x20000
    if s.coreThere c then (s.plane.core c).reg ((a - 0x2800000) % 0x20000) else 0
  else 0

/-- The BAR0 offset that an offset of the snapshot view shows, none outside the captured ranges (R522). -/
def viewOf (t : Nat) : Option Nat :=
  if 0x1000 ≤ t ∧ t < 0x1400 then some (t + 0x2000)
  else if 0x2000 ≤ t ∧ t < 0x2100 then some (0x300000 + t % 256)
  else if 0x10000 ≤ t ∧ t < 0x20000 then some (0x1800000 + t / 256 % 256 * 0x8000 + t % 256)
  else if 0x20000 ≤ t ∧ t < 0x30000 then some (0x2000000 + t / 256 % 256 * 0x8000 + t % 256)
  else if 0x30000 ≤ t ∧ t < 0x32000 then some (0x1000000 + (t - 0x30000) / 256 * 0x20000 + t % 256)
  else if 0x32000 ≤ t ∧ t < 0x32800 then some (0x800000 + (t - 0x32000) / 256 * 0x100000 + t % 256)
  else if 0x34000 ≤ t ∧ t < 0x34100 then some (0x205000 + t % 256)
  else if 0x35000 ≤ t ∧ t < 0x35100 then some (0x100000 + t % 256)
  else if 0x36000 ≤ t ∧ t < 0x36100 then some (0x330000 + t % 256)
  else if 0x40000 ≤ t ∧ t < 0x48000 then some (0x1400000 + (t - 0x40000) / 256 * 0x8000 + t % 256)
  else if 0x100000 ≤ t ∧ t < 0x200000 then
    some (0x2800000 + (t - 0x100000) / 0x2000 * 0x20000 + t % 0x2000)
  else if 0x200000 ≤ t ∧ t < 0x400000 then
    some (0x1400000 + (t - 0x200000) / 0x4000 * 0x8000 + 0x4000 + t % 0x4000)
  else none

/-! ### Snapshots (R520, R521, R528) -/

/-- The telemetry block. -/
structure TelSt where
  period : BitVec 32
  number : BitVec 32
  busy : Bool
  frozen : Bool
  missed : Nat
  count : BitVec 64
  plane : BitVec 64
  view : Option Snap          -- the snapshot in view
  shot : Option Snap          -- what the capture in progress has taken
  shotFrozen : Bool
  deriving DecidableEq, Repr

/-- Reset values of R528. -/
def TelSt.reset : TelSt :=
  { period := 0, number := 0, busy := false, frozen := false, missed := 0, count := 0, plane := 0, view := none, shot := none,
    shotFrozen := false }

/-- A snapshot is requested: ignored and counted while BUSY (R520, R521). -/
def TelSt.request (t : TelSt) (shot : Snap) (frozen : Bool) : TelSt :=
  if t.busy then { t with missed := satAdd 16 t.missed 1 }
  else { t with busy := true, shot := some shot, shotFrozen := frozen }

/-- SNAPSHOT_CAPTURE_END: the view switches in one step (R521). S is the count of the latest cadence cycle. -/
def TelSt.captureEnd (t : TelSt) : TelSt :=
  match t.shot with
  | some x => { t with busy := false, number := t.number + 1, frozen := t.shotFrozen,
                       count := BitVec.ofNat 64 (x.plane.cadence.toNat - 1), plane := BitVec.ofNat 64 x.plane.shown,
                       view := some x, shot := none }
  | none => t

/-- A register of the TEL_ block (R522, R528). -/
def TelSt.reg (t : TelSt) (off : Nat) : Nat :=
  match off with
  | 0x00 => fld t.period.toNat 32 32
  | 0x08 => fld t.number.toNat 32 32 + fld (b2n t.busy) 1 31 + fld (b2n t.frozen) 1 30 + t.missed % 65536
  | 0x10 => t.count.toNat
  | 0x18 => t.plane.toNat
  | _ => match t.view, viewOf off with
    | some x, some a => x.reg a
    | _, _ => 0

end Sys2Proof.Machine
end

