-- ==== Sys2Proof/Machine/State.lean ====
section
/-! DEFINITION. The state of the module: one field per part, each with its registers, queues, stores and pins; the
queue of commands; the state right after reset. -/

namespace Sys2Proof.Machine

/-- No command of this module stops it with a fault: what the spec calls a fault is an event that State records, and
the machine goes on (R255, R512). -/
inductive Fault where
  deriving DecidableEq, Repr

/-- Why a command has no outcome. -/
inductive Refusal where
  /-- Raised by the dispatch for a command without a meaning in the model; safe, since nothing follows of it. -/
  | notModelled (mnemonic : String)
  deriving DecidableEq, Repr

/-- The module. -/
structure State where
  sup : SupSt            -- supervisor: identity, map, start-up, resets
  plane : PlaneSt        -- cadence plane: cores and mesh
  chip : ChipCfg         -- the configuration image in force, as far as the chip's own
  ext : ExtSt            -- external memory and creamery units
  link : LinkSt          -- link ports and membership
  herd : HerdSt          -- herd time, barriers, lock-step
  host : HostSt          -- host interface
  icu : IcuSt            -- interrupt controller, control cores, stewards
  pwr : PwrSt            -- power, limits, durable commits
  tel : TelSt            -- telemetry
  sec : SecSt            -- security and debug
  img : ImgSt            -- image buffers and library
  bus : Nat              -- value of the latest register read
  data : Bytes           -- bytes of the latest BAR2 read or sideband, SPDM or JTAG answer
  free : Nat             -- numbers the free values of commands outside the plane (log entry 2)
  pending : List Instr   -- commands waiting, first in, first out
  deriving DecidableEq, Repr

/-- The module at the start of start-up step 1 (R17, R564): every register at its reset value, every store empty, no
map built, no command waiting. -/
def State.reset : State :=
  { sup := SupSt.reset, plane := PlaneSt.reset, chip := ChipCfg.reset 0, ext := ExtSt.reset, link := LinkSt.reset,
    herd := HerdSt.reset, host := HostSt.reset, icu := IcuSt.reset SupSt.reset.cpq, pwr := PwrSt.reset, tel := TelSt.reset,
    sec := SecSt.reset, img := ImgSt.reset, bus := 0, data := [], free := 2 ^ 96, pending := [] }

end Sys2Proof.Machine
end

