-- ==== Sys2Proof/Machine/Ops.lean ====
section
/-! DEFINITION. Operations shared by the commands: what one part of the module hands to another. -/

namespace Sys2Proof.Machine

/-- The cadence clock runs: P0 or P1, after step 6 of start-up, no compute reset zeroing (R501, R564, R568). -/
def State.clockOn (s : State) : Bool := decide (s.pwr.state ≤ 1) && decide (7 ≤ s.sup.step) && !s.sup.zeroing

/-- The parts that a snapshot captures, as they stand (R522). -/
def State.snap (s : State) : Snap :=
  { sup := s.sup, plane := s.plane, chip := s.chip, ext := s.ext, link := s.link, herd := s.herd, host := s.host,
    icu := s.icu, pwr := s.pwr, img := s.img }

/-! ### The host interface -/

/-- What the checks of a host command see of the module (R461). -/
def State.hostEnv (s : State) : HostEnv :=
  { power := s.pwr.state, busy := s.pwr.busy && decide (2 ≤ s.pwr.target), active := s.img.active != 0,
    cores := s.plane.live }

/-- IMG_LOAD_STAT shows a BUSY of a command that met another image command (R355, R455). -/
def State.noteBusy (s : State) : State :=
  if s.host.busyNote then
    { s with host := { s.host with busyNote := false }, img := { s.img with code := 0x16, section_ := 0xFFF, detail := 0 } }
  else s

/-- Every fetched command that may start does. -/
def State.startAll (s : State) : State := ({ s with host := s.host.startAll s.hostEnv } : State).noteBusy

/-- A host command completes; the ones that waited for it start (R455, R456). -/
def State.answer (s : State) (id status detail r0 r1 : Nat) : State :=
  { s with host := (s.host.complete id status detail r0 r1) }.startAll

/-- A host command completes as REFUSED with a DETAIL (R461). -/
def State.refuse (s : State) (id detail : Nat) : State := s.answer id 1 detail 0 0

/-- An image command ends with a code of R355, which IMG_LOAD_STAT shows too. -/
def State.imgCode (s : State) (id code r0 : Nat) : State :=
  { s with img := { s.img with code := code, section_ := 0xFFF, detail := 0 } }.answer id (if code = 0 then 0 else 1) code r0 0

/-! ### Tokens and requests -/

/-- An EDGE token reaches its pail, or is refused there (R268); a core that does not exist takes none. -/
def PlaneSt.edgeToken (p : PlaneSt) (core pail : Nat) : PlaneSt :=
  if p.live.contains core then (p.onCore core fun c => c.edgeToken pail).collect core else p

/-- `n` EDGE tokens reach a pail. -/
def PlaneSt.edgeTokens (p : PlaneSt) (core pail : Nat) : Nat → PlaneSt
  | 0 => p
  | n + 1 => (p.edgeToken core pail).edgeTokens core pail n

/-- Whether a pail is of class PLANE. -/
def PlaneSt.planePail (p : PlaneSt) (core pail : Nat) : Bool := !((p.core core).pail pail).edge

/-- Accesses of a core that lie in no arena when they are placed are counted (R305). -/
def PlaneSt.missed (p : PlaneSt) (core reads writes : Nat) : PlaneSt :=
  if reads + writes = 0 then p
  else p.onCore core fun c => { c with su := { c.su with oorR := satAdd 32 c.su.oorR reads, oorW := satAdd 32 c.su.oorW writes } }

/-- The masked bytes of a sector among those of a hand-over: address, mask, value. -/
def sectorBytes (sec : Nat) (bs : List (Nat × Byte × Byte)) : List WByte :=
  (bs.filter fun b => b.1 / 32 == sec).map fun b => ⟨b.1 % 32, b.2.1, b.2.2⟩

/-- The kind of a hand-over in its signature: plain, or the FOLD_OP of a fold arena (R379). -/
def ChipCfg.sigOp (cfg : ChipCfg) (a : Nat) : Nat :=
  match cfg.whereIs a with
  | .fold _ _ op _ => 8 + op
  | _ => 0

/-- What a core hands over to external memory joins its tile 32, sector by sector (R379). -/
def PlaneSt.sign (p : PlaneSt) (cfg : ChipCfg) (core : Nat) (bs : List (Nat × Byte × Byte)) : PlaneSt :=
  p.onCore core fun c => ((bs.map fun b => b.1 / 32).eraseDups).foldl
    (fun (c : Core) k => c.sigSector (cfg.sigOp (32 * k)) (32 * k) (sectorBytes k bs)) c

/-- What a transfer writes outside the plane: EXT writes, folds and command records, and the WRITE and FOLD segments that
carry them to another chip (DEDUCED from R379 and R412, log entry 40). -/
def Payload.written (cfg : ChipCfg) (l : LinkSt) (x : Payload) : List (Nat × Byte × Byte) :=
  match x with
  | .extWrite _ _ _ bs => bs.filter fun b => (cfg.cell b.1).isSome
  | .remSeg core ch port chip _ _ more addr bs =>
    if port < 32 ∧ !more then
      let all := (l.port port).asmOf core ch chip ++ bs
      (all.zipIdx).map fun (b, i) => (addr + bs.length - all.length + i, b.1, b.2)
    else []
  | _ => []

/-- The core that hands a transfer over. -/
def Payload.core (x : Payload) : Nat :=
  match x with
  | .extRead c .. | .extWrite c .. | .remRead c .. | .remSeg c .. | .remClose c .. => c
  | _ => 0

/-- A transfer that leaves the plane enters a channel's or a port's queue (R283, R412). -/
def State.handOver (s0 : State) (x : Payload) : State :=
  let w := x.written s0.chip s0.link
  let s := if w.isEmpty then s0 else { s0 with plane := s0.plane.sign s0.chip x.core w }
  match x with
  | .extRead core _ _ _ els =>
    let dead := ((els.filter fun e => (s.chip.cell e.2.1).isNone).map (·.1)).eraseDups.length
    { s with ext := s.ext.handOver s.chip x, plane := s.plane.missed core dead 0 }
  | .extWrite core _ fmt bs =>
    let dead := deadWrites fmt (bs.filter fun b => (s.chip.cell b.1).isNone).length
    { s with ext := s.ext.handOver s.chip x, plane := s.plane.missed core 0 dead }
  | .remRead .. | .remSeg .. | .remClose .. =>
    { s with link := s.link.handOver s.chip x }
  | _ => s

/-! ### What holds a plane cycle back (R365, R366) -/

/-- A response whose release count has come. -/
def State.respDue (s : State) : List Resp := (s.ext.resp ++ s.link.resp).filter fun x => decide (x.rel ≤ s.plane.now)

/-- Whether a read whose release count has come is still without its data: queued at a channel, or open at a port. -/
def State.respLate (s : State) : Bool :=
  (s.ext.chans.any fun k => k.2.queue.any fun q => match q with
    | .read _ _ rel _ => decide (rel ≤ s.plane.now)
    | _ => false) ||
  s.link.ports.any fun p => p.2.tags.any fun t => match t.2.use with
    | some (.read _ _ rel _ _ _) => decide (rel ≤ s.plane.now)
    | _ => false

/-- The port that a payload leaves by. -/
def Payload.port : Payload → Option Nat
  | .remRead _ _ p .. | .remSeg _ _ p .. | .remClose _ _ p .. => some p
  | _ => none

/-- What is due at a port. -/
def PlaneSt.dueAt (pl : PlaneSt) (p : Nat) : List Payload :=
  (pl.mesh.filter fun x => decide (x.due ≤ pl.now) && x.load.port == some p).map (·.load)

/-- Whether what is due at some port finds its queue full or no free tag (R365, R412). -/
def State.portBlocked (s : State) : Bool :=
  (List.range 32).any fun p => !s.link.room s.chip p (s.plane.dueAt p)

/-- The point with HERD set that the chip has come to and whose barrier is not yet released (R351, R386). -/
def State.herdHeld (s : State) : Bool :=
  match s.plane.pointAt s.chip with
  | some (_, x) => x.herd && s.herd.released.isNone
  | none => false

/-- The lowest cause for which the next cadence cycle has to be a slip cycle, none when plane cycle `now` can be
performed (R365, R366). `late` says that an item due has arrived but is not yet visible to the plane (R44). -/
def State.slipCause (s : State) (late : Bool) : Option Nat :=
  let p := s.plane.tripped
  if s.herdHeld then some 1
  else if p.comparing && p.live.any (fun c => (p.core c).seamAt p.now && decide (64 ≤ (p.core c).sig.queue.length)) then some 2
  else if decide (0 < p.govDebt) && p.seamDue then some 3
  else if decide (0 < p.thermDebt) && p.seamDue then some 4
  else if p.live.any fun c => ((p.core c).edgeEmpty p.now).isSome then some 5
  else if s.respLate || (late && !s.respDue.isEmpty) then some 6
  else if !(s.plane.blocked s.ext.room).isEmpty || s.portBlocked then some 7
  else none

/-- Whether cycle `now` can be performed, or what is still to be performed of it. -/
def State.cycleOpen (s : State) : Bool := s.clockOn && (s.plane.half || (s.slipCause false).isNone)

/-- Whether something can still happen in cycle `now` before its phase A has ended: the clock runs, nothing makes the next
cadence cycle a slip cycle, and phase A has not been performed (R362, R365). -/
def State.mayAct (s : State) : Bool := s.clockOn && !s.plane.half && (s.slipCause false).isNone

/-- The cycle up to the end of its phase A; what leaves the plane is handed over. -/
def State.frontNow (s : State) : State :=
  let (p, out) := s.plane.front s.chip
  out.foldl State.handOver { s with plane := p }

/-! ### Commands at one core -/

/-- Core `c` at the start of cycle `now`: what was due by then has happened in it. -/
def State.coreNow (s : State) (c : Nat) : Core := (s.plane.core c).settle s.plane.stop s.plane.now

/-- A core that exists and runs, in a cycle whose slots may still issue. -/
def State.runs (s : State) (c : Nat) : Bool :=
  s.mayAct && s.plane.live.contains c && (s.coreNow c).seq.state == .run

/-- A slot of a running core issues in cycle `now`; events leave, and what the slot itself offers (an ATOM, a SIGNAL) enters
the mesh: the stream unit hands nothing over at an issue (R265). On a core that does not run, with the clock stopped, or in
a cycle that has to be a slip cycle, nothing issues. -/
def State.slot (s : State) (c : Nat) (f : SeqEnv → Nat → Core → Core × List Transit) : State :=
  if s.runs c then
    let k := f (s.plane.seqEnv s.chip c) s.plane.now (s.coreNow c)
    { s with plane := ((s.plane.setCore c k.1).seqOffer c k.2).collect c }
  else s

/-- A slot that hands nothing to the mesh. -/
def State.slotIn (s : State) (c : Nat) (f : Nat → Core → Core) : State :=
  if s.runs c then { s with plane := (s.plane.setCore c (f s.plane.now (s.coreNow c))).collect c } else s

/-- A write to a register of a core that exists and is powered (R501). -/
def State.coreWrite (s : State) (c : Nat) (f : Core → Core) : State :=
  if decide (s.pwr.state ≤ 2) && s.plane.live.contains c then
    { s with plane := (s.plane.setCore c (f (s.plane.core c))).collect c }
  else s

/-- An event of a core that exists, due by cycle `now`; where the cycle cannot take it, nothing happens. -/
def State.coreEvent (s : State) (c : Nat) (f : Nat → Core → Core) : State :=
  if s.mayAct && s.plane.live.contains c then
    { s with plane := (s.plane.setCore c (f s.plane.now (s.plane.core c))).collect c }
  else s

/-- An event of the end of cycle `now`, after its phase A, where `due` says that one is due by then. -/
def State.rearEvent (s : State) (c : Nat) (due : Nat → Core → Bool) (f : Nat → Core → Core) : State :=
  let t := s.frontNow
  if s.cycleOpen && s.plane.live.contains c && due t.plane.now (t.plane.core c) then
    { t with plane := (t.plane.setCore c (f t.plane.now (t.plane.core c))).collect c }
  else s

end Sys2Proof.Machine
end

