-- ==== Sys2Proof/Machine/Membership.lean ====
section
/-! DEFINITION. Membership of the herd: epochs, admission, suspicion, fencing (R424 to R429). -/

namespace Sys2Proof.Machine

/-- The chip a tag's use goes to. -/
def TagUse.dest : TagUse → Nat
  | .read _ _ _ chip _ _ => chip
  | .xfer _ _ chip _ _ => chip

/-- Every open tag whose destination satisfies a test ends DEAD (R427, R428). -/
def LinkSt.dead (l : LinkSt) (gone : Nat → Bool) : LinkSt :=
  (List.range 32).foldl (fun (l : LinkSt) p => l.settlePort p 2 fun u => gone u.dest) l

/-- Received flits that satisfy a test are dropped, their buffers freed, and the records of such flits in the Sync handler. -/
def Port.dropRx (q : Port) (epoch : Nat) (bad : Flit → Bool) : Port :=
  (q.rx.filter fun r => bad r.flit).foldl (fun (q : Port) r => q.free epoch r.flit.vc)
    { q with rx := q.rx.filter fun r => !bad r.flit, sync := q.sync.filter fun r => !bad r.1 }

/-- The flits a port holds for an epoch are judged again (R426). -/
def LinkSt.rejudge (l : LinkSt) (cfg : ChipCfg) (p : Nat) : LinkSt :=
  (l.port p).held.foldl (fun (l : LinkSt) f => l.accept cfg p f.flit f.bad) (l.onPort p fun q => { q with held := [] })

/-- The link after this chip, a member of it, adopts an epoch (R424, R426, R427). -/
def LinkSt.adopt (l : LinkSt) (cfg : ChipCfg) (epoch root : Nat) (mask : List Nat) : LinkSt :=
  let l2 := ({ l with epoch := epoch, root := root, mask := mask, mstate := 2 } : LinkSt).dead fun c => !mask.contains c
  let l3 := (List.range 32).foldl (fun (l : LinkSt) p =>
    ((l.onPort p fun q => q.dropRx l.epoch fun f => !f.loc && !mask.contains f.src).rejudge cfg p).pump p) l2
  l3.line 69

/-- The link of a chip that becomes FENCED: every transaction ends DEAD and delivers its tokens, every flit it holds
is discarded (R428). -/
def LinkSt.fenceAll (l : LinkSt) (root : Nat) : LinkSt :=
  let l1 := ({ l with mstate := 3, root := root } : LinkSt).dead fun _ => true
  let ob := l1.xfers.foldl (fun (o : Outbox) (t : InXfer) => o.token t.core (2044 + t.mch)) l1.ob
  let l2 := (List.range 32).foldl (fun (l : LinkSt) p => l.onPort p fun q =>
    (q.through.foldl (fun (q : Port) x => q.free l.epoch x.2.vc) (q.held.foldl (fun (q : Port) f => q.free l.epoch f.flit.vc)
      { q with outq := [], held := [], byre := [], through := [], asm := [] })).dropRx l.epoch fun _ => true)
    { l1 with xfers := [], ob := ob }
  l2.line 69

/-- This chip becomes FENCED under an epoch, whose root it takes: its cores halt at their next seam, the host hears of it
(R428). -/
def State.fence (s : State) (epoch root : Nat) : State :=
  if s.link.mstate = 3 then s
  else
    let l := s.link.fenceAll root
    { s with link := { l with ob := l.ob.event 4 epoch 0 }, plane := { s.plane with stop := true },
             herd := s.herd.tree l s.chip }

/-- MEMBER's segment of an epoch (R403). -/
def memberSeg (epoch root : Nat) (mask : List Nat) : Seg :=
  syncSeg 0x17 epoch root (leBytes 128 (mask.foldl (fun m i => m ||| 1 <<< i) 0))

/-- The membership in force goes to every neighbour (R424). -/
def LinkSt.flood (l : LinkSt) (cfg : ChipCfg) : LinkSt :=
  l.upPorts.foldl (fun (l : LinkSt) p => l.tell cfg p (memberSeg l.epoch l.root l.mask)) l

/-- A member that was removed takes the herd's barriers of the run with it: their decision bits stay clear, that of a RELEASE
already received too (R427). -/
def HerdSt.lost (h : HerdSt) : HerdSt :=
  { h with degraded := true
           bar := h.bar.map fun b => { b with bit := false, release := b.release.map fun r => (r.1, false) } }

/-- This chip adopts an epoch (R424 to R429): as a member; or it is excluded and becomes FENCED, or goes on
JOINING. -/
def State.adopt (s : State) (epoch root : Nat) (mask : List Nat) : State :=
  if mask.contains s.chip.herdX then
    let removed := s.link.mstate == 2 && s.link.mask.any fun c => !mask.contains c
    let l := s.link.adopt s.chip epoch root mask
    let h := if removed then s.herd.lost else s.herd
    let s1 := { s with link := l.flood s.chip, herd := h.tree l s.chip }
    if s.link.mstate = 3 then
      match s1.host.waiting 0x22 with
      | some c => s1.answer c.id 0 0 epoch 0
      | none => s1
    else s1
  else if s.link.mstate = 1 then
    { s with link := ({ s.link with epoch := epoch, root := root, mask := mask } : LinkSt).line 69 }
  else
    let s1 := s.fence epoch root
    { s1 with link := { s1.link with epoch := epoch, root := root, mask := mask } }

/-- The root issues the next epoch (R424): the lowest-indexed member is its root. -/
def State.issue (s : State) (mask : List Nat) : State := s.adopt ((s.link.epoch + 1) % 65536) (mask.headD 0) mask

/-- JOIN's segment (R403). -/
def State.joinSeg (s : State) : Seg := syncSeg 0x16 0 0 (leBytes 8 s.sup.moduleId)

/-- At a COLD image load the membership is NONE and the chip joins: herd index 0 admits itself, every other chip sends
JOIN towards it (R425). -/
def State.startJoin (s : State) : State :=
  let s1 := { s with link := { s.link with mstate := 1, epoch := 0, root := 0, mask := [] } }
  if s.chip.herdX = 0 then s1.issue [0]
  else { s1 with link := s1.link.sendTo s.chip 3 0 s.joinSeg }

/-- JOIN (R425, R429): the root admits a sender whose identity is the one its HERD section gives. -/
def State.join (s : State) (p : Nat) : State :=
  match s.link.syncHead p 0x16 with
  | none => s
  | some (f, _, g) =>
    let s1 := { s with link := s.link.syncPop p }
    let me := s.chip.herdX
    if s.link.mstate = 2 ∧ s.link.root = me ∧ s.chip.herdIds[f.src]? = some (leAt g.data 0 8) then
      s1.issue (secIns f.src s.link.mask)
    else s1

/-- MEMBER (R424): the first of each epoch is adopted and passed on; of two of the same epoch the one with the lower
root wins. -/
def State.member (s : State) (p : Nat) : State :=
  match s.link.syncHead p 0x17 with
  | none => s
  | some (f, i, g) =>
    let s1 := { s with link := s.link.syncPop p }
    if !f.loc then { s with link := (s.link.syncPop p).syncBad p f i }
    else
      let epoch := g.aux % 65536
      let root := g.addr % 1024
      let m := leNat (slice g.data 0 128)
      let mask := (List.range 1024).filter fun i => bit m i
      let wins := epoch == s.link.epoch && (s.link.mask != mask) && decide (root < s.link.root)
      if s.link.mstate = 0 then s1
      else if s.link.mask.isEmpty ∨ newer epoch s.link.epoch ∨ wins then s1.adopt epoch root mask
      else s1

/-- Who issues the epoch without a suspected chip: the root, or the lowest other member when the root is suspected
(R427). -/
def LinkSt.judge (l : LinkSt) (y : Nat) : Nat := if y = l.root then (l.mask.find? (· != y)).getD 0 else l.root

/-- This chip suspects a member (R427). -/
def State.suspectOf (s : State) (y : Nat) : State :=
  if s.link.mstate = 2 ∧ s.link.mask.contains y ∧ y ≠ s.chip.herdX then
    let j := s.link.judge y
    if j = s.chip.herdX then s.issue (s.link.mask.filter (· != y))
    else { s with link := s.link.sendTo s.chip 3 j (syncSeg 0x15 y 0 []) }
  else s

/-- SUSPECT (R427). -/
def State.suspect (s : State) (p : Nat) : State :=
  match s.link.syncHead p 0x15 with
  | none => s
  | some (_, _, g) =>
    let s1 := { s with link := s.link.syncPop p }
    let y := g.aux % 1024
    if s.link.mstate = 2 ∧ s.link.mask.contains y ∧ y ≠ s.chip.herdX ∧ s.link.judge y = s.chip.herdX then
      s1.issue (s.link.mask.filter (· != y))
    else s1

/-- The ports whose partner is a herd index (R436). -/
def State.portsTo (s : State) (x : Nat) : List Nat :=
  (List.range 32).filter fun p => peerHerd s.chip (s.link.port p) == some x

/-- Whether a port has been DOWN, DISABLED or FENCED for DEAD_TIME (R427). -/
def LinkSt.deadPort (l : LinkSt) (p : Nat) : Bool :=
  match (l.port p).downSince with
  | some t => decide (t + l.deadTicks ≤ l.clock)
  | none => false

/-- SUSPECT_TIMEOUT: every port to the chip has been DOWN, DISABLED or FENCED for DEAD_TIME (R427). -/
def State.suspectTimeout (s : State) (x : Nat) : State :=
  let ps := s.portsTo x
  if !ps.isEmpty && ps.all s.link.deadPort then s.suspectOf x else s

/-- EPOCH: a request is answered with the MEMBER of the epoch in force; an epoch told is asked for, or fences this
chip (R404, R426, R428). -/
def State.epochFlit (s : State) (p : Nat) (request : Bool) (epoch root : Nat) (excludes : Bool) : State :=
  if request then
    if s.link.mstate = 2 then { s with link := s.link.tell s.chip p (memberSeg s.link.epoch s.link.root s.link.mask) } else s
  else if newer epoch s.link.epoch then
    if excludes then (if s.link.mstate = 2 then s.fence epoch root else s)
    else if s.link.mstate = 0 then s
    else { s with link := s.link.control p .epochAsk }
  else s

/-- BARRIER_TIMEOUT: the children in the timing tree whose arrival this chip still waits for are suspected, then it leaves the
barrier (R388, R427). -/
def State.barrierTimeout (s : State) (children : List Nat) : State :=
  if !s.herd.barOver then s
  else
    let came := fun (seq : Nat) => (s.herd.arrives.filter (·.seq == seq)).filterMap fun a => peerHerd s.chip (s.link.port a.port)
    let late := match s.herd.bar with
      | some b => if b.sent then [] else children.filter fun x => (s.herd.childPort s.link s.chip x).isSome && !(came b.seq).contains x
      | none => []
    late.foldl State.suspectOf { s with herd := s.herd.barTimeoutDo }

end Sys2Proof.Machine
end

