-- ==== Sys2Proof/Machine/Run.lean ====
section
/-! DEFINITION. The run as a whole: what a plane cycle waits for, the cycle and the slip cycle of the chip, exchange
points, launch and the end of a run (R350 to R353, R362 to R367, R372, R380, R381, R389). -/

namespace Sys2Proof.Machine

/-! ### Cycles of the chip (R365, R366) -/

/-- One cadence cycle of herd time: one tick in P0, two in P1 (R382, R501). -/
def State.herdCycle (s : State) : State :=
  let n := if s.pwr.state = 1 then 2 else 1
  { s with herd := s.herd.ticks n, link := s.link.pass n }

/-- The decision bit of this chip at occurrence `n` of a point: it is armed for it (R351). -/
def State.armedFor (s : State) (x n : Nat) : Bool := s.img.shadow == 3 && s.img.armPoint == x && s.img.armOcc == n

/-- The occurrence of a point that is sampled next. -/
def State.nextOcc (s : State) (x : Nat) : Nat := (s.plane.occ.get 0 x).toNat + 1

/-- The chip arrives at the herd barrier of the point it has come to (R351, R385). -/
def State.joinBarrier (s : State) : State :=
  match s.plane.pointAt s.chip with
  | some (x, pt) =>
    if pt.herd ∧ s.herd.bar.isNone then
      { s with herd := s.herd.arrive s.herd.nextSeq (s.armedFor x (s.nextOcc x))
               img := { s.img with sampled := some (s.armedFor x (s.nextOcc x)) } }
    else s
  | none => s

/-- SLIP: one slip cycle, when some cause holds; it is charged to the lowest (R362, R366). A cycle whose phase A has been
performed is no slip cycle. -/
def State.slipCycle (s : State) (late : Bool) : State :=
  if !s.clockOn || s.plane.half then s
  else match s.slipCause late with
    | none => s
    | some k =>
      let s1 := if k = 1 then s.joinBarrier else s
      let (full, p) := s1.plane.meetFull s1.ext.room
      { s1 with plane := p.slip k
                ext := full.foldl (fun (x : ExtSt) c => x.noteFull c) s1.ext }.herdCycle

/-! ### Lock-step (R380, R381) -/

/-- The record of a closed core-step. -/
def recOf (core : Nat) (e : Nat × Nat × List (BitVec 64)) : LsRec := ⟨e.1, core, e.2.1, coreSig e.2.2⟩

/-- The records that the cycle just performed closed are sent to the partner; `old` is the length a core's queue had
before. -/
def State.lsSend (s : State) (old : Nat → Nat) : State :=
  if !s.plane.comparing then s
  else
    let new := s.plane.live.flatMap fun c => ((s.plane.core c).sig.queue.drop (old c)).map (recOf c)
    { s with link := new.foldl (fun (l : LinkSt) r =>
        l.sendTo s.chip 3 (lsPartner s.herd.lsOn) (syncSeg 0x13 0 0 r.bytes)) s.link }

/-- A core-step closed here, if the partner's record of it is there: both leave, compared (R381). -/
def State.lsOne (s : State) (core : Nat) (e : Nat × Nat × List (BitVec 64)) : State :=
  let r := recOf core e
  match takeFirst (fun (q : LsRec) => q.seg == r.seg && q.step == r.step && q.core == r.core) s.herd.remote with
  | none => s
  | some (theirs, rest) =>
    let (h, l) := ({ s.herd with remote := rest } : HerdSt).compare s.link s.chip r theirs e.2.2
    { s with herd := h, link := l,
             plane := s.plane.onCore core fun c => { c with sig := { c.sig with queue := c.sig.queue.erase e } } }

/-- Every pair of records that is complete is compared; with LS_HALT a mismatch halts every core at its next seam. A
chip that is MISPAIRED compares nothing and keeps no record. -/
def State.lsCompare (s : State) : State :=
  if s.herd.lsState = 2 then
    let s1 := s.plane.live.foldl (fun (s : State) c =>
      (s.plane.core c).sig.queue.foldl (fun (s : State) e => s.lsOne c e) s) s
    if s1.herd.mismatch ∧ lsHalt s1.herd.lsOn then { s1 with plane := { s1.plane with stop := true } } else s1
  else if s.herd.lsState = 3 then
    { s with plane := { s.plane.each fun _ c => { c with sig := { c.sig with queue := [] } } with comparing := false }
             herd := { s.herd with remote := [] } }
  else s

/-! ### Images coming into force -/

/-- What an image sets outside the plane: arenas, routes, points, events (R340 to R344, R350). -/
def State.useChip (s : State) (img : Image) : State :=
  { s with chip := img.chip
           icu := s.icu.useEvents (img.chip.events.map fun e => (e.source, e.priority, e.filter, e.target)) }

/-- An exchange follows plane cycle E, just performed, at occurrence `n` of point `x` (R350, R351). -/
def State.exchange (s : State) (img : Image) (x n : Nat) : State :=
  let e := s.plane.count - 1
  let w := fld n 32 32 + fld x 8 24
  let s1 := { s with
    plane := { s.plane.exchange img with ob := (s.plane.exchange img).ob.event 7 e.toNat w }
    img := { s.img with active := img.kind + 1, activeHash := img.hash, shadow := 0, image := none, xchgCount := e,
                        xchgOcc := n, xchgPoint := x, segment := s.img.segment + 1 }
    pwr := s.pwr.note 3 (leNat (img.hash.take 8)) }
  s1.useChip img

/-- The occurrence of a point that plane cycle E, just performed, completed (R351, R361): the arm is sampled, and the
exchange proceeds or every core goes on. `dec` is the herd's decision at a point with HERD set. -/
def State.pointDone (s : State) (x : Nat) (pt : Point) (dec : Option Bool) : State :=
  let n := s.nextOcc x
  let armed := s.img.sampled.getD (s.armedFor x n)
  let s1 := { s with plane := s.plane.occurred x, herd := if pt.herd then s.herd.leave else s.herd,
                     img := { s.img with sampled := none } }
  let agree := !pt.herd || dec == some true
  match s.img.image with
  | some img =>
    if armed ∧ agree then s1.exchange img x n
    else if armed then
      { s1 with plane := { s1.plane.release with ob := s1.plane.ob.event 8 x n }
                img := { s1.img with shadow := 2, code := 0x1A, section_ := 0xFFF, detail := 0 } }
    else { s1 with plane := s1.plane.release }
  | none => { s1 with plane := s1.plane.release }

/-! ### Launch (R350, R389) -/

/-- The run identity (R372). -/
def State.runIdOf (s : State) (hash : Bytes) : Nat :=
  leNat ((sha384 (slice hash 0 48 ++ leBytes 4 s.sec.version.toNat ++ leBytes 8 s.sup.digest.toNat ++
    leBytes 2 s.sup.partCode ++ [BitVec.ofNat 8 (b2n (s.pwr.state == 1))] ++ fillBytes 15 0)).take 8)

/-- External memory as a COLD start leaves it before the DATA sections (R350): the bytes that arenas can reach have their reset
contents, and the fault and telemetry counters of channels and units their reset values. -/
def ExtSt.cold (x : ExtSt) : ExtSt :=
  let eozil := fun (k : Nat) => decide (chanUsable ≤ k % 2 ^ 31)
  { x with
    mem := x.mem.filter fun c => eozil c.1
    bad := x.bad.filter fun k => eozil (32 * k)
    soft := x.soft.filter fun k => eozil (32 * k)
    chans := x.chans.map fun p => (p.1, p.2.countersReset) }

/-- DATA_EXT sections written into external memory under an image's arenas (R348, R350). -/
def ExtSt.loadData (x : ExtSt) (img : Image) : ExtSt :=
  img.exts.foldl (fun (x : ExtSt) e => (x.writeFor img.chip e.1 0 e.2).1) x

/-- A COLD start of an image (R350, R363, R372, R378, R390): the plane count becomes 0 in the cycle performed next. -/
def State.coldStart (s : State) (img : Image) : State :=
  let link0 := LinkSt.newRun { s.link with ports := s.link.ports.map fun p => (p.1, p.2.countersReset) }
  let (h, l) := s.herd.coldStart link0 img.chip
  let comparing := h.lsState == 1
  let s1 := { s with
    herd := h
    link := l
    plane := s.plane.launch img comparing
    ext := s.ext.cold.loadData img
    img := { s.img with sampled := none, active := 1, activeHash := img.hash, shadow := 0, image := none, runs := s.img.runs + 1,
                        runId := BitVec.ofNat 64 (s.runIdOf img.hash), segment := 0, pstateChanged := false,
                        pstateStart := s.pwr.state == 1, launch := none }
    pwr := s.pwr.note 2 (leNat (img.hash.take 8)) }
  s1.useChip img

/-- The image that a command launches starts, and the command completes with the herd count (R389, R459). -/
def State.launchWith (s : State) (img : Image) (cmd : Nat) : State :=
  (s.coldStart img).imgCode cmd 0 s.herd.count.toNat

/-- A launch that does not take place: its command ends REFUSED with LATE, the image stays READY (R389). -/
def State.launchLate (s : State) (cmd : Nat) : State :=
  ({ s with img := { s.img with launch := none } }).imgCode cmd 0x18 0

/-- This chip is a member and so is every index of the HERD section (R389). -/
def State.herdComplete (s : State) (h : Nat) : Bool :=
  s.link.mstate == 2 && (List.range h).all fun i => s.link.mask.contains i

/-- The chip arrives at barrier 0 of a start once every index of the HERD section is a member (R389, R425). -/
def State.arriveStart (s : State) (img : Image) : State :=
  if s.herdComplete img.chip.herdN ∧ s.herd.bar.isNone then { s with herd := s.herd.arriveFirst } else s

/-- A start whose release has come (R389): AT_COUNT, once the herd count has reached L; BARRIER, once barrier 0 is released. -/
def State.launchDue (s : State) : State :=
  match s.img.launch, s.img.image with
  | some l, some img =>
    if l.barrier then
      match (if s.herd.bar.isSome then s.herd.released else none) with
      | some true => { s with herd := s.herd.leave }.launchWith img l.cmd
      | some false => { s with herd := { s.herd.leave with nextSeq := 0 } }.launchLate l.cmd
      | none => s
    else if l.at_ = 0 ∨ s.herd.count < l.at_ then s
    else if s.herdComplete img.chip.herdN then s.launchWith img l.cmd
    else s.launchLate l.cmd
  | _, _ => s

/-! ### One plane cycle of the chip -/

/-- A response on its way into the mesh (R40, R265, R414). -/
def State.respTransit (s : State) (group : Nat) (x : Resp) : Transit :=
  transit s.chip.routes group x.src (s.plane.site x.core) 0 s.plane.now (.data x.core x.ch x.els)

/-- The row a response belongs to: what one source returns for it is one transfer. -/
def Resp.row (x : Resp) : Nat × Nat × Nat × Nat := (x.src, x.core, x.ch, x.rel)

/-- Whether a response finds its link channel, that of its move channel, taken in this cycle by another row's (R399). -/
def Resp.shutOut (all : List Resp) (x : Resp) : Bool :=
  decide (400 ≤ x.src) && (match all.find? fun y => y.src == x.src && y.ch == x.ch with
    | some y => y.row != x.row
    | none => false)

/-- The responses due in this cycle as transfers: those of a row share a group; one whose link channel is taken collides there
(R41, R399). -/
def State.respInject (s : State) (due : List Resp) : List Transit :=
  let rows := (due.map Resp.row).eraseDups
  due.map fun x =>
    let t := s.respTransit (s.plane.group + rows.idxOf x.row) x
    if x.shutOut due then { t with lost := true, legs := [] } else t

/-- Collisions at the inbound link channels are counted at their routers (R41). -/
def PlaneSt.inboundLost (p : PlaneSt) (due : List Resp) : PlaneSt :=
  let sites := (due.filter fun x => x.shutOut due).map fun x => (linkAttach (x.src - 400)).1
  { p with coll := sites.foldl (fun (t : Tab Nat) s => t.upd 0 s (· + 1)) p.coll,
           ob := sites.foldl (fun (o : Outbox) s => o.line (72 + s / 18)) p.ob }

/-- The end of the plane cycle: cores and tokens, the offers to the mesh with the responses that are due; what needs no mesh
is handed over. -/
def State.rearNow (s : State) : State :=
  let due := s.respDue
  let (p, out) := (({ s.plane with group := s.plane.group + due.length } : PlaneSt).inboundLost due).rear s.chip (s.respInject due)
  let later := fun (r : List Resp) => r.filter fun x => decide (s.plane.now < x.rel)
  out.foldl State.handOver
    { s with plane := p, ext := { s.ext with resp := later s.ext.resp }, link := { s.link with resp := later s.link.resp } }

/-- The idle cycles that governor and thermal level come to owe with an advancing cycle (R509, R510). -/
def State.owe (s : State) : State :=
  let (w, g, t) := s.pwr.advance
  { s with pwr := w, plane := { s.plane with govDebt := s.plane.govDebt + g, thermDebt := s.plane.thermDebt + t } }

/-- A cadence cycle begins: a start whose release has come takes place in it (R389). -/
def State.beginCycle (s : State) : State := if s.clockOn && !s.plane.half then s.launchDue else s

/-- PLANE_CYCLE: plane cycle `now`, or what is still to be performed of it, when nothing holds it back (R362, R365). -/
def State.planeCycle (sOld : State) : State :=
  let s := sOld.beginCycle
  if !s.cycleOpen then s
  else
    let s0 := s.frontNow
    let pt := s0.plane.pointAt s0.chip
    let dec := s0.herd.released
    let old := fun (c : Nat) => (s0.plane.core c).sig.queue.length
    let s1 := ((s0.rearNow.lsSend old).lsCompare).owe.herdCycle
    match pt with
    | some (x, p) => s1.pointDone x p dec
    | none => s1

/-! ### The end of a run -/

/-- Lock-step records are left uncompared: the partner's, or this chip's own (R381). -/
def State.recordsLeft (s : State) : Bool :=
  decide (s.herd.lsState = 1 ∨ s.herd.lsState = 2) &&
    (!s.herd.remote.isEmpty || s.plane.live.any fun c => !(s.plane.core c).sig.queue.isEmpty)

/-- Lock-step at the end of the run: records left uncompared show as UNMATCHED (R381, R396). -/
def State.runOver (s : State) : State := { s with herd := { s.herd with unmatched := s.herd.unmatched || s.recordsLeft } }

/-- The run ends and no image is active (R309, R345, R505): the waiting image commands end, the plane is as after a
reset. -/
def State.endRun (s : State) : State :=
  let s1 := match s.img.launch with
    | some l => s.imgCode l.cmd 0x16 0
    | none => s
  let s2 := match s1.host.waiting 0x16 with
    | some c => s1.answer c.id 0 0 s1.plane.count.toNat 0
    | none => s1
  let s3 := (if s2.img.second then s2.imgCode s2.img.loadCmd 0x16 0 else s2).runOver
  { s3 with
    plane := { s3.plane.clear with launched := s3.plane.launched }
    chip := ChipCfg.reset s3.ext.okAtReset
    icu := s3.icu.useEvents []
    herd := { s3.herd with bar := none, arrives := [], early := [] }
    link := s3.link.newRun
    img := { s3.img with active := 0, activeHash := [], shadow := 0, image := none, second := false, loading := [], sampled := none,
                         launch := none } }

end Sys2Proof.Machine
end

