-- ==== Sys2Proof/Machine/SlotRows.lean ====
section
/-! DEFINITION. The commands that are one slot of a bundle (R139, R140, R157, R158, R245 to R250, R262): SEQ, ME, VE and
SU slots, each issued by a running core in the plane cycle to be performed next. -/

namespace Sys2Proof.Machine

/-- What every command answers: a next state. -/
abbrev Result := Host.Outcome State Fault Refusal

/-! ### SEQ slots (R248 to R251, R254, R269) -/

/-- GAP of the bundle a core is at. -/
def Core.gap (c : Core) : Nat := match c.bundle with | some b => bits (slotOf b 0) 23 8 | none => 0

/-- WAIT as a slot of its own in cycle `r` (R269): a token is taken; an empty PLANE pail stalls the core, an empty EDGE
pail leaves it as it is, for the plane slips. -/
def Core.waitSlot (c : Core) (r arg : Nat) : Core :=
  let p := c.pail (bits arg 26 16)
  if bits arg 15 0 = 0 ∧ p.level = 0 then
    if p.edge then c
    else { c with seq := { c.seq with stalled := true, stalls := c.seq.stalls + 1, nextAt := some (r + 1) } }
  else c.seqWait arg

/-- LOOP as a slot of its own in cycle `r` (R250): a branch taken leads to its bundle. -/
def Core.loopSlot (c : Core) (r arg : Nat) : Core :=
  match c.seqLoop arg with
  | (k, some b) => { k with seq := { k.seq with bundle := b, rep := 0, nextAt := some (r + 1 + c.gap), stalled := false } }
  | (k, none) => k

/-- SEAM as a slot of its own in cycle `r` (R251 to R253). -/
def Core.seamSlot (c : Core) (env : SeqEnv) (r arg : Nat) : Core :=
  if bits arg 26 21 ≠ 0 ∨ bits arg 13 0 ≠ 0 then c.seqRefuse 1 5 else c.seamStart c env r arg c.gap

/-- Whether a seam of core `c` may issue: no idle cycle is owed, which a seam pays first (R367), and the core's signature
queue has room (R380). -/
def State.seamOpen (s : State) (c : Nat) : Bool :=
  s.plane.govDebt == 0 && s.plane.thermDebt == 0 &&
  (!s.plane.comparing || decide ((s.plane.core c).sig.queue.length < 64))

/-- HALT as a slot of its own (R254). -/
def Core.haltSlot (c : Core) (arg : Nat) : Core := if arg ≠ 0 then c.seqRefuse 1 6 else c.halt

/-- The operand of an ATOM with its KIND field set (R249). -/
def atomArg (kind arg : Nat) : Nat := arg / 2 ^ 23 * 2 ^ 23 + kind * 2 ^ 21 + arg % 2 ^ 21

/-- SIGNAL. -/
def execSignal (c : Fin 128) (arg : BitVec 27) (s : State) : Result :=
  .next (s.slot c fun env r k => k.seqSignal env c r arg.toNat)
/-- WAIT. -/
def execWait (c : Fin 128) (arg : BitVec 27) (s : State) : Result := .next (s.slotIn c fun r k => k.waitSlot r arg.toNat)
/-- SETT. -/
def execSett (c : Fin 128) (arg : BitVec 27) (s : State) : Result := .next (s.slotIn c fun _ k => k.seqSett arg.toNat)
/-- LOOP. -/
def execLoop (c : Fin 128) (arg : BitVec 27) (s : State) : Result := .next (s.slotIn c fun r k => k.loopSlot r arg.toNat)
/-- SEAM. -/
def execSeam (c : Fin 128) (arg : BitVec 27) (s : State) : Result :=
  .next (if s.seamOpen c then s.slot c fun env r k => (k.seamSlot env r arg.toNat, []) else s)
/-- HALT. -/
def execHalt (c : Fin 128) (arg : BitVec 27) (s : State) : Result := .next (s.slotIn c fun _ k => k.haltSlot arg.toNat)
/-- FAA_I32: ATOM of KIND 0. -/
def execFaaI32 (c : Fin 128) (arg : BitVec 27) (s : State) : Result :=
  .next (s.slot c fun env r k => k.seqAtom env c r (atomArg 0 arg.toNat))
/-- FAA_P32: ATOM of KIND 1. -/
def execFaaP32 (c : Fin 128) (arg : BitVec 27) (s : State) : Result :=
  .next (s.slot c fun env r k => k.seqAtom env c r (atomArg 1 arg.toNat))
/-- CAS64: ATOM of KIND 2. -/
def execCas64 (c : Fin 128) (arg : BitVec 27) (s : State) : Result :=
  .next (s.slot c fun env r k => k.seqAtom env c r (atomArg 2 arg.toNat))

/-! ### ME slots (R139, R140) -/

/-- OPEN. -/
def execMeOpen (c : Fin 128) (e : Fin 4) (arg : BitVec 27) (s : State) : Result :=
  .next (s.slotIn c fun r k => k.slotOpen r e arg.toNat)
/-- SEAL. -/
def execMeSeal (c : Fin 128) (e : Fin 4) (arg : BitVec 27) (s : State) : Result :=
  .next (s.slotIn c fun r k => k.slotSeal r e arg.toNat)
/-- DRAIN. -/
def execMeDrain (c : Fin 128) (e : Fin 4) (arg : BitVec 27) (s : State) : Result :=
  .next (s.slotIn c fun r k => k.slotDrain r e arg.toNat)
/-- EXPORT. -/
def execMeExport (c : Fin 128) (e : Fin 4) (arg : BitVec 27) (s : State) : Result :=
  .next (s.slotIn c fun r k => k.slotExport r e arg.toNat)
/-- RELEASE. -/
def execMeRelease (c : Fin 128) (e : Fin 4) (arg : BitVec 27) (s : State) : Result :=
  .next (s.slotIn c fun r k => k.slotRelease r e arg.toNat)
/-- PRELOAD. -/
def execMePreload (c : Fin 128) (e : Fin 4) (arg : BitVec 27) (s : State) : Result :=
  .next (s.slotIn c fun r k => k.slotPreload r e arg.toNat)
/-- MMA. -/
def execMeMma (c : Fin 128) (e : Fin 4) (arg : BitVec 27) (s : State) : Result :=
  .next (s.slotIn c fun _ k => k.slotMma e arg.toNat)
/-- CONV. -/
def execMeConv (c : Fin 128) (e : Fin 4) (arg : BitVec 27) (s : State) : Result :=
  .next (s.slotIn c fun _ k => k.slotConv e arg.toNat)
/-- WSMV. -/
def execMeWsmv (c : Fin 128) (e : Fin 4) (arg : BitVec 27) (s : State) : Result :=
  .next (s.slotIn c fun _ k => k.slotWsmv e arg.toNat)
/-- FOLDIN. -/
def execMeFoldin (c : Fin 128) (e : Fin 4) (arg : BitVec 27) (s : State) : Result :=
  .next (s.slotIn c fun _ k => k.slotFoldin e arg.toNat)

/-! ### VE slots (R157, R158) -/

/-- VLD. -/
def execVld (c : Fin 128) (arg : BitVec 26) (s : State) : Result := .next (s.slotIn c fun r k => k.slotVe r 0x01 arg.toNat)
/-- VST. -/
def execVst (c : Fin 128) (arg : BitVec 26) (s : State) : Result := .next (s.slotIn c fun r k => k.slotVe r 0x02 arg.toNat)
/-- VCONST. -/
def execVconst (c : Fin 128) (arg : BitVec 26) (s : State) : Result := .next (s.slotIn c fun r k => k.slotVe r 0x03 arg.toNat)
/-- VMOV. -/
def execVmov (c : Fin 128) (arg : BitVec 26) (s : State) : Result := .next (s.slotIn c fun r k => k.slotVe r 0x04 arg.toNat)
/-- VCVT. -/
def execVcvt (c : Fin 128) (arg : BitVec 26) (s : State) : Result := .next (s.slotIn c fun r k => k.slotVe r 0x05 arg.toNat)
/-- VADD. -/
def execVadd (c : Fin 128) (arg : BitVec 26) (s : State) : Result := .next (s.slotIn c fun r k => k.slotVe r 0x08 arg.toNat)
/-- VMUL. -/
def execVmul (c : Fin 128) (arg : BitVec 26) (s : State) : Result := .next (s.slotIn c fun r k => k.slotVe r 0x09 arg.toNat)
/-- VFMA. -/
def execVfma (c : Fin 128) (arg : BitVec 26) (s : State) : Result := .next (s.slotIn c fun r k => k.slotVe r 0x0A arg.toNat)
/-- VMAX. -/
def execVmax (c : Fin 128) (arg : BitVec 26) (s : State) : Result := .next (s.slotIn c fun r k => k.slotVe r 0x0B arg.toNat)
/-- VMIN. -/
def execVmin (c : Fin 128) (arg : BitVec 26) (s : State) : Result := .next (s.slotIn c fun r k => k.slotVe r 0x0C arg.toNat)
/-- VABS. -/
def execVabs (c : Fin 128) (arg : BitVec 26) (s : State) : Result := .next (s.slotIn c fun r k => k.slotVe r 0x0D arg.toNat)
/-- VCMP. -/
def execVcmp (c : Fin 128) (arg : BitVec 26) (s : State) : Result := .next (s.slotIn c fun r k => k.slotVe r 0x0E arg.toNat)
/-- VSEL. -/
def execVsel (c : Fin 128) (arg : BitVec 26) (s : State) : Result := .next (s.slotIn c fun r k => k.slotVe r 0x0F arg.toNat)
/-- VQCLR. -/
def execVqclr (c : Fin 128) (arg : BitVec 26) (s : State) : Result := .next (s.slotIn c fun r k => k.slotVe r 0x10 arg.toNat)
/-- VQDOT. -/
def execVqdot (c : Fin 128) (arg : BitVec 26) (s : State) : Result := .next (s.slotIn c fun r k => k.slotVe r 0x11 arg.toNat)
/-- VQSUM. -/
def execVqsum (c : Fin 128) (arg : BitVec 26) (s : State) : Result := .next (s.slotIn c fun r k => k.slotVe r 0x12 arg.toNat)
/-- VQFOLD. -/
def execVqfold (c : Fin 128) (arg : BitVec 26) (s : State) : Result := .next (s.slotIn c fun r k => k.slotVe r 0x13 arg.toNat)
/-- VQRD. -/
def execVqrd (c : Fin 128) (arg : BitVec 26) (s : State) : Result := .next (s.slotIn c fun r k => k.slotVe r 0x14 arg.toNat)
/-- VRMAX. -/
def execVrmax (c : Fin 128) (arg : BitVec 26) (s : State) : Result := .next (s.slotIn c fun r k => k.slotVe r 0x15 arg.toNat)
/-- VRMIN. -/
def execVrmin (c : Fin 128) (arg : BitVec 26) (s : State) : Result := .next (s.slotIn c fun r k => k.slotVe r 0x16 arg.toNat)
/-- VEXP2. -/
def execVexp2 (c : Fin 128) (arg : BitVec 26) (s : State) : Result := .next (s.slotIn c fun r k => k.slotVe r 0x18 arg.toNat)
/-- VLOG2. -/
def execVlog2 (c : Fin 128) (arg : BitVec 26) (s : State) : Result := .next (s.slotIn c fun r k => k.slotVe r 0x19 arg.toNat)
/-- VTAB. -/
def execVtab (c : Fin 128) (arg : BitVec 26) (s : State) : Result := .next (s.slotIn c fun r k => k.slotVe r 0x1A arg.toNat)
/-- VUCALL. -/
def execVucall (c : Fin 128) (arg : BitVec 26) (s : State) : Result := .next (s.slotIn c fun r k => k.slotVe r 0x1B arg.toNat)
/-- SMOPEN. -/
def execSmopen (c : Fin 128) (arg : BitVec 26) (s : State) : Result := .next (s.slotIn c fun r k => k.slotVe r 0x20 arg.toNat)
/-- SMTILE. -/
def execSmtile (c : Fin 128) (arg : BitVec 26) (s : State) : Result := .next (s.slotIn c fun r k => k.slotVe r 0x21 arg.toNat)
/-- SMMERGE. -/
def execSmmerge (c : Fin 128) (arg : BitVec 26) (s : State) : Result := .next (s.slotIn c fun r k => k.slotVe r 0x22 arg.toNat)
/-- SMCLOSE. -/
def execSmclose (c : Fin 128) (arg : BitVec 26) (s : State) : Result := .next (s.slotIn c fun r k => k.slotVe r 0x23 arg.toNat)
/-- SMNORM. -/
def execSmnorm (c : Fin 128) (arg : BitVec 26) (s : State) : Result := .next (s.slotIn c fun r k => k.slotVe r 0x24 arg.toNat)
/-- SMSTATE. -/
def execSmstate (c : Fin 128) (arg : BitVec 26) (s : State) : Result := .next (s.slotIn c fun r k => k.slotVe r 0x25 arg.toNat)

/-! ### SU slots (R262, R263) -/

/-- TYPE of the move-table entry a slot names. -/
def Core.moveType (c : Core) (arg : Nat) : Nat := bits (c.cfg.moves.get 0 (suSlot arg).entry).toNat 127 124

/-- A MOVE slot whose entry is of one of the TYPEs; of any other TYPE the step is another one. -/
def Core.moveSlot (c : Core) (env : SeqEnv) (types : List Nat) (r arg : Nat) : Core :=
  if types.contains (c.moveType arg) then c.suIssue env.su r (suSlot arg) else c

/-- MOVE: an entry of TYPE MOVE, or one that is EMPTY or reserved, which is refused (R267). -/
def execMove (c : Fin 128) (arg : BitVec 27) (s : State) : Result :=
  .next (s.slot c fun env r k => (k.moveSlot env ([0, 1] ++ (List.range 11).map (· + 5)) r arg.toNat, []))
/-- GATHER. -/
def execGather (c : Fin 128) (arg : BitVec 27) (s : State) : Result :=
  .next (s.slot c fun env r k => (k.moveSlot env [2] r arg.toNat, []))
/-- SCATTER. -/
def execScatter (c : Fin 128) (arg : BitVec 27) (s : State) : Result :=
  .next (s.slot c fun env r k => (k.moveSlot env [3] r arg.toNat, []))
/-- ZPCORR. -/
def execZpcorr (c : Fin 128) (arg : BitVec 27) (s : State) : Result :=
  .next (s.slot c fun env r k => (k.moveSlot env [4] r arg.toNat, []))

end Sys2Proof.Machine
end

