-- ==== Sys2Proof/Machine/CoreRows.lean ====
section
/-! DEFINITION. The commands that are an event of a core, of the mesh or of a write to a core's register: each performs
what is due by the plane cycle to be performed next, and nothing where nothing is due (log entry 1). -/

namespace Sys2Proof.Machine

/-! ### Bundles, tokens and seams (R246, R253, R268, R269) -/

/-- A stalled WAIT that now sees a token issues its bundle (R269). -/
def Core.waitOver (c : Core) (env : SeqEnv) (self r : Nat) : Core × List Transit :=
  match c.waitPail with
  | some i => if c.seq.stalled ∧ 0 < (c.pail i).level then c.turn env self r else (c, [])
  | none => (c, [])

/-- SIGNAL tokens of one pail due by cycle `r` enter it (R268). -/
def Core.addTokensOf (c : Core) (r pail : Nat) : Core :=
  (c.seq.tokens.filter fun t => decide (t.1 ≤ r) && t.2 == pail).foldl (fun (c : Core) t => c.planeToken t.2)
    { c with seq := { c.seq with tokens := c.seq.tokens.filter fun t => !(decide (t.1 ≤ r) && t.2 == pail) } }

/-- BUNDLE_ISSUE. -/
def execBundleIssue (c : Fin 128) (s : State) : Result :=
  .next (s.slot c fun env r k => k.turn env c r)
/-- SIGNAL_TOKEN_ADDED. -/
def execSignalTokenAdded (c : Fin 128) (pail : Fin 2048) (s : State) : Result :=
  .next (s.rearEvent c (fun r k => k.seq.tokens.any fun t => decide (t.1 ≤ r) && t.2 == pail.val) fun r k => k.addTokensOf r pail)
/-- WAIT_RELEASE. -/
def execWaitRelease (c : Fin 128) (s : State) : Result := .next (s.slot c fun env r k => k.waitOver env c r)
/-- SEAM_EFFECT. -/
def execSeamEffect (c : Fin 128) (s : State) : Result := .next (s.coreEvent c fun r k => k.seamDo s.plane.stop r)

/-! ### Accesses of one unit (R201, R257, R300) -/

/-- A unit acts in cycle `r` and its accesses are performed, judged against `others`, which the cycle makes beside them. -/
def Core.alone (c : Core) (self r : Nat) (others : List Acc) (f : Core → Core) : Core × List Ret :=
  let k := f { c with st := { c.st with acc := [] } }
  let (k1, rs) := k.perform self r k.st.acc (k.st.acc ++ others)
  ({ k1 with st := { k1.st with acc := c.st.acc, served := c.st.served ++ k.st.acc } }, rs)

/-- The accesses that core `c` makes in phase A of cycle `now`: what its units ask for and the mesh delivers, and what has
been performed already. -/
def State.rivals (s : State) (c : Nat) : List Acc :=
  ((s.plane.gather s.chip).1.core c).st.acc ++ (s.plane.core c).st.served

/-- A unit of a core acts in cycle `now`, its accesses performed at once; what they send back to other cores waits for the
local port (R40, R41). -/
def State.aloneAt (s : State) (c : Nat) (f : Nat → Core → Core) : State :=
  if s.mayAct && s.plane.live.contains c then
    let r := s.plane.now
    let k := (s.coreNow c).alone c r (s.rivals c) (f r)
    { s with plane := ((s.plane.setCore c k.1).returns s.chip c r k.2).collect c }
  else s

/-- A unit of a core acts in cycle `now` without an access to a store. -/
def State.actAt (s : State) (c : Nat) (f : Nat → Core → Core) : State :=
  if s.mayAct && s.plane.live.contains c then
    { s with plane := (s.plane.setCore c (f s.plane.now (s.coreNow c))).collect c }
  else s

/-- The ATOM requests that have reached core `c` by cycle `r` (R249). -/
def PlaneSt.lateOf (p : PlaneSt) (c : Nat) : List Acc :=
  (p.late.filter fun l => l.2.1 == c && decide (l.1 ≤ p.now)).map (·.2.2)

/-- ATOM_BANK_ACCESS (R249, R300). -/
def execAtomBankAccess (c : Fin 128) (s : State) : Result :=
  let accs := s.plane.lateOf c
  let t := s.aloneAt c fun r k =>
    let k1 := k.atomAccs c r
    { k1 with st := { k1.st with acc := k1.st.acc ++ accs } }
  .next (if s.mayAct && s.plane.live.contains c.val then
    { t with plane := { t.plane with late := s.plane.late.filter fun l => !(l.2.1 == c.val && decide (l.1 ≤ s.plane.now)) } }
    else s)
/-- ATOM_RESULT_WRITE (R249). -/
def execAtomResultWrite (c : Fin 128) (s : State) : Result := .next (s.coreEvent c fun r k => k.atomWrites r)

/-! ### Stores (R258, R260) -/

/-- One bank scrubs the row of the present slot, once a slot; corrections and uncorrectable sectors are reported. -/
def Core.scrub (c : Core) (staging : Bool) (bank : Nat) (found : List Upset) : Core :=
  if c.st.scrubDone.contains (staging, bank) ∨ (staging ∧ 8 ≤ bank) then c
  else
    let line := scrubRow staging c.st.scrubCount bank
    let (st, n) := scrubSectors staging line (found.take (lineBytes staging / 32)) 0 (c.st, 0)
    let k := { c with st := { st with scrubDone := st.scrubDone ++ [(staging, bank)] } }
    if n = 0 then k else k.event .uncorrectable

/-- Cells of the cores' stores have taken faults (R258). -/
def State.upsets (s : State) (faults : List CellUpset) : State :=
  { s with plane := faults.foldl (fun (p : PlaneSt) u =>
      if p.live.contains u.core then p.onCore u.core fun c => { c with st := c.st.upset u.staging u.sector u.code } else p) s.plane }

/-- TILE_SCRUB: the faults that cells have taken stand from then on, whichever access or scrub meets them first. -/
def execTileScrub (c : Fin 128) (staging : Bool) (bank : Fin 32) (seen : TileScrub) (s : State) : Result :=
  let s1 := s.upsets seen.faults
  .next (if s1.cycleOpen then s1.coreWrite c fun k => k.scrub staging bank seen.found else s1)
/-- BANK_ADDER_WRITE_BACK. -/
def execBankAdderWriteBack (c : Fin 128) (bank : Fin 32) (s : State) : Result :=
  .next (s.rearEvent c (fun r k => k.st.adders.any fun o => decide (o.due ≤ r) && o.line % 32 == bank.val) fun r k =>
    k.phaseB r (some bank.val))

/-! ### Watchdog and queued registers (R184, R272, R274) -/

/-- WATCHDOG_TRIP. -/
def execWatchdogTrip (c : Fin 128) (s : State) : Result :=
  .next (if s.clockOn && !s.plane.half then s.coreWrite c fun k => if k.wdogOver then k.trip s.plane.now else k else s)
/-- WDOG_CFG_WRITE. -/
def execWdogCfgWrite (c : Fin 128) (val : BitVec 64) (s : State) : Result :=
  .next (s.coreWrite c fun k => { k with seq := { k.seq with wdogLimit := val.setWidth 40 } })
/-- VE_FLUSH_WRITE. -/
def execVeFlushWrite (c : Fin 128) (val : BitVec 64) (s : State) : Result :=
  .next (s.coreWrite c fun k => { k with ve := k.ve.writeFlush val.toNat })

/-! ### Engines (R84, R113, R116, R120, R121, R135 to R138) -/

/-- One vat whose SEAL is six cycles old becomes SEALED (R84). -/
def Core.sealed (c : Core) (r e v : Nat) : Core :=
  c.setMe e { c.me e with vats := (c.me e).vats.map fun (p : Nat × Vat) => if p.1 = v then (p.1, p.2.settle r) else p }

/-- The epilogue performs its cycle, when its operation is of the kind (R135, R136). -/
def Core.epiNow (c : Core) (vexport : Bool) (r e : Nat) : Core :=
  match (c.me e).epi with
  | some op => if op.vexport = vexport then c.epiAct r e else c
  | none => c

/-- The column pipe performs its cycle `r`, its reads at once; what it sends nowhere comes with it. -/
def Core.chunkNow (c : Core) (self r e : Nat) (others : List Acc) : Core :=
  if r < (c.me e).colAt then c else ((c.alone self r others fun k => k.colAct r e).1).colFinish r e

/-- Pending operations of an engine start where their pipes are free (R121, R137, R138). -/
def Core.startPending (c : Core) (r e : Nat) : Core := (c.startCol r e).startEpi r e

/-- SEALED_EFFECT. -/
def execSealedEffect (c : Fin 128) (e : Fin 4) (v : Fin 16) (s : State) : Result :=
  .next (s.coreEvent c fun r k => k.sealed r e v)
/-- DRAIN_ROW_WRITE. -/
def execDrainRowWrite (c : Fin 128) (e : Fin 4) (s : State) : Result :=
  .next (s.aloneAt c fun r k => k.epiNow false r e)
/-- EXPORT_ROW_WRITE. -/
def execExportRowWrite (c : Fin 128) (e : Fin 4) (s : State) : Result :=
  .next (s.aloneAt c fun r k => k.epiNow true r e)
/-- PRELOAD_DONE. -/
def execPreloadDone (c : Fin 128) (e : Fin 4) (s : State) : Result :=
  .next (s.coreEvent c fun r k => k.setMe e ((k.me e).settleLoad r))
/-- PENDING_START. -/
def execPendingStart (c : Fin 128) (e : Fin 4) (s : State) : Result := .next (s.coreEvent c fun r k => k.startPending r e)
/-- SWAP. -/
def execSwap (c : Fin 128) (e : Fin 4) (s : State) : Result :=
  .next (s.actAt c fun r k => if r < (k.me e).colAt then k else k.swapAct r e)
/-- CHUNK_ISSUE: before phase A the column pipe's whole cycle, after it what its reads have given. -/
def execChunkIssue (c : Fin 128) (e : Fin 4) (s : State) : Result :=
  .next (if s.plane.half then
      if s.clockOn then s.coreWrite c fun k => k.colFinish s.plane.now e else s
    else s.actAt c fun r k => k.chunkNow c r e (s.rivals c))
/-- CHUNK_LAND: chunks due, with the fold-in rows that meet them (R113, R138). -/
def execChunkLand (c : Fin 128) (e : Fin 4) (s : State) : Result :=
  .next (s.coreEvent c fun r k => if (k.me e).chunks.any (fun x => decide (x.due ≤ r)) then k.landDue r e else k)
/-- FOLDIN_ROW_LAND: fold-in rows due, with the chunks that meet them (R138). -/
def execFoldinRowLand (c : Fin 128) (e : Fin 4) (s : State) : Result :=
  .next (s.coreEvent c fun r k => if (k.me e).foldRows.any (fun x => decide (x.due ≤ r)) then k.landDue r e else k)

/-! ### Vector engine (R160, R173) -/

/-- VUCALL_END: the result of a micro-program that has run its time. -/
def execVucallEnd (c : Fin 128) (s : State) : Result :=
  .next (s.coreEvent c fun r k => if 0 < k.ve.microUntil ∧ k.ve.microUntil ≤ r then { k with ve := k.ve.settle r } else k)
/-- VE_RESULT_WRITE: registers and quires, then what a VST writes. -/
def execVeResultWrite (c : Fin 128) (s : State) : Result :=
  .next (s.aloneAt c fun r k => k.veStores r)

/-! ### Stream unit and mesh (R40, R263, R265) -/

/-- STREAM_ELEMENT_WRITE. -/
def execStreamElementWrite (c : Fin 128) (m : Fin 4) (s : State) : Result :=
  .next (s.aloneAt c fun r k => k.suAct c r m)

/-- Responses due for a move channel leave for the mesh. -/
def State.releaseReads (s : State) (c m : Nat) : State :=
  let mine := fun (x : Resp) => x.core == c && x.ch == m && decide (x.rel ≤ s.plane.now)
  let due := s.ext.resp.filter mine
  { s with plane := { s.plane with
             group := s.plane.group + due.length
             mesh := s.plane.mesh ++ (due.zipIdx).map fun (x, i) => s.respTransit (s.plane.group + i) x }
           ext := { s.ext with resp := s.ext.resp.filter fun x => !mine x } }

/-- EXT_READ_RELEASE. -/
def execExtReadRelease (c : Fin 128) (m : Fin 4) (s : State) : Result :=
  .next (if s.cycleOpen then s.releaseReads c m else s)
/-- MOVE_END: a channel whose move has made its last write is free. -/
def execMoveEnd (c : Fin 128) (m : Fin 4) (s : State) : Result :=
  .next (s.coreEvent c fun r k =>
    { k with su := { k.su with chans := k.su.chans.filter fun p => p.1 != m.val || decide (r ≤ p.2.lastWrite) } })

/-- The core a transfer is delivered at, none for one that leaves the plane. -/
def Payload.home : Payload → Option Nat
  | .signal c _ | .atom c .. | .atomBack c .. | .readReq c .. | .data c .. | .write c _ => some c
  | _ => none

/-- The transfers of the mesh that are due and satisfy a test are delivered; what leaves the plane is handed on. -/
def State.deliverDue (s : State) (f : Transit → Bool) : State :=
  let mine := fun (x : Transit) => decide (x.due ≤ s.plane.now) && f x
  let due := s.plane.mesh.filter mine
  let (p, out) := due.foldl (fun (st : PlaneSt × List Payload) x =>
    let (q, o) := st.1.deliver s.plane.now x
    (q, st.2 ++ o)) ({ s.plane with mesh := s.plane.mesh.filter fun x => !mine x }, [])
  out.foldl State.handOver { s with plane := p }

/-- MESH_DELIVERY. -/
def execMeshDelivery (c : Fin 128) (s : State) : Result :=
  .next (if s.mayAct then s.deliverDue fun x => x.load.home == some c.val else s)

end Sys2Proof.Machine
end

