-- ==== Sys2Proof/Machine/Reset.lean ====
section
/-! DEFINITION. Resets, start-up, erasure and the loss of power (R33, R35, R309, R505, R523, R532, R541, R564 to
R569). -/

namespace Sys2Proof.Machine

/-- The module is not in P4 (R501). -/
def State.on (s : State) : Bool := s.pwr.state != 4

/-! ### What a reset leaves -/

/-- The plane with every block reset (R568): no core is valid until the map is built again. -/
def PlaneSt.blank (p : PlaneSt) : PlaneSt :=
  let q := p.clear
  { PlaneSt.reset with now := q.now, cores := q.cores, group := q.group, free := q.free }

/-- The supervisor after a reset that reaches it: fuses, extension entries, real-time domain and pins stay (R568). -/
def SupSt.blank (u : SupSt) : SupSt :=
  { SupSt.reset with
    partCode := u.partCode
    cpq := u.cpq
    serial := u.serial
    fuses := u.fuses
    exts := u.exts
    cables := u.cables
    cause := u.cause
    moduleResets := u.moduleResets
    computeResets := u.computeResets
    sysRst := u.sysRst
    rtc := u.rtc }

/-- Power, limits and records: PWR_FAULT and what MRAM and NAND hold stay. -/
def PwrSt.blank (p : PwrSt) (rtc : Nat) : PwrSt :=
  { PwrSt.reset with
    checked := rtc
    journal := p.journal
    nextSeq := p.nextSeq
    faultCause := p.faultCause
    crashRec := p.crashRec
    faultValid := p.faultValid
    faultRtc := p.faultRtc
    crashes := p.crashes
    audit := p.audit
    auditLog := p.auditLog }

/-- The interrupt controller: the wake latches stay (R566). -/
def IcuSt.blank (i : IcuSt) (cpq : Nat) : IcuSt :=
  let srcs := (i.srcs.filter (·.2.latched)).map fun p => (p.1, { IcuSrc.reset cpq p.1 with latched := true })
  { IcuSt.reset cpq with srcs := srcs }

/-- The host interface: what it has sent stays sent, pins and BAR sizes as the system has them. -/
def HostSt.blank (h : HostSt) : HostSt :=
  { HostSt.reset with perst := h.perst, bar2Log := h.bar2Log, vfBar2Log := h.vfBar2Log, out := h.out }

/-- Every block at its reset values, external memory lost, the nonvolatile store and the real-time domain kept: what a
module reset makes of the module before start-up (R17, R568). -/
def State.blank (s : State) : State :=
  { State.reset with
    sup := s.sup.blank
    plane := s.plane.blank
    ext := { ExtSt.reset with repairs := s.ext.repairs }
    host := s.host.blank
    icu := s.icu.blank s.sup.cpq
    pwr := s.pwr.blank s.sup.rtc.toNat
    sec := s.sec.afterReset
    img := { ImgSt.reset with library := s.img.library }
    bus := s.bus
    data := s.data
    free := s.free
    pending := s.pending }

/-- The module in P4 (R501): all but the real-time domain, the wake latches and the nonvolatile store is off. -/
def State.off (s : State) : State :=
  let b := s.blank
  { b with pwr := { b.pwr with state := 4 } }

/-! ### Erasure (R532) -/

/-- The run ends; tile stores, staging, quire files, channels and library become zero. -/
def State.erase (s : State) : State :=
  let s1 := s.endRun
  { s1 with
    plane := s1.plane.wipe
    ext := { s1.ext with mem := [], bad := [], soft := [] }
    img := { s1.img with library := [] } }

/-- A pending erasure is done and its second commit follows. -/
def State.eraseAll (s : State) : State :=
  if s.sec.erasePending then
    let s1 := s.erase
    let (sec, pwr) := s1.sec.erased s1.pwr
    { s1 with sec := sec, pwr := pwr }
  else s

/-! ### Start-up (R564 to R566) -/

/-- The hold reason that keeps start-up at its present step, 0 for none (R565). -/
def SupSt.holdAt (u : SupSt) (c : StartCond) : Nat :=
  match u.step with
  | 2 => if !c.refclk then 1 else if u.sysRst then 4 else 0
  | 4 => if c.inputOk then 0 else 2
  | 5 => if c.cool then 0 else 3
  | _ => 0

/-- Control cores `lo` to `hi` - 1 run their firmware, with external interrupts enabled (R480, R481; log entry 9). -/
def IcuSt.startCores (i : IcuSt) (lo hi : Nat) : IcuSt :=
  ((List.range hi).filter (lo ≤ ·)).foldl (fun (i : IcuSt) c =>
    i.onCore c fun k => { k with state := 1, meie := true, seie := true }) i

/-- Logical columns of the engines of a site (R31). -/
def DuMap.cols (m : DuMap) (t : Nat) : Tab Nat := (List.range 4).map fun e => (e, 64 - popcount (m.mask t e))

/-- The plane over the usable sites (R27, R35). A core that gets its site for the first time starts a range of free
values of its own. -/
def PlaneSt.build (p : PlaneSt) (m : DuMap) (enabled : Nat) (sites : Tab Nat) : PlaneSt :=
  sites.foldl (fun (p : PlaneSt) x => p.onCore x.1 fun c =>
    { c with cols := m.cols x.2, free := if c.free = 0 then (x.1 + 1) * 2 ^ 80 else c.free })
    { p with enabled := enabled, sites := sites }

/-- East is not there (R523, R565): its units leave the status registers, the event is reported. -/
def State.noEast (s : State) : State :=
  { s with sup := { s.sup with eastOk := false, quadrantOk := s.sup.quadrantOk % 16, short := s.sup.short ||| 0xF0 }
           ext := { s.ext with stackOk := s.ext.stackOk % 16 }
           pwr := { s.pwr with ob := (s.pwr.ob.line 70).event 9 0 0 } }

/-- The ports of a start-up's link training: those with a cable, on a die that is there (R558, R564). -/
def SupSt.cabled (u : SupSt) (p : Nat) : Bool := bit u.cables (p / 4) && (u.eastOk || decide (p < 16))

/-- Ready (R309, R564): P0, no image, arena 0 over the stacks that trained. -/
def State.ready (s : State) : State :=
  { s with sup := { s.sup with step := 9, held := 0 }, chip := ChipCfg.reset s.ext.stackOk,
           ext := { s.ext with okAtReset := s.ext.stackOk } }

/-- Step 8 begins: every cabled port trains; without one, start-up is done. -/
def State.startLinks (s : State) : State :=
  let ps := (List.range 32).filter s.sup.cabled
  let s1 := { s with
    sup := { s.sup with step := 8, portsLeft := (ps.map fun p => 2 ^ p).sum }
    link := ps.foldl (fun (l : LinkSt) p => if (l.port p).disable then l else l.setState p 1) s.link }
  if ps.isEmpty then s1.ready else s1

/-- Step 6 (R35, R541, R564, R565): the clock starts, the stewards report, the dies that are there make up the map; the
stacks and the PCIe link begin to train (R567). -/
def State.startDies (s : State) (eastOk : Bool) : State :=
  let u := s.sup
  let n := if eastOk then 8 else 4
  let s1 := { s with
    sup := { u with step := 7, westOk := true, eastOk := eastOk, quadrantOk := 2 ^ n - 1,
                    stacksLeft := 2 ^ n - 1 }
    host := s.host.train s.free
    free := s.free + 4
    plane := { s.plane with cadence := 0 }.build u.map u.enabled (u.map.cores u.cpq eastOk)
    ext := (List.range (32 * n)).foldl (fun (x : ExtSt) c => x.onChan c fun k => { k with state := 1 }) s.ext
    icu := (List.range n).foldl (fun (i : IcuSt) q => i.onSteward q fun w => { w with ready := true })
      (s.icu.startCores 4 (4 + 2 * n)) }
  if eastOk then s1 else s1.noEast

/-- The map is built from the fuses and every extension entry, and the journal is replayed: what a start-up finds in
the nonvolatile store (R33, R36, R516). -/
def State.startStore (s : State) : State := { s with sup := s.sup.buildMap, pwr := s.pwr.replay }

/-- Start-up goes on from its present step until it holds or waits for a training (R564, R565); step 3 ends in
RECOVERY where no firmware slot passes, and a pending erasure is done once the bank has been measured. -/
def State.startUp (s : State) (c : StartCond) : Nat → State
  | 0 => s
  | n + 1 =>
    let h := s.sup.holdAt c
    if h ≠ 0 then { s with sup := { s.sup with held := h } }
    else
      let go := fun (s : State) => { s with sup := { s.sup with step := s.sup.step + 1, held := 0 } }
      match s.sup.step with
      | 1 | 2 | 5 => (go s).startUp c n
      | 3 =>
        let sec := s.sec.boot c.fuseOk
        if sec.recovery then { s with sec := sec, sup := { s.sup with held := 0 } }
        else (go { s with sec := sec, icu := s.icu.startCores 0 4 }).startUp c n
      | 4 => (go ({ s with pwr := s.pwr.healthCheck s.sup.rtc.toNat c.energy c.cap c.esr }.eraseAll)).startUp c n
      | 6 => s.startDies c.eastOk
      | _ => s

/-- Start-up from step 1 or 2 with everything at its reset values. -/
def State.startFrom (s : State) (step : Nat) (c : StartCond) : State :=
  ({ s with sup := { s.sup with step := step, startMs := c.ms.toNat, cables := c.cables.toNat } }.startStore).startUp c 9

/-! ### Resets (R566, R568, R569, R574) -/

/-- A module reset or a WAKE with its LAST code (R566, R574). -/
def State.restart (s : State) (cause : Nat) (c : StartCond) : State :=
  let b := s.blank
  { b with sup := { b.sup with cause := cause, moduleResets := b.sup.moduleResets + 1 } }.startFrom 2 c

/-- A module reset; in P4 it changes nothing (R569). -/
def State.moduleReset (s : State) (cause : Nat) (c : StartCond) : State := if s.on then s.restart cause c else s

/-- An auxiliary power-up (R566, R568): the real-time domain starts afresh, the lease and the wait of the security block
go on by what was left of them. -/
def State.auxPowerUp (s : State) (c : StartCond) : State :=
  let b := { s with sec := s.sec.rebase s.sup.rtc.toNat }.blank
  { b with
    sup := { b.sup with cause := 1, moduleResets := 0, computeResets := 0, rtc := 0 }
    pwr := { b.pwr with checked := 0, faultCause := 0, crashRec := false, faultValid := false, faultRtc := 0 }
    icu := IcuSt.reset b.sup.cpq }.startFrom 1 c

/-- A compute reset takes place (R568): the run ends, the plane and the mesh are reset and the stores are being zeroed.
What it does not reach stays: arenas, links and events in force, the shadow buffer (R345), commands that wait. -/
def State.computeBegin (s0 : State) : State :=
  let s := s0.runOver
  { s with
    sup := { s.sup with zeroing := true, computeWanted := false, cause := 5, computeResets := s.sup.computeResets + 1 }
    plane := s.plane.clear
    chip := { s.chip with routes := [], points := [] }
    herd := { s.herd with bar := none, arrives := [], early := [] }
    link := s.link.newRun
    img := { s.img with active := 0, activeHash := [], sampled := none } }

/-- A compute reset is requested: it waits for a load that is in its second pass (R569). -/
def State.computeReset (s : State) : State :=
  if s.img.second then { s with sup := { s.sup with computeWanted := true } } else s.computeBegin

/-- The zeroing of a compute reset has ended (R568): the clock restarts with the cadence count at 0. -/
def State.computeEnd (s : State) : State :=
  if s.sup.zeroing then { s with sup := { s.sup with zeroing := false }, plane := { s.plane with cadence := 0 } } else s

/-- The compute reset that has waited for a load takes place. -/
def State.afterLoad (s : State) : State := if s.sup.computeWanted then s.computeBegin else s

/-! ### Losing East (R523) -/

/-- East's ports are down. -/
def State.eastLinks (s : State) : LinkSt := (List.range 16).foldl (fun (l : LinkSt) p => l.setState (16 + p) 0) s.link

/-- East is lost: its units are gone, a running run stops as by RUN_STOP. -/
def State.loseEast (s : State) : State :=
  if !s.sup.eastOk then s
  else
    let s1 := s.noEast
    { s1 with
      plane := { s1.plane with sites := s1.plane.sites.filter (·.2 < 72), stop := true }
      ext := (List.range 4).foldl (fun (x : ExtSt) q => x.fence (4 + q)) s1.ext
      link := s1.eastLinks
      herd := s1.herd.tree s1.eastLinks s1.chip
      icu := (List.range 4).foldl (fun (i : IcuSt) q => i.onSteward (4 + q) fun w => { w with ready := false })
        ((List.range 8).foldl (fun (i : IcuSt) k => { i with lostCores := i.lostCores ++ [12 + k] }) s1.icu) }

end Sys2Proof.Machine
end

