-- ==== Sys2Proof/Machine/HerdRows.lean ====
section
/-! DEFINITION. The commands of herd time, herd barriers, lock-step and membership (R378 to R397, R424 to R429). -/

namespace Sys2Proof.Machine

/-- Herd and link changed by an operation on both; a port that this fences changes the timing tree (R384, R432). -/
def State.onHerdLink (s : State) (r : HerdSt × LinkSt) : State := { s with herd := r.1.tree r.2 s.chip, link := r.2 }

/-! ### Herd time (R383, R384, R394) -/

/-- SYNC_IN: a high pin is source 3 in every state (R483). -/
def execSyncIn (s : State) : Result :=
  let h := { s.herd with ob := s.herd.ob.line 3 }
  .next { s with herd := if s.on then h.syncIn else h }
/-- HERD_ARM. -/
def execHerdArm (s : State) : Result := .next (if s.on then { s with herd := { s.herd with armed := true } } else s)
/-- SYNC_OUT. -/
def execSyncOut (s : State) : Result := .next (if s.on then { s with herd := s.herd.syncPulse } else s)
/-- BEACON_SEND. -/
def execBeaconSend (s : State) : Result := .next (s.onHerdLink (s.herd.beaconSend s.link s.chip))
/-- BEACON. -/
def execBeacon (p : Fin 32) (s : State) : Result := .next (s.onHerdLink (s.herd.beacon s.link s.chip p))

/-! ### The herd barrier (R386, R388) -/

/-- BARRIER_ARRIVE. -/
def execBarrierArrive (p : Fin 32) (children : List (Fin 1024)) (members : List (List (Fin 1024))) (s : State) : Result :=
  .next (s.onHerdLink (s.herd.barArrive s.link s.chip p ((children.zip members).map fun x => (x.1.val, x.2.map (·.val)))))
/-- BARRIER_RELEASE. -/
def execBarrierRelease (p : Fin 32) (children : List (Fin 1024)) (s : State) : Result :=
  .next (s.onHerdLink (s.herd.barRelease s.link s.chip p (children.map (·.val))))
/-- BARRIER_TIMEOUT. -/
def execBarrierTimeout (children : List (Fin 1024)) (s : State) : Result :=
  .next (s.barrierTimeout (children.map (·.val)))

/-! ### Lock-step (R378, R380, R381) -/

/-- LSREC's payload: 33 sums answer a fetch, a record is kept until it can be compared. A chip that compares nothing keeps
none. -/
def HerdSt.lsTake (h : HerdSt) (bs : Bytes) : HerdSt :=
  if bs.length = 264 then h.fetched bs
  else if h.lsState = 1 ∨ h.lsState = 2 then { h with remote := h.remote ++ [LsRec.of bs] }
  else h

/-- LSREC. -/
def execLsrec (p : Fin 32) (s : State) : Result :=
  .next (match s.link.syncHead p 0x13 with
    | some (_, _, g) => { s with link := s.link.syncPop p, herd := s.herd.lsTake g.data }.lsCompare
    | none => s)
/-- PAIR: records that wait are compared, or dropped, once the pairing is known. -/
def execPair (p : Fin 32) (s : State) : Result := .next (s.onHerdLink (s.herd.pair s.link s.chip p (s.img.active != 0))).lsCompare

/-! ### Membership (R424 to R428) -/

/-- SUSPECT. -/
def execSuspect (p : Fin 32) (s : State) : Result := .next (s.suspect p)
/-- SUSPECT_TIMEOUT. -/
def execSuspectTimeout (x : Fin 1024) (s : State) : Result := .next (s.suspectTimeout x)
/-- JOIN. -/
def execJoin (p : Fin 32) (s : State) : Result := .next (s.join p)
/-- MEMBER. -/
def execMember (p : Fin 32) (s : State) : Result := .next (s.member p)
/-- EPOCH. -/
def execEpoch (p : Fin 32) (request : Bool) (epoch_ : BitVec 16) (root : Fin 1024) (excludes : Bool) (s : State) : Result :=
  .next (s.epochFlit p request epoch_.toNat root excludes)

end Sys2Proof.Machine
end

