-- ==== Sys2Proof/Machine/PlaneRows.lean ====
section
/-! DEFINITION. The commands of the cadence plane as a whole, and tokens that enter it (R268, R350, R362 to R366). -/

namespace Sys2Proof.Machine

/-- SLIP. -/
def execSlip (notVisible : Bool) (s : State) : Result := .next (s.slipCycle notVisible)
/-- PLANE_CYCLE. -/
def execPlaneCycle (s : State) : Result := .next s.planeCycle
/-- EXCHANGE_POINT: the cycle in which the last core arrives at a point. -/
def execExchangePoint (s : State) : Result :=
  .next (if (s.plane.pointAt s.chip).isSome then s.planeCycle else s)

/-- A token of creamery unit `u` reaches its pail; one for a PLANE pail or for a core that is not enabled is refused and logged
by the steward of the unit's quadrant (R328). -/
def PlaneSt.unitToken (p : PlaneSt) (u core pail : Nat) : PlaneSt :=
  if p.live.contains core && !p.planePail core pail then p.edgeToken core pail else { p with ob := p.ob.line (256 + u) }

/-- The oldest token of a source leaves it. -/
def State.takeToken (s : State) (src : TokenSrc) : Option (Nat × Nat) × State :=
  match src with
  | .creamery => (s.ext.ob.tokens.head?, 
      { s with ext := { s.ext with units := s.ext.units.tail, ob := { s.ext.ob with tokens := s.ext.ob.tokens.tail } } })
  | .link => (s.link.ob.tokens.head?, { s with link := { s.link with ob := { s.link.ob with tokens := s.link.ob.tokens.tail } } })
  | .steward qd => ((s.icu.steward qd).tokens.head?,
      { s with icu := s.icu.onSteward qd fun w => { w with tokens := w.tokens.tail } })

/-- The oldest token of a source reaches its pail, while the cadence clock runs. -/
def State.tokenIn (s : State) (src : TokenSrc) : State :=
  if !s.clockOn then s
  else match s.takeToken src with
    | (some (c, p), s1) => { s1 with plane := match src with
        | .creamery => s1.plane.unitToken (s.ext.units.headD 0) c p
        | _ => s1.plane.edgeToken c p }
    | (none, _) => s

/-- EDGE_TOKEN_DELIVERY. -/
def execEdgeTokenDelivery (src : TokenSrc) (s : State) : Result := .next (s.tokenIn src)
/-- STEWARD_TOKEN_DELIVERY. -/
def execStewardTokenDelivery (qd : Fin 8) (s : State) : Result := .next (s.tokenIn (.steward qd))

/-- What a transfer carries to a channel. -/
def Payload.chan : Payload → Option Nat
  | .extRead _ _ c .. => some c
  | .extWrite _ c .. => some c
  | _ => none

/-- MEMORY_REQUEST_HAND_OVER: the next transfer due at a channel with room (R46, R283). -/
def execMemoryRequestHandOver (ch : Fin 256) (s : State) : Result :=
  match s.plane.mesh.find? fun x => decide (x.due ≤ s.plane.now) && x.load.chan == some ch.val with
  | some x => .next (if s.ext.room ch && s.mayAct then s.deliverDue fun y => y == x else s)
  | none => .next s
/-- SEGMENT_HAND_OVER: the next transfer due at a port with room (R412). -/
def execSegmentHandOver (p : Fin 32) (s : State) : Result :=
  match s.plane.mesh.find? fun x => decide (x.due ≤ s.plane.now) && x.load.port == some p.val with
  | some x => .next (if s.link.room s.chip p [x.load] && s.mayAct then s.deliverDue fun y => y == x else s)
  | none => .next s

end Sys2Proof.Machine
end

