-- ==== Sys2Proof/Machine/HostRows.lean ====
section
/-! DEFINITION. The host's commands, rings, windows and functions (R345 to R356, R375, R376, R389, R447 to R465, R503,
R504). -/

namespace Sys2Proof.Machine

/-! ### Shared operations -/

/-- The started command of an opcode and number performs; without one nothing happens. -/
def State.onCmd (s : State) (op id : Nat) (f : HostCmd → State) : Result :=
  .next (match s.host.ready op id with
    | some c => f c
    | none => s)

/-- A command has begun and completes by a later event. -/
def State.hold (s : State) (id : Nat) : State := { s with host := s.host.wait id }

/-- Device memory read for the host: the bytes, and how many lay in no arena (R305). A byte of a poisoned sector is a
free value. -/
def State.deviceRead (s : State) (a n : Nat) : State × Bytes × Nat :=
  let (x, l) := s.ext.readFor s.chip a n
  let bs := (l.zipIdx).map fun ((b, p, _), i) => if p then Config.freeByte (s.free + i) else b
  ({ s with ext := x, free := s.free + n }, bs, (l.filter fun t => !t.2.2).length)

/-- Device memory written by the host: the state, and how many bytes lay in no arena. -/
def State.deviceWrite (s : State) (a : Nat) (bs : Bytes) : State × Nat :=
  let (x, n) := s.ext.writeFor s.chip a 0 bs
  ({ s with ext := x }, n)

/-! ### Copies, tokens, descriptors, draws (R219, R375, R376, R459) -/

/-- NOP. -/
def execNop (id : Nat) (s : State) : Result := s.onCmd 0x00 id fun _ => s.answer id 0 0 0 0

/-- The end of a command that has sent tokens to a pail (R268, R270, R459): refused by a PLANE pail; a token that the
crossing queue holds is not delivered (R353), and the command waits until none is held (log entry 20). -/
def State.tokensEnd (s : State) (c : HostCmd) (core pail result : Nat) : State :=
  if s.plane.planePail core pail then s.refuse c.id 0x80
  else if ((s.plane.core core).pail pail).queue = 0 then s.answer c.id 0 0 result 0
  else s.hold c.id

/-- COPY_IN once its data have arrived: the token follows the last byte (R460). -/
def State.copyInDone (s : State) (c : HostCmd) : State :=
  match c.token with
  | none => s.answer c.id 0 0 (c.word 3) 0
  | some (core, pail) =>
    { s with plane := s.plane.edgeToken core pail : State }.tokensEnd c core pail (c.word 3)

/-- A command that waits for its tokens' delivery is looked at again. -/
def State.onHeld (s : State) (op id : Nat) (f : HostCmd → State) : State :=
  match s.host.held op id with
  | some c => f c
  | none => s

/-- COPY_IN: a read of host memory that ended early leaves what it moved (R461). One that has moved its data and waits
for its token's delivery ends once no token is held. -/
def execCopyIn (id : Nat) (data : Bytes) (s : State) : Result :=
  match s.host.ready 0x01 id with
  | some c =>
    let (s1, out) := s.deviceWrite (c.word 2) (data.take (c.word 3))
    let s2 := { s1 with host := s1.host.oor c.fn out }
    .next (if data.length < c.word 3 then s2.answer id 5 0 0 0 else s2.copyInDone c)
  | none => .next (s.onHeld 0x01 id fun c => match c.token with
    | some (core, pail) => s.tokensEnd c core pail (c.word 3)
    | none => s)

/-- COPY_OUT. -/
def execCopyOut (id : Nat) (s : State) : Result := s.onCmd 0x02 id fun c =>
  let (s1, bs, out) := s.deviceRead (c.word 2) (c.word 3)
  let h := s1.host.oor c.fn out
  { s1 with host := { h with out := h.out ++ [HostOut.write c.fn (c.word 1) bs] } }.answer id 0 0 (c.word 3) 0

/-- HOST_SIGNAL, the command SIGNAL of R459: its tokens set out; where the crossing queue holds some, the command ends
when it is looked at again and none is held. -/
def execHostSignal (id : Nat) (s : State) : Result :=
  let ends := fun (c : HostCmd) (s : State) =>
    s.tokensEnd c (bits (c.word 1) 18 11) (bits (c.word 1) 10 0) (bits (c.word 1) 63 48)
  match s.host.ready 0x03 id with
  | some c => .next (ends c { s with
      plane := s.plane.edgeTokens (bits (c.word 1) 18 11) (bits (c.word 1) 10 0) (bits (c.word 1) 63 48) })
  | none => .next (s.onHeld 0x03 id fun c => ends c s)

/-- DESC_CREATE (R219): the descriptor is validated and waits for the core's next seam. -/
def execDescCreate (id : Nat) (words : Bytes) (s : State) : Result := s.onCmd 0x04 id fun c =>
  let core := bits (c.word 2) 7 0
  if words.length < 128 then s.answer id 5 0 0 0
  else if !s.plane.live.contains core then s.answer id 4 0 0 0
  else
    let (code, k) := (s.plane.core core).createDesc s.plane.enabled s.chip.arenaRange (bits (c.word 2) 14 8)
      (BitVec.ofNat 1024 (leNat (words.take 128)))
    let s1 := { s with plane := s.plane.setCore core k }
    if code = 0 then s1.answer id 0 0 0 0 else s1.answer id 1 code code 0

/-- `mix` of R375. -/
def mix (x : BitVec 64) : BitVec 64 :=
  let x1 := (x ^^^ (x >>> 32)) * 0xD1B74F3A9C2E6A85
  let x2 := (x1 ^^^ (x1 >>> 29)) * 0xB5A317C94E2D8F61
  x2 ^^^ (x2 >>> 32)

/-- The whey generator (R375). -/
def whey (seed step coord : BitVec 64) : BitVec 64 :=
  let k := mix (seed ^^^ 0x4D696C6B57686579)
  let x := mix (mix (k ^^^ step) ^^^ coord.rotateLeft 17 ^^^ k)
  mix (x + 0x2E5F91A4C73B0D19)

/-- An element of a draw: form 0 RAW64, 1 UNIFORM_P32, 2 UNIFORM_P16 (R376). -/
def drawElement (form : Nat) (w : BitVec 64) : Bytes :=
  if form = 0 then leBytes 8 w.toNat
  else if form = 1 then leBytes 4 (penc 32 (.num ⟨((w >>> 40).toNat : Int), -24⟩))
  else leBytes 2 (penc 16 (.num ⟨((w >>> 52).toNat : Int), -12⟩))

/-- DRAW (R376). -/
def execDraw (id : Nat) (s : State) : Result := s.onCmd 0x05 id fun c =>
  let n := bits (c.word 4) 63 32
  let seed := BitVec.ofNat 64 (nth s.chip.seeds (bits (c.word 4) 7 4) 0)
  let bs := (List.range n).flatMap fun j =>
    drawElement (bits (c.word 4) 1 0) (whey seed (BitVec.ofNat 64 (c.word 2)) (BitVec.ofNat 64 (c.word 3 + j)))
  (s.deviceWrite (c.word 1) bs).1.answer id 0 0 n 0

/-- SNAPSHOT (R520, R521): one that meets a capture in progress completes with that. -/
def execSnapshot (id : Nat) (s : State) : Result := s.onCmd 0x06 id fun _ =>
  { s with tel := s.tel.request s.snap (decide (2 ≤ s.pwr.state)) }.hold id

/-! ### Image loads (R345 to R349) -/

/-- What the checks of a load see. -/
def State.loadEnv (s : State) : LoadEnv :=
  { enabled := s.sup.enabled
    partCode := s.sup.partCode
    shortQuadrant := s.sup.short
    mapDigest := s.sup.digest.toNat
    eozil := s.sec.version.toNat
    activeHash := s.img.activeOr
    activeArenas := if s.img.active = 0 then [] else s.chip.arenas
    anyRun := s.plane.anyRun
    stackOk := s.ext.stackOk
    siteOk := fun t => s.plane.sites.any fun x => x.2 == t
    portUp := fun p => (s.link.port p).state == 2
    portThere := fun p => s.snap.portThere p
    policy := s.sec.policy }

/-- IMG_LOAD_STAT of a result. -/
def loadWord (r : LoadRes) : Nat := fld r.1 8 56 + fld r.2.1 12 44 + r.2.2 % 2 ^ 32

/-- A load ends, refused or with its image in the shadow buffer (R345, R355); a compute reset that has waited for it
follows (R569). -/
def State.loadEnds (s : State) (id : Nat) (r : LoadRes) (img : Option Image) : State :=
  ({ s with img := s.img.loadEnds r img }.answer id (if r.1 = 0 then 0 else 1) r.1 (loadWord r) 0).afterLoad

/-- A load command that cannot begin: its code, with the shadow buffer as it is. -/
def State.loadRefused (s : State) (id code : Nat) : State := s.imgCode id code (loadWord (code, 0xFFF, 0))

/-- DATA_TILE sections written into the tile stores (R348). -/
def PlaneSt.loadTiles (p : PlaneSt) (tiles : List (Nat × Nat × Bytes)) : PlaneSt :=
  tiles.foldl (fun (p : PlaneSt) t => p.onCore t.1 fun c => { c with st := c.st.load [t.2] }) p

/-- The bytes of a section's data, each a free value numbered from `f` on. -/
def spoilt (f : Nat) (bs : Bytes) : Bytes := freeBytes f bs.length

/-- What DATA sections before number `i` of a refused image had written becomes free values (R348). -/
def State.spoil (s : State) (b : Bytes) (img : Image) (i : Nat) : State :=
  ((imgSecs b).take i).foldl (fun (s : State) e =>
    let x := secBytes b e
    let bs := spoilt s.free (x.drop 64)
    if e.typ = 0x10 then
      { s with plane := s.plane.loadTiles [(e.inst, leAt x 0 4, bs)], free := s.free + bs.length }
    else if e.typ = 0x30 then
      { s with ext := (s.ext.writeFor img.chip (leAt x 0 8) 0 bs).1, free := s.free + bs.length }
    else s) s

/-- An accepted image is in the shadow buffer: its DATA sections are written; a COLD image's arenas, links and herd
replace those in force, and the chip joins its herd (R309, R348, R421, R425). -/
def State.place (s : State) (img : Image) : State :=
  let s1 := { s with ext := s.ext.loadData img, pwr := s.pwr.note 1 (leNat (img.hash.take 8)) }
  if img.kind = 1 then s1
  else
    ({ s1 with
      plane := s1.plane.loadTiles img.tiles
      chip := { img.chip with seeds := s.chip.seeds, points := s.chip.points, events := s.chip.events, routes := s.chip.routes }
      herd := { s1.herd with nextSeq := 0 } }).startJoin

/-- The second pass from its section loop on (R346). -/
def State.loadSections (s : State) (id : Nat) (b : Bytes) : State :=
  let r := loadThird s.loadEnv b
  let img := Image.of b s.sup.enabled
  let s1 := if r.1 = 0 then s.place img else s.spoil b img (if r.1 = 0x0C ∧ r.2.1 = 0xFFF then (imgSecs b).length else r.2.1)
  s1.loadEnds id r (some img)

/-- A load of the bytes of an image (R346): header and hash, then the checks up to the section loop; a COLD load then
waits until the plane is quiescent. -/
def State.load (s : State) (id : Nat) (b : Bytes) : State :=
  let env := s.loadEnv
  let code := if loadFirst b ≠ 0 then loadFirst b else loadSecond env b
  if code ≠ 0 then s.loadEnds id (code, 0xFFF, 0) none
  else if leAt b 14 1 = 1 then s.loadSections id b
  else { s with img := { s.img with shadow := 1, second := true, loading := b, loadCmd := id } }.hold id

/-- IMG_LOAD_HOST. -/
def execImgLoadHost (id : Nat) (img : Bytes) (s : State) : Result := s.onCmd 0x10 id fun c =>
  if s.img.shadow ≠ 0 then s.loadRefused id 0x16
  else if img.length < c.word 2 then s.answer id 5 0 0 0
  else s.load id (img.take (c.word 2))

/-- IMG_LOAD_LIB. -/
def execImgLoadLib (id : Nat) (s : State) : Result := s.onCmd 0x11 id fun c =>
  if s.img.shadow ≠ 0 then s.loadRefused id 0x16
  else match s.img.library.find? fun p => p.1 == c.word 1 with
    | some p => s.load id p.2
    | none => s.loadRefused id 0x17

/-- LOAD_SECOND_PASS (R346, R576). -/
def execLoadSecondPass (s : State) : Result :=
  .next (if s.img.second && s.plane.quiescent then s.loadSections s.img.loadCmd s.img.loading else s)

/-! ### Starts (R389) -/

/-- An accepted start waits for its launch. -/
def State.launchWaits (s : State) (l : Launch) : State := { s with img := { s.img with launch := some l } }.hold l.cmd

/-- IMG_START. -/
def execImgStart (id : Nat) (s : State) : Result := s.onCmd 0x12 id fun c =>
  match s.img.image with
  | none => s.imgCode id 0x16 0
  | some img =>
    if s.img.shadow ≠ 2 then s.imgCode id 0x16 0
    else if img.kind = 1 then s.imgCode id 0x0A 0
    else match c.word 1 with
      | 0 => s.launchWaits ⟨false, 0, id⟩
      | 1 =>
        if BitVec.ofNat 64 (c.word 2) ≤ s.herd.count then s.imgCode id 0x18 0
        else s.launchWaits ⟨false, BitVec.ofNat 64 (c.word 2), id⟩
      | _ => (s.launchWaits ⟨true, 0, id⟩).arriveStart img

/-- AT_COUNT_LAUNCH: in the first cadence cycle whose herd count is at least L (R389). Where no row of its own comes, the
cycle itself launches. -/
def execAtCountLaunch (s : State) : Result :=
  .next (match s.img.launch with
    | some l => if l.barrier then s else s.beginCycle
    | none => s)

/-- LAUNCH: a start that waits for no count: NOW, or BARRIER at the release of barrier 0; a BARRIER start whose herd was not
complete arrives once it is (R389, R425). -/
def execLaunch (s : State) : Result :=
  .next (match s.img.launch, s.img.image with
    | some l, some img =>
      if !s.clockOn then s
      else if l.barrier then (if s.herd.bar.isNone then s.arriveStart img else s.beginCycle)
      else if l.at_ = 0 then s.launchWith img l.cmd
      else s
    | _, _ => s)

/-! ### Arming, discarding, stopping (R345, R352, R459, R576) -/

/-- 1 at a point with HERD set whose coming occurrence has been sampled: the chip waits at its barrier (R351, R352). -/
def State.sampledAt (s : State) (x : Nat) : Nat :=
  match s.plane.pointAt s.chip with
  | some (y, _) => if y = x ∧ s.img.sampled.isSome then 1 else 0
  | none => 0

/-- IMG_ARM: late for an occurrence that has been sampled. -/
def execImgArm (id : Nat) (s : State) : Result := s.onCmd 0x13 id fun c =>
  let x := bits (c.word 1) 7 0
  let n := bits (c.word 1) 63 32
  match s.img.image with
  | none => s.imgCode id 0x16 0
  | some img =>
    if s.img.shadow ≠ 2 then s.imgCode id 0x16 0
    else if img.kind = 0 then s.imgCode id 0x0A 0
    else if !(s.chip.points.any fun p => p.1 == x) then s.imgCode id 0x19 0
    else if n < s.nextOcc x + s.sampledAt x then s.imgCode id 0x18 0
    else { s with img := { s.img with shadow := 3, armPoint := x, armOcc := n } }.imgCode id 0 0

/-- IMG_DISARM: late when the occurrence that was armed has been sampled. -/
def execImgDisarm (id : Nat) (s : State) : Result := s.onCmd 0x14 id fun _ =>
  let m := s.img
  if m.shadow = 3 ∧ m.armOcc < s.nextOcc m.armPoint + s.sampledAt m.armPoint then s.imgCode id 0x18 0
  else if m.shadow = 3 then { s with img := { m with shadow := 2 } }.imgCode id 0 0
  else if m.shadow = 0 ∧ m.active = 2 ∧ m.xchgPoint = m.armPoint ∧ m.xchgOcc = m.armOcc then s.imgCode id 0x18 0
  else s.imgCode id 0x16 0

/-- IMG_DISCARD. Without an active image the default arena is in force again (R309). -/
def execImgDiscard (id : Nat) (s : State) : Result := s.onCmd 0x15 id fun _ =>
  if s.img.shadow = 2 ∨ s.img.shadow = 0 then
    ({ s with img := { s.img with shadow := 0, image := none }
              chip := if s.img.active = 0 ∧ s.img.shadow = 2 then ChipCfg.reset s.ext.okAtReset else s.chip } : State).answer id 0 0 0 0
  else s.refuse id 0x16

/-- RUN_STOP: every core halts at its next seam. -/
def execRunStop (id : Nat) (s : State) : Result := s.onCmd 0x16 id fun _ =>
  { s with plane := { s.plane with stop := true } }.hold id

/-- PLANE_QUIESCENT: a run has ended and is over; a RUN_STOP completes, and records left uncompared show as UNMATCHED (R381,
R576). -/
def execPlaneQuiescent (s : State) : Result :=
  .next (if s.plane.quiescent then
    match s.host.waiting 0x16 with
    | some c => s.runOver.answer c.id 0 0 s.plane.lastHalt.toNat 0
    | none => s.runOver
  else s)

/-! ### Library, power, map, rejoin (R32, R349, R429, R503, R504) -/

/-- A command that ends with a durable commit queues it (R516). -/
def State.queueCommit (s : State) (id : Nat) (a : CommitAct) : State :=
  { s with pwr := { s.pwr with commits := s.pwr.commits ++ [(⟨a, some id⟩ : Commit)] } }.hold id

/-- Bytes of the library without a slot. -/
def ImgSt.libBytes (m : ImgSt) (slot : Nat) : Nat := ((m.library.filter fun p => p.1 != slot).map fun p => p.2.length).sum

/-- LIB_STORE: 12 GiB hold the library. -/
def execLibStore (id : Nat) (img : Bytes) (s : State) : Result := s.onCmd 0x17 id fun c =>
  if img.length < c.word 2 then s.answer id 5 0 0 0
  else if 12 * 2 ^ 30 < s.img.libBytes (c.word 3) + c.word 2 then s.refuse id 0x83
  else s.queueCommit id (.store (c.word 3) (img.take (c.word 2)))

/-- LIB_DELETE. -/
def execLibDelete (id : Nat) (s : State) : Result := s.onCmd 0x18 id fun c =>
  if s.img.library.any fun p => p.1 == c.word 1 then s.queueCommit id (.delete (c.word 1)) else s.refuse id 0x17

/-- Whether a POWER command may start (R504): no image command and no commit in progress, and towards P2, P3 and P4 no
other command at all. -/
def State.powerMayStart (s : State) (id t : Nat) : Bool :=
  !s.pwr.busy && s.pwr.commits.isEmpty && s.sec.verified.isNone &&
  s.host.cmds.all fun c => c.id == id || !c.started || (decide (t < 2) && !imageOp c.op)

/-- A debug session ends, and halted control cores resume (R547, R549). -/
def State.endSession (s : State) : State :=
  { s with sec := { s.sec with level := 0 }
           icu := (List.range 20).foldl (fun (i : IcuSt) k => i.resume k) s.icu }

/-- A transition starts. -/
def State.powerStart (s : State) (id t : Nat) : State :=
  let s1 := if 3 ≤ t then s.endSession else s
  { s1 with pwr := { s1.pwr with busy := true, target := t, powerCmd := some id }.note 4 t
            host := { s1.host with paused := false } }.hold id

/-- POWER: fetching pauses until a transition towards P2, P3 or P4 starts. -/
def execPower (id : Nat) (s : State) : Result := s.onCmd 0x20 id fun c =>
  let t := c.word 1
  if t = s.pwr.state ∧ !s.pwr.busy then s.answer id 0 0 0 0
  else if s.powerMayStart id t then s.powerStart id t
  else { s with host := { s.host with paused := s.host.paused || decide (2 ≤ t) } }

/-- Every channel serves what it holds (R503). -/
def ExtSt.drainAll (x : ExtSt) (cfg : ChipCfg) : ExtSt := (List.range 256).foldl (fun (x : ExtSt) c => x.drain cfg c 80) x

/-- What the module is on reaching a power state from another (R435, R501, R503, R505). -/
def State.enter (s : State) (t : Nat) : State :=
  let from_ := s.pwr.state
  let s1 := { s with pwr := { s.pwr with state := t, busy := false, target := 0, powerCmd := none,
                                         transitions := s.pwr.transitions + 1 }
                     img := { s.img with pstateChanged := s.img.pstateChanged || s.img.active != 0 } }
  if t = 4 then s1.off
  else
    let down := fun (s : State) => { s with
      ext := s.ext.drainAll s.chip
      link := (List.range 32).foldl (fun (l : LinkSt) p => l.slow p) s.link }
    let up := fun (s : State) => { s with
      link := (List.range 32).foldl (fun (l : LinkSt) p => if (l.port p).state = 3 then l.retrain p false else l) s.link }
    if t ≤ 1 then (if 2 ≤ from_ then up s1 else s1)
    else
      let s2 := if from_ ≤ 1 then down s1 else s1
      if t = 3 then s2.endRun else s2

/-- POWER_TRANSITION_END: the record of a POWER command to P4 leaves before the endpoint goes down. -/
def execPowerTransitionEnd (s : State) : Result :=
  .next (if s.pwr.busy then
    let t := s.pwr.target
    match s.pwr.powerCmd with
    | some id =>
      if t = 4 then
        let s1 := s.answer id 0 0 0 0
        { s1 with host := (List.range s1.host.records.length).foldl (fun (h : HostSt) _ => h.writeRecord) s1.host }.enter t
      else (s.enter t).answer id 0 0 0 0
    | none => s.enter t
  else s)

/-- MAP_EXTEND: judged against the map that the next reset would build, and once more by its commit, which follows
those that wait before it. -/
def execMapExtend (id : Nat) (s : State) : Result := s.onCmd 0x21 id fun c =>
  let code := s.sup.extCode (c.word 1)
  if code ≠ 0 then s.refuse id code else s.queueCommit id (.mapExt (c.word 1))

/-- REJOIN: a FENCED chip sends JOIN to the root. -/
def execRejoin (id : Nat) (s : State) : Result := s.onCmd 0x22 id fun _ =>
  if s.link.mstate ≠ 3 then s.refuse id 0x84
  else { s with link := s.link.sendTo s.chip 3 s.link.root s.joinSeg }.hold id

/-! ### Rings (R453 to R457, R462, R463) -/

/-- The host interface, changed while the module is on. -/
def State.onHost (s : State) (f : HostSt → HostSt) : Result := .next (if s.on then { s with host := f s.host } else s)

/-- A doorbell write; in P2 and P3 it raises source 1 (R483). -/
def State.doorbell (s : State) (f : HostSt → HostSt) : Result :=
  .next (if s.on then { s with host := f s.host, pwr := if s.pwr.state = 2 ∨ s.pwr.state = 3 then s.pwr.line 1 else s.pwr } else s)

/-- SQ_TAIL_DOORBELL. -/
def execSqTailDoorbell (fn : Fin 16) (q : Fin 16384) (val : BitVec 32) (s : State) : Result :=
  s.doorbell fun h => h.sqDoorbell fn q val.toNat
/-- CQ_HEAD_DOORBELL. -/
def execCqHeadDoorbell (fn : Fin 16) (q : Fin 16384) (val : BitVec 32) (s : State) : Result :=
  s.doorbell fun h => h.cqDoorbell fn q val.toNat
/-- SQ_ENABLE. -/
def execSqEnable (fn : Fin 16) (q : Fin 16384) (on : Bool) (s : State) : Result :=
  s.onHost fun h => match h.global fn q with
    | some g => h.sqEnable fn g on
    | none => h
/-- CQ_ENABLE. -/
def execCqEnable (fn : Fin 16) (q : Fin 16384) (on : Bool) (s : State) : Result :=
  s.onHost fun h => match h.global fn q with
    | some g => h.cqEnable fn g on
    | none => h
/-- SQ_FETCH. -/
def execSqFetch (entry : Bytes) (s : State) : Result := 
  .next (if s.on then ({ s with host := s.host.fetch s.hostEnv entry } : State).noteBusy else s)
/-- COMPLETION_RECORD_WRITE. -/
def execCompletionRecordWrite (s : State) : Result := s.onHost fun h => h.writeRecord

/-- The oldest event of a part leaves it. -/
def State.takeEvent (s : State) (src : Part) : Option (Nat × Nat × Nat) × State :=
  match src with
  | .plane => (s.plane.ob.events.head?, { s with plane := { s.plane with ob := { s.plane.ob with events := s.plane.ob.events.tail } } })
  | .ext => (s.ext.ob.events.head?, { s with ext := { s.ext with ob := { s.ext.ob with events := s.ext.ob.events.tail } } })
  | .link => (s.link.ob.events.head?, { s with link := { s.link with ob := { s.link.ob with events := s.link.ob.events.tail } } })
  | .herd => (s.herd.ob.events.head?, { s with herd := { s.herd with ob := { s.herd.ob with events := s.herd.ob.events.tail } } })
  | .power => (s.pwr.ob.events.head?, { s with pwr := { s.pwr with ob := { s.pwr.ob with events := s.pwr.ob.events.tail } } })

/-- EVENT_RECORD: a part's oldest event joins those held, and the oldest one held is written if it can be (R462). -/
def execEventRecord (src : Part) (s : State) : Result :=
  .next (if !s.on then s
    else match s.takeEvent src with
      | (some e, s1) => { s1 with host := (s1.host.hold e).writeEvent }
      | (none, _) => { s with host := s.host.writeEvent })

/-- MSIX_COALESCE_TIMEOUT. -/
def execMsixCoalesceTimeout (q : Fin 16384) (s : State) : Result := s.onHost fun h => h.coalesceTimeout q

/-! ### BAR2 and functions (R448, R450 to R452, R464) -/

/-- The device address that a byte of BAR2 of a function reaches, none out of reach (R448, R451). -/
def HostSt.bar2 (h : HostSt) (fn off : Nat) : Option Nat :=
  if fn = 0 then
    let a := (h.bar2Base.toNat / 2 ^ h.bar2Log * 2 ^ h.bar2Log + off) % 2 ^ 39
    if h.inReach 0 a 1 then some a else none
  else
    let a := (h.part fn).1 + off
    if h.usable fn && decide (off < (h.part fn).2) && decide (a < 2 ^ 39) then some a else none

/-- The one device range that an access to BAR2 reaches when none of its bytes is out of reach. -/
def HostSt.bar2Range (h : HostSt) (fn off n : Nat) : Option Nat :=
  match h.bar2 fn off with
  | some a => if (List.range n).all fun i => h.bar2 fn (off + i) == some (a + i) then some a else none
  | none => none

/-- One byte read through BAR2 that may be out of reach. -/
def State.bar2Byte (s : State) (fn off : Nat) : State × Byte × Bool :=
  match s.host.bar2 fn off with
  | none => (s, 0, true)
  | some a =>
    let (s1, bs, out) := s.deviceRead a 1
    (s1, bs.headD 0, out != 0)

/-- Log2 of the size of a function's BAR2 (R447). -/
def HostSt.barLog (h : HostSt) (fn : Nat) : Nat := if fn = 0 then h.bar2Log else h.vfBar2Log

/-- BAR2_READ: the bytes read are left in `data`; an access that is partly out of reach or of every arena counts
once. An access past the end of the BAR is none to it: an unsupported request, which returns no data (R464). -/
def execBar2Read (fn : Fin 16) (off n : Nat) (s : State) : Result :=
  .next (if !s.on then s
    else if 2 ^ s.host.barLog fn < off + n then { s with data := [] }
    else match s.host.bar2Range fn off n with
      | some a =>
        let (s1, bs, out) := s.deviceRead a n
        { s1 with data := bs, host := if out = 0 then s1.host else s1.host.oor fn 1 }
      | none =>
        let (s1, bs, bad) := (List.range n).foldl (fun (st : State × Bytes × Bool) i =>
          let (t, b, o) := st.1.bar2Byte fn (off + i)
          (t, st.2.1 ++ [b], st.2.2 || o)) (s, [], false)
        { s1 with data := bs, host := if bad then s1.host.oor fn 1 else s1.host })

/-- BAR2_WRITE. -/
def execBar2Write (fn : Fin 16) (off : Nat) (data : Bytes) (s : State) : Result :=
  .next (if !s.on || decide (2 ^ s.host.barLog fn < off + data.length) then s
    else match s.host.bar2Range fn off data.length with
      | some a =>
        let (s1, out) := s.deviceWrite a data
        { s1 with host := if out = 0 then s1.host else s1.host.oor fn 1 }
      | none =>
        let (s1, bad) := (data.zipIdx).foldl (fun (st : State × Bool) (b, i) =>
          match st.1.host.bar2 fn (off + i) with
          | none => (st.1, true)
          | some a =>
            let (t, out) := st.1.deviceWrite a [b]
            (t, st.2 || out != 0)) (s, false)
        { s1 with host := if bad then s1.host.oor fn 1 else s1.host })

/-- VF_ENABLE. -/
def execVfEnable (n : Fin 16) (s : State) : Result := s.onHost fun h => if h.vfEnable then h else h.enableVfs n
/-- FUNCTION_LEVEL_RESET. -/
def execFunctionLevelReset (fn : Fin 16) (s : State) : Result := s.onHost fun h => h.flr fn

/-- COMPLETION_TIMEOUT: a command that reads host memory ends with HOST_ABORT (R464). -/
def execCompletionTimeout (id : Nat) (s : State) : Result :=
  .next (match s.host.cmds.find? fun c => c.id == id && c.started && !c.waits && [1, 4, 0x10, 0x17].contains c.op with
    | some _ => s.answer id 5 0 0 0
    | none => s)

end Sys2Proof.Machine
end

