-- ==== Sys2Proof/Machine/LinkRows.lean ====
section
/-! DEFINITION. The commands of the link ports (R401 to R435). -/

namespace Sys2Proof.Machine

/-- The link changed; a port that comes or goes changes the timing tree (R384). -/
def State.onLink (s : State) (f : LinkSt → LinkSt) : State :=
  let l := f s.link
  { s with link := l, herd := s.herd.tree l s.chip }

/-- Link and external memory changed by an operation on both. -/
def State.onLinkExt (s : State) (r : LinkSt × ExtSt) : State := { s with link := r.1, ext := r.2 }

/-! ### The link level (R401, R404 to R408, R426, R430 to R432) -/

/-- DATA_FLIT_RECEIVE: traffic at low rate is source 17 + p (R483). -/
def execDataFlitReceive (p : Fin 32) (bytes : Bytes) (fec : Nat × Nat) (s : State) : Result :=
  .next (s.onLink fun l => (if (l.port p).state = 3 then l.line (17 + p) else l).receive s.chip p bytes fec.1 fec.2)
/-- IDLE_FLIT. -/
def execIdleFlit (p : Fin 32) (ack : Fin 4096) (crVc : Fin 4) (crCount : Fin 1024) (s : State) : Result :=
  .next { s with link := s.link.idleFlit p ack crVc crCount }
/-- NAK. -/
def execNak (p : Fin 32) (seq : Fin 4096) (s : State) : Result := .next (s.onLink fun l => l.nak p seq)
/-- REPLAY_TIMEOUT. -/
def execReplayTimeout (p : Fin 32) (s : State) : Result := .next (s.onLink fun l => l.replayTimeout p)
/-- VIOLATION. -/
def execViolation (p : Fin 32) (s : State) : Result := .next { s with link := s.link.violated p }
/-- FENCED. -/
def execFenced (p : Fin 32) (s : State) : Result := .next { s with link := s.link.peerFence p }
/-- EPOCH_REQUEST_REPEAT. -/
def execEpochRequestRepeat (p : Fin 32) (s : State) : Result := .next { s with link := s.link.askAgain p }
/-- HELD_FLIT_TIMEOUT. -/
def execHeldFlitTimeout (p : Fin 32) (s : State) : Result := .next (s.onLink fun l => l.heldTimeout p)
/-- CREDIT_STALL. -/
def execCreditStall (p : Fin 32) (vc : Fin 4) (s : State) : Result := .next { s with link := s.link.creditStall p vc }

/-! ### Requests and responses (R403, R413 to R415, R419) -/

/-- LINK_WRITE. -/
def execLinkWrite (p : Fin 32) (s : State) : Result := .next (s.onLinkExt (s.link.request s.ext s.chip p 0 1))
/-- LINK_READ. -/
def execLinkRead (p : Fin 32) (s : State) : Result := .next (s.onLinkExt (s.link.request s.ext s.chip p 0 2))
/-- LINK_FOLD. -/
def execLinkFold (p : Fin 32) (s : State) : Result := .next (s.onLinkExt (s.link.request s.ext s.chip p 2 3))
/-- CLOSE. -/
def execClose (p : Fin 32) (vc : Fin 4) (s : State) : Result := .next (s.onLinkExt (s.link.request s.ext s.chip p vc 4))
/-- TRANSFER_SERVED. -/
def execTransferServed (p : Fin 32) (s : State) : Result := .next { s with link := s.link.served s.chip p }
/-- RDATA. -/
def execRdata (p : Fin 32) (s : State) : Result := .next { s with link := s.link.rdata p }
/-- DONE. -/
def execDone (p : Fin 32) (s : State) : Result := .next { s with link := s.link.done p }
/-- TAG_TIMEOUT. -/
def execTagTimeout (p : Fin 32) (tag : Fin 256) (s : State) : Result := .next { s with link := s.link.tagTimeout p tag }

/-! ### Training (R433, R434, R437) -/

/-- A port whose first training start-up has awaited is done with it; after the last one start-up is done (R564). -/
def State.portTrained (s : State) (p : Nat) : State :=
  if s.sup.step = 8 ∧ bit s.sup.portsLeft p then
    let left := s.sup.portsLeft - 2 ^ p
    let s1 := { s with sup := { s.sup with portsLeft := left } }
    if left = 0 then s1.ready else s1
  else s

/-- LINK_TRAINING: in P2 and P3 the port comes up at low rate (R435). -/
def execLinkTraining (p : Fin 32) (lanes : BitVec 6) (finished : Bool) (peerId : BitVec 64) (peerPort : Fin 32) (rtt : BitVec 32)
    (asym : BitVec 32) (s : State) : Result :=
  .next (if (s.link.port p).state = 1 then
    (s.onLink fun l => l.train p lanes.toNat finished peerId peerPort rtt asym (decide (2 ≤ s.pwr.state)) s.sup.moduleId).portTrained p
  else s)
/-- TRAINING_RETRY: while a cable is seated (R558). -/
def execTrainingRetry (p : Fin 32) (s : State) : Result :=
  .next (if s.on && s.sup.cabled p then { s with link := s.link.retry p } else s)
/-- LANE_FAILURE. -/
def execLaneFailure (p : Fin 32) (lane : Fin 6) (s : State) : Result := .next (s.onLink fun l => l.laneFail p lane)
/-- DISABLE. -/
def execDisable (p : Fin 32) (on : Bool) (s : State) : Result :=
  .next (if s.snap.portThere p then s.onLink fun l => l.disable p (s.sup.cabled p) on else s)
/-- RETRAIN. -/
def execRetrain (p : Fin 32) (s : State) : Result :=
  .next (if s.snap.portThere p then s.onLink fun l => l.retrainAll p (s.sup.cabled p) else s)

end Sys2Proof.Machine
end

