-- ==== Sys2Proof/Machine/SecRows.lean ====
section
/-! DEFINITION. The commands of the security block and the debug connector: nonces, authorisations, sessions, JTAG,
attestation, firmware (R530 to R549). -/

namespace Sys2Proof.Machine

/-! ### Shared operations -/

/-- The real-time count as a command reports it. -/
def State.atRtc (s : State) (rtc : BitVec 48) : State := { s with sup := { s.sup with rtc := rtc } }

/-- Control cores 0 to 19 go on from a debug halt. -/
def IcuSt.resumeAll (i : IcuSt) : IcuSt := (List.range 20).foldl (fun (i : IcuSt) k => i.resume k) i

/-- Security block and store changed by an operation on both; halted control cores go on when it ended the session. -/
def State.onSec (s : State) (r : SecSt × PwrSt) : State :=
  { s with sec := r.1, pwr := r.2, icu := if s.sec.level ≠ 0 ∧ r.1.level = 0 then s.icu.resumeAll else s.icu }

/-- A request through the debug access port ends at once with a result code. -/
def State.dbgResult (s : State) (code : Nat) : State := { s with sec := { s.sec with result := code } }

/-- A request through the debug access port (R548, R553): none in P4 or while BUSY; in SCRAPPED refused with STATE, in
P2 with POWER. -/
def State.dbgRequest (s : State) (f : State → State) : State :=
  if !s.on || s.sec.busy then s
  else if s.sec.life = .scrapped then s.dbgResult 1
  else if s.pwr.state = 2 then s.dbgResult 7
  else f s

/-! ### Nonces and authorisations (R531, R532, R535, R537) -/

/-- GET_NONCE's own work (R535): a refused commit leaves the nonce as it is. -/
def State.newNonce (s : State) : State :=
  let (p, ok) := s.pwr.counter 0 (leBytes 8 (s.sec.nonceSeq.toNat + 1))
  if ok then { s with pwr := p, sec := s.sec.newNonce s.sup.rtc.toNat } else { s with pwr := p }.dbgResult 6

/-- GET_NONCE. -/
def execGetNonce (rtc : BitVec 48) (s : State) : Result := .next ((s.atRtc rtc).dbgRequest State.newNonce)

/-- SUBMIT's own work: steps 1 to 6 of R537. -/
def State.submit (s : State) : State := if s.on then s.onSec (s.sec.submit s.pwr s.sup.moduleId s.sup.rtc.toNat) else s

/-- SUBMIT. -/
def execSubmit (rtc : BitVec 48) (s : State) : Result := .next (s.atRtc rtc).submit

/-- Step 7 of R537 for one OP: a transition that erases ends the run first and erases after its commit (R532). -/
def State.authorise (s : State) (op : Nat) (rtc : BitVec 48) : State :=
  let s0 := s.atRtc rtc
  if !s0.on ∨ s0.sec.verified ≠ some op then s0
  else
    let s1 := if opErases op then s0.endRun else s0
    let (sec, pwr, _) := s1.sec.authorise s1.pwr op rtc.toNat
    (s1.onSec (sec, pwr)).eraseAll

/-- TAKE_OWNERSHIP. -/
def execTakeOwnership (rtc : BitVec 48) (s : State) : Result := .next (s.authorise 1 rtc)
/-- OWNER_OPEN, the request OPEN of R531. -/
def execOwnerOpen (rtc : BitVec 48) (s : State) : Result := .next (s.authorise 2 rtc)
/-- SET_POLICY. -/
def execSetPolicy (rtc : BitVec 48) (s : State) : Result := .next (s.authorise 3 rtc)
/-- RELEASE_OWNERSHIP, the request RELEASE of R531. -/
def execReleaseOwnership (rtc : BitVec 48) (s : State) : Result := .next (s.authorise 4 rtc)
/-- VENDOR_OPEN. -/
def execVendorOpen (rtc : BitVec 48) (s : State) : Result := .next (s.authorise 5 rtc)
/-- VENDOR_BLANK. -/
def execVendorBlank (rtc : BitVec 48) (s : State) : Result := .next (s.authorise 6 rtc)
/-- SCRAP. -/
def execScrap (rtc : BitVec 48) (s : State) : Result := .next (s.authorise 7 rtc)

/-! ### Sessions and leases (R531, R535, R547 to R549) -/

/-- SESSION's own work. Entering Full ends the run and clears the stores of the cores (R547). -/
def State.session (s : State) (level : Nat) : State :=
  let code := s.sec.sessionResult s.pwr.state level
  if code ≠ 0 then s.dbgResult code
  else if level = 0 then s.endSession.dbgResult 0
  else
    let s1 := if level = 2 ∧ s.sec.level ≠ 2 then { s.endRun with plane := s.endRun.plane.wipe } else s
    { s1 with sec := { s1.sec with level := level, result := 0 } }

/-- SESSION. -/
def execSession (level : Fin 4) (s : State) : Result := .next (s.dbgRequest fun s => s.session level)
/-- END. -/
def execEndSession (s : State) : Result := .next (s.dbgRequest fun s => s.endSession.dbgResult 0)

/-- RELOCK's own work; it is taken in P2 too (R548). -/
def State.relock (s : State) : State := if s.on && !s.sec.busy then s.onSec (s.sec.relock s.pwr) else s

/-- RELOCK. -/
def execRelock (s : State) : Result := .next s.relock
/-- LEASE_EXPIRY: while the security block is powered. -/
def execLeaseExpiry (rtc : BitVec 48) (s : State) : Result :=
  let s1 := s.atRtc rtc
  .next (if s1.on then s1.onSec (s1.sec.leaseExpiry s1.pwr rtc.toNat) else s1)
/-- NONCE_EXPIRY. -/
def execNonceExpiry (rtc : BitVec 48) (s : State) : Result :=
  let s1 := s.atRtc rtc
  .next { s1 with sec := s1.sec.nonceExpiry rtc.toNat }

/-! ### JTAG (R530, R545, R548) -/

/-- A JTAG instruction; while the module is off only BYPASS and IDCODE work, and others select BYPASS. -/
def State.jtag (s : State) (ir : JtagIr) (allowed : Bool) : State :=
  if s.pwr.railsFailing then s else { s with sec := s.sec.jtag (if allowed then ir else .bypass) }

/-- BYPASS. -/
def execBypass (s : State) : Result := .next (s.jtag .bypass true)
/-- IDCODE: the identification is shifted out. -/
def execIdcode (s : State) : Result :=
  .next (if s.pwr.railsFailing then s else { s.jtag .idcode true with data := leBytes 4 idcode.toNat })
/-- SAMPLE_PRELOAD: what the pins showed is a free value; the cells take what was shifted in. -/
def execSamplePreload (cells : Bytes) (s : State) : Result :=
  let ok := s.on && s.sec.life != .scrapped
  let s1 := s.jtag .sample ok
  .next (if ok then { s1 with sec := { s1.sec with scan := cells }, data := freeBytes s.free cells.length, free := s.free + cells.length }
    else s1)
/-- EXTEST: in a Full session the pins are driven from the cells. -/
def execExtest (s : State) : Result :=
  let ok := s.on && s.sec.level == 2
  let s1 := s.jtag .extest ok
  .next (if ok then { s1 with sec := { s1.sec with driven := s1.sec.scan } } else s1)
/-- DAPACC. -/
def execDapacc (s : State) : Result := .next (s.jtag .dapacc s.on)

/-! ### Debug of control cores (R546, R548) -/

/-- A Full session in P0 or P1. -/
def State.fullDebug (s : State) : Bool := s.sec.level == 2 && decide (s.pwr.state ≤ 1)

/-- DEBUG_HALT. -/
def execDebugHalt (k : Fin 20) (s : State) : Result :=
  .next (if s.fullDebug then { s with icu := s.icu.debugHalt k } else s)
/-- RESUME. -/
def execResume (k : Fin 20) (s : State) : Result :=
  .next (if s.fullDebug then { s with icu := s.icu.resume k } else s)

/-! ### Attestation (R543, R544; the form of the answers is log entry 17) -/

/-- The SPDM error answer of a code. -/
def spdmError (code : Nat) : Bytes := [0x7F, BitVec.ofNat 8 code]

/-- An SPDM request is answered; in P4 with STATE, in RECOVERY not at all (R541, R563). -/
def State.spdm (s : State) (answer : SecSt → Bytes) : State :=
  if s.pwr.railsFailing || s.sec.recovery then s
  else if !s.on then { s with data := [0x02] }
  else { s with data := answer s.sec }

/-- What measurements show beside the security block's own state. -/
def State.measEnv (s : State) : MeasEnv :=
  { activeHash := slice s.img.activeHash 0 48, digest := s.sup.digest.toNat, partCode := s.sup.partCode, runId := s.img.runId.toNat }

/-- The certificate chain of slot 0; none once derivation is disabled. -/
def SecSt.chain (s : SecSt) : Option Bytes := if s.keysOff then none else some (Config.certChain s.aliasSeed)

/-- An answer over slot 0's chain. -/
def SecSt.withChain (s : SecSt) (slot : Nat) (f : Bytes → Bytes) : Bytes :=
  match s.chain with
  | some c => if slot = 0 then f c else spdmError 1
  | none => spdmError 7

/-- GET_VERSION. -/
def execGetVersion (s : State) : Result :=
  .next (let s1 := s.spdm fun _ => [0x12, 0x13]
         if s.on && !s.sec.recovery then { s1 with sec := { s1.sec with version12 := true } } else s1)
/-- GET_CAPABILITIES: certificates, challenge, signed measurements. -/
def execGetCapabilities (s : State) : Result := .next (s.spdm fun _ => leBytes 4 0x16)
/-- NEGOTIATE_ALGORITHMS: ECDSA P-384 and SHA-384, or nothing. -/
def execNegotiateAlgorithms (ecdsaP384 sha384_ : Bool) (s : State) : Result :=
  let ok := ecdsaP384 && sha384_
  .next (let s1 := s.spdm fun _ => leBytes 4 (if ok then 0x80 else 0) ++ leBytes 4 (if ok then 2 else 0)
         if s.on && !s.sec.recovery then { s1 with sec := { s1.sec with negotiated := ok } } else s1)
/-- GET_DIGESTS. -/
def execGetDigests (s : State) : Result := .next (s.spdm fun c => c.withChain 0 sha384)
/-- GET_CERTIFICATE. -/
def execGetCertificate (slot : Fin 8) (off len : Nat) (s : State) : Result :=
  .next (s.spdm fun c => c.withChain slot fun b => (b.drop off).take len)
/-- CHALLENGE: the chain's digest, and the alias signature over the requester's nonce and that digest. -/
def execChallenge (slot : Fin 8) (nonce : Bytes) (s : State) : Result :=
  .next (s.spdm fun c => c.withChain slot fun b => sha384 b ++ Config.aliasEcdsa c.aliasSeed (nonce ++ sha384 b))

/-- The measurements a request names: 0 their number, 255 all. -/
def SecSt.measured (s : SecSt) (e : MeasEnv) (index : Nat) (nonce : Bytes) : Bytes :=
  if index = 0 then [8]
  else if index = 255 then s.measureAll e ++ s.measure8 e nonce
  else if index = 8 then s.measure8 e nonce
  else s.measure e index

/-- GET_MEASUREMENTS: the measurements as they stand now, signed under the alias key. -/
def execGetMeasurements (index : Fin 256) (nonce : Bytes) (s : State) : Result :=
  .next (s.spdm fun c =>
    if c.keysOff then spdmError 7
    else if 8 < index.val ∧ index.val < 255 then spdmError 1
    else
      let m := c.measured s.measEnv index nonce
      m ++ Config.aliasEcdsa c.aliasSeed (nonce ++ m))

/-! ### Firmware (R542) -/

/-- FIRMWARE_UPDATE: in every state but P4, RECOVERY too; a slot whose SVN is below ROLLBACK is not written. -/
def execFirmwareUpdate (pair : Fin 5) (signed : Bool) (svn : BitVec 16) (version : BitVec 32) (bodyOk stewardOk : Bool) (body : Bytes)
    (s : State) : Result :=
  .next (if s.on then { s with sec := s.sec.update ⟨pair, signed, svn, version, bodyOk, stewardOk, body⟩ }
    else if s.pwr.railsFailing then s else { s with data := [0x02] })
/-- FIRMWARE_ACTIVATION: a slot that passes its checks waits for its FIRMWARE commit. -/
def execFirmwareActivation (s : State) : Result :=
  .next (if s.on then
    let k := 1 - s.sec.slot
    let f := s.sec.slots.get FwSlot.factory k
    if s.sec.slotOk f then
      { s with pwr := { s.pwr with commits := s.pwr.commits ++ [(⟨.firmware k f.svn.toNat, none⟩ : Commit)] } }
    else s
  else if s.pwr.railsFailing then s else { s with data := [0x02] })

end Sys2Proof.Machine
end

