-- ==== Sys2Proof/Machine/PowerRows.lean ====
section
/-! DEFINITION. The commands of power, limits, durable commits, failures and snapshots (R506 to R529). -/

namespace Sys2Proof.Machine

/-- Power changed while the module is on. -/
def State.onPwr (s : State) (f : PwrSt → PwrSt) : Result := .next (if s.on then { s with pwr := f s.pwr } else s)

/-! ### Governor and temperatures (R508 to R510) -/

/-- GOVERNOR_SAMPLE. -/
def execGovernorSample (power_ avg rail : Nat) (s : State) : Result := s.onPwr fun p => (p.governorSample power_ avg rail).1
/-- GOVERNOR_ADJUST. -/
def execGovernorAdjust (power_ : Nat) (s : State) : Result := s.onPwr fun p => p.governorAdjust power_
/-- DIE_THERMAL_SAMPLE. -/
def execDieThermalSample (west east : Nat) (s : State) : Result := s.onPwr fun p => (p.thermalSample west east).1

/-! ### Fault stops (R512, R516) -/

/-- Whether the condition of a cause stands: those of the reference, the lockstep pair, the regulators and the input
come with the command. -/
def PwrSt.causeStands (p : PwrSt) (cause : Nat) : Bool :=
  match cause with
  | 1 | 2 | 5 | 6 => true
  | 3 => decide (2 ≤ p.hotWest)
  | 4 => decide (2 ≤ p.hotEast)
  | 7 => p.clamped && decide (5000000 ≤ p.excess)
  | _ => false

/-- A cause that leaves time for a crash record. -/
def crashCause (cause : Nat) : Bool := [3, 4, 5, 7].contains cause

/-- The first cause is latched, the audit record written, and the crash record in its ring of 256 MiB: `stand` says that the
main rails stand while it is written; without them it needs 3 J of the bank (R512, R516, R518). -/
def PwrSt.stopRecords (p : PwrSt) (cause rtc : Nat) (stand : Bool) : PwrSt :=
  let rec_ := crashCause cause && (stand || decide (3000 ≤ p.energy))
  let p1 := p.note 7 cause
  let p2 := if rec_ then { p1.journalled 6 cause [] with crashes := newest 256 (p1.crashes ++ [(cause, rtc)]) } else p1
  if p2.faultValid then p2
  else { p2 with faultCause := cause, faultValid := true, crashRec := rec_, faultRtc := BitVec.ofNat 48 rtc }

/-- FAULT_STOP: the module is then as in P4. -/
def execFaultStop (cause : Fin 256) (rtc : BitVec 48) (stand : Bool) (s : State) : Result :=
  let s1 := s.atRtc rtc
  .next (if s1.on && s1.pwr.causeStands cause then { s1 with pwr := s1.pwr.stopRecords cause rtc.toNat stand }.off else s1)

/-! ### Single failures (R523) -/

/-- EAST_LOST. -/
def execEastLost (s : State) : Result := .next (if s.on then s.loseEast else s)

/-- A quadrant without a steward: its stack and ports are fenced, its cores gone, its bit clear. -/
def State.loseQuadrant (s : State) (q : Nat) : State :=
  let l := (List.range 4).foldl (fun (l : LinkSt) i => l.setState (4 * q + i) 4) s.link
  { s with
    sup := { s.sup with quadrantOk := s.sup.quadrantOk &&& (255 - 1 <<< q), short := s.sup.short ||| 1 <<< q }
    plane := { s.plane with sites := s.plane.sites.filter fun x => x.2 / 18 != q }
    ext := s.ext.fence q
    link := l
    herd := s.herd.tree l s.chip
    icu := s.icu.onSteward q fun w => { w with ready := false } }

/-- STEWARD_CORE_LOST: the other core of the cluster goes on; without one the quadrant is lost. S2 and S3 leave their
services to S0/S1. -/
def execStewardCoreLost (k : Fin 20) (s : State) : Result :=
  .next (if !s.on || k.val < 2 || s.icu.lostCores.contains k.val then s
    else
      let i := { s.icu with lostCores := s.icu.lostCores ++ [k.val] }.onCore k fun c => { c with state := 4 }
      let s1 := { s with icu := i }
      if k.val < 4 then s1
      else
        let s2 := { s1 with pwr := s1.pwr.event 8 k }
        if i.lostCores.contains (k.val / 2 * 2) && i.lostCores.contains (k.val / 2 * 2 + 1) then s2.loseQuadrant ((k.val - 4) / 2) else s2)

/-! ### Hold-up bank and durable commits (R514 to R517, R519) -/

/-- HOLDUP_HEALTH_CHECK. -/
def execHoldupHealthCheck (energy cap esr : Nat) (s : State) : Result := s.onPwr fun p => p.healthCheck s.sup.rtc.toNat energy cap esr

/-- What a commit names in its journal records: a target and its content. -/
def CommitAct.record : CommitAct → Nat × Bytes
  | .audit => (0, [])
  | .mapExt e => (e, leBytes 8 e)
  | .store slot img => (slot, img)
  | .delete slot => (slot, [])
  | .firmware slot svn => (slot, leBytes 2 svn)

/-- What a commit changes once it is DONE, a diagnosis that a map extension has settled among it (R481), and the RESULT0 of the
command it completes. -/
def State.commitDone (s : State) (a : CommitAct) : State × Nat :=
  match a with
  | .audit => ({ s with pwr := s.pwr.flushed }, 0)
  | .mapExt e =>
    let u := { s.sup with exts := s.sup.exts ++ [e] }
    ({ s with sup := u, icu := s.icu.diagnosed u.nextMap.invalid }, u.exts.length)
  | .store slot img => ({ s with img := { s.img with library := s.img.library.set slot img } }, img.length)
  | .delete slot => ({ s with img := { s.img with library := s.img.library.del slot } }, 0)
  | .firmware slot svn => ({ s with sec := s.sec.activate slot svn }, 0)

/-- A host command that a commit completes, if there is one. -/
def State.answerCommit (s : State) (cmd : Option Nat) (status detail r0 : Nat) : State :=
  match cmd with
  | some id => s.answer id status detail r0 0
  | none => s

/-- Why a commit that has its turn programs nothing, 0 if it may: a map extension that changes nothing any more, or finds
no entry left, after the commits before it (R32). -/
def State.commitCode (s : State) (a : CommitAct) : Nat :=
  match a with
  | .mapExt e => s.sup.extCode e
  | .audit | .store _ _ | .delete _ | .firmware _ _ => 0

/-- The bank's health is to be checked again before the next commit (R515). -/
def State.checkDue (s : State) : Bool := decide (s.pwr.checked + 60 * rtcHz < s.sup.rtc.toNat)

/-- DURABLE_COMMIT: the oldest waiting commit runs to DONE, or is refused with HOLDUP (R516) or as R32 says; it waits for a
health check that is due. -/
def execDurableCommit (energy : Nat) (s : State) : Result :=
  .next (match s.on && !s.checkDue, s.pwr.commits with
    | true, c :: rest =>
      let p1 := { s.pwr with commits := rest }.measured energy
      if s.commitCode c.act ≠ 0 then { s with pwr := p1 }.answerCommit c.cmd 1 (s.commitCode c.act) 0
      else if p1.admits c.act.kind then
        let (s1, r0) := { s with pwr := p1 }.commitDone c.act
        { s1 with pwr := s1.pwr.journalled c.act.kind c.act.record.1 c.act.record.2 }.answerCommit c.cmd 0 0 r0
      else { s with pwr := p1.refuse }.answerCommit c.cmd 1 0x82 0
    | _, _ => s)

/-- NAND_WEAR_MANAGEMENT. -/
def execNandWearManagement (life worst bad erased : Nat) (s : State) : Result := s.onPwr fun p => p.nandWear life worst bad erased

/-! ### Snapshots (R520, R521) -/

/-- A snapshot is requested. -/
def State.trigger (s : State) : State := { s with tel := s.tel.request s.snap (decide (2 ≤ s.pwr.state)) }

/-- TRIGGER. -/
def execTrigger (s : State) : Result := .next (if s.on then s.trigger else s)
/-- PERIODIC_SNAPSHOT: while PERIOD is not 0. -/
def execPeriodicSnapshot (s : State) : Result := .next (if s.on && s.tel.period != 0 then s.trigger else s)
/-- SNAPSHOT_CAPTURE_END: the SNAPSHOT commands that wait complete with the number. -/
def execSnapshotCaptureEnd (s : State) : Result :=
  .next (if s.tel.busy then
    let s1 := { s with tel := s.tel.captureEnd }
    (s1.host.cmds.filter fun c => c.op == 6 && c.waits).foldl (fun (s : State) c => s.answer c.id 0 0 s.tel.number.toNat 0) s1
  else s)

end Sys2Proof.Machine
end

