-- ==== Sys2Proof/Machine/RegRows.lean ====
section
/-! DEFINITION. Register accesses by the host, the control cores and the debug access port (R13 to R16, R48, R49, R449,
R546), and the commands that stand for writes of one register. -/

namespace Sys2Proof.Machine

/-! ### The form of an access (R13) -/

/-- A register access of the right size and alignment: the register's offset and the bits it reaches. -/
def accessBits (off size : Nat) : Option (Nat × Nat) :=
  if size = 8 ∧ off % 8 = 0 then some (off, 2 ^ 64 - 1)
  else if size = 4 ∧ off % 4 = 0 then some (off / 8 * 8, if off % 8 = 0 then 2 ^ 32 - 1 else 2 ^ 64 - 2 ^ 32)
  else none

/-- What a read returns of a register's 64 bits. -/
def readShape (off size w : Nat) : Nat := if size = 8 then w % 2 ^ 64 else if off % 8 = 0 then w % 2 ^ 32 else w / 2 ^ 32 % 2 ^ 32

/-- A register's bits with the reached ones replaced. -/
def mergeBits (old mask v : Nat) : Nat := (old &&& (2 ^ 64 - 1 - mask)) ||| (v &&& mask)

/-- Whether an access reaches the low or the high half. -/
def reachLow (mask : Nat) : Bool := bit mask 0
/-- The high half. -/
def reachHigh (mask : Nat) : Bool := bit mask 63

/-! ### Fields that a read clears (R14) -/

/-- COUNT of a latest-refusal register, which stands in its high half. -/
def FaultReg.clear (f : FaultReg) (m : Nat) : FaultReg := if reachHigh m then { f with count := 0 } else f

/-- `a` becomes 0 when the half is reached. -/
def clearIf (b : Bool) (a : Nat) : Nat := if b then 0 else a

/-- RC fields of a core's COR_ block (R77, R82, R151, R185, R275 to R277). -/
def Core.regClear (c : Core) (off m : Nat) : Core :=
  let hi := reachHigh m
  let lo := reachLow m
  if off = 0x20 then { c with seq := { c.seq with fault := c.seq.fault.clear m } }
  else if off = 0x28 then { c with su := { c.su with fault := c.su.fault.clear m } }
  else if off = 0x30 then
    { c with st := { c.st with collide := clearIf hi c.st.collide, corrected := clearIf hi c.st.corrected, uncorr := clearIf lo c.st.uncorr } }
  else if off = 0x38 then { c with seq := { c.seq with ovfCount := clearIf hi c.seq.ovfCount } }
  else if 0x1400 ≤ off ∧ off < 0x1600 then
    let k := (off - 0x1400) / 8
    let g := c.me (k / 16)
    if hi then c.setMe (k / 16) { g with vats := g.vats.upd Vat.reset (k % 16) fun v => { v with stale := 0 } } else c
  else if 0x1620 ≤ off ∧ off < 0x1640 then
    let e := (off - 0x1620) / 8
    c.setMe e { c.me e with fault := (c.me e).fault.clear m }
  else if off = 0x1810 then { c with ve := { c.ve with fault := c.ve.fault.clear m } }
  else if off = 0x1F00 then
    { c with su := { c.su with narIn := clearIf hi c.su.narIn, satHi := clearIf hi c.su.satHi, satLo := clearIf lo c.su.satLo,
                               ovf := clearIf lo c.su.ovf } }
  else c

/-- RC fields of a core's SEP_ block (R240, R241). -/
def Core.regClearSep (c : Core) (off m : Nat) : Core :=
  if off = 0x00 then
    { c with su := { c.su with oorW := clearIf (reachHigh m) c.su.oorW, oorR := clearIf (reachLow m) c.su.oorR } }
  else if off = 0x08 then { c with su := { c.su with sepFault := c.su.sepFault.clear m } }
  else c

/-- RC fields of a channel's MEM_ block (R330, R331). -/
def Chan.regClear (k : Chan) (off m : Nat) : Chan :=
  if off = 0x08 then { k with corrected := clearIf (reachHigh m) k.corrected, uncorr := clearIf (reachHigh m) k.uncorr }
  else if off = 0x10 then
    { k with retryCa := clearIf (reachHigh m) k.retryCa, retryWr := clearIf (reachHigh m) k.retryWr, retryRd := clearIf (reachLow m) k.retryRd }
  else k

/-- RC fields of a unit's CRM_ block (R334, R335). -/
def Chan.regClearCrm (k : Chan) (off m : Nat) : Chan :=
  if off = 0x08 then { k with droppedFmt := clearIf (reachLow m) k.droppedFmt, poisoned := clearIf (reachLow m) k.poisoned }
  else if off = 0x10 then { k with faults := clearIf (reachHigh m) k.faults }
  else k

/-- RC fields of a port's LNK_ block (R439 to R441). -/
def Port.regClear (q : Port) (off m : Nat) : Port :=
  let hi := reachHigh m
  let lo := reachLow m
  match off with
  | 0x20 => { q with fecUncorr := clearIf lo q.fecUncorr }
  | 0x28 => { q with naksTx := clearIf hi q.naksTx, naksRx := clearIf hi q.naksRx, retrains := clearIf lo q.retrains,
                     failovers := clearIf lo q.failovers }
  | 0x30 => { q with rxViol := clearIf hi q.rxViol, txViol := clearIf hi q.txViol }
  | 0x38 => { q with stale := clearIf hi q.stale, timeouts := clearIf lo q.timeouts }
  | 0x40 => { q with doneErr := clearIf lo q.doneErr }
  | _ => q

/-- RC fields of the herd registers (R395, R396). -/
def HerdSt.regClear (h : HerdSt) (off m : Nat) : HerdSt :=
  if off = 0x3088 then { h with late := clearIf (reachLow m) h.late, timeouts := clearIf (reachLow m) h.timeouts }
  else if off = 0x3098 then { h with mismatches := clearIf (reachHigh m) h.mismatches }
  else h

/-- HIF_ERR of a function (R469). -/
def HostSt.clearErr (h : HostSt) (fn m : Nat) : HostSt :=
  h.onErr fn fun e => ⟨clearIf (reachHigh m) e.bad, clearIf (reachHigh m) e.oor, clearIf (reachLow m) e.dbIgnored, clearIf (reachLow m) e.cqDrop⟩

/-- RC fields of the PF's HIF_ block (R469, R470). -/
def HostSt.regClear (h : HostSt) (off m : Nat) : HostSt :=
  if off = 0x08 then h.clearErr 0 m
  else if off = 0x18 then { h with evtLost := clearIf (reachHigh m) h.evtLost }
  else h

/-- RC fields of the PWR_ block (R524 to R527). -/
def PwrSt.regClear (p : PwrSt) (off m : Nat) : PwrSt :=
  let lo := reachLow m
  match off with
  | 0x08 => { p with peakW := clearIf lo p.peakW }
  | 0x18 => { p with clamps := clearIf lo p.clamps }
  | 0x20 => { p with changes := clearIf lo p.changes }
  | 0x30 => { p with refused := clearIf lo p.refused }
  | _ => p

/-- RC fields of the ICU_ block but for claims, read by a control core (R496, R498). -/
def IcuSt.regClear (i : IcuSt) (off m : Nat) : IcuSt :=
  if 0x2000 ≤ off ∧ off < 0x4000 ∧ reachHigh m then i.setSrc ((off - 0x2000) / 8) { i.src ((off - 0x2000) / 8) with coalesced := 0 }
  else if off = 0x5008 ∧ reachHigh m then { i with spurious := 0, badComplete := 0 }
  else i

/-! ### Interrupt controller operations that reach the host -/

/-- The interrupt controller changed; host vectors that come of it are signalled (R485). -/
def State.onIcu (s : State) (f : IcuSt → IcuSt) : State :=
  let i := f s.icu
  { s with icu := { i with msi := [] }, host := i.msi.foldl (fun (h : HostSt) v => h.signal 0 v) s.host }

/-- A read of a claim register by a control core (R491): the value is left in `bus`. -/
def State.claim (s : State) (k : Nat) : State :=
  let (i, n) := s.icu.claim k
  { s.onIcu (fun _ => i) with bus := n }

/-! ### Reads -/

/-- A register of BAR0 as the PF's host, a control core or the debug access port reads it, without side effects. -/
def State.reg (s : State) (a : Nat) : Nat :=
  if 0x310000 ≤ a ∧ a < 0x320000 then
    match a - 0x310000 with
    | 0x00 => s.sec.lifeWord s.sup.rtc.toNat
    | 0x08 => s.sec.bootWord
    | 0x10 => if s.sec.record.isEmpty then 0 else recPolicy s.sec.record
    | 0x18 => if s.sec.record.isEmpty then 0 else recKeyId s.sec.record
    | 0x20 => s.sec.attemptsWord s.sup.rtc.toNat
    | 0x60 => s.sec.nonceSeq.toNat
    | o => if 0x40 ≤ o ∧ o < 0x60 then leAt (s.sec.nonce.getD []) (o - 0x40) 8 else 0
  else if 0x320000 ≤ a ∧ a < 0x330000 then
    let o := a - 0x320000
    if o = 0 then s.sec.dbgStat else if 0x1000 ≤ o ∧ o < 0x3000 then leNat (s.sec.mbox.read (o - 0x1000) 8) else 0
  else if 0x400000 ≤ a ∧ a < 0x800000 then s.tel.reg (a - 0x400000)
  else s.snap.reg a

/-- What the RC fields of a register of BAR0 are after a read; `ctl` says that a control core reads. -/
def State.regClear (s : State) (ctl : Bool) (a m : Nat) : State :=
  let p := s.snap
  if a < 0x100000 then { s with herd := s.herd.regClear a m }
  else if a < 0x200000 then { s with host := s.host.regClear (a - 0x100000) m }
  else if a < 0x300000 then (if ctl then { s with icu := s.icu.regClear (a - 0x200000) m } else s)
  else if a < 0x310000 then { s with pwr := s.pwr.regClear (a - 0x300000) m }
  else if a = 0x400008 then { s with tel := { s.tel with missed := clearIf (reachLow m) s.tel.missed } }
  else if a < 0x1000000 then s
  else if a < 0x1400000 then
    let q := (a - 0x1000000) / 0x20000
    if p.portThere q then { s with link := s.link.onPort q fun k => k.regClear (a % 0x20000) m } else s
  else if a < 0x1800000 then
    let c := (a - 0x1400000) / 0x8000
    if p.coreThere c then { s with plane := s.plane.onCore c fun k => k.regClearSep (a % 0x8000) m } else s
  else if a < 0x2000000 then
    let c := (a - 0x1800000) / 0x8000
    if p.chanThere c then { s with ext := s.ext.onChan c fun k => k.regClear (a % 0x8000) m } else s
  else if a < 0x2800000 then
    let c := (a - 0x2000000) / 0x8000
    if p.chanThere c then { s with ext := s.ext.onChan c fun k => k.regClearCrm (a % 0x8000) m } else s
  else if a < 0x3800000 then
    let c := (a - 0x2800000) / 0x20000
    if p.coreThere c then { s with plane := s.plane.onCore c fun k => k.regClear ((a - 0x2800000) % 0x20000) m } else s
  else s

/-- Whether an offset is a claim register (R497). -/
def isClaim (a : Nat) : Bool := decide (0x204000 ≤ a) && decide (a < 0x204280) && a % 32 == 16

/-- SUP_CC_FETCH of a core that runs: what its firmware has fetched since the latest read is a free value (R475, R499). -/
def State.fetchPass (s : State) (off : Nat) : State :=
  let k := (off - 0x4100) / 8
  if 0x4100 ≤ off ∧ off < 0x41A0 ∧ (s.icu.core k).state = 1 then
    { s with
      icu := s.icu.onCore k fun c => { c with fetched := c.fetched + Config.freeWord s.free, wrongPath := c.wrongPath + Config.freeWord (s.free + 1) }
      free := s.free + 2 }
  else s

/-- A read by a control core: a claim register claims, other RC fields clear. -/
def State.readCtl (s : State) (k off size : Nat) : State :=
  match accessBits off size with
  | none => { s with bus := 0 }
  | some (a, m) =>
    if isClaim a then (if reachLow m then s.claim k else { s with bus := 0 })
    else
      let s1 := s.fetchPass a
      { s1.regClear true a m with bus := readShape off size (s1.reg a) }

/-- A read by the host through BAR0 of a function (R449). -/
def State.readHost (s : State) (fn off size : Nat) : State :=
  if fn ≠ 0 ∧ !(s.host.vfEnable && decide (fn ≤ s.host.numVfs)) then { s with bus := 0 }
  else match accessBits off size with
    | none => { s with bus := 0, host := s.host.badAccess fn }
    | some (a, m) =>
      if fn = 0 then
        let s1 := s.fetchPass a
        { s1.regClear false a m with bus := readShape off size (s1.reg a) }
      else { s with bus := readShape off size (s.host.regVf fn a), host := if a = 8 then s.host.clearErr fn m else s.host }

/-- Whether the debug access port reads an offset of BAR0 at the present level (R546, R548): the status reads in every
state that has the port up, everything at Observe and above in P0 and P1. -/
def State.debugReads (s : State) (a : Nat) : Bool :=
  s.on && s.sec.dap && ((decide (0x310000 ≤ a) && decide (a < 0x320000)) || a == 0x320000 ||
    (decide (1 ≤ s.sec.level) && decide (s.pwr.state ≤ 1)))

/-- The logical core at a physical site. -/
def PlaneSt.atSite (p : PlaneSt) (t : Nat) : Option Nat := (p.sites.find? fun x => x.2 == t).map (·.1)

/-- A register of a physical site, its COR_ block and then its SEP_ block; a site without a logical core shows reset
values. -/
def State.siteReg (s : State) (t off : Nat) : Nat :=
  let c := match s.plane.atSite t with
    | some c => s.plane.core c
    | none => Core.reset
  if off < 0x20000 then c.reg off else if off < 0x28000 then c.regSep (off - 0x20000) else 0

/-- A register read by an agent: its value is left in `bus`. -/
def State.read (s : State) (who : Agent) (off size : Nat) : State :=
  if !s.on then { s with bus := 0 }
  else match who with
    | .host fn => s.readHost fn off size
    | .ctl k => s.readCtl k off size
    | .debug => match accessBits off size with
      | some (a, _) =>
        let s1 := s.fetchPass a
        if s.debugReads a then { s1 with bus := readShape off size (s1.reg a) } else { s with bus := 0 }
      | none => { s with bus := 0 }
    | .debugSite t => match accessBits off size with
      | some (a, _) =>
        { s with bus := if s.sec.dap && decide (1 ≤ s.sec.level) && decide (s.pwr.state ≤ 1) then readShape off size (s.siteReg t a) else 0 }
      | none => { s with bus := 0 }

/-- READ_CLEAR. -/
def execReadClear (who : Agent) (off size : Nat) (s : State) : Result := .next (s.read who off size)

/-! ### Writes of the registers with an action (R437, R573) -/

/-- SUP_RESET_CTRL (R573): nothing without the key; a module reset where both are asked for. -/
def State.resetCtrl (s : State) (key : Nat) (module_ compute : Bool) : State :=
  if !s.on ∨ key ≠ 0x5AFE then s
  else if module_ then { s with sup := { s.sup with moduleWanted := some 4 } }
  else if compute then s.computeReset
  else s

/-- MODULE. -/
def execModuleRequest (key : BitVec 16) (s : State) : Result := .next (s.resetCtrl key.toNat true false)
/-- COMPUTE. -/
def execComputeRequest (key : BitVec 16) (s : State) : Result := .next (s.resetCtrl key.toNat false true)

/-- LNK_CTRL (R437): DISABLE, or a training; with RETRAIN set it tries all lanes again. -/
def LinkSt.writeCtrl (l : LinkSt) (p v : Nat) (cable : Bool) : LinkSt :=
  if bit v 0 ∧ !bit v 1 then (l.onPort p fun q => { q with disable := false }).retrainAll p cable else l.disable p cable (bit v 1)

/-! ### Writes, block by block: `v` holds the written bits over the register's old ones -/

/-- The SUP_ block (R394 to R396, R443, R573). -/
def State.writeSup (s : State) (a m v : Nat) : State :=
  let w := mergeBits (s.reg a) m v
  let b := BitVec.ofNat 64 w
  match a with
  | 0x3070 => { s with herd := { s.herd with load := b } }
  | 0x3078 => { s with herd := { s.herd with armed := s.herd.armed || bit w 0 } }
  | 0x3080 => { s with herd := { s.herd with barTimeout := (b >>> 32).setWidth 32, barMargin := b.setWidth 32 } }
  | 0x3090 => { s with herd := { s.herd with lsCfg := b.setWidth 12 } }
  | 0x3108 => { s with link := { s.link with deadTime := b.setWidth 16 } }
  | 0x6008 => s.resetCtrl (bits w 63 48) (bit w 1) (bit w 0)
  | _ => s

/-- A register of a ring pair of a function (R453, R472). -/
def HostSt.writeRing (h : HostSt) (fn g k w : Nat) : HostSt :=
  let r := h.ring g
  match k with
  | 0 => if r.sqEn then h else h.onRing g fun r => { r with sqBase := BitVec.ofNat 58 (w / 64) }
  | 1 => h.writeSqCfg fn g w
  | 2 => if r.cqEn then h else h.onRing g fun r => { r with cqBase := BitVec.ofNat 58 (w / 64) }
  | _ => h.writeCqCfg fn g w

/-- The PF's HIF_ block (R450, R463, R470 to R472). -/
def HostSt.writeReg (h : HostSt) (off m v : Nat) : HostSt :=
  if off = 0x10 then { h with bar2Base := BitVec.ofNat 39 (mergeBits h.bar2Base.toNat m v) }
  else
    let w := mergeBits (h.reg off) m v
    if off = 0x18 then { h with evtEn := bit w 63, evtCq := bits w 13 0 }
    else if 0x1010 ≤ off ∧ off < 0x1100 then
      if h.vfEnable then h
      else
        let k := (off - 0x1000) / 16
        let c := h.vfCfg.get (0, 0) k
        { h with vfCfg := h.vfCfg.set k
                   (if off % 16 = 0 then (fld (bits w 41 32) 10 32 + bits w 8 0, c.2)
                    else (c.1, fld (bits w 63 24) 40 24 + bits w 21 0)) }
    else if 0x40000 ≤ off ∧ off < 0x48000 then h.writeMsix 0 (off - 0x40000) w
    else if 0x80000 ≤ off ∧ off < 0x100000 then
      let g := (off - 0x80000) / 32
      if h.owner g = 0 then h.writeRing 0 g (off % 32 / 8) w else h
    else h

/-- A VF's BAR0 (R449). -/
def HostSt.writeVf (h : HostSt) (fn off m v : Nat) : HostSt :=
  let w := mergeBits (h.regVf fn off) m v
  if 0x4000 ≤ off ∧ off < 0x4400 then h.writeMsix fn (off - 0x4000) w
  else if 0x8000 ≤ off then
    match h.global fn ((off - 0x8000) / 32) with
    | some g => h.writeRing fn g (off % 32 / 8) w
    | none => h
  else h

/-- The ICU_ block, written by a control core (R495, R497); `k` is the writer, none for the debug access port. -/
def State.writeIcu (s : State) (k : Option Nat) (off m v : Nat) : State :=
  let w := mergeBits (s.icu.reg off) m v
  if off < 0x2000 then s.onIcu fun i => i.writeCfg (s.img.active != 0) (off / 8) w
  else if 0x4000 ≤ off ∧ off < 0x4280 then
    let c := (off - 0x4000) / 32
    match off % 32 / 8 with
    | 0 => s.onIcu fun i => i.onCore c fun x => { x with vectored := BitVec.ofNat 32 (w / 2 ^ 32), threshold := BitVec.ofNat 5 w }
    | 1 => s.onIcu fun i => i.onCore c fun x => { x with vbase := BitVec.ofNat 48 (w / 8 * 8) }
    | 3 => match k with
      | some k => if reachLow m then s.onIcu fun i => i.complete k (bits v 9 0) else s
      | none => s
    | _ => s
  else s

/-- The PWR_ block (R15, R525, R527). -/
def State.writePwr (s : State) (off m v : Nat) : State :=
  let p := s.pwr
  match off with
  | 0x10 =>
    let w := mergeBits (p.reg s.sup.rtc.toNat 0x10) m v
    if p.lock then s
    else
      let c := bits w 11 0
      { s with pwr := { p with lock := bit w 63, cap := if 1000 ≤ c ∧ c ≤ 2800 then c else p.cap } }
  | 0x38 =>
    if bit (v &&& m) 54 then { s with pwr := { p with faultValid := false, faultCause := 0, crashRec := false } } else s
  | _ => s

/-- TEL_SNAP_CTRL (R528). -/
def State.writeTel (s : State) (off m v : Nat) : State :=
  if off = 0 then
    let w := mergeBits (s.tel.reg 0) m v
    let s1 := { s with tel := { s.tel with period := BitVec.ofNat 32 (w / 2 ^ 32) } }
    if bit w 0 then s1.trigger else s1
  else s

/-- A port's LNK_ block (R437, R438). -/
def State.writeLnk (s : State) (p off m v : Nat) : State :=
  if off = 0x10 then (if reachLow m then s.onLink fun l => l.writeCtrl p v (s.sup.cabled p) else s)
  else if off = 0x18 then
    let w := mergeBits ((s.link.port p).reg s.chip 0x18) m v
    { s with link := s.link.onPort p fun q => { q with tagTimeout := BitVec.ofNat 16 (w / 2 ^ 32), violLimit := BitVec.ofNat 8 (w / 2 ^ 24) } }
  else s

/-- MEM_THERM_CFG, held by channel 0 of the stack (R332): a pair that breaks T1 < T2 ≤ 104 changes nothing. -/
def State.writeMem (s : State) (ch off m v : Nat) : State :=
  if off = 0x20 ∧ ch % 32 = 0 then
    let w := mergeBits (s.ext.regMem ch 0x20) m v
    let t1 := bits w 7 0
    let t2 := bits w 15 8
    if t1 < t2 ∧ t2 ≤ 104 then { s with ext := s.ext.onChan ch fun k => { k with t1 := t1, t2 := t2 } } else s
  else s

/-- A core's COR_ block (R184, R274). -/
def Core.writeReg (c : Core) (off m v : Nat) : Core :=
  if off = 0x10 then { c with seq := { c.seq with wdogLimit := BitVec.ofNat 40 (mergeBits c.seq.wdogLimit.toNat m v) } }
  else if off = 0x1808 ∧ reachLow m then { c with ve := c.ve.writeFlush v }
  else c

/-- A register of BAR0 is written by the PF's host (`ctl` none, `icu` false), a control core, or the debug access port
in a Full session; what the host may not write is ignored (R482, R495, R545). -/
def State.writeBar0 (s : State) (ctl : Option Nat) (icu : Bool) (a m v : Nat) : State :=
  let p := s.snap
  if a < 0x100000 then s.writeSup a m v
  else if a < 0x200000 then { s with host := s.host.writeReg (a - 0x100000) m v }
  else if a < 0x300000 then (if icu then s.writeIcu ctl (a - 0x200000) m v else s)
  else if a < 0x310000 then s.writePwr (a - 0x300000) m v
  else if a < 0x400000 then s
  else if a < 0x800000 then s.writeTel (a - 0x400000) m v
  else if a < 0x1000000 then
    let q := (a - 0x800000) / 0x100000
    if icu && reachLow m && a % 0x100000 == 8 && p.quadrant q then { s with icu := s.icu.stwToken q v } else s
  else if a < 0x1400000 then
    let q := (a - 0x1000000) / 0x20000
    if p.portThere q then s.writeLnk q (a % 0x20000) m v else s
  else if a < 0x1800000 then s
  else if a < 0x2000000 then
    let c := (a - 0x1800000) / 0x8000
    if p.chanThere c then s.writeMem c (a % 0x8000) m v else s
  else if a < 0x2800000 then s
  else if a < 0x3800000 then
    let c := (a - 0x2800000) / 0x20000
    if p.coreThere c then s.coreWrite c fun k => k.writeReg ((a - 0x2800000) % 0x20000) m v else s
  else s

/-- DBG_CTRL (R553): the requests of the debug access port. -/
def State.dbgCtrl (s : State) (w : Nat) : State :=
  match bits w 2 0 with
  | 1 => s.dbgRequest State.newNonce
  | 2 => s.submit
  | 3 => s.dbgRequest fun s => s.session (bits w 9 8)
  | 4 => s.dbgRequest fun s => s.endSession.dbgResult 0
  | 5 => s.relock
  | _ => s

/-- A write through the debug access port (R546, R548): the DBG_ block while status is more than read, every register
in a Full session. -/
def State.writeDebug (s : State) (a m v : Nat) : State :=
  if !s.sec.dap then s
  else if a = 0x320008 then (if reachLow m then s.dbgCtrl (v &&& m) else s)
  else if 0x321000 ≤ a ∧ a < 0x323000 then
    if s.sec.life = .scrapped ∨ s.pwr.state = 2 then s
    else
      let w := mergeBits (s.reg a) m v
      { s with sec := { s.sec with mbox := s.sec.mbox.write (a - 0x321000) (leBytes 8 w) } }
  else if s.fullDebug then s.writeBar0 none true a m v
  else s

/-- A register write by an agent. -/
def State.write (s : State) (who : Agent) (off size : Nat) (val : BitVec 64) : State :=
  if !s.on then s
  else
    let v := if size = 4 ∧ off % 8 = 4 then val.toNat % 2 ^ 32 * 2 ^ 32 else val.toNat
    match who, accessBits off size with
    | .host fn, none =>
      if fn.val ≠ 0 ∧ !(s.host.vfEnable && decide (fn.val ≤ s.host.numVfs)) then s else { s with host := s.host.badAccess fn }
    | _, none => s
    | .host fn, some (a, m) =>
      if fn.val = 0 then s.writeBar0 none false a m v
      else if s.host.vfEnable && decide (fn.val ≤ s.host.numVfs) then { s with host := s.host.writeVf fn a m v }
      else s
    | .ctl k, some (a, m) => s.writeBar0 (some k.val) true a m v
    | .debug, some (a, m) => s.writeDebug a m v
    | .debugSite t, some (a, m) =>
      if s.fullDebug && s.sec.dap && decide (a < 0x20000) then
        match s.plane.atSite t with
        | some c => s.coreWrite c fun k => k.writeReg a m v
        | none => s
      else s

/-- REGISTER_WRITE. -/
def execRegisterWrite (who : Agent) (off size : Nat) (val : BitVec 64) (s : State) : Result := .next (s.write who off size val)

end Sys2Proof.Machine
end

