-- ==== Sys2Proof/Machine/IcuRows.lean ====
section
/-! DEFINITION. The commands of the interrupt controller, the control cores and the stewards (R473 to R500). -/

namespace Sys2Proof.Machine

/-! ### Lines (R483, R486, R487) -/

/-- Sources whose line no other command of this model raises: the sideband's, the real-time alarm, a fault of the main
rails, debug requests, PCIe errors, requests of stewards (log entry 25). -/
def lineOutside (n : Nat) : Bool := [2, 4, 5, 49, 65].contains n || (decide (80 ≤ n) && decide (n < 88))

/-- The source that a core's event raises (R483). -/
def coreSource (r : Nat × CoreEv) : Option Nat :=
  match r.2 with
  | .pailDrop | .tokenRefused => some (832 + r.1)
  | .halted => none
  | .vat | .engine | .vector | .stream | .sequencer | .bankCollision | .uncorrectable | .watchdog => some (128 + r.1)

/-- A line that waits to rise leaves the outbox that holds it. -/
def Outbox.takeLine (o : Outbox) (n : Nat) : Option Outbox :=
  match takeFirst (fun x => x == n) o.rise with
  | some (_, t) => some { o with rise := t }
  | none => none

/-- The oldest event whose line is source `n`, taken from the part that reports it. -/
def State.takeLine (s : State) (n : Nat) : Option State :=
  match takeFirst (fun r => coreSource r == some n) s.plane.reports with
  | some (_, t) => some { s with plane := { s.plane with reports := t } }
  | none =>
  match s.plane.ob.takeLine n with
  | some o => some { s with plane := { s.plane with ob := o } }
  | none =>
  match s.ext.ob.takeLine n with
  | some o => some { s with ext := { s.ext with ob := o } }
  | none =>
  match s.link.ob.takeLine n with
  | some o => some { s with link := { s.link with ob := o } }
  | none =>
  match s.herd.ob.takeLine n with
  | some o => some { s with herd := { s.herd with ob := o } }
  | none =>
  match s.pwr.ob.takeLine n with
  | some o => some { s with pwr := { s.pwr with ob := o } }
  | none => if lineOutside n then some s else none

/-- LINE_RISE: an event's line, or one from outside; in P4 its wake latch catches it. -/
def execLineRise (n : Fin 1024) (s : State) : Result :=
  .next (match s.takeLine n with
    | some s1 => s1.onIcu fun i => i.lineRise s.on n
    | none => s)
/-- LINE_FALL. -/
def execLineFall (n : Fin 1024) (s : State) : Result := .next (if s.on then s.onIcu fun i => i.lineFall n else s)
/-- FILTER_ACCEPT. -/
def execFilterAccept (n : Fin 1024) (s : State) : Result := .next (if s.on then s.onIcu fun i => i.filterAccept n else s)
/-- WAKE_LATCH. -/
def execWakeLatch (s : State) : Result := .next (if s.on then s.onIcu IcuSt.wakeLatch else s)

/-! ### Takes, claims and completions (R490 to R492) -/

/-- INTERRUPT_TAKE. -/
def execInterruptTake (k : Fin 20) (s : State) : Result := .next (if s.on then s.onIcu fun i => i.take k else s)
/-- ICU_CORE_CLAIM. -/
def execIcuCoreClaim (k : Fin 20) (s : State) : Result := .next (if s.on then s.claim k else s)
/-- ICU_CORE_COMPLETE. -/
def execIcuCoreComplete (k : Fin 20) (n : Fin 1024) (s : State) : Result :=
  .next (if s.on then s.onIcu fun i => i.complete k n else s)

/-! ### Control-core addresses (R474, R476) -/

/-- Where an address of a control core's map lies. -/
inductive CtlPlace where
  | rom (steward : Bool) (off : Nat)
  | firmware (cluster off : Nat)
  | data (core off : Nat)
  | reg (off : Nat)
  | device (addr : Nat)
  | reserved (ch off : Nat)       -- offset in the channel's reserved region (R308)
  | nowhere
  deriving DecidableEq, Repr

/-- Whether a control core reaches a channel's reserved region. -/
def reachesChan (k ch : Nat) : Bool := decide (ch < 256) && (decide (k < 4) || (k - 4) / 2 == ch / 32)

/-- The place of an address for control core `k`. -/
def ctlPlace (k a : Nat) : CtlPlace :=
  if a < (if k < 4 then 0x40000 else 0x10000) then .rom (decide (4 ≤ k)) a
  else if 0x10000000 ≤ a ∧ a < 0x10100000 then .firmware (clusterOf k) (a - 0x10000000)
  else if 0x20000000 ≤ a ∧ a < 0x20040000 then .data (if k = 1 then 0 else k) (a - 0x20000000)
  else if 0x40000000 ≤ a ∧ a < 0x44000000 then .reg (a - 0x40000000)
  else if 2 ^ 40 ≤ a ∧ a < 2 ^ 41 then .device (a - 2 ^ 40)
  else if 2 ^ 41 ≤ a ∧ reachesChan k ((a - 2 ^ 41) / 2 ^ 23) then .reserved ((a - 2 ^ 41) / 2 ^ 23) (a % 2 ^ 23)
  else .nowhere

/-- First channel-local byte of the reserved region (R308). -/
def reservedBase : Nat := 1491611392

/-- Bytes of a reserved region: the request takes its place behind what the channel holds (R476). A poisoned sector
gives free values, a fenced stack zero (R318). -/
def State.reservedRead (s : State) (ch off n : Nat) : State × Bytes :=
  if s.ext.isFenced ch then ({ s with ext := s.ext.fenceHit ch }, fillBytes n 0)
  else
    let l := reservedBase + off
    let x := (s.ext.drain s.chip ch 80).noteRead ch (l / 32)
    if x.poisoned ch l then ({ s with ext := x, free := s.free + n }, freeBytes s.free n)
    else ({ s with ext := x }, x.peek ch l n)

/-- Bytes written to a reserved region. -/
def State.reservedWrite (s : State) (ch off : Nat) (bs : Bytes) : State :=
  if s.ext.isFenced ch then { s with ext := s.ext.fenceHit ch }
  else { s with ext := (s.ext.drain s.chip ch 80).mergeBytes ch (plainBytes (reservedBase + off) bs) }

/-- A load of a control core: none is an access fault. -/
def State.ctlLoad (s : State) (k a n : Nat) : State × Option Bytes :=
  match ctlPlace k a with
  | .rom steward o => (s, some ((List.range n).map fun i => Config.romByte steward (o + i)))
  | .firmware c o => (s, some (Mem.read (s.icu.fwSram.get [] c) o n))
  | .data c o => (s, some (Mem.read (s.icu.dataSram.get [] c) o n))
  | .reg o =>
    let s1 := s.readCtl k o n
    ({ s1 with bus := s.bus }, some (leBytes n s1.bus))
  | .device d =>
    let (s1, bs, _) := s.deviceRead d n
    (s1, some bs)
  | .reserved ch o =>
    let (s1, bs) := s.reservedRead ch o n
    (s1, some bs)
  | .nowhere => (s, none)

/-- A store of a control core: none is an access fault; ROM takes no store. -/
def State.ctlStore (s : State) (k a : Nat) (bs : Bytes) : Option State :=
  match ctlPlace k a with
  | .rom _ _ => none
  | .firmware c o => some { s with icu := { s.icu with fwSram := s.icu.fwSram.upd [] c fun m => m.write o bs } }
  | .data c o => some { s with icu := { s.icu with dataSram := s.icu.dataSram.upd [] c fun m => m.write o bs } }
  | .reg o => some (s.write (.ctl (Fin.ofNat 20 k)) o bs.length (BitVec.ofNat 64 (leNat bs)))
  | .device d => some (s.deviceWrite d bs).1
  | .reserved ch o => some (s.reservedWrite ch o bs)
  | .nowhere => none

/-! ### LADLE (R477 to R479) -/

/-- Element size of a LADLE word, none for a word that raises an illegal-instruction exception. -/
def ladleSize (word : BitVec 32) : Option Nat :=
  if bits word.toNat 11 7 ≠ 0 then none
  else match bits word.toNat 14 12 with
    | 0 => some 1
    | 1 => some 2
    | 2 => some 4
    | 3 => some 8
    | 4 => some 32
    | _ => none

/-- A word is of LADLE's opcode and funct7. -/
def isLadle (word : BitVec 32) : Bool := bits word.toNat 6 0 == 0x0B && bits word.toNat 31 25 == 1

/-- An exception of control core `k`. -/
def State.ctlTrap (s : State) (k cause tval : Nat) : State := { s with icu := s.icu.onCore k fun c => c.exception cause tval }

/-- LADLE's loop over at most `n` elements: it retires once DONE reaches CNT, and an interrupt that is offered is taken
at an element boundary. -/
def State.ladle (s : State) (k src dst size : Nat) : Nat → State
  | 0 =>
    let c := s.icu.core k
    if c.ladleDone < c.ladleCnt then s
    else { s with icu := s.icu.onCore k fun c => { c with ladleDone := 0, pc := c.pc + 4 } }
  | n + 1 =>
    let c := s.icu.core k
    if c.ladleDone < c.ladleCnt then
      let i := c.ladleDone.toNat
      match s.ctlLoad k (src + i * size) size with
      | (s1, none) => s1.ctlTrap k 5 (src + i * size)
      | (s1, some bs) =>
        match s1.ctlStore k (dst + i * size) bs with
        | none => s1.ctlTrap k 7 (dst + i * size)
        | some s2 =>
          let s3 := { s2 with icu := s2.icu.onCore k fun c => { c with ladleDone := BitVec.ofNat 64 (i + 1) } }
          if (s3.icu.offer k).isSome then s3.onIcu fun i => i.take k else s3.ladle k src dst size n
    else { s with icu := s.icu.onCore k fun c => { c with ladleDone := 0, pc := c.pc + 4 } }

/-- LADLE: on a control core that runs. -/
def execLadle (k : Fin 20) (word : BitVec 32) (src dst : BitVec 64) (steps : Nat) (s : State) : Result :=
  .next (if !s.on || (s.icu.core k).state != 1 || !isLadle word then s
    else match ladleSize word with
      | none => s.ctlTrap k 2 word.toNat
      | some size =>
        if src.toNat % size ≠ 0 then s.ctlTrap k 4 src.toNat
        else if dst.toNat % size ≠ 0 then s.ctlTrap k 6 dst.toNat
        else s.ladle k src.toNat dst.toNat size steps)

/-! ### Stewards (R481, R482) -/

/-- STW_TOKEN: at the steward of the target core's quadrant. -/
def execStwToken (k : Fin 20) (val : BitVec 64) (s : State) : Result :=
  let q := bits val.toNat 18 11 / s.sup.cpq
  .next (if s.on && s.snap.quadrant q && !s.icu.lostCores.contains k.val && decide (q < 8) then { s with icu := s.icu.stwToken q val.toNat }
    else s)
/-- STEWARD_EVENT_LOG. -/
def execStewardEventLog (qd : Fin 8) (source : Fin 1024) (cause : Nat) (diag : Option (BitVec 64)) (s : State) : Result :=
  .next (if s.on && (s.icu.steward qd).ready then { s with icu := s.icu.stewardLog qd source cause (diag.map (·.toNat)) } else s)

end Sys2Proof.Machine
end

