-- ==== Sys2Proof/Machine/MemRows.lean ====
section
/-! DEFINITION. The commands of external memory and its creamery units (R283 to R335, R513). -/

namespace Sys2Proof.Machine

/-- CHANNEL_REQUEST_SERVED. -/
def execChannelRequestServed (ch : Fin 256) (idx : Nat) (found : List Upset) (s : State) : Host.Outcome State Fault Refusal :=
  .next { s with ext := s.ext.serveAt ch idx found }
/-- PARITY_ERROR. -/
def execParityError (ch : Fin 256) (kind : Fin 3) (s : State) : Host.Outcome State Fault Refusal :=
  .next { s with ext := s.ext.parity ch kind }
/-- STACK_FENCE. -/
def execStackFence (st : Fin 8) (s : State) : Host.Outcome State Fault Refusal := .next { s with ext := s.ext.fence st }
/-- REFRESH_WINDOW. -/
def execRefreshWindow (ch : Fin 256) (s : State) : Host.Outcome State Fault Refusal := .next { s with ext := s.ext.refresh ch }
/-- PATROL_SCRUB: the faults that cells have taken stand from then on (R310); a sector is read while the channel is up. -/
def execPatrolScrub (ch : Fin 256) (seen : PatrolScrub) (s : State) : Host.Outcome State Fault Refusal :=
  let s1 := { s with ext := s.ext.upsets ch seen.faults }
  .next (if (s1.ext.chan ch).state = 2 ∧ s1.pwr.state ≤ 1 then { s1 with ext := s1.ext.patrol ch seen.found } else s1)

/-- STACK_TEMP_SAMPLE (R316); at 105 °C or above the stack is fenced and reported (R513). -/
def State.stackSample (s : State) (k t : Nat) : State :=
  let x := s.ext.sample k t
  if 105 ≤ t ∧ !bit x.fenced k then
    { s with ext := (x.fence k).line (9 + k), pwr := s.pwr.event 6 k }
  else { s with ext := x }

/-- STACK_TEMP_SAMPLE. -/
def execStackTempSample (st : Fin 8) (temp : Fin 256) (s : State) : Host.Outcome State Fault Refusal :=
  .next (s.stackSample st temp)

/-- FOLD_WRITE: the fold request at the front of a channel (R319). -/
def ExtSt.foldFront (x : ExtSt) (c : Nat) (us : List Upset) : ExtSt :=
  match (x.chan c).queue with
  | .fold .. :: _ => x.serveAt c 0 us
  | _ => x

/-- FOLD_WRITE. -/
def execFoldWrite (ch : Fin 256) (found : List Upset) (s : State) : Host.Outcome State Fault Refusal :=
  .next { s with ext := s.ext.foldFront ch found }
/-- GATHER_FOLD. -/
def execGatherFold (u : Fin 256) (s : State) : Host.Outcome State Fault Refusal := .next { s with ext := s.ext.runOp s.chip u 1 }
/-- REDUCE. -/
def execReduce (u : Fin 256) (s : State) : Host.Outcome State Fault Refusal := .next { s with ext := s.ext.runOp s.chip u 2 }
/-- SCALE_STORE. -/
def execScaleStore (u : Fin 256) (s : State) : Host.Outcome State Fault Refusal := .next { s with ext := s.ext.runOp s.chip u 3 }
/-- FENCE; a record of a reserved OP, and a partial write of a command port, are refused by it (R322, R328). -/
def execFence (u : Fin 256) (s : State) : Host.Outcome State Fault Refusal :=
  .next { s with ext := (s.ext.partialPort u).runOp s.chip u 4 }
/-- CREAMERY_COMPLETE. -/
def execCreameryComplete (u : Fin 256) (s : State) : Host.Outcome State Fault Refusal := .next { s with ext := s.ext.complete u }

end Sys2Proof.Machine
end

