-- ==== Sys2Proof/Machine/ModuleRows.lean ====
section
/-! DEFINITION. The commands of the module: sideband, start-up, resets, pins, stack training (R313, R507, R556, R563 to
R569). -/

namespace Sys2Proof.Machine

/-! ### The sideband (R563) -/

/-- A sideband command's answer: a completion code and its data; none while the auxiliary rail is gone. -/
def State.sideband (s : State) (code : Nat) (answer : Bytes) : State :=
  if s.pwr.railsFailing then s else { s with data := BitVec.ofNat 8 code :: answer }

/-- GET_ID. -/
def execGetId (s : State) : Result :=
  .next (s.sideband 0 (leBytes 8 s.sup.moduleId ++ leBytes 8 s.sup.startStat ++ leBytes 8 (s.pwr.reg 0 0x38) ++
    [BitVec.ofNat 8 s.pwr.state, BitVec.ofNat 8 s.sec.life.code]))
/-- WAKE: in P4; elsewhere answered with STATE. -/
def execWake (cond : StartCond) (s : State) : Result :=
  .next (if s.on then s.sideband 2 []
    else if s.pwr.railsFailing then s
    else (s.restart 6 cond).sideband 0 [])
/-- RESET: in P4 answered with STATE; in RECOVERY only a firmware update is taken (R541). -/
def execReset (cond : StartCond) (s : State) : Result :=
  .next (if s.on ∧ !s.sec.recovery then (s.moduleReset 3 cond).sideband 0 [] else s.sideband 2 [])
/-- FAULT_CLEAR. -/
def execFaultClear (s : State) : Result :=
  .next (if s.pwr.railsFailing then s
    else { s with pwr := { s.pwr with faultValid := false, faultCause := 0, crashRec := false } }.sideband 0 [])

/-! ### Start-up and resets (R564 to R569) -/

/-- AUXILIARY_POWER_UP. -/
def execAuxiliaryPowerUp (cond : StartCond) (s : State) : Result := .next (s.auxPowerUp cond)

/-- Start-up goes on from the step that holds it. -/
def State.goOn (s : State) (c : StartCond) : State :=
  if s.on && s.sup.held != 0 then { s with sup := { s.sup with startMs := c.ms.toNat, cables := c.cables.toNat } }.startUp c 9 else s

/-- START_HOLD_RELEASE. -/
def execStartHoldRelease (cond : StartCond) (s : State) : Result := .next (s.goOn cond)
/-- SYS_RST_N: low, a module reset that then holds start-up; high, start-up goes on. -/
def execSysRstN (low : Bool) (cond : StartCond) (s : State) : Result :=
  let s1 := { s with sup := { s.sup with sysRst := low } }
  .next (if low then s1.moduleReset 2 cond else if s1.sup.held = 4 then s1.goOn cond else s1)
/-- MODULE_RESET: the one that SUP_RESET_CTRL asked for. -/
def execModuleReset (cond : StartCond) (s : State) : Result :=
  .next (match s.sup.moduleWanted with
    | some cause => s.moduleReset cause cond
    | none => s)
/-- COMPUTE_RESET_END. -/
def execComputeResetEnd (s : State) : Result := .next s.computeEnd

/-- AUXILIARY_RAIL_FAIL: the commits that wait are refused (R517), and the module is off until the rail rises again. -/
def execAuxiliaryRailFail (s : State) : Result :=
  let s1 := s.off
  .next { s1 with pwr := { s1.pwr with railsFailing := true } }

/-- PERST_N_RISE (R567): the endpoint trains once step 6 has ended. -/
def execPerstNRise (s : State) : Result :=
  let s1 := { s with host := { s.host with perst := false } }
  .next (if s1.on ∧ 7 ≤ s1.sup.step then { s1 with host := s1.host.train s1.free, free := s1.free + 4 } else s1)
/-- CONVENTIONAL_RESET: as a Function Level Reset of the PF; after a hot reset or a link down the link trains again. -/
def execConventionalReset (perst : Bool) (s : State) : Result :=
  .next (if s.on then
    let h := { s.host.flr 0 with linkUp := false, perst := s.host.perst || perst }
    if 7 ≤ s.sup.step then { s with host := h.train s.free, free := s.free + 4 } else { s with host := h }
  else { s with host := { s.host with perst := s.host.perst || perst } })

/-! ### Stack training (R313, R564) -/

/-- A stack whose training start-up has awaited is done with it; after the last one the links train. -/
def State.stackTrained (s : State) (k : Nat) : State :=
  if s.sup.step = 7 ∧ bit s.sup.stacksLeft k then
    let left := s.sup.stacksLeft - 2 ^ k
    let s1 := { s with sup := { s.sup with stacksLeft := left } }
    if left = 0 then s1.startLinks else s1
  else s

/-- STACK_TRAINING. -/
def execStackTraining (st : Fin 8) (spares : Nat) (failed : List (List (Fin 1024))) (s : State) : Result :=
  .next (if (s.ext.chan (32 * st.val)).state = 1 then
    { s with ext := s.ext.train st spares (failed.map fun (l : List (Fin 1024)) => l.map fun (x : Fin 1024) => x.val) }.stackTrained st
  else s)

end Sys2Proof.Machine
end

