-- ==== Sys2Proof/Machine/Dispatch.lean ====
section
/-! DEFINITION. One arm per command: its meaning, or its rejection by name. -/

namespace Sys2Proof.Machine

def exec (i : Instr) (s : State) : Host.Outcome State Fault Refusal :=
  match i with
  | .registerWrite who off size val => Sys2Proof.Machine.execRegisterWrite who off size val s
  | .readClear who off size => Sys2Proof.Machine.execReadClear who off size s
  | .bundleIssue c => Sys2Proof.Machine.execBundleIssue c s
  | .signal c arg => Sys2Proof.Machine.execSignal c arg s
  | .signalTokenAdded c pail => Sys2Proof.Machine.execSignalTokenAdded c pail s
  | .wait c arg => Sys2Proof.Machine.execWait c arg s
  | .waitRelease c => Sys2Proof.Machine.execWaitRelease c s
  | .sett c arg => Sys2Proof.Machine.execSett c arg s
  | .loop c arg => Sys2Proof.Machine.execLoop c arg s
  | .seam c arg => Sys2Proof.Machine.execSeam c arg s
  | .seamEffect c => Sys2Proof.Machine.execSeamEffect c s
  | .halt c arg => Sys2Proof.Machine.execHalt c arg s
  | .faaI32 c arg => Sys2Proof.Machine.execFaaI32 c arg s
  | .faaP32 c arg => Sys2Proof.Machine.execFaaP32 c arg s
  | .cas64 c arg => Sys2Proof.Machine.execCas64 c arg s
  | .atomBankAccess c => Sys2Proof.Machine.execAtomBankAccess c s
  | .atomResultWrite c => Sys2Proof.Machine.execAtomResultWrite c s
  | .tileScrub c staging bank seen => Sys2Proof.Machine.execTileScrub c staging bank seen s
  | .bankAdderWriteBack c bank => Sys2Proof.Machine.execBankAdderWriteBack c bank s
  | .watchdogTrip c => Sys2Proof.Machine.execWatchdogTrip c s
  | .wdogCfgWrite c val => Sys2Proof.Machine.execWdogCfgWrite c val s
  | .meOpen c e arg => Sys2Proof.Machine.execMeOpen c e arg s
  | .meSeal c e arg => Sys2Proof.Machine.execMeSeal c e arg s
  | .sealedEffect c e v => Sys2Proof.Machine.execSealedEffect c e v s
  | .meDrain c e arg => Sys2Proof.Machine.execMeDrain c e arg s
  | .drainRowWrite c e => Sys2Proof.Machine.execDrainRowWrite c e s
  | .meExport c e arg => Sys2Proof.Machine.execMeExport c e arg s
  | .exportRowWrite c e => Sys2Proof.Machine.execExportRowWrite c e s
  | .meRelease c e arg => Sys2Proof.Machine.execMeRelease c e arg s
  | .mePreload c e arg => Sys2Proof.Machine.execMePreload c e arg s
  | .preloadDone c e => Sys2Proof.Machine.execPreloadDone c e s
  | .meMma c e arg => Sys2Proof.Machine.execMeMma c e arg s
  | .meConv c e arg => Sys2Proof.Machine.execMeConv c e arg s
  | .meWsmv c e arg => Sys2Proof.Machine.execMeWsmv c e arg s
  | .meFoldin c e arg => Sys2Proof.Machine.execMeFoldin c e arg s
  | .pendingStart c e => Sys2Proof.Machine.execPendingStart c e s
  | .swap c e => Sys2Proof.Machine.execSwap c e s
  | .chunkIssue c e => Sys2Proof.Machine.execChunkIssue c e s
  | .chunkLand c e => Sys2Proof.Machine.execChunkLand c e s
  | .foldinRowLand c e => Sys2Proof.Machine.execFoldinRowLand c e s
  | .vld c arg => Sys2Proof.Machine.execVld c arg s
  | .vst c arg => Sys2Proof.Machine.execVst c arg s
  | .vconst c arg => Sys2Proof.Machine.execVconst c arg s
  | .vmov c arg => Sys2Proof.Machine.execVmov c arg s
  | .vcvt c arg => Sys2Proof.Machine.execVcvt c arg s
  | .vadd c arg => Sys2Proof.Machine.execVadd c arg s
  | .vmul c arg => Sys2Proof.Machine.execVmul c arg s
  | .vfma c arg => Sys2Proof.Machine.execVfma c arg s
  | .vmax c arg => Sys2Proof.Machine.execVmax c arg s
  | .vmin c arg => Sys2Proof.Machine.execVmin c arg s
  | .vabs c arg => Sys2Proof.Machine.execVabs c arg s
  | .vcmp c arg => Sys2Proof.Machine.execVcmp c arg s
  | .vsel c arg => Sys2Proof.Machine.execVsel c arg s
  | .vqclr c arg => Sys2Proof.Machine.execVqclr c arg s
  | .vqdot c arg => Sys2Proof.Machine.execVqdot c arg s
  | .vqsum c arg => Sys2Proof.Machine.execVqsum c arg s
  | .vqfold c arg => Sys2Proof.Machine.execVqfold c arg s
  | .vqrd c arg => Sys2Proof.Machine.execVqrd c arg s
  | .vrmax c arg => Sys2Proof.Machine.execVrmax c arg s
  | .vrmin c arg => Sys2Proof.Machine.execVrmin c arg s
  | .vexp2 c arg => Sys2Proof.Machine.execVexp2 c arg s
  | .vlog2 c arg => Sys2Proof.Machine.execVlog2 c arg s
  | .vtab c arg => Sys2Proof.Machine.execVtab c arg s
  | .vucall c arg => Sys2Proof.Machine.execVucall c arg s
  | .vucallEnd c => Sys2Proof.Machine.execVucallEnd c s
  | .veResultWrite c => Sys2Proof.Machine.execVeResultWrite c s
  | .smopen c arg => Sys2Proof.Machine.execSmopen c arg s
  | .smtile c arg => Sys2Proof.Machine.execSmtile c arg s
  | .smmerge c arg => Sys2Proof.Machine.execSmmerge c arg s
  | .smclose c arg => Sys2Proof.Machine.execSmclose c arg s
  | .smnorm c arg => Sys2Proof.Machine.execSmnorm c arg s
  | .smstate c arg => Sys2Proof.Machine.execSmstate c arg s
  | .veFlushWrite c val => Sys2Proof.Machine.execVeFlushWrite c val s
  | .move c arg => Sys2Proof.Machine.execMove c arg s
  | .gather c arg => Sys2Proof.Machine.execGather c arg s
  | .scatter c arg => Sys2Proof.Machine.execScatter c arg s
  | .zpcorr c arg => Sys2Proof.Machine.execZpcorr c arg s
  | .streamElementWrite c m => Sys2Proof.Machine.execStreamElementWrite c m s
  | .extReadRelease c m => Sys2Proof.Machine.execExtReadRelease c m s
  | .moveEnd c m => Sys2Proof.Machine.execMoveEnd c m s
  | .meshDelivery c => Sys2Proof.Machine.execMeshDelivery c s
  | .slip notVisible => Sys2Proof.Machine.execSlip notVisible s
  | .planeCycle => Sys2Proof.Machine.execPlaneCycle s
  | .edgeTokenDelivery src => Sys2Proof.Machine.execEdgeTokenDelivery src s
  | .memoryRequestHandOver ch => Sys2Proof.Machine.execMemoryRequestHandOver ch s
  | .channelRequestServed ch idx found => Sys2Proof.Machine.execChannelRequestServed ch idx found s
  | .parityError ch kind => Sys2Proof.Machine.execParityError ch kind s
  | .stackFence st => Sys2Proof.Machine.execStackFence st s
  | .refreshWindow ch => Sys2Proof.Machine.execRefreshWindow ch s
  | .patrolScrub ch seen => Sys2Proof.Machine.execPatrolScrub ch seen s
  | .stackTempSample st temp => Sys2Proof.Machine.execStackTempSample st temp s
  | .stackTraining st spares failed => Sys2Proof.Machine.execStackTraining st spares failed s
  | .foldWrite ch found => Sys2Proof.Machine.execFoldWrite ch found s
  | .gatherFold u => Sys2Proof.Machine.execGatherFold u s
  | .reduce u => Sys2Proof.Machine.execReduce u s
  | .scaleStore u => Sys2Proof.Machine.execScaleStore u s
  | .fence u => Sys2Proof.Machine.execFence u s
  | .creameryComplete u => Sys2Proof.Machine.execCreameryComplete u s
  | .nop id => Sys2Proof.Machine.execNop id s
  | .copyIn id data => Sys2Proof.Machine.execCopyIn id data s
  | .copyOut id => Sys2Proof.Machine.execCopyOut id s
  | .hostSignal id => Sys2Proof.Machine.execHostSignal id s
  | .descCreate id words => Sys2Proof.Machine.execDescCreate id words s
  | .draw id => Sys2Proof.Machine.execDraw id s
  | .snapshot id => Sys2Proof.Machine.execSnapshot id s
  | .imgLoadHost id img => Sys2Proof.Machine.execImgLoadHost id img s
  | .imgLoadLib id => Sys2Proof.Machine.execImgLoadLib id s
  | .loadSecondPass => Sys2Proof.Machine.execLoadSecondPass s
  | .imgStart id => Sys2Proof.Machine.execImgStart id s
  | .atCountLaunch => Sys2Proof.Machine.execAtCountLaunch s
  | .launch => Sys2Proof.Machine.execLaunch s
  | .imgArm id => Sys2Proof.Machine.execImgArm id s
  | .imgDisarm id => Sys2Proof.Machine.execImgDisarm id s
  | .imgDiscard id => Sys2Proof.Machine.execImgDiscard id s
  | .runStop id => Sys2Proof.Machine.execRunStop id s
  | .planeQuiescent => Sys2Proof.Machine.execPlaneQuiescent s
  | .libStore id img => Sys2Proof.Machine.execLibStore id img s
  | .libDelete id => Sys2Proof.Machine.execLibDelete id s
  | .power id => Sys2Proof.Machine.execPower id s
  | .powerTransitionEnd => Sys2Proof.Machine.execPowerTransitionEnd s
  | .mapExtend id => Sys2Proof.Machine.execMapExtend id s
  | .rejoin id => Sys2Proof.Machine.execRejoin id s
  | .sqTailDoorbell fn q val => Sys2Proof.Machine.execSqTailDoorbell fn q val s
  | .cqHeadDoorbell fn q val => Sys2Proof.Machine.execCqHeadDoorbell fn q val s
  | .sqEnable fn q on => Sys2Proof.Machine.execSqEnable fn q on s
  | .cqEnable fn q on => Sys2Proof.Machine.execCqEnable fn q on s
  | .sqFetch entry => Sys2Proof.Machine.execSqFetch entry s
  | .completionRecordWrite => Sys2Proof.Machine.execCompletionRecordWrite s
  | .eventRecord src => Sys2Proof.Machine.execEventRecord src s
  | .msixCoalesceTimeout q => Sys2Proof.Machine.execMsixCoalesceTimeout q s
  | .bar2Read fn off n => Sys2Proof.Machine.execBar2Read fn off n s
  | .bar2Write fn off data => Sys2Proof.Machine.execBar2Write fn off data s
  | .vfEnable n => Sys2Proof.Machine.execVfEnable n s
  | .functionLevelReset fn => Sys2Proof.Machine.execFunctionLevelReset fn s
  | .conventionalReset perst => Sys2Proof.Machine.execConventionalReset perst s
  | .exchangePoint => Sys2Proof.Machine.execExchangePoint s
  | .barrierArrive p children members => Sys2Proof.Machine.execBarrierArrive p children members s
  | .barrierRelease p children => Sys2Proof.Machine.execBarrierRelease p children s
  | .barrierTimeout children => Sys2Proof.Machine.execBarrierTimeout children s
  | .syncIn => Sys2Proof.Machine.execSyncIn s
  | .herdArm => Sys2Proof.Machine.execHerdArm s
  | .syncOut => Sys2Proof.Machine.execSyncOut s
  | .beaconSend => Sys2Proof.Machine.execBeaconSend s
  | .beacon p => Sys2Proof.Machine.execBeacon p s
  | .dataFlitReceive p bytes fec => Sys2Proof.Machine.execDataFlitReceive p bytes fec s
  | .idleFlit p ack crVc crCount => Sys2Proof.Machine.execIdleFlit p ack crVc crCount s
  | .nak p seq => Sys2Proof.Machine.execNak p seq s
  | .replayTimeout p => Sys2Proof.Machine.execReplayTimeout p s
  | .violation p => Sys2Proof.Machine.execViolation p s
  | .epoch p request epoch_ root excludes => Sys2Proof.Machine.execEpoch p request epoch_ root excludes s
  | .fenced p => Sys2Proof.Machine.execFenced p s
  | .epochRequestRepeat p => Sys2Proof.Machine.execEpochRequestRepeat p s
  | .heldFlitTimeout p => Sys2Proof.Machine.execHeldFlitTimeout p s
  | .linkWrite p => Sys2Proof.Machine.execLinkWrite p s
  | .linkRead p => Sys2Proof.Machine.execLinkRead p s
  | .linkFold p => Sys2Proof.Machine.execLinkFold p s
  | .close p vc => Sys2Proof.Machine.execClose p vc s
  | .transferServed p => Sys2Proof.Machine.execTransferServed p s
  | .rdata p => Sys2Proof.Machine.execRdata p s
  | .done p => Sys2Proof.Machine.execDone p s
  | .segmentHandOver p => Sys2Proof.Machine.execSegmentHandOver p s
  | .tagTimeout p tag => Sys2Proof.Machine.execTagTimeout p tag s
  | .creditStall p vc => Sys2Proof.Machine.execCreditStall p vc s
  | .lsrec p => Sys2Proof.Machine.execLsrec p s
  | .pair p => Sys2Proof.Machine.execPair p s
  | .suspect p => Sys2Proof.Machine.execSuspect p s
  | .suspectTimeout x => Sys2Proof.Machine.execSuspectTimeout x s
  | .join p => Sys2Proof.Machine.execJoin p s
  | .member p => Sys2Proof.Machine.execMember p s
  | .linkTraining p lanes finished peerId peerPort rtt asym => Sys2Proof.Machine.execLinkTraining p lanes finished peerId peerPort rtt asym s
  | .trainingRetry p => Sys2Proof.Machine.execTrainingRetry p s
  | .laneFailure p lane => Sys2Proof.Machine.execLaneFailure p lane s
  | .disable p on => Sys2Proof.Machine.execDisable p on s
  | .retrain p => Sys2Proof.Machine.execRetrain p s
  | .lineRise n => Sys2Proof.Machine.execLineRise n s
  | .filterAccept n => Sys2Proof.Machine.execFilterAccept n s
  | .wakeLatch => Sys2Proof.Machine.execWakeLatch s
  | .interruptTake k => Sys2Proof.Machine.execInterruptTake k s
  | .icuCoreClaim k => Sys2Proof.Machine.execIcuCoreClaim k s
  | .icuCoreComplete k n => Sys2Proof.Machine.execIcuCoreComplete k n s
  | .ladle k word src dst steps => Sys2Proof.Machine.execLadle k word src dst steps s
  | .stwToken k val => Sys2Proof.Machine.execStwToken k val s
  | .stewardTokenDelivery qd => Sys2Proof.Machine.execStewardTokenDelivery qd s
  | .stewardEventLog qd source cause diag => Sys2Proof.Machine.execStewardEventLog qd source cause diag s
  | .governorSample power_ avg rail => Sys2Proof.Machine.execGovernorSample power_ avg rail s
  | .governorAdjust power_ => Sys2Proof.Machine.execGovernorAdjust power_ s
  | .dieThermalSample west east => Sys2Proof.Machine.execDieThermalSample west east s
  | .faultStop cause rtc crash => Sys2Proof.Machine.execFaultStop cause rtc crash s
  | .eastLost => Sys2Proof.Machine.execEastLost s
  | .holdupHealthCheck energy cap esr => Sys2Proof.Machine.execHoldupHealthCheck energy cap esr s
  | .durableCommit energy => Sys2Proof.Machine.execDurableCommit energy s
  | .trigger => Sys2Proof.Machine.execTrigger s
  | .periodicSnapshot => Sys2Proof.Machine.execPeriodicSnapshot s
  | .snapshotCaptureEnd => Sys2Proof.Machine.execSnapshotCaptureEnd s
  | .getNonce rtc => Sys2Proof.Machine.execGetNonce rtc s
  | .submit rtc => Sys2Proof.Machine.execSubmit rtc s
  | .takeOwnership rtc => Sys2Proof.Machine.execTakeOwnership rtc s
  | .ownerOpen rtc => Sys2Proof.Machine.execOwnerOpen rtc s
  | .setPolicy rtc => Sys2Proof.Machine.execSetPolicy rtc s
  | .releaseOwnership rtc => Sys2Proof.Machine.execReleaseOwnership rtc s
  | .vendorOpen rtc => Sys2Proof.Machine.execVendorOpen rtc s
  | .vendorBlank rtc => Sys2Proof.Machine.execVendorBlank rtc s
  | .scrap rtc => Sys2Proof.Machine.execScrap rtc s
  | .session level => Sys2Proof.Machine.execSession level s
  | .endSession => Sys2Proof.Machine.execEndSession s
  | .relock => Sys2Proof.Machine.execRelock s
  | .leaseExpiry rtc => Sys2Proof.Machine.execLeaseExpiry rtc s
  | .nonceExpiry rtc => Sys2Proof.Machine.execNonceExpiry rtc s
  | .bypass => Sys2Proof.Machine.execBypass s
  | .idcode => Sys2Proof.Machine.execIdcode s
  | .samplePreload cells => Sys2Proof.Machine.execSamplePreload cells s
  | .extest => Sys2Proof.Machine.execExtest s
  | .dapacc => Sys2Proof.Machine.execDapacc s
  | .getVersion => Sys2Proof.Machine.execGetVersion s
  | .getCapabilities => Sys2Proof.Machine.execGetCapabilities s
  | .negotiateAlgorithms ecdsaP384 sha384_ => Sys2Proof.Machine.execNegotiateAlgorithms ecdsaP384 sha384_ s
  | .getDigests => Sys2Proof.Machine.execGetDigests s
  | .getCertificate slot off len => Sys2Proof.Machine.execGetCertificate slot off len s
  | .challenge slot nonce => Sys2Proof.Machine.execChallenge slot nonce s
  | .getMeasurements index nonce => Sys2Proof.Machine.execGetMeasurements index nonce s
  | .firmwareUpdate pair signed svn version bodyOk stewardOk body => Sys2Proof.Machine.execFirmwareUpdate pair signed svn version bodyOk stewardOk body s
  | .firmwareActivation => Sys2Proof.Machine.execFirmwareActivation s
  | .getId => Sys2Proof.Machine.execGetId s
  | .wake cond => Sys2Proof.Machine.execWake cond s
  | .reset cond => Sys2Proof.Machine.execReset cond s
  | .faultClear => Sys2Proof.Machine.execFaultClear s
  | .auxiliaryPowerUp cond => Sys2Proof.Machine.execAuxiliaryPowerUp cond s
  | .startHoldRelease cond => Sys2Proof.Machine.execStartHoldRelease cond s
  | .sysRstN low cond => Sys2Proof.Machine.execSysRstN low cond s
  | .moduleRequest key => Sys2Proof.Machine.execModuleRequest key s
  | .computeRequest key => Sys2Proof.Machine.execComputeRequest key s
  | .moduleReset cond => Sys2Proof.Machine.execModuleReset cond s
  | .computeResetEnd => Sys2Proof.Machine.execComputeResetEnd s
  | .auxiliaryRailFail => Sys2Proof.Machine.execAuxiliaryRailFail s
  | .perstNRise => Sys2Proof.Machine.execPerstNRise s
  | .completionTimeout id => Sys2Proof.Machine.execCompletionTimeout id s
  | .lineFall n => Sys2Proof.Machine.execLineFall n s
  | .debugHalt k => Sys2Proof.Machine.execDebugHalt k s
  | .resume k => Sys2Proof.Machine.execResume k s
  | .stewardCoreLost k => Sys2Proof.Machine.execStewardCoreLost k s
  | .nandWearManagement life worst bad erased => Sys2Proof.Machine.execNandWearManagement life worst bad erased s

end Sys2Proof.Machine
end

