-- ==== Sys2Proof/Machine/Idle.lean ====
section
/-! DEFINITION. What a step does when no command waits: time passes (log entry 1). -/

namespace Sys2Proof.Machine

/-- The service clock runs while the cadence clock stands: in P2 and P3, and in P0 and P1 from start-up step 3 on until the
cadence clock starts and while a compute reset zeroes the stores (R501, R564, R568). -/
def State.serviceOnly (s : State) : Bool :=
  s.pwr.state == 2 || s.pwr.state == 3 || (decide (s.pwr.state ≤ 1) && decide (3 ≤ s.sup.step) && !s.clockOn)

/-- With the cadence clock stopped, nothing but herd time passes (R382, R506): one tick. While it runs, herd time
passes with the cadence cycles that PLANE_CYCLE and SLIP perform, and an idle step changes nothing. -/
def State.idle (s : State) : State := if s.serviceOnly then { s with herd := s.herd.tick, link := s.link.pass 1 } else s

end Sys2Proof.Machine
end

