-- ==== Sys2Proof/Safety.lean ====
section
/-! DEFINITION. The terms in which statements speak of the module: when a core takes a step, what a command that acts
on one core leaves of the rest, the state that a host command finds, and the invariants. -/

namespace Sys2Proof.Machine

/-! ### Cores -/

/-- Core `c` is a valid logical core in state RUN at the beginning of a cycle that nothing holds back: its slots issue (R246,
R273, R365, R501). -/
def State.coreRuns (s : State) (c : Nat) : Prop :=
  s.mayAct = true ∧ c ∈ s.plane.live ∧ (s.coreNow c).seq.state = .run

/-- Core `c` is a valid logical core at the beginning of a cycle that nothing holds back: what is due in it happens. -/
def State.coreThere (s : State) (c : Nat) : Prop := s.mayAct = true ∧ c ∈ s.plane.live

/-- Core `c` is a valid logical core in a cycle that can be performed, or whose end is still to be: what falls due at its end happens, after the
phase A that `State.frontNow` performs. -/
def State.coreRear (s : State) (c : Nat) : Prop := s.cycleOpen = true ∧ c ∈ s.plane.live

/-- No access of the cycle that stands above place (`rank`, `sub`) in the table of R257 reaches the bank of a line. -/
def State.portFree (s : State) (c : Nat) (staging : Bool) (line rank sub : Nat) : Prop :=
  ∀ b ∈ s.rivals c, b.staging = staging → bankOf staging b.line = bankOf staging line →
    ¬ (b.rank < rank ∨ (b.rank = rank ∧ b.sub < sub))

/-- The module with core `c` replaced by `k`, whose events have gone to its steward: no other core and no other part of
the module differs. -/
def State.withCore (s : State) (c : Nat) (k : Core) : State := { s with plane := (s.plane.setCore c k).collect c }

/-- From `s` to `t` only core `c` has changed, with what it reports: every other core, the mesh, the counts of the plane
and every other part of the module are as they were. -/
def State.OnlyCore (s t : State) (c : Nat) : Prop :=
  t = { s with plane := { s.plane with
          cores := t.plane.cores, reports := t.plane.reports, lastHalt := t.plane.lastHalt, ob := t.plane.ob } } ∧
  ∀ d, d ≠ c → t.plane.core d = s.plane.core d

/-- As `OnlyCore`, and of the core itself only the store and its signatures, the sequencer's ATOMs and what it reports. -/
def Core.sameBut (k l : Core) : Prop :=
  l = { k with st := l.st, sig := l.sig, seq := { k.seq with atoms := l.seq.atoms }, ev := [] }

/-- No flit in transit waits for port `p`, and none waits for a port that could send it now (R420). -/
abbrev LinkSt.byreStill (l : LinkSt) (p : Nat) : Prop :=
  ∀ x ∈ l.byres, x.2.1 ≠ p ∧ l.canSend x.2.1 x.2.2 = false

end Sys2Proof.Machine
end

