-- ==== Sys2Proof/Certificates/Slice0/Obligations.lean ====
section
/-! DEFINITION. The statements about the module, by the families of its commands. -/

open Sys2Proof Sys2Proof.Machine

/-! ### The queue and the state after reset -/

/-- A step runs the command at the front of the queue with the queue's rest (log entry 1). -/
def Obligations.StepTakesFront : Prop :=
  ∀ (s : State) (c : Instr) (rest : List Instr), s.pending = c :: rest → step s = exec c { s with pending := rest }

/-- What a step leaves of the queue, and a step without one (log entry 1). No command touches the queue, and every command is answered with a next
state. On an empty queue the module idles: where the service clock runs and the cadence clock stands (in P2 and P3, and in P0 and P1 from start-up
step 3 on until the cadence clock starts and while a compute reset zeroes the stores), one tick of herd and link time passes (R382, R501, R506), and
otherwise nothing changes. -/
def Obligations.QueueAndIdle : Prop :=
  ∀ s : State,
    (∀ c : Instr, ∃ t, exec c s = .next t ∧ t.pending = s.pending) ∧
    (s.pending = [] →
      let passes := s.pwr.state = 2 ∨ s.pwr.state = 3 ∨ (s.pwr.state ≤ 1 ∧ 3 ≤ s.sup.step ∧ s.clockOn = false)
      (passes → step s = .next { s with herd := s.herd.tick, link := { s.link with clock := s.link.clock + 1 } }) ∧
      (¬ passes → step s = .next s))

/-! ### SEQ slots -/

/-- SETT and LOOP (R248, R250) on a core that runs. SETT sets its tally and clears DATA. A LOOP on a tally that is not
zero counts it down, and the next bundle is TARGET, after GAP; on zero it falls through; a tally with DATA set refuses
it with DATA_LOOP (code 2). Nothing else changes. -/
def Obligations.TallySlots : Prop :=
  ∀ (s : State) (c : Fin 128) (arg : BitVec 27), s.coreRuns c →
    let k := s.coreNow c
    let i := bits arg.toNat 26 23
    exec (.sett c arg) s =
      .next (s.withCore c (k.setTally i ⟨BitVec.ofNat 32 (bits arg.toNat 22 0), false⟩)) ∧
    (bits arg.toNat 22 12 = 0 →
      ((k.tally i).data = false → (k.tally i).val = 0 → exec (.loop c arg) s = .next (s.withCore c k)) ∧
      ((k.tally i).data = false → (k.tally i).val ≠ 0 →
        exec (.loop c arg) s = .next (s.withCore c { k with seq := { k.seq with
          tallies := k.seq.tallies.set i ⟨(k.tally i).val - 1, false⟩
          bundle := bits arg.toNat 11 0
          rep := 0
          nextAt := some (s.plane.now + 1 + k.gap)
          stalled := false } })) ∧
      ((k.tally i).data = true → exec (.loop c arg) s = .next (s.withCore c (k.seqRefuse 2 4))))

/-- Pails (R268 to R270). SIGNAL to the core's own pail leaves a token due at the end of the cycle, and SIGNAL to another
core sends one transfer there, due after the latency of its route, with the local port free. At the end of a cycle, its phase A performed, a token that
is due raises its PLANE pail's level, a full one drops it, sets OVF and counts, and an EDGE pail refuses it. WAIT takes a token from a pail that holds one,
and a token held in the crossing queue of an EDGE pail moves in; on an empty PLANE pail the core stalls and the stall is counted, and on an empty EDGE pail
nothing of the core changes. -/
def Obligations.PailSlots : Prop :=
  ∀ (s : State) (c : Fin 128),
    (s.coreRuns c →
      let k := s.coreNow c
      (∀ arg : BitVec 27, bits arg.toNat 7 0 = 0 →
        let dest := if bit arg.toNat 15 then bits arg.toNat 14 8 else c.val
        (bit arg.toNat 15 = true → dest < s.plane.enabled) →
        (dest = c.val → exec (.signal c arg) s = .next (s.withCore c { k with
          seq := { k.seq with tokens := k.seq.tokens ++ [(s.plane.now, bits arg.toNat 26 16)] } })) ∧
        (s.plane.site dest ≠ s.plane.site c → s.plane.taken.contains c.val = false → ∃ x : Transit,
          exec (.signal c arg) s = .next (({ s with plane := { s.plane with
            taken := c.val :: s.plane.taken, group := s.plane.group + 1, mesh := s.plane.mesh ++ [x] } } : State).withCore c k) ∧
          x.load = .signal dest (bits arg.toNat 26 16) ∧ x.lost = false ∧
          x.due = s.plane.now + latency s.chip.routes (s.plane.site c) (s.plane.site dest))) ∧
      (∀ arg : BitVec 27, bits arg.toNat 15 0 = 0 →
        let i := bits arg.toNat 26 16
        (0 < (k.pail i).level → (k.pail i).queue = 0 →
          exec (.wait c arg) s = .next (s.withCore c (k.setPail i { k.pail i with level := (k.pail i).level - 1 }))) ∧
        (0 < (k.pail i).level → (k.pail i).level ≤ 16 → 0 < (k.pail i).queue → (k.pail i).edge = true →
          exec (.wait c arg) s = .next (s.withCore c (k.setPail i { k.pail i with queue := (k.pail i).queue - 1 }))) ∧
        ((k.pail i).level = 0 → (k.pail i).edge = false →
          exec (.wait c arg) s = .next (s.withCore c { k with seq := { k.seq with
            stalled := true, stalls := k.seq.stalls + 1, nextAt := some (s.plane.now + 1) } })) ∧
        ((k.pail i).level = 0 → (k.pail i).edge = true → exec (.wait c arg) s = .next (s.withCore c k)))) ∧
    (s.coreRear c →
      let t0 := s.frontNow
      let k := t0.plane.core c
      ∀ (pail : Fin 2048) (due : Nat), k.seq.tokens = [(due, pail.val)] →
        let taken : Core := { k with seq := { k.seq with tokens := [] } }
        (t0.plane.now < due → exec (.signalTokenAdded c pail) s = .next s) ∧
        (due ≤ t0.plane.now →
          ((k.pail pail).edge = false → (k.pail pail).level < 16 → exec (.signalTokenAdded c pail) s =
            .next (t0.withCore c (taken.setPail pail { k.pail pail with level := (k.pail pail).level + 1 }))) ∧
          ((k.pail pail).edge = false → 16 ≤ (k.pail pail).level → ∃ t, exec (.signalTokenAdded c pail) s = .next t ∧
            t0.OnlyCore t c ∧ (t.plane.core c).pail pail = { k.pail pail with ovf := true } ∧
            (t.plane.core c).seq.ovfCount = satAdd 16 k.seq.ovfCount 1 ∧ (t.plane.core c).seq.lastOvf = pail.val ∧
            (c.val, CoreEv.pailDrop) ∈ t.plane.reports) ∧
          ((k.pail pail).edge = true → exec (.signalTokenAdded c pail) s =
            .next (t0.withCore c { taken with ev := k.ev ++ [.tokenRefused] }))))

/-- SEAM and HALT (R246, R251 to R255, R367, R380). A SEAM that no owed idle cycle and no full signature queue holds back ends the step: no bundle is
due, the watchdog's count restarts, and the bundle to come is the one after it, or ALT where BR is set and the condition holds; NEVER does not hold and
ALWAYS does. One that is held back waits. In the cycle after it the waiting changes take effect: the step number rises, accepted descriptors and flush
thresholds are in force, and the next bundle is due at s + 2 + GAP; a core with FAULTED under FAULT_HALT, or on a chip that
stops, halts instead. HALT makes the core HALTED and reports it. -/
def Obligations.SeamAndHalt : Prop :=
  ∀ (s : State) (c : Fin 128),
    let free := s.plane.govDebt = 0 ∧ s.plane.thermDebt = 0 ∧ (s.plane.comparing = true → (s.plane.core c).sig.queue.length < 64)
    (s.coreRuns c →
      let k := s.coreNow c
      let goes := fun (next : Nat) => s.withCore c { k with seq := { k.seq with
          nextAt := none, wdogCount := 0, seam := some ⟨s.plane.now, next, k.gap, s.chip.pointOf c k.seq.bundle⟩ } }
      (∀ arg : BitVec 27, bits arg.toNat 26 21 = 0 → bits arg.toNat 13 0 = 0 →
        let e := (k.cfg.seams.get 0 (bits arg.toNat 19 14)).toNat
        (¬ free → exec (.seam c arg) s = .next s) ∧
        (free → bit arg.toNat 20 = false → exec (.seam c arg) s = .next (goes (k.seq.bundle + 1))) ∧
        (free → bit arg.toNat 20 = true → bits e 63 60 = 0 → exec (.seam c arg) s = .next (goes (k.seq.bundle + 1))) ∧
        (free → bit arg.toNat 20 = true → bits e 63 60 = 1 → exec (.seam c arg) s = .next (goes (bits e 34 23)))) ∧
      exec (.halt c 0) s = .next (s.withCore c { k with
        seq := { k.seq with state := .halted, nextAt := none, stalled := false, seam := none }
        ev := k.ev ++ [.halted] })) ∧
    (s.coreThere c →
      let k := s.plane.core c
      ∀ p : SeamPend, k.seq.seam = some p → p.point = none → p.s < s.plane.now →
      (s.plane.stop = false → (k.cfg.faultHalt && k.seq.faulted) = false → ∃ t, exec (.seamEffect c) s = .next t ∧
        s.OnlyCore t c ∧
        (t.plane.core c).seq = { k.seq with
          step := k.seq.step + 1, seam := none, rep := 0, bundle := p.next, nextAt := some (p.s + 2 + p.gap) } ∧
        (t.plane.core c).ve.flush16 = k.ve.pend16.getD k.ve.flush16 ∧
        (t.plane.core c).ve.flush32 = k.ve.pend32.getD k.ve.flush32 ∧
        (t.plane.core c).su.pendDesc = [] ∧
        (k.su.pendDesc = [] → (t.plane.core c).cfg = k.cfg)) ∧
      ((s.plane.stop || (k.cfg.faultHalt && k.seq.faulted)) = true → ∃ t, exec (.seamEffect c) s = .next t ∧
        s.OnlyCore t c ∧ (t.plane.core c).seq.state = .halted ∧ (t.plane.core c).seq.step = k.seq.step + 1 ∧
        (t.plane.core c).seq.nextAt = none ∧ (c.val, CoreEv.halted) ∈ t.plane.reports))

/-- A bundle issues (R245, R246): with a NOP in its SEQ slot it is repeated REPEAT_M1 times in consecutive cycles, and the next bundle is due after it
and GAP idle cycles. A stalled WAIT whose pail has a token issues its bundle in the same way (R269). Only the core changes, and the mesh takes
nothing. -/
def Obligations.BundleIssues : Prop :=
  ∀ (s : State) (c : Fin 128), s.coreRuns c →
    let k := s.coreNow c
    ∀ (b : BitVec 256) (n : Nat), k.bundle = some b → k.seq.nextAt = some n → n ≤ s.plane.now →
      (slotOf b 1 = 0 → ∃ t, exec (.bundleIssue c) s = .next t ∧ s.OnlyCore t c ∧
        (k.seq.rep < bits (slotOf b 0) 31 24 →
          (t.plane.core c).seq.bundle = k.seq.bundle ∧ (t.plane.core c).seq.rep = k.seq.rep + 1 ∧
          (t.plane.core c).seq.nextAt = some (s.plane.now + 1)) ∧
        (bits (slotOf b 0) 31 24 ≤ k.seq.rep →
          (t.plane.core c).seq.bundle = k.seq.bundle + 1 ∧ (t.plane.core c).seq.rep = 0 ∧
          (t.plane.core c).seq.nextAt = some (s.plane.now + 1 + bits (slotOf b 0) 23 8))) ∧
      (bits (slotOf b 1) 31 27 = 2 → bits (slotOf b 1) 15 0 = 0 → k.seq.stalled = true →
        0 < (k.pail (bits (slotOf b 1) 26 16)).level → bits (slotOf b 0) 31 24 ≤ k.seq.rep →
        ∃ t, exec (.waitRelease c) s = .next t ∧ s.OnlyCore t c ∧
          (t.plane.core c).seq.bundle = k.seq.bundle + 1 ∧ (t.plane.core c).seq.stalled = false ∧
          (t.plane.core c).seq.nextAt = some (s.plane.now + 1 + bits (slotOf b 0) 23 8) ∧
          ((k.pail (bits (slotOf b 1) 26 16)).edge = false →
            ((t.plane.core c).pail (bits (slotOf b 1) 26 16)).level =
              (k.pail (bits (slotOf b 1) 26 16)).level - 1))

/-- ATOMs (R249). An accepted FAA or CAS64 captures its target and operands; with D the latency to the target, its bank access is due D + 1 cycles
later and its result 2D + 4. One on another core sends its request with the local port free. -/
def Obligations.AtomSlots : Prop :=
  ∀ (s : State) (c : Fin 128) (arg : BitVec 27), s.coreRuns c → bits arg.toNat 12 0 = 0 →
    let k := s.coreNow c
    let b := bits arg.toNat 26 23
    let word := (k.tally b).val.toNat % 2 ^ 21
    let dest := if bit arg.toNat 20 then bits arg.toNat 19 13 else c.val
    let d := latency s.chip.routes (s.plane.site c) (s.plane.site dest)
    (bit arg.toNat 20 = true → dest < s.plane.enabled) →
    let core := fun (kind : Nat) (ops : List Nat) => ({ k with
      nextId := k.nextId + 1
      seq := { k.seq with atoms := k.seq.atoms ++ [(⟨k.nextId, kind, b, dest, word, ops, s.plane.now + d + 1, s.plane.now + 2 * d + 4,
        false, none⟩ : AtomOp)] } } : Core)
    let issued := fun (i : Instr) (kind : Nat) (ops : List Nat) =>
      (dest = c.val → exec i s = .next (s.withCore c (core kind ops))) ∧
      (dest ≠ c.val → s.plane.taken.contains c.val = false → ∃ x : Transit,
        exec i s = .next (({ s with plane := { s.plane with
          taken := c.val :: s.plane.taken, group := s.plane.group + 1, mesh := s.plane.mesh ++ [x] } } : State).withCore c (core kind ops)) ∧
        x.load = .atom dest c k.nextId kind word ops ∧ x.lost = false)
    (b + 1 ≤ 15 →
      issued (.faaI32 c arg) 0 [(k.tally (b + 1)).val.toNat] ∧ issued (.faaP32 c arg) 1 [(k.tally (b + 1)).val.toNat]) ∧
    (b + 4 ≤ 15 → word % 2 = 0 →
      issued (.cas64 c arg) 2 [(k.tally (b + 1)).val.toNat, (k.tally (b + 2)).val.toNat,
        (k.tally (b + 3)).val.toNat, (k.tally (b + 4)).val.toNat])

/-- An ATOM at its bank and at its result (R249, R257, R300). The access of one own FAA_I32 whose cycle has come, on a word in
a good sector without pending updates, when nothing of the cycle stands above it at its bank, adds its operand to the word modulo 2^32 and keeps the old
value; every other byte of the tile store reads as before, and so does everything outside the store, its signatures and the ATOM. When its
result is due, the old value is in TL(B + 1) with DATA set, and the ATOM has ended. -/
def Obligations.AtomAccess : Prop :=
  ∀ (s : State) (c : Fin 128), s.coreThere c →
    (let k := s.coreNow c
     ∀ o : AtomOp, k.seq.atoms = [o] → o.target = c.val → k.st.tile.wf = true → o.kind = 0 → o.issued = false → o.bankAt ≤ s.plane.now →
      o.old = none → o.word < 2 ^ 21 → s.plane.lateOf c = [] → s.portFree c false (o.word / 16) 1 0 →
      k.st.adders = [] → k.st.poisoned false (4 * o.word) = false →
      ∃ t, exec (.atomBankAccess c) s = .next t ∧ s.OnlyCore t c ∧ k.sameBut (t.plane.core c) ∧
        (t.plane.core c).st.peek false (4 * o.word) 4 =
          leBytes 4 ((leNat (k.st.peek false (4 * o.word) 4) + nth o.ops 0 0) % 2 ^ 32) ∧
        (∀ a, a < 4 * o.word ∨ 4 * o.word + 4 ≤ a → (t.plane.core c).st.peek false a 1 = k.st.peek false a 1) ∧
        (t.plane.core c).st.stage = k.st.stage ∧
        (t.plane.core c).seq.atoms = [{ o with issued := true, old := some [leNat (k.st.peek false (4 * o.word) 4)] }]) ∧
    (let k := s.plane.core c
     ∀ (o : AtomOp) (v : Nat), k.seq.atoms = [o] → o.writeAt ≤ s.plane.now → o.old = some [v] →
      exec (.atomResultWrite c) s = .next (s.withCore c { k with seq := { k.seq with
        atoms := [], tallies := k.seq.tallies.set (o.b + 1) ⟨BitVec.ofNat 32 v, true⟩ } }))

/-- Scrub and write-backs (R258, R260). A bank's scrub of clean sectors changes nothing but that it is done for this slot, and a second one in the slot
does nothing; a correctable sector of the row it reads is corrected and counted, an uncorrectable one counted, and both reported; the faults that cells take
stand from then on, and an uncorrectable one leaves its sector marked. At the end of a cycle, its phase A performed, the write-back of one
update that is due stores its bytes at its line, and every other byte of the tile store reads as before. -/
def Obligations.ScrubAndWriteBack : Prop :=
  ∀ (s : State) (c : Fin 128) (bank : Fin 32),
    (s.cycleOpen = true → c.val ∈ s.plane.live → ∀ staging : Bool, (staging = true → bank.val < 8) →
      let k := s.plane.core c
      let n := lineBytes staging / 32
      let first := n * scrubRow staging k.st.scrubCount bank
      let done := k.st.scrubDone ++ [(staging, bank.val)]
      let clean := List.replicate (n - 1) Upset.clean
      (k.st.scrubDone.contains (staging, bank.val) = true → ∀ found,
        exec (.tileScrub c staging bank ⟨[], found⟩) s = .next (s.withCore c k)) ∧
      (k.st.scrubDone.contains (staging, bank.val) = false → (∀ i, 0 < i → i < n → (k.st.soft staging).contains (first + i) = false) →
        ((k.st.soft staging).contains first = false →
          exec (.tileScrub c staging bank ⟨[], .clean :: clean⟩) s =
            .next (s.withCore c { k with st := { k.st with scrubDone := done } }) ∧
          ∃ t, exec (.tileScrub c staging bank ⟨[], .uncorrectable :: clean⟩) s = .next t ∧ s.OnlyCore t c ∧
            ((t.plane.core c).st.bad staging).contains first = true ∧
            ((k.st.bad staging).contains first = false → (t.plane.core c).st.uncorr = satAdd 16 k.st.uncorr 1 ∧
              (c.val, CoreEv.uncorrectable) ∈ t.plane.reports) ∧
            (t.plane.core c).st.tile = k.st.tile ∧ (t.plane.core c).st.stage = k.st.stage) ∧
        ((k.st.soft staging).contains first = true →
          ∃ t, exec (.tileScrub c staging bank ⟨[], .clean :: clean⟩) s = .next t ∧ s.OnlyCore t c ∧
            ((t.plane.core c).st.soft staging).contains first = false ∧
            (t.plane.core c).st.corrected = satAdd 16 k.st.corrected 1 ∧ (c.val, CoreEv.uncorrectable) ∈ t.plane.reports ∧
            (t.plane.core c).st.tile = k.st.tile ∧ (t.plane.core c).st.stage = k.st.stage))) ∧
    (∀ (staging : Bool) (faults : List CellUpset) (found : List Upset), exec (.tileScrub c staging bank ⟨faults, found⟩) s =
      exec (.tileScrub c staging bank ⟨[], found⟩) (s.upsets faults)) ∧
    (∀ (staging : Bool) (sec : Nat), c.val ∈ s.plane.live →
      (((s.upsets [⟨c, staging, sec, .uncorrectable⟩]).plane.core c).st.bad staging).contains sec = true) ∧
    (s.coreRear c →
      let t0 := s.frontNow
      let k := t0.plane.core c
      ∀ o : AdderOp, k.st.tile.wf = true → k.st.adders = [o] → o.due ≤ t0.plane.now → o.line % 32 = bank.val → o.off + o.bytes.length ≤ 64 →
      ∃ t, exec (.bankAdderWriteBack c bank) s = .next t ∧ t0.OnlyCore t c ∧
        (t.plane.core c).st.adders = [] ∧
        (t.plane.core c).st.peek false (64 * o.line + o.off) o.bytes.length = o.bytes ∧
        ∀ a, a < 64 * o.line + o.off ∨ 64 * o.line + o.off + o.bytes.length ≤ a →
          (t.plane.core c).st.peek false a 1 = k.st.peek false a 1)

/-- The watchdog (R272, R274). When the count stands at LIMIT at the beginning of a cycle the core trips: TRIPPED, no bundle due, the place of the
trip recorded, the event reported. A write of COR_WDOG_CFG to a core that is powered sets LIMIT alone. -/
def Obligations.Watchdog : Prop :=
  ∀ (s : State) (c : Fin 128), c.val ∈ s.plane.live →
    let k := s.plane.core c
    (s.clockOn = true → s.plane.half = false → k.seq.state = .run → k.seq.wdogLimit ≠ 0 → k.seq.wdogLimit.toNat ≤ k.seq.wdogCount →
      ∃ t, exec (.watchdogTrip c) s = .next t ∧ s.OnlyCore t c ∧
        (t.plane.core c).seq.state = .tripped ∧ (t.plane.core c).seq.nextAt = none ∧
        (t.plane.core c).seq.tripStep = k.seq.step.toNat % 2 ^ 32 ∧ (t.plane.core c).seq.tripBundle = k.seq.bundle ∧
        (t.plane.core c).seq.tallies = k.seq.tallies ∧ (t.plane.core c).st = k.st ∧
        (c.val, CoreEv.watchdog) ∈ t.plane.reports) ∧
    (∀ v : BitVec 64, s.pwr.state ≤ 2 →
      exec (.wdogCfgWrite c v) s = .next (s.withCore c { k with seq := { k.seq with wdogLimit := v.setWidth 40 } }))

/-! ### Engine slots and what engines do by themselves -/

/-- The life of a vat (R84, R86, R125), for every engine the slot acts on. An accepted OPEN of the next generation of an
IDLE vat whose shape is good makes it OPEN from the next cycle on with that shape, its counts and flags cleared, its slots reading zero, every
other slot of the quire file and every other vat as before. SEAL of an OPEN vat of its generation records the cut;
six cycles later the vat is SEALED; RELEASE of a SEALED one makes it IDLE. -/
def Obligations.VatLife : Prop :=
  ∀ (s : State) (c : Fin 128) (e : Fin 4),
    (∀ arg : BitVec 27, s.coreRuns c →
      let k := s.coreNow c
      let m := meSlot arg.toNat
      let sh := shapeOf (k.meEnt e m.entry).toNat
      (k.meCheck e 1 m = 0 → (∀ i ∈ k.gang e, BitVec.ofNat 4 m.gen = ((k.me i).vat m.vat).gen + 1 ∧
          ((k.me i).vat m.vat).state = .idle ∧ openCheck (k.me i) m.vat sh = 0) →
        ∃ t, exec (.meOpen c e arg) s = .next t ∧ s.OnlyCore t c ∧ ∀ i ∈ k.gang e,
          ((t.plane.core c).me i).vat m.vat = { Vat.reset with
            gen := BitVec.ofNat 4 m.gen, state := .vopen, mode := sh.mode, fmt := sh.fmt, rowBase := sh.rowBase,
            rowsM1 := sh.rowsM1, depth := sh.depth, stale := ((k.me i).vat m.vat).stale, openAt := s.plane.now + 1 } ∧
          (∀ v, v ≠ m.vat → ((t.plane.core c).me i).vat v = (k.me i).vat v) ∧
          (∀ col slot, slot < 1024 → ((t.plane.core c).me i).slots.get 0 (1024 * col + slot) =
            if sh.rowBase ≤ slot ∧ slot < sh.rowBase + sh.slots then 0 else (k.me i).slots.get 0 (1024 * col + slot))) ∧
      (k.meCheck e 2 m = 0 → (∀ i ∈ k.gang e, BitVec.ofNat 4 m.gen = ((k.me i).vat m.vat).gen ∧
          ((k.me i).vat m.vat).state = .vopen ∧ ((k.me i).vat m.vat).sealAt = none) →
        ∃ t, exec (.meSeal c e arg) s = .next t ∧ s.OnlyCore t c ∧ ∀ i ∈ k.gang e,
          ((t.plane.core c).me i).vat m.vat = { (k.me i).vat m.vat with sealAt := some s.plane.now } ∧
          ((t.plane.core c).me i).slots = (k.me i).slots) ∧
      (k.meCheck e 5 m = 0 → (∀ i ∈ k.gang e, BitVec.ofNat 4 m.gen = ((k.me i).vat m.vat).gen ∧
          ((k.me i).vat m.vat).state = .vsealed ∧ ((k.me i).vat m.vat).earliest s.plane.now m.gen ≤ s.plane.now) →
        ∃ t, exec (.meRelease c e arg) s = .next t ∧ s.OnlyCore t c ∧ ∀ i ∈ k.gang e,
          ((t.plane.core c).me i).vat m.vat = { (k.me i).vat m.vat with state := .idle } ∧
          ((t.plane.core c).me i).slots = (k.me i).slots)) ∧
    (∀ (v : Fin 16) (t0 : Nat), s.coreThere c →
      let g := (s.plane.core c).me e
      (g.vat v).state = .vopen → (g.vat v).sealAt = some t0 → t0 + 6 ≤ s.plane.now →
      ∃ t, exec (.sealedEffect c e v) s = .next t ∧ s.OnlyCore t c ∧
        ((t.plane.core c).me e).vat v = { g.vat v with state := .vsealed } ∧
        ∀ w, w ≠ v.val → ((t.plane.core c).me e).vat w = g.vat w)

/-- Contributions take their place (R120, R121, R138). An accepted MMA, CONV or WSMV becomes the pending operation of its
engine with what is in force at its issue; an accepted FOLDIN takes the fold pipe, or waits for it; an accepted PRELOAD
is held, its load beginning when the background set and the load path are free. Nothing else changes. -/
def Obligations.ContributionSlots : Prop :=
  ∀ (s : State) (c : Fin 128) (e : Fin 4) (arg : BitVec 27), s.coreRuns c →
    let k := s.coreNow c
    let m := meSlot arg.toNat
    let g := k.me e
    let col := fun (kind : ColKind) => s.withCore c (({ k with nextId := k.nextId + 1 } : Core).setMe e { g with
      pend := some (⟨k.nextId, kind, m.vat, m.gen, m.entry, k.cfg.opt.get 0 (256 * e + m.entry), m.row0, k.segment,
        0, 0, 0, 0, [], 0⟩ : ColOp) })
    let fold : FoldOp := ⟨k.nextId, m.vat, m.gen, k.cfg.opt.get 0 (256 * e + m.entry), m.row0, k.segment, none, 0, []⟩
    (k.meCheck e 8 m = 0 → exec (.meMma c e arg) s = .next (col .mma)) ∧
    (k.meCheck e 9 m = 0 → exec (.meConv c e arg) s = .next (col .conv)) ∧
    (k.meCheck e 10 m = 0 → exec (.meWsmv c e arg) s = .next (col .wsmv)) ∧
    (k.meCheck e 11 m = 0 →
      (g.fold = none → exec (.meFoldin c e arg) s =
        .next (s.withCore c (({ k with nextId := k.nextId + 1 } : Core).setMe e { g with fold := some fold }))) ∧
      (g.fold ≠ none → exec (.meFoldin c e arg) s =
        .next (s.withCore c (({ k with nextId := k.nextId + 1 } : Core).setMe e { g with foldPend := some fold })))) ∧
    (k.meCheck e 6 m = 0 →
      let busy := (g.loading.map fun l => l.begin_ + loadTime l.ent.toNat).getD 0
      let p : Preload := ⟨m.entry, k.cfg.opt.get 0 (256 * e + m.entry), max s.plane.now (max g.bgFree busy)⟩
      exec (.mePreload c e arg) s = .next (s.withCore c (k.setMe e { g with preload := some p, loading := some p })))

/-- The column pipe by itself (R116, R119 to R121). An MMA that finds its pipe free and no PRELOAD held starts: its first
swap is due when its load has taken L cycles. At the swap the two stationary sets exchange, their contents as they were.
A PRELOAD whose load has taken its L cycles is done. -/
def Obligations.ColumnPipe : Prop :=
  ∀ (s : State) (c : Fin 128) (e : Fin 4), s.coreThere c →
    (let k := s.plane.core c
     let g := k.me e
     (∀ op : ColOp, g.pend = some op → op.kind = .mma → g.run = none → (e.val = 0 ∨ (k.me 0).run = none) →
      g.preload = none → g.epi = none →
      ∃ t r, exec (.pendingStart c e) s = .next t ∧ s.OnlyCore t c ∧ ((t.plane.core c).me e).pend = none ∧
        ((t.plane.core c).me e).run = some r ∧ r.id = op.id ∧ r.t0 = s.plane.now ∧
        r.swapAt = s.plane.now + loadTime op.ent.toNat ∧ ((t.plane.core c).me e).vats = g.vats) ∧
     (∀ p : Preload, g.loading = some p → p.begin_ + loadTime p.ent.toNat ≤ s.plane.now →
      exec (.preloadDone c e) s = .next (s.withCore c (k.setMe e { g with loading := none })))) ∧
    (let g := (s.coreNow c).me e
     ∀ op : ColOp, g.run = some op → op.kind = .mma → op.swapAt = s.plane.now → op.blk = 0 → g.colAt ≤ s.plane.now →
      ∃ t r, exec (.swap c e) s = .next t ∧ s.OnlyCore t c ∧ ((t.plane.core c).me e).activeA = !g.activeA ∧
        ((t.plane.core c).me e).setA = g.setA ∧ ((t.plane.core c).me e).setB = g.setB ∧
        ((t.plane.core c).me e).run = some r ∧ r.blk = 1 ∧ r.lastSwap = s.plane.now)

/-- A chunk of an MMA (R84, R112, R113, R118): in a cycle after the swap the columns form the exact sums of the moving row read from staging with
the active stationary set, and the chunk is due in its vat row six cycles later, or is dropped where the vat does not take it in this cycle. Before phase
A the command reads the staging row itself, its port free; after it, what the cycle has read stands in the moving port. -/
def Obligations.ChunkForms : Prop :=
  ∀ (s : State) (c : Fin 128) (e : Fin 4),
    let formed := fun (k : Core) (op : ColOp) (f : Forming) (moving : Bytes) => ∃ t ch, exec (.chunkIssue c e) s = .next t ∧
      s.OnlyCore t c ∧ ((t.plane.core c).me e).chunks = (k.me e).chunks ++ [ch] ∧
      ch.due = s.plane.now + 6 ∧ ch.issue = s.plane.now ∧ ch.vat = op.vat ∧ ch.gen = op.gen ∧ ch.row = f.row ∧
      ch.masked = !((k.me e).vat op.vat).accepts op.gen s.plane.now op.segment k.segment ∧
      (let x := op.ent.toNat
       let js := (List.range (f.hi - f.lo)).map (· + f.lo)
       ¬ (bits x 123 120 = 3 ∧ bits x 119 116 = 4) →
       ch.sums = (List.range (k.ncols e)).map fun col =>
         dotVal (js.map fun j => operandElem (bits x 123 120) moving j)
           (js.map fun j => operandElem (bits x 119 116) (Mem.read (k.me e).active (128 * col) 128) j))
    (s.coreThere c →
      let k := s.coreNow c
      let g := k.me e
      ∀ (op : ColOp) (f : Forming), g.run = some op → op.kind = .mma → op.forming s.plane.now = some f →
        op.swapAt ≠ s.plane.now → op.loads = [] → g.loading = none → g.pend = none → g.colAt ≤ s.plane.now →
        f.reads = true → f.first = true → f.lo < f.hi → s.portFree c true f.stage 7 (10 + e) →
        (∀ i, i < 4 → k.st.poisoned true (128 * f.stage + 32 * i) = false) →
        formed k op f (k.st.peek true (128 * f.stage) 128)) ∧
    (s.clockOn = true → s.plane.half = true → c.val ∈ s.plane.live →
      let k := s.plane.core c
      let g := k.me e
      ∀ (op : ColOp) (f : Forming), g.run = some op → op.kind = .mma → op.forming s.plane.now = some f → g.colAt ≤ s.plane.now →
        f.lo < f.hi → formed k op f (g.part 0))

/-- Landings (R89, R92, R95, R99, R113, R138). A chunk due lands in an Exact vat that takes it: in every column its sum is added to the row's quire
exactly, rounded once, VAT_SAT and VAT_NAR take what the addition gives, TERMS grows by the extent of a contribution not yet counted, and every slot outside
the row stays. In a Compact vat each column's sum, rounded to posit32, takes its place in the tree, and the row's count grows. A posit too wide for the quire
raises VAT_FMT and adds nothing. A fold-in row does the same as a chunk with its quires and the terms and flags of its trailer, and both together make one
addition. A chunk dropped at its issue, or of a row that the vat has not, lands nothing; one whose vat is no longer open is stale: STALE rises once and
the event is reported, with no slot of the quire file changed. -/
def Obligations.Landings : Prop :=
  ∀ (s : State) (c : Fin 128) (e : Fin 4), s.coreThere c →
    let k := s.plane.core c
    let g := k.me e
    let at_ := fun (t : State) => (t.plane.core c).me e
    (∀ ch : Chunk, g.chunks = [ch] → g.foldRows = [] → ch.due ≤ s.plane.now →
      let x := g.vat ch.vat
      let w := qwOf x.fmt
      let base := x.rowBase + 4 * w * ch.row
      let taken := ch.masked = false ∧ x.accepts ch.gen ch.issue ch.segment k.segment = true ∧ ch.row ≤ x.rowsM1
      let sum := fun (col : Nat) (v : Val) => qadd w (g.quire x col ch.row) (qof w v)
      let terms := if g.termed.contains ch.opId then x.terms else satAdd 32 x.terms ch.extent
      let long := x.flags.long || (!g.termed.contains ch.opId && decide (2 ^ 31 - 1 < terms))
      (taken → x.mode = 0 → ch.posit ≤ 8 * w → base + 4 * w ≤ 1024 →
        ∃ t, exec (.chunkLand c e) s = .next t ∧ s.OnlyCore t c ∧ (at_ t).chunks = [] ∧
          (∀ col v, ch.sums[col]? = some v → (at_ t).slotsAt col base (4 * w) = qenc w (sum col v).1 % 2 ^ (128 * w)) ∧
          (at_ t).vat ch.vat = { x with terms := terms, flags := { x.flags with
            long := long
            sat := x.flags.sat || ch.sums.zipIdx.any fun p => (sum p.2 p.1).2
            nar := x.flags.nar || ch.sums.zipIdx.any fun p => (sum p.2 p.1).1.isNar } } ∧
          (∀ v, v ≠ ch.vat → (at_ t).vat v = g.vat v) ∧
          (∀ col slot, slot < 1024 → slot < base ∨ base + 4 * w ≤ slot →
            (at_ t).slots.get 0 (1024 * col + slot) = g.slots.get 0 (1024 * col + slot))) ∧
      (taken → x.mode = 1 → x.rowBase + (ch.row + 1) * (x.depth + 1) ≤ 1024 →
        let i := x.rowChunks.get 0 ch.row
        let place := fun (col : Nat) (v : Val) => compactTake (g.level x col ch.row) x.depth i 26 0 (r32 v) (aboveMax 32 v)
        ∃ t, exec (.chunkLand c e) s = .next t ∧ s.OnlyCore t c ∧ (at_ t).chunks = [] ∧
          (∀ col v, ch.sums[col]? = some v → (at_ t).level x col ch.row (place col v).1 = (place col v).2.1 % 2 ^ 32) ∧
          ((at_ t).vat ch.vat).rowChunks = x.rowChunks.set ch.row (i + 1) ∧ ((at_ t).vat ch.vat).terms = terms ∧
          ((at_ t).vat ch.vat).chunks = min (max x.chunks (i + 1)) (2 ^ 32 - 1)) ∧
      (taken → x.mode = 0 → 8 * w < ch.posit → exec (.chunkLand c e) s = .next (s.withCore c
        (k.setMe e (({ g with chunks := [] } : Engine).setVat ch.vat { x with flags := { x.flags with vfmt := true } })))) ∧
      (ch.masked = true ∨ (x.accepts ch.gen ch.issue ch.segment k.segment = true ∧ x.rowsM1 < ch.row) →
        exec (.chunkLand c e) s = .next (s.withCore c (k.setMe e { g with chunks := [] }))) ∧
      (ch.masked = false → x.accepts ch.gen ch.issue ch.segment k.segment = false → g.stales.contains ch.opId = false →
        ∃ t, exec (.chunkLand c e) s = .next t ∧ s.OnlyCore t c ∧
          (at_ t).vat ch.vat = { x with stale := satAdd 16 x.stale 1 } ∧
          (at_ t).slots = g.slots ∧ (c.val, CoreEv.vat) ∈ t.plane.reports)) ∧
    (∀ fr : FoldRow, g.foldRows = [fr] → fr.due ≤ s.plane.now → fr.dropped = false →
      let x := g.vat fr.vat
      let w := qwOf x.fmt
      let base := x.rowBase + 4 * w * fr.row
      let fits := x.mode = 0 ∧ bits fr.trailer 26 25 = 0 ∧ bits fr.trailer 24 21 = x.fmt ∧ fr.w = w
      x.accepts fr.gen fr.issue fr.segment k.segment = true → fr.row ≤ x.rowsM1 → base + 4 * w ≤ 1024 →
      (g.chunks = [] → fits → g.termed.contains fr.opId = false →
        ∃ t, exec (.foldinRowLand c e) s = .next t ∧ s.OnlyCore t c ∧ (at_ t).foldRows = [] ∧
          (∀ col q, fr.quires[col]? = some q →
            (at_ t).slotsAt col base (4 * w) = qenc w (qadd w (g.quire x col fr.row) q).1 % 2 ^ (128 * w)) ∧
          ((at_ t).vat fr.vat).terms = satAdd 32 x.terms (bits fr.trailer 63 32) ∧
          ((at_ t).vat fr.vat).flags.deep = (x.flags.deep || bit (bits fr.trailer 7 0) 3) ∧
          (∀ col slot, slot < 1024 → slot < base ∨ base + 4 * w ≤ slot →
            (at_ t).slots.get 0 (1024 * col + slot) = g.slots.get 0 (1024 * col + slot))) ∧
      (g.chunks = [] → ¬ fits → exec (.foldinRowLand c e) s = .next (s.withCore c
        (k.setMe e (({ g with foldRows := [] } : Engine).setVat fr.vat { x with flags := { x.flags with vfmt := true } })))) ∧
      (∀ ch : Chunk, g.chunks = [ch] → ch.due ≤ s.plane.now → g.pairOk k.segment ch fr = true →
        ∃ t, exec (.foldinRowLand c e) s = .next t ∧ s.OnlyCore t c ∧ (at_ t).chunks = [] ∧ (at_ t).foldRows = [] ∧
          (∀ col v, ch.sums[col]? = some v → (at_ t).slotsAt col base (4 * w) =
            qenc w (qadd3 w (g.quire x col fr.row) (qof w v) (nth fr.quires col Quire.zero)).1 % 2 ^ (128 * w)) ∧
          exec (.chunkLand c e) s = .next t))

/-- The epilogue path (R84, R133 to R137). An accepted DRAIN or EXPORT takes the free path. In its first cycle on a SEALED
vat of its generation a DRAIN makes the vat DRAINING, and an EXPORT leaves its state. Four cycles after the row was read
a DRAIN writes the rounded row, and after its last row an EXPORT writes the trailer in a sector of its own, each when nothing of the cycle stands above its
write port at the bank. -/
def Obligations.EpiloguePath : Prop :=
  ∀ (s : State) (c : Fin 128) (e : Fin 4),
    let k := s.coreNow c
    let g := k.me e
    (∀ arg : BitVec 27, s.coreRuns c →
      let m := meSlot arg.toNat
      let op := fun (i : Nat) (vexport : Bool) => (⟨vexport, m.vat, m.gen, k.cfg.opt.get 0 (256 * e + m.entry), m.keep == 1,
        g.form == 1, k.segment, ((k.me i).vat m.vat).earliest s.plane.now m.gen, none, 0, 0, [], [], [], []⟩ : EpiOp)
      (k.meCheck e 3 m = 0 →
        ∃ t, exec (.meDrain c e arg) s = .next t ∧ s.OnlyCore t c ∧
          ∀ i ∈ k.gang e, (t.plane.core c).me i = (if (k.me i).epi = none then { k.me i with epi := some (op i false) }
            else { k.me i with epiPend := some (op i false) })) ∧
      (k.meCheck e 4 m = 0 → g.epi = none → exec (.meExport c e arg) s =
        .next (s.withCore c (k.setMe e { g with epi := some (op e true) }))) ∧
      (k.meCheck e 4 m = 0 → g.epi ≠ none → exec (.meExport c e arg) s =
        .next (s.withCore c (k.setMe e { g with epiPend := some (op e true) })))) ∧
    (s.coreThere c → g.epiAt ≤ s.plane.now → ∀ op : EpiOp, g.epi = some op →
      (op.start = none → op.earliest ≤ s.plane.now → (g.vat op.vat).state = .vsealed →
        (g.vat op.vat).gen = BitVec.ofNat 4 op.gen →
        (op.vexport = false → bit op.ent.toNat 112 = false → bit op.ent.toNat 111 = false → bit op.ent.toNat 109 = false →
          (g.vat op.vat).mode = 0 →
          ∃ t o, exec (.drainRowWrite c e) s = .next t ∧ s.OnlyCore t c ∧
            (((t.plane.core c).me e).vat op.vat) = { g.vat op.vat with state := .draining } ∧
            ((t.plane.core c).me e).epi = some o ∧ o.start = some s.plane.now ∧ (t.plane.core c).st.tile = k.st.tile) ∧
        (op.vexport = true → ∃ t o, exec (.exportRowWrite c e) s = .next t ∧ s.OnlyCore t c ∧
          ((t.plane.core c).me e).vats = g.vats ∧ ((t.plane.core c).me e).epi = some o ∧
          o.start = some s.plane.now ∧ (t.plane.core c).st.tile = k.st.tile)) ∧
      (∀ vs : List Val, k.st.tile.wf = true → op.vexport = false → op.gang = false → op.start = some (s.plane.now - 4) → 4 ≤ s.plane.now →
        op.rows = 1 → op.vals = [(0, vs)] → vs.length = 64 → k.ncols e = 64 →
        bit op.ent.toNat 112 = false → bit op.ent.toNat 111 = false → bit op.ent.toNat 109 = false →
        bits op.ent.toNat 123 120 = 0 → s.portFree c false (bits op.ent.toNat 56 40) 3 e →
        ∃ t, exec (.drainRowWrite c e) s = .next t ∧ s.OnlyCore t c ∧
          (t.plane.core c).st.peek false (64 * bits op.ent.toNat 56 40) 64 =
            vs.map (fun v => BitVec.ofNat 8 (roundTo .p8 (activation op.ent.toNat v)).1) ∧
          ∀ a, a < 64 * bits op.ent.toNat 56 40 ∨ 64 * bits op.ent.toNat 56 40 + 64 ≤ a →
            (t.plane.core c).st.peek false a 1 = k.st.peek false a 1) ∧
      (∀ d : Nat, k.st.tile.wf = true → op.vexport = true → op.segment = k.segment → op.start = some d →
        s.plane.now = d + op.rowCycles * op.rows + 1 →
        let line := (bits op.ent.toNat 123 107 + op.rows * (if op.w = 0 then 4 else 16 * op.w)) % 131072
        s.portFree c false line 3 e →
        ∃ t, exec (.exportRowWrite c e) s = .next t ∧ s.OnlyCore t c ∧
          (t.plane.core c).st.peek false (64 * line) 32 = leBytes 32 (g.vat op.vat).trailer ∧
          ∀ a, a < 64 * line ∨ 64 * line + 32 ≤ a → (t.plane.core c).st.peek false a 1 = k.st.peek false a 1))

/-! ### Vector slots -/

/-- Lane operations (R158, R160, R163). An accepted one sends to VD, written at t + 4, one register whose every lane is the
operation's exact result rounded once, or the operand that R158 names; nothing else of the module changes. -/
def Obligations.VectorLanes : Prop :=
  ∀ (s : State) (c : Fin 128) (arg : BitVec 26), s.coreRuns c →
    let k := s.coreNow c
    let r := s.plane.now
    let v := veSlot arg.toNat
    let n := wBits v.w
    let a := fun (i : Nat) => leAt (k.ve.reg v.va) (i * 2 ^ v.w) (2 ^ v.w)
    let b := fun (i : Nat) => leAt (k.ve.reg v.vb) (i * 2 ^ v.w) (2 ^ v.w)
    let d := fun (i : Nat) => leAt (k.ve.reg v.vc) (i * 2 ^ v.w) (2 ^ v.w)
    let lanes := fun (f : Nat → Nat) => s.withCore c
      (k.vePut (r + 4) (.reg v.vd (packElems v.w ((List.range (wCount v.w)).map f))))
    (k.veCheck r 0x08 v = 0 → bit v.md 0 = false →
      exec (.vadd c arg) s = .next (lanes fun i => penc n ((pdec n (a i)).add (pdec n (b i))))) ∧
    (k.veCheck r 0x08 v = 0 → bit v.md 0 = true →
      exec (.vadd c arg) s = .next (lanes fun i => penc n ((pdec n (a i)).sub (pdec n (b i))))) ∧
    (k.veCheck r 0x09 v = 0 →
      exec (.vmul c arg) s = .next (lanes fun i => penc n ((pdec n (a i)).mul (pdec n (b i))))) ∧
    (k.veCheck r 0x0A v = 0 →
      exec (.vfma c arg) s = .next (lanes fun i =>
        let p := (pdec n (a i)).mul (pdec n (b i))
        penc n ((if bit v.md 0 then p.neg else p).add (if bit v.md 1 then (pdec n (d i)).neg else pdec n (d i))))) ∧
    (k.veCheck r 0x0B v = 0 →
      exec (.vmax c arg) s = .next (lanes fun i =>
        if a i = narPat n ∨ b i = narPat n then narPat n else if sgn n (a i) < sgn n (b i) then b i else a i)) ∧
    (k.veCheck r 0x0C v = 0 →
      exec (.vmin c arg) s = .next (lanes fun i =>
        if a i = narPat n ∨ b i = narPat n then narPat n else if sgn n (a i) < sgn n (b i) then a i else b i)) ∧
    (k.veCheck r 0x0D v = 0 → bit v.md 0 = false →
      exec (.vabs c arg) s = .next (lanes fun i =>
        if a i ≠ narPat n ∧ (a i).testBit (n - 1) then pneg n (a i) else a i)) ∧
    (k.veCheck r 0x0D v = 0 → bit v.md 0 = true →
      exec (.vabs c arg) s = .next (lanes fun i => if a i = narPat n then a i else pneg n (a i))) ∧
    (k.veCheck r 0x0E v = 0 →
      exec (.vcmp c arg) s = .next (lanes fun i =>
        if a i = narPat n ∨ b i = narPat n then narPat n
        else if (v.md % 4 = 0 ∧ sgn n (b i) < sgn n (a i)) ∨ (v.md % 4 = 1 ∧ ¬ sgn n (a i) < sgn n (b i)) ∨
          (v.md % 4 = 2 ∧ a i = b i) ∨ (v.md % 4 = 3 ∧ a i ≠ b i) then onePat n else 0)) ∧
    (k.veCheck r 0x0F v = 0 →
      exec (.vsel c arg) s = .next (lanes fun i =>
        if d i = narPat n then narPat n else if d i ≠ 0 then a i else b i))

/-- Registers, constants and memory (R158, R160, R164, R167). VCONST fills VD with the low bits of its constant and VMOV
copies; both are written at t + 4. VCVT writes its part at t + 4. VST reads VA now for the lines CUR to CUR + 3, written
at t + 2; VLD asks for those lines now; MOD[0] then adds STRIDE to CUR. A register result that is due is written, and so are the four lines of a VST,
when nothing of the cycle stands above it at their banks. -/
def Obligations.VectorMoves : Prop :=
  ∀ (s : State) (c : Fin 128),
    let k := s.coreNow c
    let r := s.plane.now
    (∀ arg : BitVec 26, s.coreRuns c →
      let v := veSlot arg.toNat
      (k.veCheck r 0x03 v = 0 → exec (.vconst c arg) s = .next (s.withCore c (k.vePut (r + 4) (.reg v.vd
        (packElems v.w (List.replicate (wCount v.w) ((k.cfg.consts.get 0 v.va).toNat % 2 ^ wBits v.w))))))) ∧
      (k.veCheck r 0x04 v = 0 →
        exec (.vmov c arg) s = .next (s.withCore c (k.vePut (r + 4) (.reg v.vd (k.ve.reg v.va))))) ∧
      (k.veCheck r 0x05 v = 0 → v.md % 4 = v.w →
        exec (.vcvt c arg) s = .next (s.withCore c ((k.vePut (r + 4) (.part v.vd 0
          (packElems v.w ((List.range (wCount v.w)).map fun i =>
            leAt (k.ve.reg v.va) ((v.md / 4 * wCount v.w + i) * 2 ^ v.w) (2 ^ v.w))))).cvt CvtTally.zero))) ∧
      (k.veCheck r 0x05 v = 0 → v.w < v.md % 4 →
        exec (.vcvt c arg) s = .next (s.withCore c ((k.vePut (r + 4) (.part v.vd 0
          (packElems (v.md % 4) ((List.range (wCount (v.md % 4))).map fun i => penc (wBits (v.md % 4)) (pdec (wBits v.w)
            (leAt (k.ve.reg v.va) ((v.md / 4 * wCount (v.md % 4) + i) * 2 ^ v.w) (2 ^ v.w))))))).cvt CvtTally.zero))) ∧
      (k.veCheck r 0x05 v = 0 → v.md % 4 < v.w →
        ∃ tally, exec (.vcvt c arg) s = .next (s.withCore c ((k.vePut (r + 4) (.part v.vd
          (v.md / 4 * wCount v.w * 2 ^ (v.md % 4))
          (packElems (v.md % 4) ((elems v.w (k.ve.reg v.va)).map fun x =>
            penc (wBits (v.md % 4)) (pdec (wBits v.w) x))))).cvt tally))) ∧
      (k.veCheck r 0x02 v = 0 →
        let q := k.vePut (r + 2) (.store (k.ve.cur.get 0 (v.vd % 16)) (k.ve.reg v.va))
        exec (.vst c arg) s = .next (s.withCore c (if bit v.md 0 then q.ptrInc (v.vd % 16) else q))) ∧
      (k.veCheck r 0x01 v = 0 → ∃ t, exec (.vld c arg) s = .next t ∧ s.OnlyCore t c ∧
        (t.plane.core c).st.acc = k.st.acc ++ (List.range 4).map (fun i =>
          (⟨false, (k.ve.cur.get 0 (v.va % 16) + i) % 131072, 6, 0, .read (.vld v.vd v.w (64 * i) (r + 3))⟩ : Acc)) ∧
        (bit v.md 0 = false → (t.plane.core c).ve = k.ve) ∧
        (bit v.md 0 = true → (t.plane.core c).ve = { k.ve with
          cur := k.ve.cur.set (v.va % 16)
            (tc 17 (((k.ve.cur.get 0 (v.va % 16) : Nat) : Int) + sgn 17 (bits (k.cfg.ptrs.get 0 (v.va % 16)).toNat 33 17))) }))) ∧
    (s.coreThere c →
      (let k0 := s.plane.core c
       ∀ (vd : Nat) (bs : Bytes) (due : Nat), k0.ve.flight = [⟨due, .reg vd bs⟩] → due ≤ r → k0.seq.seam = none →
        ∃ t, exec (.veResultWrite c) s = .next t ∧ s.OnlyCore t c ∧
          (t.plane.core c).ve = { k0.ve with regs := k0.ve.regs.set vd bs, flight := [] } ∧
          (t.plane.core c).st.tile = k0.st.tile) ∧
      ∀ (line : Nat) (bs : Bytes) (due : Nat), k.ve.flight = [⟨due, .store line bs⟩] → due ≤ r → bs.length = 256 → line + 4 ≤ 131072 →
        k.st.tile.wf = true → (∀ i, i < 4 → s.portFree c false (line + i) 4 0) →
        ∃ t, exec (.veResultWrite c) s = .next t ∧ s.OnlyCore t c ∧ (t.plane.core c).ve = { k.ve with flight := [] } ∧
          (t.plane.core c).st.peek false (64 * line) 256 = bs ∧
          ∀ a, a < 64 * line ∨ 64 * line + 256 ≤ a → (t.plane.core c).st.peek false a 1 = k.st.peek false a 1)

/-- Quires and reductions (R105, R106, R158, R165, R166). VQDOT and VQSUM add an exact sum to a quire, VQFOLD another quire
as it stands now, and VQCLR clears, all at t + 6; VQRD rounds a quire once into every element. VRMAX and VRMIN write one
record in lanes 0 and 1, the other lanes zero. -/
def Obligations.VectorQuires : Prop :=
  ∀ (s : State) (c : Fin 128) (arg : BitVec 26), s.coreRuns c →
    let k := s.coreNow c
    let r := s.plane.now
    let v := veSlot arg.toNat
    let n := wBits v.w
    let put := fun (x : VeRes) => s.withCore c (k.vePut (r + 6) x)
    let record := fun (want : Bool) =>
      let own := ((elems v.w (k.ve.reg v.va)).zipIdx).map fun (x, i) =>
        if (leAt (k.ve.reg v.vb) 0 4 + i) % 2 ^ 32 = 0xFFFFFFFF then Rec.empty
        else (⟨(leAt (k.ve.reg v.vb) 0 4 + i) % 2 ^ 32, x⟩ : Rec)
      let one := own.foldl (combine n want) Rec.empty
      if bit v.md 0 then combine n want one (Rec.dec n (leAt (k.ve.reg v.vc) 0 8)) else one
    (k.veCheck r 0x10 v = 0 → exec (.vqclr c arg) s = .next (put (.quire (v.vd % 8) true []))) ∧
    (k.veCheck r 0x11 v = 0 → exec (.vqdot c arg) s = .next (put (.quire (v.vd % 8) false
      (((elems v.w (k.ve.reg v.va)).zip (elems v.w (k.ve.reg v.vb))).map fun x => (pdec n x.1).mul (pdec n x.2))))) ∧
    (k.veCheck r 0x12 v = 0 → exec (.vqsum c arg) s = .next (put (.quire (v.vd % 8) false
      ((elems v.w (k.ve.reg v.va)).map (pdec n))))) ∧
    (k.veCheck r 0x13 v = 0 →
      exec (.vqfold c arg) s = .next (put (.qfold (v.vd % 8) (k.ve.vqs.get Quire.zero (v.va % 8))))) ∧
    (k.veCheck r 0x14 v = 0 → exec (.vqrd c arg) s = .next (put (.reg v.vd
      (packElems v.w (List.replicate (wCount v.w) (penc n (qval 4 (k.ve.vqs.get Quire.zero (v.va % 8))))))))) ∧
    (k.veCheck r 0x15 v = 0 → exec (.vrmax c arg) s = .next (put (.reg v.vd
      (leBytes 4 (record true).val ++ leBytes 4 (record true).idx ++ fillBytes 248 0)))) ∧
    (k.veCheck r 0x16 v = 0 → exec (.vrmin c arg) s = .next (put (.reg v.vd
      (leBytes 4 (record false).val ++ leBytes 4 (record false).idx ++ fillBytes 248 0))))

/-- Special functions (R61, R158, R160, R168 to R173, R176, R184). VEXP2, VLOG2 and VTAB send every element through the
function, written at t + 10, and take the special pipe until t + 4. VUCALL runs its micro-program on U0 and U1, which are VA and VB, takes the whole engine
for D(u) cycles and writes U0 at t + D(u); one VADD step on them gives the sums of the lanes, and any other step one register. Its result due is written
when it has run its time, and not before. A write of COR_VE_FLUSH waits for the seam, field by field, and a value outside -255 to 0 is ignored. -/
def Obligations.VectorFunctions : Prop :=
  ∀ (s : State) (c : Fin 128),
    (∀ arg : BitVec 26, s.coreRuns c →
      let k := s.coreNow c
      let r := s.plane.now
      let v := veSlot arg.toNat
      let special := fun (f : Nat → Nat) => s.withCore c
        ((k.vePut (r + 10) (.reg v.vd (packElems v.w ((elems v.w (k.ve.reg v.va)).map f)))).veSpecialTake r)
      let rom := k.cfg.compat = true ∧ v.w = 1
      (k.veCheck r 0x18 v = 0 → ¬ rom → exec (.vexp2 c arg) s = .next (special fun x =>
        exp2Pat (wBits v.w) (if v.w = 1 then k.ve.flush16 else k.ve.flush32) (pdec (wBits v.w) x))) ∧
      (k.veCheck r 0x18 v = 0 → rom → exec (.vexp2 c arg) s = .next (special fun x => tabElem 16 false 0 0 (romSeg 0) x)) ∧
      (k.veCheck r 0x19 v = 0 → ¬ rom →
        exec (.vlog2 c arg) s = .next (special fun x => log2Pat (wBits v.w) (pdec (wBits v.w) x))) ∧
      (k.veCheck r 0x19 v = 0 → rom → exec (.vlog2 c arg) s = .next (special fun x => match pdec 16 x with
        | .nar => narPat 16
        | .num y => if y.m ≤ 0 then narPat 16 else tabElem 16 false 0 0 (romSeg 1) x)) ∧
      (k.veCheck r 0x1A v = 0 → bit v.md 2 = true →
        exec (.vtab c arg) s = .next (special fun x => tabElem 16 false 0 0 (romSeg (v.md % 4)) x)) ∧
      (k.veCheck r 0x1A v = 0 → bit v.md 2 = false → exec (.vtab c arg) s = .next (special fun x =>
        tabElem (wBits v.w) (k.ftab (v.md % 4)).linear (k.ftab (v.md % 4)).x0 (k.ftab (v.md % 4)).invW
          (fun i => (k.ftab (v.md % 4)).seg.get (0, 0, 0) i) x)) ∧
      (k.veCheck r 0x1B v = 0 →
        let p := k.uprog v
        let u := k.urun p.steps k.free [(0, k.ve.reg v.va), (1, k.ve.reg v.vb)] CvtTally.zero
        exec (.vucall c arg) s = .next (s.withCore c (({ k with
          free := k.free + 256 * p.steps.length
          ve := { k.ve with
            microUntil := r + p.dur
            flight := k.ve.flight ++ [(⟨r + p.dur, .reg v.vd u.1⟩ : VeFlight)] } } : Core).cvt u.2)) ∧
        (∀ step : BitVec 32, p.steps = [step] → p.dur = (if veSpecial (bits step.toNat 31 26) then 10 else 4) ∧
          (bits step.toNat 31 26 = 0x08 → bits step.toNat 23 20 = 0 → bits step.toNat 19 16 = 0 → bits step.toNat 15 12 = 1 →
            bit step.toNat 4 = false →
            let w := bits step.toNat 25 24
            let n := wBits w
            u = (packElems w ((List.range (wCount w)).map fun i => penc n
              ((pdec n (leAt (k.ve.reg v.va) (i * 2 ^ w) (2 ^ w))).add (pdec n (leAt (k.ve.reg v.vb) (i * 2 ^ w) (2 ^ w))))),
              CvtTally.zero))))) ∧
    (s.coreThere c →
      let k := s.plane.core c
      (∀ (vd : Nat) (bs : Bytes) (due : Nat), k.ve.flight = [⟨due, .reg vd bs⟩] → due ≤ s.plane.now →
        0 < k.ve.microUntil → k.ve.microUntil ≤ s.plane.now → exec (.vucallEnd c) s =
          .next (s.withCore c { k with ve := { k.ve with regs := k.ve.regs.set vd bs, flight := [] } })) ∧
      (s.plane.now < k.ve.microUntil → exec (.vucallEnd c) s = .next (s.withCore c k))) ∧
    (∀ val : BitVec 64, s.pwr.state ≤ 2 → c.val ∈ s.plane.live →
      let k := s.plane.core c
      let a := sgn 9 (bits val.toNat 24 16)
      let b := sgn 9 (bits val.toNat 8 0)
      exec (.veFlushWrite c val) s = .next (s.withCore c { k with ve := { k.ve with
        pend16 := if -255 ≤ a ∧ a ≤ 0 then some a else k.ve.pend16
        pend32 := if -255 ≤ b ∧ b ≤ 0 then some b else k.ve.pend32 } }))

/-- The soft maximum (R177 to R179). SMOPEN opens a context with its width and scale and nothing taken; the first tile of
a context sets its maximum, logs it, counts and sends p = 2^((x - m) * l) on its way to VD at t + 14; SMMERGE takes a
record of another context into one that has none; SMCLOSE takes M and S from the context, or from the record, with the
rounded reciprocal of S; SMNORM scales the oldest tile not yet corrected; SMSTATE writes the record. -/
def Obligations.SoftMaximum : Prop :=
  ∀ (s : State) (c : Fin 128) (arg : BitVec 26), s.coreRuns c →
    let k := s.coreNow c
    let r := s.plane.now
    let v := veSlot arg.toNat
    let va := k.ve.reg v.va
    (k.veCheck r 0x20 v = 0 → exec (.smopen c arg) s = .next (s.withCore c (k.setCtx (v.vd % 8)
      ⟨1, v.w, (k.cfg.consts.get 0 v.va).toNat, none, Quire.zero, [], 0, 0, 0, 0, 0, 0⟩))) ∧
    (k.veCheck r 0x21 v = 0 → (k.ve.ctx (v.vc % 8)).m = none → ∃ t bs, exec (.smtile c arg) s = .next t ∧
      s.OnlyCore t c ∧
      (let mt := (((elems v.w va).map fun e => penc 32 (pdec (wBits v.w) e)).tail).foldl maxNar
         (penc 32 (pdec (wBits v.w) (leAt va 0 (2 ^ v.w))))
       let x := (t.plane.core c).ve.ctx (v.vc % 8)
       x.m = some mt ∧ x.log = (k.ve.ctx (v.vc % 8)).log ++ [mt] ∧ x.tiles = (k.ve.ctx (v.vc % 8)).tiles + 1 ∧
       bs = packElems v.w ((elems v.w va).map fun e => exp2Pat (wBits v.w)
         (if v.w = 1 then k.ve.flush16 else k.ve.flush32)
         (pdec (wBits v.w) (penc (wBits v.w) (((pdec (wBits v.w) e).sub (pdec 32 mt)).mul (pdec 32 (k.ve.ctx (v.vc % 8)).l)))))) ∧
      (t.plane.core c).ve.flight = k.ve.flight ++ [(⟨r + 14, .reg v.vd bs⟩ : VeFlight)] ∧
      (t.plane.core c).ve.specialUntil = r + 4) ∧
    (k.veCheck r 0x22 v = 0 → (k.ve.ctx (v.vd % 8)).m = none → leAt va 8 4 ≠ 0 →
      exec (.smmerge c arg) s = .next (s.withCore c ((k.setCtx (v.vd % 8) { k.ve.ctx (v.vd % 8) with
        merged := (k.ve.ctx (v.vd % 8)).merged + leAt va 8 4
        m := some (leAt va 0 4), q := qof 4 (pdec 32 (leAt va 4 4)) }).veSpecialTake r))) ∧
    (k.veCheck r 0x23 v = 0 → bit v.md 0 = true →
      exec (.smclose c arg) s = .next (s.withCore c ((k.setCtx (v.vd % 8) { k.ve.ctx (v.vd % 8) with
        st := 2, mFin := leAt va 0 4, sFin := leAt va 4 4, r := recip32 (leAt va 4 4) }).veSpecialTake r))) ∧
    (k.veCheck r 0x23 v = 0 → bit v.md 0 = false →
      let x := k.ve.ctx (v.vd % 8)
      exec (.smclose c arg) s = .next (s.withCore c ((k.setCtx (v.vd % 8) { x with
        st := 2, mFin := x.m.getD (narPat 32), sFin := penc 32 (qval 4 x.q),
        r := recip32 (penc 32 (qval 4 x.q)) }).veSpecialTake r))) ∧
    (k.veCheck r 0x24 v = 0 →
      let x := k.ve.ctx (v.vc % 8)
      let g := exp2Pat 32 k.ve.flush32 (pdec 32 (penc 32 (((pdec 32 (nth x.log x.norms 0)).sub (pdec 32 x.mFin)).mul
        (pdec 32 x.l))))
      exec (.smnorm c arg) s = .next (s.withCore c (((k.setCtx (v.vc % 8) { x with norms := x.norms + 1 }).vePut (r + 10)
        (.reg v.vd (packElems v.w ((elems v.w va).map fun p =>
          penc (wBits v.w) (((pdec (wBits v.w) p).mul (pdec 32 g)).mul (pdec 32 x.r)))))).veSpecialTake r))) ∧
    (k.veCheck r 0x25 v = 0 →
      let x := k.ve.ctx (v.va % 8)
      exec (.smstate c arg) s = .next (s.withCore c (k.vePut (r + 4) (.reg v.vd (leBytes 4 (x.m.getD 0) ++
        leBytes 4 (penc 32 (qval 4 x.q)) ++ leBytes 4 (x.tiles + x.merged) ++ fillBytes 244 0)))))

/-! ### Stream slots, moves and refusals -/

/-- MOVE, GATHER, SCATTER and ZPCORR (R204, R238, R261, R263, R265). An accepted slot, whose move passes every check of R234,
takes the free channel of the lowest number with the next number of the core: its descriptors, the elements of its
stream, its rate, and for an EXT source the lead, no less than the chip allows; a move whose entry names trailers asks the
stream port for the source's line and, for a destination that is no PEER's, the destination's. A ZPCORR move takes no descriptor and
writes last in the cycle of its trailer. Nothing else of the core changes but the clip pair that a QUANT entry clears. -/
def Obligations.MoveSlots : Prop :=
  ∀ (s : State) (c : Fin 128) (arg : BitVec 27) (ch : Nat), s.coreRuns c →
    let k := s.coreNow c
    let m := suSlot arg.toNat
    let x := (k.cfg.moves.get 0 m.entry).toNat
    k.suCheck m = 0 → k.freeChan = some ch →
    (∀ sd dd : Desc, k.descAt (bits x 123 117) = some sd → k.descAt (bits x 116 110) = some dd → (k.moveCheck m).1 = 0 →
      let started := fun (i : Instr) (typ n : Nat) => ∃ (t : State) (op : MoveOp), exec i s = .next t ∧ s.OnlyCore t c ∧
        (t.plane.core c).su.chans = k.su.chans.set ch op ∧ (t.plane.core c).nextId = k.nextId + 1 ∧
        (bit x 76 = false → (t.plane.core c).st = k.st) ∧
        (bit x 76 = true → (t.plane.core c).st = { k.st with acc := k.st.acc ++
          (⟨false, bits x 75 59, 7, ch, .read (.strail ch false)⟩ :: if dd.space = 2 then []
            else [⟨false, bits x 46 30, 7, ch, .read (.strail ch true)⟩]) }) ∧
        (t.plane.core c).seq = k.seq ∧ (t.plane.core c).eng = k.eng ∧ (t.plane.core c).ve = k.ve ∧
        (t.plane.core c).su.clips = k.su.clips ∧
        (bit x 93 = false → (t.plane.core c).su = { k.su with chans := k.su.chans.set ch op }) ∧
        op.id = k.nextId ∧ op.typ = typ ∧ op.src = sd ∧ op.dst = dd ∧ op.t0 = s.plane.now ∧ op.n = n ∧
        op.rate = moveRate sd dd ∧ op.perm = (bits x 97 94 != 0) ∧
        (bit x 93 = true → op.quant = some (k.cfg.quant.get 0 (bits x 92 87))) ∧ (bit x 93 = false → op.quant = none) ∧
        (sd.space = 0 → op.off = max m.lead (leadMin s.chip.routes (s.plane.site c))) ∧
        (sd.space = 1 ∨ sd.space = 3 → op.off = 0)
      let elems := winCount (k.window (bits x 109 104) sd.ndim)
      (bits x 127 124 = 1 → started (.move c arg) 1 elems) ∧
      (bits x 127 124 = 2 → started (.gather c arg) 2 ((bits x 58 47 + 1) * elems)) ∧
      (bits x 127 124 = 3 → started (.scatter c arg) 3 elems)) ∧
    (bits x 127 124 = 4 → ∃ (t : State) (op : MoveOp), exec (.zpcorr c arg) s = .next t ∧ s.OnlyCore t c ∧
      (t.plane.core c).su = { k.su with chans := k.su.chans.set ch op } ∧ (t.plane.core c).st = k.st ∧
      (t.plane.core c).seq = k.seq ∧ (t.plane.core c).nextId = k.nextId + 1 ∧
      op.id = k.nextId ∧ op.typ = 4 ∧ op.t0 = s.plane.now ∧ op.quant = some (k.cfg.quant.get 0 (bits x 92 87)) ∧
      op.lastWrite = s.plane.now +
        (zpDims (k.cfg.quant.get 0 (bits x 92 87)).toNat).1 * (zpDims (k.cfg.quant.get 0 (bits x 92 87)).toNat).2 + 1)

/-- What moves do by themselves (R204, R257, R263, R265). The write of a MOVE of one element, its formats equal, to the tile
store places the element's pattern at the address its descriptor gives, five cycles after its read; a ZPCORR move writes
its trailer in the cycle after its last row; in both cases every other byte reads as before, and no higher port may want the
bank. A channel whose move has made its last write is free, and no other. A response of external memory that is due leaves for
its core with its elements, by the route from its channel. -/
def Obligations.MoveEvents : Prop :=
  ∀ (s : State) (c : Fin 128) (m : Fin 4),
    let k := s.coreNow c
    let k0 := s.plane.core c
    (s.coreThere c → k.st.tile.wf = true → ∀ op : MoveOp, k.su.chans.find? (·.1 == m.val) = some (m.val, op) → op.at_ ≤ s.plane.now →
      (∀ (w : List Int) (a pat b : Nat), op.typ = 1 → op.n = 1 → 1 ≤ op.rate → op.perm = false → op.quant = none →
        op.sstream = none → op.trl = none → op.fold = 0 → op.src.fmt = op.dst.fmt → op.dst.space = 1 →
        s.plane.now = op.t0 + op.off + 5 → op.data.find? (·.1 == 0) = some (0, pat) → op.dstTuple 0 = some w →
        op.dst.loc op.herdX op.herdN w = .here (a, false) → codeBits op.dst.fmt = 8 * b → a % 64 + b ≤ 64 →
        s.portFree c false (a / 64) 2 m →
        ∃ t, exec (.streamElementWrite c m) s = .next t ∧ s.OnlyCore t c ∧
          (t.plane.core c).st.peek false a b = leBytes b pat ∧
          ∀ a', a' < a ∨ a + b ≤ a' → (t.plane.core c).st.peek false a' 1 = k.st.peek false a' 1) ∧
      (∀ q : BitVec 128, op.typ = 4 → op.quant = some q →
        s.plane.now = op.t0 + (zpDims q.toNat).1 * (zpDims q.toNat).2 + 1 →
        let line := (bits q.toNat 74 58 + (zpDims q.toNat).2 * 16 * (zpDims q.toNat).1) % 131072
        s.portFree c false line 2 m →
        ∃ t, exec (.streamElementWrite c m) s = .next t ∧ s.OnlyCore t c ∧
          (t.plane.core c).st.peek false (64 * line) 32 = leBytes 32 (fld (bits q.toNat 123 120) 4 21) ∧
          ∀ a, a < 64 * line ∨ 64 * line + 32 ≤ a → (t.plane.core c).st.peek false a 1 = k.st.peek false a 1)) ∧
    (s.coreThere c → exec (.moveEnd c m) s = .next (s.withCore c { k0 with su := { k0.su with
      chans := k0.su.chans.filter fun p => p.1 != m.val || decide (s.plane.now ≤ p.2.lastWrite) } })) ∧
    (s.cycleOpen = true → ∀ x : Resp, s.ext.resp = [x] → x.core = c.val → x.ch = m.val → x.rel ≤ s.plane.now →
      let y := transit s.chip.routes s.plane.group x.src (s.plane.site c) 0 s.plane.now (.data x.core x.ch x.els)
      exec (.extReadRelease c m) s = .next { s with
          plane := { s.plane with group := s.plane.group + 1, mesh := s.plane.mesh ++ [y] }
          ext := { s.ext with resp := [] } } ∧
        y.lost = false ∧ y.due = s.plane.now + routeLat (routeOf s.chip.routes (endAttach x.src).1 (s.plane.site c)))

/-- Refused slots (R149, R182, R248, R255, R267, R275). A slot that the checks of its unit refuse changes nothing of the
core but the unit's fault register (COUNT, which stops at 0xFFFF, the code, the opcode or entry, and the low 32 bits of the
step number), FAULTED, and the event that it reports. A SEQ slot is refused for a bit that is reserved, for a PEER core that is
not enabled, for tallies past 15, for an odd word of CAS64, or for a tally with DATA set as the count of LOOP. A move refused by
R234 is counted in SEP_FAULT in the same way. -/
def Obligations.RefusedSlots : Prop :=
  ∀ (s : State) (c : Fin 128), s.coreRuns c →
    let k := s.coreNow c
    let r := s.plane.now
    let low := k.seq.step.toNat % 2 ^ 32
    let marked := fun (x : Core) (e : CoreEv) =>
      s.withCore c { x with seq := { x.seq with faulted := true }, ev := k.ev ++ [e] }
    (∀ arg : BitVec 27,
      let a := arg.toNat
      let one := fun (code op : Nat) => ({ k with
        seq := { k.seq with fault := ⟨satAdd 16 k.seq.fault.count 1, code, op, low⟩ } } : Core)
      let atom := bits a 12 0 ≠ 0 ∨ (bit a 20 = true ∧ s.plane.enabled ≤ bits a 19 13)
      (bits a 7 0 ≠ 0 ∨ (bit a 15 = true ∧ s.plane.enabled ≤ bits a 14 8) →
        exec (.signal c arg) s = .next (marked (one 1 1) .sequencer)) ∧
      (bits a 15 0 ≠ 0 → exec (.wait c arg) s = .next (marked (one 1 2) .sequencer)) ∧
      (bits a 22 12 ≠ 0 → exec (.loop c arg) s = .next (marked (one 1 4) .sequencer)) ∧
      (bits a 22 12 = 0 → (k.tally (bits a 26 23)).data = true →
        exec (.loop c arg) s = .next (marked (one 2 4) .sequencer)) ∧
      (s.seamOpen c = true → (bits a 26 21 ≠ 0 ∨ bits a 13 0 ≠ 0) →
        exec (.seam c arg) s = .next (marked (one 1 5) .sequencer)) ∧
      (arg ≠ 0 → exec (.halt c arg) s = .next (marked (one 1 6) .sequencer)) ∧
      (atom ∨ 15 ≤ bits a 26 23 →
        exec (.faaI32 c arg) s = .next (marked (one 1 7) .sequencer) ∧
        exec (.faaP32 c arg) s = .next (marked (one 1 7) .sequencer)) ∧
      (atom ∨ 12 ≤ bits a 26 23 ∨ (k.tally (bits a 26 23)).val.toNat % 2 = 1 →
        exec (.cas64 c arg) s = .next (marked (one 1 7) .sequencer))) ∧
    (∀ (e : Fin 4) (arg : BitVec 27),
      let g := k.me e
      ∀ p ∈ [(Instr.meOpen c e arg, 1), (.meSeal c e arg, 2), (.meDrain c e arg, 3), (.meExport c e arg, 4),
          (.meRelease c e arg, 5), (.mePreload c e arg, 6), (.meMma c e arg, 8), (.meConv c e arg, 9),
          (.meWsmv c e arg, 10), (.meFoldin c e arg, 11)],
        k.meCheck e p.2 (meSlot arg.toNat) ≠ 0 → exec p.1 s = .next (marked (k.setMe e { g with
          fault := ⟨satAdd 16 g.fault.count 1, k.meCheck e p.2 (meSlot arg.toNat), p.2, low⟩ }) .engine)) ∧
    (∀ arg : BitVec 26, ∀ p ∈ [(Instr.vld c arg, 0x01), (.vst c arg, 0x02), (.vconst c arg, 0x03), (.vmov c arg, 0x04),
        (.vcvt c arg, 0x05), (.vadd c arg, 0x08), (.vmul c arg, 0x09), (.vfma c arg, 0x0A), (.vmax c arg, 0x0B),
        (.vmin c arg, 0x0C), (.vabs c arg, 0x0D), (.vcmp c arg, 0x0E), (.vsel c arg, 0x0F), (.vqclr c arg, 0x10),
        (.vqdot c arg, 0x11), (.vqsum c arg, 0x12), (.vqfold c arg, 0x13), (.vqrd c arg, 0x14), (.vrmax c arg, 0x15),
        (.vrmin c arg, 0x16), (.vexp2 c arg, 0x18), (.vlog2 c arg, 0x19), (.vtab c arg, 0x1A), (.vucall c arg, 0x1B),
        (.smopen c arg, 0x20), (.smtile c arg, 0x21), (.smmerge c arg, 0x22), (.smclose c arg, 0x23),
        (.smnorm c arg, 0x24), (.smstate c arg, 0x25)],
      k.veCheck r p.2 (veSlot arg.toNat) ≠ 0 → exec p.1 s = .next (marked { k with ve := { k.ve with
        fault := ⟨satAdd 16 k.ve.fault.count 1, k.veCheck r p.2 (veSlot arg.toNat), p.2, low⟩ } } .vector)) ∧
    (∀ arg : BitVec 27,
      let m := suSlot arg.toNat
      ∀ p ∈ [(Instr.move c arg, 1), (.gather c arg, 2), (.scatter c arg, 3), (.zpcorr c arg, 4)], k.moveType arg.toNat = p.2 →
        (k.suCheck m ≠ 0 → exec p.1 s = .next (marked { k with su := { k.su with
          fault := ⟨satAdd 16 k.su.fault.count 1, k.suCheck m, m.entry, low⟩ } } .stream)) ∧
        (k.suCheck m = 0 → p.2 ≠ 4 → (k.moveCheck m).1 ≠ 0 → exec p.1 s = .next (marked { k with su := { k.su with
          sepFault := ⟨satAdd 16 k.su.sepFault.count 1, (k.moveCheck m).1, (k.moveCheck m).2,
            k.seq.step.toNat % 2 ^ 16⟩ } } .stream)))

/-! ### Mesh, tokens and the cadence clock -/

/-- Tokens on their way (R40, R268, R270, R328, R481). A SIGNAL that the mesh delivers leaves a token due in its core. The oldest
EDGE token of a creamery queue, of a link or of a steward leaves it for its pail: an EDGE pail with room takes it, a full one
holds it in its crossing queue. A PLANE pail refuses it: the core reports a token of a link or a steward, and the line of its own unit
a creamery's. With the clock stopped none moves. -/
def Obligations.TokensArrive : Prop :=
  ∀ (s : State) (c : Fin 128), s.coreThere c →
    (∀ (x : Transit) (pail : Nat), s.plane.mesh = [x] → x.due ≤ s.plane.now → x.lost = false → x.load = .signal c pail →
      let q := (s.plane.core c).seq
      exec (.meshDelivery c) s = .next { s with
        plane := ({ s.plane with mesh := [] } : PlaneSt).setCore c { s.plane.core c with
          seq := { q with tokens := q.tokens ++ [(s.plane.now, pail)] } } }) ∧
    (∀ pail : Nat,
      let p := (s.plane.core c).pail pail
      let k := if p.edge then (s.plane.core c).setPail pail
          (if p.level < 16 then { p with level := p.level + 1 } else { p with queue := p.queue + 1 })
        else { s.plane.core c with ev := (s.plane.core c).ev ++ [.tokenRefused] }
      (∀ rest unit units, s.ext.ob.tokens = (c.val, pail) :: rest → s.ext.units = unit :: units →
        let t : State := { s with ext := { s.ext with units := units, ob := { s.ext.ob with tokens := rest } } }
        exec (.edgeTokenDelivery .creamery) s = .next (if p.edge then t.withCore c k
          else { t with plane := { s.plane with ob := s.plane.ob.line (256 + unit) } })) ∧
      (∀ rest, s.link.ob.tokens = (c.val, pail) :: rest → exec (.edgeTokenDelivery .link) s =
        .next (({ s with link := { s.link with ob := { s.link.ob with tokens := rest } } } : State).withCore c k)) ∧
      (∀ (qd : Fin 8) (rest), (s.icu.steward qd).tokens = (c.val, pail) :: rest →
        let t := ({ s with icu := s.icu.onSteward qd fun w => { w with tokens := w.tokens.tail } } : State).withCore c k
        exec (.stewardTokenDelivery qd) s = .next t ∧ exec (.edgeTokenDelivery (.steward qd)) s = .next t)) ∧
    ∀ t : State, t.clockOn = false → ∀ src qd, exec (.meshDelivery c) t = .next t ∧
      exec (.edgeTokenDelivery src) t = .next t ∧ exec (.stewardTokenDelivery qd) t = .next t

/-- Advancing cycles and slip cycles (R351, R361, R362, R365, R366, R390, R391). A start that is due takes place as a cycle
begins. When nothing holds it back, a plane cycle is performed: the
cadence count and the number of the cycle rise by one, and the plane count with them once a COLD start has happened; a slip run
ends and is noted. While a cause holds, a slip cycle is performed: the cadence count rises, the plane does not, SUP_SLIP_TOTAL and
the counter of the lowest cause grow by one, nothing moves in the mesh, and no store, engine, vector or stream state of any core
changes. Neither touches the host interface, the security block or the telemetry. At an exchange point the plane cycle is the same:
the point's occurrences rise by one, and the image armed for that occurrence comes into force as the next segment. -/
def Obligations.PlaneAdvance : Prop :=
  ∀ s : State, s.clockOn = true →
    (let u := s.beginCycle
     (s.img.launch = none ∨ s.img.image = none ∨ s.plane.half = true → u = s) ∧
     (u.cycleOpen = false → exec .planeCycle s = .next u) ∧
     (u.cycleOpen = true → ∃ t, exec .planeCycle s = .next t ∧
      t.plane.now = u.plane.now + 1 ∧ t.plane.cadence = u.plane.cadence + 1 ∧
      t.plane.count = (if u.plane.launched then u.plane.count + 1 else u.plane.count) ∧ t.plane.half = false ∧
      t.plane.slipTotal = u.plane.slipTotal ∧ t.plane.slipCause = u.plane.slipCause ∧ t.plane.slipRun = none ∧
      (∀ cause n, u.plane.slipRun = some (cause, n) → t.plane.lastCause = cause ∧ t.plane.lastLength = n ∧
        t.plane.lastPlane = u.plane.count.setWidth 32) ∧
      t.host = u.host ∧ t.sec = u.sec ∧ t.tel = u.tel ∧ t.sup = u.sup ∧
      (u.frontNow.plane.pointAt u.frontNow.chip = none → t.img = u.img ∧ t.plane.occ = u.plane.occ) ∧
      (∀ (x : Nat) (pt : Point), u.frontNow.plane.pointAt u.frontNow.chip = some (x, pt) →
        t.plane.occ = u.plane.occ.upd 0 x (· + 1) ∧
        (u.img.image = none → t.img = { u.img with sampled := none }) ∧
        (∀ img, u.img.image = some img → u.img.sampled = none → pt.herd = false → u.armedFor x (u.nextOcc x) = true →
          t.img.active = img.kind + 1 ∧ t.img.segment = u.img.segment + 1 ∧ t.img.shadow = 0 ∧ t.img.xchgPoint = x ∧
          t.img.xchgOcc = u.nextOcc x ∧ t.chip = img.chip)) ∧
      ((s.plane.pointAt s.chip).isSome = true → exec .exchangePoint s = .next t))) ∧
    ((s.plane.pointAt s.chip).isSome = false → exec .exchangePoint s = .next s) ∧
    (∀ (late : Bool) (n : Nat), s.plane.half = false → s.slipCause late = some n → ∃ t, exec (.slip late) s = .next t ∧
      t.plane.now = s.plane.now ∧ t.plane.cadence = s.plane.cadence + 1 ∧ t.plane.count = s.plane.count ∧
      t.plane.slipTotal = s.plane.slipTotal + 1 ∧ t.plane.slipCause.get 0 n = s.plane.slipCause.get 0 n + 1 ∧
      (∀ d, d ≠ n → t.plane.slipCause.get 0 d = s.plane.slipCause.get 0 d) ∧
      t.plane.mesh.map (fun x => { x with met := true }) = s.plane.mesh.map (fun x => { x with met := true }) ∧
      (∀ d, (t.plane.core d).st = (s.plane.core d).st ∧ (t.plane.core d).eng = (s.plane.core d).eng ∧
        (t.plane.core d).ve = (s.plane.core d).ve ∧ (t.plane.core d).su = (s.plane.core d).su ∧
        (t.plane.core d).cfg = (s.plane.core d).cfg ∧ (t.plane.core d).seq.step = (s.plane.core d).seq.step ∧
        (t.plane.core d).seq.tallies = (s.plane.core d).seq.tallies ∧
        (t.plane.core d).seq.pails = (s.plane.core d).seq.pails) ∧
      t.host = s.host ∧ t.sec = s.sec ∧ t.tel = s.tel ∧ t.sup = s.sup)

/-! ### External memory and the creamery -/

/-- A request's way through a channel (R283 to R288, R310, R318, R325). A read that has come to its channel enters the queue of the
channel its address lies in, while there is room; with no room nothing moves. Served, a read of good sectors answers with
the elements as they stand and changes no byte; a write stores its bytes at their places, every other byte of external
memory reading as before; on a fenced stack a read is answered without data and counted, and a write is dropped and counted. A
request that has to wait for an earlier one, or for the status sector of a command, stays. Only external memory changes. -/
def Obligations.ChannelRequests : Prop :=
  ∀ (s : State) (ch : Fin 256),
    (∀ (x : Transit) (core m rel idx a code c l : Nat), s.plane.mesh = [x] → x.due ≤ s.plane.now →
      x.lost = false → x.load = .extRead core m ch rel [(idx, a, code)] → s.chip.whereIs a = .memory c l →
      s.ext.isFenced c = false →
      (s.ext.room ch = true → s.mayAct = true → exec (.memoryRequestHandOver ch) s = .next { s with
        plane := { s.plane with mesh := [] }
        ext := s.ext.onChan c fun k => { k with queue := k.queue ++ [.read core m rel [(idx, l, code)]] } }) ∧
      (s.ext.room ch = false → exec (.memoryRequestHandOver ch) s = .next s)) ∧
    (∀ (i : Nat) (r : ReqKind) (found : List Upset), (s.ext.chan ch).queue[i]? = some r →
      let may := mayServe (s.ext.chan ch).running (s.ext.chan ch).queue i
      (may = false → exec (.channelRequestServed ch i found) s = .next s) ∧
      (∀ core m rel els, may = true → r = .read core m rel els → s.ext.isFenced ch = false →
        (∀ e ∈ els, s.ext.poisoned ch e.2.1 = false) → ∃ t, exec (.channelRequestServed ch i []) s = .next t ∧
          t = { s with ext := t.ext } ∧ t.ext.mem = s.ext.mem ∧ t.ext.bad = s.ext.bad ∧
          (t.ext.chan ch).queue = (s.ext.chan ch).queue.eraseIdx i ∧ (∀ d, d ≠ ch.val → t.ext.chan d = s.ext.chan d) ∧
          t.ext.resp = s.ext.resp ++ [⟨core, m, 144 + ch, rel,
            els.map fun e => (elName e.1 e.2.2, s.ext.element ch e.2.1 e.2.2)⟩]) ∧
      (∀ core m rel els, may = true → r = .read core m rel els → s.ext.isFenced ch = true →
        ∃ t, exec (.channelRequestServed ch i found) s = .next t ∧ t = { s with ext := t.ext } ∧
          t.ext.mem = s.ext.mem ∧ t.ext.fenceHits = s.ext.fenceHits.upd 0 (ch.val / 32) (· + 1) ∧
          t.ext.resp = s.ext.resp ++ [⟨core, m, 144 + ch, rel, els.map fun e => (elName e.1 e.2.2, none)⟩]) ∧
      (∀ bs, may = true → r = .write bs → s.ext.isFenced ch = true →
        ∃ t, exec (.channelRequestServed ch i found) s = .next t ∧ t = { s with ext := t.ext } ∧
          t.ext.mem = s.ext.mem ∧ t.ext.fenceHits = s.ext.fenceHits.upd 0 (ch.val / 32) (· + 1) ∧ t.ext.resp = s.ext.resp) ∧
      (∀ (l : Nat) (bs : Bytes), may = true → s.ext.mem.wf = true → r = .write (plainBytes l bs) → s.ext.isFenced ch = false →
        ∃ t, exec (.channelRequestServed ch i found) s = .next t ∧ t = { s with ext := t.ext } ∧
          t.ext.peek ch l bs.length = bs ∧ t.ext.resp = s.ext.resp ∧
          (∀ a, a < memKey ch l ∨ memKey ch l + bs.length ≤ a → t.ext.mem.get a = s.ext.mem.get a) ∧
          (t.ext.chan ch).queue = (s.ext.chan ch).queue.eraseIdx i ∧
          ∀ d, d ≠ ch.val → t.ext.chan d = s.ext.chan d))

/-- Errors and fences (R312, R318). A parity error within the eight retries is counted by its kind and reported, and
nothing else changes. The ninth, or a stack found failed, fences the stack: it is no longer OK, every channel of it is
DOWN with only creamery commands left in its queue, no byte changes, and the channels of other stacks are as before. -/
def Obligations.MemoryErrors : Prop :=
  ∀ s : State,
    (∀ (ch : Fin 256) (kind : Fin 3), (s.ext.chan ch).attempts < 8 →
      ∃ t, exec (.parityError ch kind) s = .next t ∧ t = { s with ext := t.ext } ∧
        t.ext.chan ch = { s.ext.chan ch with
          attempts := (s.ext.chan ch).attempts + 1
          retryCa := if kind.val = 0 then satAdd 16 (s.ext.chan ch).retryCa 1 else (s.ext.chan ch).retryCa
          retryWr := if kind.val = 1 then satAdd 16 (s.ext.chan ch).retryWr 1 else (s.ext.chan ch).retryWr
          retryRd := if kind.val = 2 then satAdd 16 (s.ext.chan ch).retryRd 1 else (s.ext.chan ch).retryRd } ∧
        (∀ d, d ≠ ch.val → t.ext.chan d = s.ext.chan d) ∧ t.ext.mem = s.ext.mem ∧ t.ext.fenced = s.ext.fenced ∧
        (512 + ch.val) ∈ t.ext.ob.rise) ∧
    (∀ st : Fin 8, bit s.ext.fenced st = false →
      let fencing := fun (i : Instr) => ∃ t, exec i s = .next t ∧ t = { s with ext := t.ext } ∧
        bit t.ext.fenced st = true ∧ bit t.ext.stackOk st = false ∧ t.ext.mem = s.ext.mem ∧
        (∀ h, h < 32 → (t.ext.chan (32 * st + h)).state = 0 ∧
          ∀ r ∈ (t.ext.chan (32 * st + h)).queue, r.isCmd = true) ∧
        ∀ d, d / 32 ≠ st.val → t.ext.chan d = s.ext.chan d
      fencing (.stackFence st) ∧
      ∀ (ch : Fin 256) (kind : Fin 3), ch.val / 32 = st.val → 8 ≤ (s.ext.chan ch).attempts → fencing (.parityError ch kind))

/-- Upkeep (R310, R311, R313 to R316, R513). A refresh window takes the level asked for and the rate that the temperature asks
for. A scrub slot of a channel that is up reads the sector at its position and moves on by one, a pass ending after
46,875,000: a sector with one symbol in error is counted and written back, a clean one leaves the slot to the oldest queued
write-back, an uncorrectable one is marked and counted; faults that cells have taken stand from then on. A temperature sample reaches all
channels of the stack and no other, with the level of R316; at 105 °C it fences the stack. Training makes every channel UP with its
failed lanes repaired, NEW_REPAIR where they are not those of the training before, or, where one has more failed lanes than spares,
leaves the stack DOWN. No byte of memory changes. -/
def Obligations.MemoryUpkeep : Prop :=
  ∀ s : State,
    (∀ ch : Fin 256,
      let k := s.ext.chan ch
      (∃ t, exec (.refreshWindow ch) s = .next t ∧ t = { s with ext := t.ext } ∧ t.ext.mem = s.ext.mem ∧
        t.ext.chan ch = { k with refresh2x := decide (85 ≤ k.temp), level := k.wanted } ∧
        ∀ d, d ≠ ch.val → t.ext.chan d = s.ext.chan d) ∧
      (∀ u, ¬ (k.state = 2 ∧ s.pwr.state ≤ 1) → exec (.patrolScrub ch ⟨[], u⟩) s = .next s) ∧
      (∀ faults u, exec (.patrolScrub ch ⟨faults, u⟩) s =
        exec (.patrolScrub ch ⟨[], u⟩) { s with ext := s.ext.upsets ch faults }) ∧
      (∀ sec, (s.ext.upsets ch [(sec, .uncorrectable)]).poisoned ch (32 * sec) = true) ∧
      (k.state = 2 → s.pwr.state ≤ 1 →
        let key := memKey ch (32 * k.position) / 32
        let slot := fun (u : Upset) (f : Chan → Chan) (x0 : ExtSt) => ∃ t, exec (.patrolScrub ch ⟨[], u⟩) s = .next t ∧
          t = { s with ext := t.ext } ∧ t.ext.mem = s.ext.mem ∧ t.ext.bad = x0.bad ∧ t.ext.soft = x0.soft ∧
          (∀ d, d ≠ ch.val → t.ext.chan d = s.ext.chan d) ∧
          t.ext.chan ch = f { k with attempts := 0, position := (k.position + 1) % 46875000,
                                     passes := if k.position + 1 = 46875000 then k.passes + 1 else k.passes }
        (s.ext.poisoned ch (32 * k.position) = false →
          (key ∉ s.ext.soft → k.wbPend = [] → slot .clean id s.ext) ∧
          (∀ sec rest, key ∉ s.ext.soft → k.wbPend = sec :: rest →
            slot .clean (fun q => { q with wbPend := rest.filter (· != sec) })
              { s.ext with soft := s.ext.soft.filter (· != memKey ch (32 * sec) / 32) }) ∧
          slot .correctable (fun q => { q with corrected := satAdd 16 k.corrected 1, lastUncorr := false, lastSector := k.position,
                                               wbPend := k.wbPend.filter (· != k.position) })
            { s.ext with soft := s.ext.soft.filter (· != key) }) ∧
        ∃ t, exec (.patrolScrub ch ⟨[], .uncorrectable⟩) s = .next t ∧ t = { s with ext := t.ext } ∧
          t.ext.mem = s.ext.mem ∧ t.ext.poisoned ch (32 * k.position) = true ∧ (512 + ch.val) ∈ t.ext.ob.rise ∧
          (t.ext.chan ch).uncorr = satAdd 16 k.uncorr 1 ∧ (t.ext.chan ch).lastUncorr = true ∧
          (t.ext.chan ch).lastSector = k.position ∧ (t.ext.chan ch).position = (k.position + 1) % 46875000)) ∧
    (∀ (st : Fin 8) (temp : Fin 256),
      let k0 := s.ext.chan (32 * st)
      (temp.val < 105 → ∃ t, exec (.stackTempSample st temp) s = .next t ∧ t = { s with ext := t.ext } ∧
        t.ext.mem = s.ext.mem ∧
        (∀ h, h < 32 → t.ext.chan (32 * st + h) = { s.ext.chan (32 * st + h) with
          temp := temp, wanted := throttle k0.wanted temp k0.t1 k0.t2 }) ∧
        ∀ d, d / 32 ≠ st.val → t.ext.chan d = s.ext.chan d) ∧
      (105 ≤ temp.val → bit s.ext.fenced st = false → ∃ t, exec (.stackTempSample st temp) s = .next t ∧
        bit t.ext.fenced st = true ∧ t.ext.mem = s.ext.mem ∧ t.pwr = s.pwr.event 6 st)) ∧
    (∀ (st : Fin 8) (spares : Nat) (failed : List (List (Fin 1024))),
      let lanes := failedLanes (failed.map fun (l : List (Fin 1024)) => l.map fun (x : Fin 1024) => x.val)
      ((s.ext.chan (32 * st)).state ≠ 1 → exec (.stackTraining st spares failed) s = .next s) ∧
      ((s.ext.chan (32 * st)).state = 1 →
        let trained := fun (good : Bool) => ∃ t, exec (.stackTraining st spares failed) s = .next t ∧ t.plane = s.plane ∧
          (¬ (s.sup.step = 7 ∧ bit s.sup.stacksLeft st = true) → t = { s with ext := t.ext }) ∧
          (s.sup.step = 7 → bit s.sup.stacksLeft st = true → t.sup.stacksLeft = s.sup.stacksLeft - 2 ^ st.val) ∧
          bit t.ext.stackOk st = good ∧ (good = true → bit t.ext.fenced st = false) ∧ t.ext.mem = s.ext.mem ∧
          (∀ h, h < 32 →
            let fixed := (lanes h).take spares
            (t.ext.chan (32 * st + h)).state = (if good then 2 else 0) ∧ (t.ext.chan (32 * st + h)).lanes = fixed.length % 256 ∧
            (t.ext.chan (32 * st + h)).newRepair = (Tab.get [] s.ext.repairs (32 * st + h) != fixed) ∧
            Tab.get [] t.ext.repairs (32 * st + h) = fixed) ∧
          ∀ d, d / 32 ≠ st.val → t.ext.chan d = s.ext.chan d
        ((∀ h, h < 32 → (lanes h).length ≤ spares) → trained true) ∧
        (∀ h, h < 32 → spares < (lanes h).length → trained false)))

/-- Fold writes and creamery commands (R319, R322, R324 to R328). A fold request whose format does not suit its arena is dropped
and counted; one element of a good sector is folded into the bytes at its place, every other byte as before, and a trailer is combined
with the one that stands there. A command
that stands first at a unit where fewer than four run, none with a sector to write that it touches, leaves the queue: refused by the checks, it changes no
memory and is counted with its code; otherwise memory is what its operation makes of it, its status names the rows skipped and the poisoned
sectors, and a FENCE clears the fold tally. It completes
later: its status sector is written, its token sent, and CMDS counts it. A partial write of a command port is refused with PARTIAL. -/
def Obligations.Creamery : Prop :=
  ∀ (s : State) (u : Fin 256),
    let k := s.ext.chan u
    (∀ op ffmt fmt bs rest, k.queue = .fold op ffmt fmt bs :: rest → s.ext.isFenced u = false → mayServe k.running k.queue 0 = true →
      (foldSuits op ffmt fmt bs = false → ∀ found, ∃ t, exec (.foldWrite u found) s = .next t ∧
        t = { s with ext := t.ext } ∧ t.ext.mem = s.ext.mem ∧ (256 + u.val) ∈ t.ext.ob.rise ∧
        t.ext.chan u = { k with queue := rest, attempts := 0, droppedFmt := satAdd 16 k.droppedFmt 1,
                                fenceTally := k.fenceTally + 1 }) ∧
      (∀ (l : Nat) (src : Bytes), s.ext.mem.wf = true → foldSuits op ffmt fmt bs = true → bs = plainBytes l src → 0 < src.length →
        (∀ i, i < src.length → s.ext.poisoned u (l + i) = false) →
        (op < 5 → src.length = foldBytes (foldOfOp op) fmt) → (op = 5 → src.length = 32 ∧ l % 32 = 0) → op ≤ 5 →
        ∃ t, exec (.foldWrite u []) s = .next t ∧ t = { s with ext := t.ext } ∧
          (op < 5 → t.ext.peek u l src.length = leBytes src.length
            (foldElem (foldOfOp op) fmt ffmt (leNat (s.ext.peek u l src.length)) (leNat src)).1) ∧
          (op = 5 →
            let x := leAt src 0 8
            let y := leNat (s.ext.peek u l 8)
            t.ext.peek u l 32 = leBytes 32 (if trlMatch x y then trlCombine x y false else trlFmt y)) ∧
          (∀ a, a < memKey u l ∨ memKey u l + src.length ≤ a → t.ext.mem.get a = s.ext.mem.get a) ∧
          (t.ext.chan u).queue = rest ∧ (t.ext.chan u).folds = k.folds + 1 ∧ (t.ext.chan u).poisoned = k.poisoned)) ∧
    (∀ (r : Bytes) (rest : List ReqKind), k.queue = .command r :: rest → s.ext.frontCmd s.chip u = some r →
      let c := Cmd.of r
      let x0 := s.ext.unqueue u 0
      let ar := ((s.chip.arenaOf c.src).map (·.2)).getD Arena.absent
      let j := (ar.setIndex u).getD 0
      let tok := if c.token then some (c.core, c.pail) else none
      let st := fun (bs : Bytes) => (c.statusAt s.chip u).map fun l => (l, bs)
      let code := c.check s.chip (s.ext.isFenced u) u
      let refused := fun (i : Instr) => ∃ t, exec i s = .next t ∧ t = { s with ext := t.ext } ∧
          t.ext.mem = s.ext.mem ∧ (256 + u.val) ∈ t.ext.ob.rise ∧
          t.ext.fenceHits = (if s.ext.isFenced u then s.ext.fenceHits.upd 0 (u.val / 32) (· + 1) else s.ext.fenceHits) ∧
          t.ext.chan u = { k with
            queue := rest, attempts := 0, faults := satAdd 16 k.faults 1, faultCode := code
            faultOp := c.op, faultLabel := c.label
            running := k.running ++ [⟨st (statusBytes code 0 0 c.label), tok⟩] }
      (c.op = 0 ∨ 4 < c.op → refused (.fence u)) ∧
      ∀ p ∈ [(Instr.gatherFold u, 1), (.reduce u, 2), (.scaleStore u, 3), (.fence u, 4)], c.op = p.2 →
        (code ≠ 0 → refused p.1) ∧
        (code = 0 → ∃ t d, exec p.1 s = .next t ∧ t = { s with ext := t.ext } ∧
          (t.ext.chan u).queue = rest ∧ (t.ext.chan u).running = k.running ++ [d] ∧ d.token = tok ∧
          (t.ext.chan u).faults = k.faults ∧ (t.ext.chan u).cmds = k.cmds ∧ t.ext.resp = s.ext.resp ∧
          (let done := fun (q : ExtSt × Nat × List (Nat × Nat)) => t.ext.mem = q.1.mem ∧
             d.status = st (statusBytes 0 (min q.2.1 65535) q.2.2.eraseDups.length c.label)
           (c.op = 1 → done (c.gather x0 s.chip ar j)) ∧ (c.op = 2 → done (c.reduce x0 s.chip ar j)) ∧
           (c.op = 3 → done (c.scaleStore x0 s.chip ar j))) ∧
          (c.op = 4 → t.ext.mem = s.ext.mem ∧ (t.ext.chan u).fenceTally = 0 ∧
            d.status = st (statusBytes 0 0 k.fenceTally c.label)))) ∧
    (k.queue = [.badPort] → ∃ t, exec (.fence u) s = .next t ∧ t = { s with ext := t.ext } ∧ t.ext.mem = s.ext.mem ∧
      (256 + u.val) ∈ t.ext.ob.rise ∧
      t.ext.chan u = { k with queue := [], attempts := 0, faults := satAdd 16 k.faults 1, faultCode := 7, faultOp := 0,
                              faultLabel := 0, cmds := k.cmds + 1 }) ∧
    (k.running = [] → exec (.creameryComplete u) s = .next s) ∧
    (∀ (d : CmdDone) (rest : List CmdDone), k.running = d :: rest → s.ext.isFenced u = false →
      ∃ t, exec (.creameryComplete u) s = .next t ∧ t = { s with ext := t.ext } ∧
        (t.ext.chan u).running = rest ∧ (t.ext.chan u).cmds = k.cmds + 1 ∧ (t.ext.chan u).queue = k.queue ∧
        (∀ l bs, s.ext.mem.wf = true → d.status = some (l, bs) → t.ext.peek u l bs.length = bs ∧
          ∀ a, a < memKey u l ∨ memKey u l + bs.length ≤ a → t.ext.mem.get a = s.ext.mem.get a) ∧
        (d.status = none → t.ext.mem = s.ext.mem) ∧
        t.ext.ob.tokens = s.ext.ob.tokens ++ d.token.toList ∧ t.ext.units = s.ext.units ++ d.token.toList.map fun _ => u.val)

/-! ### Registers -/

/-- Register accesses (R13 to R15, R482, R525, R546). In P4 reads return zero and writes change nothing. An access of the
host that is not a whole aligned register, or one aligned half, is counted in BAD and reads zero. A read leaves the register
in `bus`; of PWR_INPUT it clears the peak when it reaches its half, and nothing else; COUNT of COR_SEQ_FAULT clears with
its half alone. A write of PWR_GOV_CFG sets the cap when it names 1,000 to 2,800 W, and LOCK, and once locked nothing; the
security block takes no write of host or control core; without a Full session the debug port changes nothing there. SEC_NONCE shows the held nonce,
zero without one, and SEC_NONCE_SEQ its number; neither takes a write, and a reset leaves no nonce and the number (R552). -/
def Obligations.RegisterAccess : Prop :=
  ∀ s : State,
    (s.on = false → ∀ who off size val, exec (.registerWrite who off size val) s = .next s ∧
      exec (.readClear who off size) s = .next { s with bus := 0 }) ∧
    (s.on = true →
      (∀ off size : Nat, ¬ (size = 8 ∧ off % 8 = 0) → ¬ (size = 4 ∧ off % 4 = 0) →
        let bad := fun (h : HostSt) => h.onErr 0 fun e => { e with bad := satAdd 16 e.bad 1 }
        exec (.readClear (.host 0) off size) s = .next { s with bus := 0, host := bad s.host } ∧
        ∀ val, exec (.registerWrite (.host 0) off size val) s = .next { s with host := bad s.host }) ∧
      exec (.readClear (.host 0) 0x300008 8) s =
        .next { s with bus := s.reg 0x300008 % 2 ^ 64, pwr := { s.pwr with peakW := 0 } } ∧
      exec (.readClear (.host 0) 0x30000C 4) s = .next { s with bus := s.reg 0x300008 / 2 ^ 32 % 2 ^ 32 } ∧
      (∀ c : Fin 128, s.snap.coreThere c = true →
        let a := 0x2800000 + 0x20000 * c.val + 0x20
        let q := (s.plane.core c).seq
        exec (.readClear (.host 0) (a + 4) 4) s = .next { s with
          bus := s.reg a / 2 ^ 32 % 2 ^ 32
          plane := s.plane.setCore c { s.plane.core c with seq := { q with fault := { q.fault with count := 0 } } } } ∧
        ∃ t, exec (.readClear (.host 0) a 4) s = .next t ∧ t.bus = s.reg a % 2 ^ 32 ∧ ∀ d, t.plane.core d = s.plane.core d) ∧
      (∀ val : BitVec 64,
        let cap := bits val.toNat 11 0
        (s.pwr.lock = false → exec (.registerWrite (.host 0) 0x300010 8 val) s = .next { s with pwr := { s.pwr with
          lock := bit val.toNat 63, cap := if 1000 ≤ cap ∧ cap ≤ 2800 then cap else s.pwr.cap } }) ∧
        (s.pwr.lock = true → exec (.registerWrite (.host 0) 0x300010 8 val) s = .next s)) ∧
      (∀ (off : Nat) (val : BitVec 64) (k : Fin 20), 0x310000 ≤ off → off < 0x330000 → off % 8 = 0 →
        exec (.registerWrite (.host 0) off 8 val) s = .next s ∧ exec (.registerWrite (.ctl k) off 8 val) s = .next s) ∧
      (∀ (off : Nat) (val : BitVec 64), off < 0x320000 → off % 8 = 0 → s.fullDebug = false →
        exec (.registerWrite .debug off 8 val) s = .next s) ∧
      (∀ i : Fin 4, exec (.readClear (.host 0) (0x310040 + 8 * i.val) 8) s =
        .next { s with bus := match s.sec.nonce with | some b => leAt b (8 * i.val) 8 | none => 0 }) ∧
      exec (.readClear (.host 0) 0x310060 8) s = .next { s with bus := s.sec.nonceSeq.toNat } ∧
      (∀ (off : Nat) (val : BitVec 64), 0x310040 ≤ off → off < 0x310068 → off % 8 = 0 →
        exec (.registerWrite .debug off 8 val) s = .next s)) ∧
    s.sec.afterReset.nonce = none ∧ s.sec.afterReset.nonceSeq = s.sec.nonceSeq

/-! ### Host commands -/

/-- The flow of host commands (R355, R455 to R458, R461, R464). An entry with reserved bits set ends with status 2 at once; one that passes its
checks, alone in a device without other commands, has started. HEAD of the ring moves on by one. A started command that reads host
memory ends with HOST_ABORT at its completion timeout. An image command that meets another which executes is refused with BUSY, which
IMG_LOAD_STAT shows of a load, a start, an arm or a disarm. A started command that is alone leaves the commands, and its record, with its
number, STATUS, DETAIL and results, waits for its completion ring; a QUIET one with OK writes none. A record is written at
TAIL of an enabled ring with room, which moves on by one and turns PHASE round at the end of the ring. A record for a full ring waits, and the
rings that name it are not fetched from; one for a disabled ring is dropped and counted. -/
def Obligations.CommandFlow : Prop :=
  ∀ s : State,
    (∀ (entry : Bytes) (g : Nat), s.on = true → s.host.nextSq = some g → s.host.cmds = [] →
      s.host.busyNote = false →
      let r := s.host.ring g
      let w0 := leAt entry 0 8
      let c : HostCmd := ⟨s.host.nextId, s.host.owner g, g, bits w0 31 16, bit w0 9, bit w0 8, bits w0 7 0,
        (List.range 7).map (fun i => leAt entry (8 + 8 * i) 8), true, false, false⟩
      (bits w0 63 32 = 0 → bits w0 15 10 = 0 →
        let h1 := { s.host.onRing g fun r => { r with head := (r.head + 1) % ringSize r.sqLog } with
          nextId := s.host.nextId + 1, rr := s.host.rr.set r.cls g, cmds := [c] }
        h1.judge s.hostEnv c = 0 → exec (.sqFetch entry) s = .next { s with host := h1 }) ∧
      (bits w0 63 32 ≠ 0 ∨ bits w0 15 10 ≠ 0 → ∃ t, exec (.sqFetch entry) s = .next t ∧ t = { s with host := t.host } ∧
        t.host.cmds = [] ∧ (t.host.ring g).head = (r.head + 1) % ringSize r.sqLog ∧
        ∀ k, s.host.global (s.host.owner g) r.cq = some k →
          t.host.records = s.host.records ++ [⟨k, c.cid, s.host.relative g, some g, 2, 0, 0, 0⟩])) ∧
    (∀ (entry : Bytes) (g : Nat) (d : HostCmd), s.on = true → s.host.nextSq = some g → s.host.cmds = [d] → d.started = true →
      s.host.busyNote = false → imageOp d.op = true → d.id ≠ s.host.nextId →
      let w0 := leAt entry 0 8
      let c : HostCmd := ⟨s.host.nextId, s.host.owner g, g, bits w0 31 16, false, false, bits w0 7 0,
        (List.range 7).map (fun i => leAt entry (8 + 8 * i) 8), true, false, false⟩
      bits w0 63 32 = 0 → bits w0 15 8 = 0 → imageOp c.op = true → s.host.judge s.hostEnv c = 0 →
      ∃ t, exec (.sqFetch entry) s = .next t ∧ t.host.cmds = [d] ∧
        (∀ k, s.host.global (s.host.owner g) (s.host.ring g).cq = some k → t.host.records = s.host.records ++
          [⟨k, c.cid, s.host.relative g, some g, 1, 0x16,
            if c.op = 0x10 ∨ c.op = 0x11 then fld 0x16 8 56 + fld 0xFFF 12 44 else 0, 0⟩]) ∧
        t.img = (if loadStatOp c.op then { s.img with code := 0x16, section_ := 0xFFF, detail := 0 } else s.img)) ∧
    (∀ (id : Nat) (c : HostCmd), s.host.cmds = [c] → c.id = id → c.started = true → c.waits = false →
      (c.op = 1 ∨ c.op = 4 ∨ c.op = 0x10 ∨ c.op = 0x17) → exec (.completionTimeout id) s = .next (s.answer id 5 0 0 0)) ∧
    (∀ c : HostCmd, s.host.cmds = [c] → s.host.busyNote = false →
      (∀ (status detail r0 r1 q : Nat), c.silent = false → (c.quiet = false ∨ status ≠ 0) →
        s.host.global (s.host.owner c.sq) (s.host.ring c.sq).cq = some q →
        s.answer c.id status detail r0 r1 = { s with host := { s.host with
          cmds := []
          records := s.host.records ++ [⟨q, c.cid, s.host.relative c.sq, some c.sq, status, detail, r0, r1⟩] } }) ∧
      (∀ (detail r0 r1 : Nat), c.quiet = true → s.answer c.id 0 detail r0 r1 = { s with host := { s.host with cmds := [] } }) ∧
      (∀ x : Record, s.on = true → s.host.records = [x] → (s.host.ring x.cq).cqEn = true → (s.host.ring x.cq).cqFull = false →
        (s.host.ring x.cq).irqEn = false →
        let r := s.host.ring x.cq
        let t' := (r.cqTail + 1) % ringSize r.cqLog
        ∃ t, exec .completionRecordWrite s = .next t ∧ t = { s with host := t.host } ∧ t.host.records = [] ∧
          t.host.cmds = [c] ∧
          t.host.out = s.host.out ++ [.write (s.host.owner x.cq) (r.cqBase.toNat * 64 + 32 * r.cqTail)
            (s.host.recordBytes x r.phase)] ∧
          t.host.ring x.cq = { r with
            cqTail := t', phase := if t' = 0 then !r.phase else r.phase, unsignalled := r.unsignalled + 1 } ∧
          ∀ g, g ≠ x.cq → t.host.ring g = s.host.ring g)) ∧
    (∀ x : Record, s.on = true → s.host.records = [x] →
      let r := s.host.ring x.cq
      (r.cqEn = true → (r.cqTail + 1) % ringSize r.cqLog = r.cqHead → exec .completionRecordWrite s = .next s) ∧
      (r.cqEn = false → exec .completionRecordWrite s = .next { s with
        host := { s.host with records := [] }.onErr (s.host.owner x.cq) fun e => { e with cqDrop := satAdd 16 e.cqDrop 1 } })) ∧
    (∀ g k, s.host.nextSq = some g → s.host.global (s.host.owner g) (s.host.ring g).cq = some k →
      ∀ x ∈ s.host.records, x.cq = k →
        ¬ ((s.host.ring k).cqEn = true ∧ ((s.host.ring k).cqTail + 1) % ringSize (s.host.ring k).cqLog = (s.host.ring k).cqHead))

/-- Device memory reached by the host (R283, R305, R447, R448, R461). A write of bytes that lie in one channel of a MEMORY arena, whose
queue is empty and whose stack is not fenced, stores them and leaves every other byte; a read of good sectors there returns
them and changes none. Both count no byte out of range. BAR2 reads and writes device memory from the address
that the function's window or partition gives, and counts an access outside it, or outside every arena, which reads zero; an access past the end of the BAR is none to it: it
changes nothing and returns no data. -/
def Obligations.DeviceMemory : Prop :=
  ∀ s : State,
    (∀ (a n ch l : Nat), 0 < n → a % 32 = 0 → ch < 256 → (∀ i, i < n → s.chip.whereIs (a + i) = .memory ch (l + i)) →
      s.ext.isFenced ch = false → (s.ext.chan ch).queue = [] → (s.ext.chan ch).running = [] →
      (∀ bs : Bytes, bs.length = n → s.ext.mem.wf = true →
        (s.deviceWrite a bs).2 = 0 ∧ (s.deviceWrite a bs).1.ext.peek ch l n = bs ∧
        (∀ x, x < memKey ch l ∨ memKey ch l + n ≤ x → (s.deviceWrite a bs).1.ext.mem.get x = s.ext.mem.get x) ∧
        (s.deviceWrite a bs).1 = { s with ext := (s.deviceWrite a bs).1.ext }) ∧
      ((∀ i, i < n → s.ext.poisoned ch (l + i) = false) →
        (s.deviceRead a n).2 = (s.ext.peek ch l n, 0) ∧ (s.deviceRead a n).1.ext.mem = s.ext.mem ∧
        (s.deviceRead a n).1 = { s with ext := (s.deviceRead a n).1.ext, free := s.free + n })) ∧
    (∀ (fn : Fin 16) (off n : Nat), s.on = true → 2 ^ (if fn.val = 0 then s.host.bar2Log else s.host.vfBar2Log) < off + n →
      exec (.bar2Read fn off n) s = .next { s with data := [] } ∧
      ∀ data : Bytes, data.length = n → exec (.bar2Write fn off data) s = .next s) ∧
    (∀ (fn : Fin 16) (off n : Nat), s.on = true → off + n ≤ 2 ^ (if fn.val = 0 then s.host.bar2Log else s.host.vfBar2Log) →
      (∀ a, s.host.bar2Range fn off n = some a →
        let r := s.deviceRead a n
        (r.2.2 = 0 → exec (.bar2Read fn off n) s = .next { r.1 with data := r.2.1 }) ∧
        (r.2.2 ≠ 0 → exec (.bar2Read fn off n) s = .next { r.1 with data := r.2.1, host := r.1.host.oor fn 1 }) ∧
        ∀ data : Bytes, data.length = n →
          let w := s.deviceWrite a data
          (w.2 = 0 → exec (.bar2Write fn off data) s = .next w.1) ∧
          (w.2 ≠ 0 → exec (.bar2Write fn off data) s = .next { w.1 with host := w.1.host.oor fn 1 })) ∧
      (0 < n → (∀ i, i < n → s.host.bar2 fn (off + i) = none) →
        exec (.bar2Read fn off n) s = .next { s with data := List.replicate n 0, host := s.host.oor fn 1 } ∧
        ∀ data : Bytes, data.length = n → exec (.bar2Write fn off data) s = .next { s with host := s.host.oor fn 1 }))

/-- Commands that move data and tokens (R219, R270, R353, R375, R376, R459 to R461, R520). NOP ends with OK. COPY_IN writes what host
memory returned and, unless that ended early, sends its token last; COPY_OUT puts the device bytes on the host bus; SIGNAL adds
its tokens to an EDGE pail and is refused for a PLANE pail; both end once the pail's crossing queue holds no token (log entry 20); DESC_CREATE leaves its descriptor waiting for the core's next
seam, or ends with the reason; DRAW writes its elements; SNAPSHOT asks for a capture and waits for its end. -/
def Obligations.DataCommands : Prop :=
  ∀ (s : State) (id : Nat) (c : HostCmd),
    (s.host.ready 0x00 id = some c → exec (.nop id) s = .next (s.answer id 0 0 0 0)) ∧
    (s.host.ready 0x01 id = some c → ∀ data : Bytes,
      let w := s.deviceWrite (c.word 2) (data.take (c.word 3))
      let s1 := { w.1 with host := w.1.host.oor c.fn w.2 }
      (data.length < c.word 3 → exec (.copyIn id data) s = .next (s1.answer id 5 0 0 0)) ∧
      (c.word 3 ≤ data.length → c.token = none → exec (.copyIn id data) s = .next (s1.answer c.id 0 0 (c.word 3) 0)) ∧
      (∀ core pail, c.word 3 ≤ data.length → c.token = some (core, pail) →
        let s2 := { s1 with plane := s1.plane.edgeToken core pail }
        s2.plane.planePail core pail = false →
          (((s2.plane.core core).pail pail).queue = 0 → exec (.copyIn id data) s = .next (s2.answer c.id 0 0 (c.word 3) 0)) ∧
          (((s2.plane.core core).pail pail).queue ≠ 0 → exec (.copyIn id data) s = .next (s2.hold c.id)))) ∧
    (s.host.ready 0x02 id = some c →
      let r := s.deviceRead (c.word 2) (c.word 3)
      let h := r.1.host.oor c.fn r.2.2
      exec (.copyOut id) s = .next (({ r.1 with host := { h with out := h.out ++ [.write c.fn (c.word 1) r.2.1] } } : State).answer
        id 0 0 (c.word 3) 0)) ∧
    (s.host.ready 0x03 id = some c →
      let core := bits (c.word 1) 18 11
      let pail := bits (c.word 1) 10 0
      let n := bits (c.word 1) 63 48
      let p := s.plane.edgeTokens core pail n
      (core ∈ s.plane.live → s.plane.planePail core pail = false →
        exec (.hostSignal id) s = .next (if ((p.core core).pail pail).queue = 0 then ({ s with plane := p } : State).answer c.id 0 0 n 0
          else ({ s with plane := p } : State).hold c.id) ∧
        ((p.core core).pail pail).level + ((p.core core).pail pail).queue =
          ((s.plane.core core).pail pail).level + ((s.plane.core core).pail pail).queue + n ∧
        ∀ d, d ≠ core → p.core d = s.plane.core d) ∧
      (s.plane.planePail core pail = true →
        exec (.hostSignal id) s = .next (({ s with plane := p } : State).refuse c.id 0x80) ∧ ((p.core core).pail pail) = ((s.plane.core core).pail pail))) ∧
    (s.host.ready 0x03 id = none → s.host.held 0x03 id = some c →
      let core := bits (c.word 1) 18 11
      let pail := bits (c.word 1) 10 0
      s.plane.planePail core pail = false →
        (((s.plane.core core).pail pail).queue = 0 →
          exec (.hostSignal id) s = .next (s.answer c.id 0 0 (bits (c.word 1) 63 48) 0)) ∧
        (((s.plane.core core).pail pail).queue ≠ 0 → exec (.hostSignal id) s = .next (s.hold c.id))) ∧
    (s.host.ready 0x04 id = some c → ∀ words : Bytes, words.length = 128 →
      let core := bits (c.word 2) 7 0
      let slot := bits (c.word 2) 14 8
      let d := BitVec.ofNat 1024 (leNat words)
      let u := (s.plane.core core).su
      core ∈ s.plane.live →
      (validate s.plane.enabled s.chip.arenaRange d = 0 → exec (.descCreate id words) s =
        .next (({ s with plane := s.plane.setCore core { s.plane.core core with
          su := { u with createReason := 0, createSlot := slot, pendDesc := u.pendDesc.set slot d } } } : State).answer id 0 0 0 0)) ∧
      (∀ code, validate s.plane.enabled s.chip.arenaRange d = code → code ≠ 0 → exec (.descCreate id words) s =
        .next (({ s with plane := s.plane.setCore core { s.plane.core core with
          su := { u with createReason := code, createSlot := slot } } } : State).answer id 1 code code 0))) ∧
    (s.host.ready 0x05 id = some c →
      let n := bits (c.word 4) 63 32
      let form := bits (c.word 4) 1 0
      let seed := BitVec.ofNat 64 (nth s.chip.seeds (bits (c.word 4) 7 4) 0)
      ∃ bs : Bytes, exec (.draw id) s = .next ((s.deviceWrite (c.word 1) bs).1.answer id 0 0 n 0) ∧
        bs.length = n * drawSize form ∧ ∀ j, j < n → (bs.drop (j * drawSize form)).take (drawSize form) =
          drawElement form (whey seed (BitVec.ofNat 64 (c.word 2)) (BitVec.ofNat 64 (c.word 3 + j)))) ∧
    (s.host.ready 0x06 id = some c → s.tel.busy = false → exec (.snapshot id) s = .next { s with
      tel := { s.tel with busy := true, shot := some s.snap, shotFrozen := decide (2 ≤ s.pwr.state) }
      host := s.host.wait id })

/-- Image loads (R345, R346, R355). A load that meets a shadow buffer not EMPTY, or names an empty library slot, is refused with
its code and leaves the buffer as it is; one whose read of host memory ended early ends with HOST_ABORT. An image refused by the first checks leaves the buffer EMPTY with its code. A COLD
image that passes them is LOADING until the plane is quiescent; its second pass, or that of a NEXT image, leaves it READY
when every section passes, and the buffer EMPTY with the code, section and detail of the first broken check otherwise; the command
ends with them. -/
def Obligations.ImageLoads : Prop :=
  ∀ (s : State) (id : Nat) (c : HostCmd) (img : Bytes),
    let stat := fun (code : Nat) => fld code 8 56 + fld 0xFFF 12 44
    let busyAnswer := ({ s with img := { s.img with code := 0x16, section_ := 0xFFF, detail := 0 } } : State).answer id 1 0x16
      (stat 0x16) 0
    let ended := fun (id : Nat) (r : Nat × Nat × Nat) (bytes : Bytes) (u : State) (t : State) =>
      t = u.answer id (if r.1 = 0 then 0 else 1) r.1 (fld r.1 8 56 + fld r.2.1 12 44 + r.2.2 % 2 ^ 32) 0 ∧
      u.img = { u.img with shadow := if r.1 = 0 then 2 else 0
                           image := if r.1 = 0 then some (Image.of bytes s.sup.enabled) else none
                           second := false, loading := [], code := r.1, section_ := r.2.1, detail := r.2.2 }
    (s.host.ready 0x10 id = some c → s.img.shadow ≠ 0 → exec (.imgLoadHost id img) s = .next busyAnswer) ∧
    (s.host.ready 0x10 id = some c → s.img.shadow = 0 → img.length < c.word 2 →
      exec (.imgLoadHost id img) s = .next (s.answer id 5 0 0 0)) ∧
    (s.host.ready 0x11 id = some c → s.img.shadow ≠ 0 → exec (.imgLoadLib id) s = .next busyAnswer) ∧
    (s.host.ready 0x11 id = some c → s.img.shadow = 0 → s.img.library.find? (·.1 == c.word 1) = none →
      exec (.imgLoadLib id) s = .next (({ s with img := { s.img with code := 0x17, section_ := 0xFFF, detail := 0 } } : State).answer
        id 1 0x17 (stat 0x17) 0)) ∧
    (∀ i : Instr, s.img.shadow = 0 → s.sup.computeWanted = false →
      ((s.host.ready 0x10 id = some c ∧ i = .imgLoadHost id img ∧ img.length = c.word 2) ∨
        (s.host.ready 0x11 id = some c ∧ i = .imgLoadLib id ∧ s.img.library.find? (·.1 == c.word 1) = some (c.word 1, img))) →
      (∀ code, loadFirst img = code → code ≠ 0 → exec i s = .next (({ s with img := { s.img with
          shadow := 0, image := none, second := false, loading := [], code := code, section_ := 0xFFF, detail := 0 } } : State).answer
        id 1 code (stat code) 0)) ∧
      (loadFirst img = 0 → loadSecond s.loadEnv img = 0 → leAt img 14 1 ≠ 1 →
        exec i s = .next { s with
          img := { s.img with shadow := 1, second := true, loading := img, loadCmd := id }, host := s.host.wait id }) ∧
      (loadFirst img = 0 → loadSecond s.loadEnv img = 0 → leAt img 14 1 = 1 →
        let r := loadThird s.loadEnv img
        ∃ t u, exec i s = .next t ∧ ended id r img u t ∧ u.chip = s.chip ∧ (r.1 = 0 → u.plane = s.plane))) ∧
    (s.img.second = true → s.plane.quiescent = true → s.sup.computeWanted = false →
      let r := loadThird s.loadEnv s.img.loading
      ∃ t u, exec .loadSecondPass s = .next t ∧ ended s.img.loadCmd r s.img.loading u t) ∧
    (s.img.second = false ∨ s.plane.quiescent = false → exec .loadSecondPass s = .next s)

/-- Starts (R350, R363, R389, R390, R459). IMG_START of a READY COLD image waits for its launch: at once, at a herd count that
lies ahead, or at the release of the herd's barrier 0, at which the chip arrives when every index of the HERD section is a member. When the launch comes, the image is active, the shadow buffer EMPTY, the plane count and the slip counters 0, the
number of runs one more, the exchanges 0, and the command ends with the herd count. A count that comes before the herd is complete ends it LATE. Without a READY COLD image it is refused. -/
def Obligations.Starts : Prop :=
  ∀ (s : State) (id : Nat) (c : HostCmd) (img : Image),
    let refused := fun (id code : Nat) =>
      ({ s with img := { s.img with code := code, section_ := 0xFFF, detail := 0 } } : State).answer id 1 code 0 0
    (s.host.ready 0x12 id = some c → s.img.image = none → exec (.imgStart id) s = .next (refused id 0x16)) ∧
    (s.host.ready 0x12 id = some c → s.img.image = some img →
      (s.img.shadow ≠ 2 → exec (.imgStart id) s = .next (refused id 0x16)) ∧
      (s.img.shadow = 2 → img.kind = 1 → exec (.imgStart id) s = .next (refused id 0x0A)) ∧
      (s.img.shadow = 2 → img.kind ≠ 1 →
        (c.word 1 = 0 → exec (.imgStart id) s = .next { s with
          img := { s.img with launch := some ⟨false, 0, id⟩ }, host := s.host.wait id }) ∧
        (c.word 1 = 1 → BitVec.ofNat 64 (c.word 2) ≤ s.herd.count → exec (.imgStart id) s = .next (refused id 0x18)) ∧
        (c.word 1 = 1 → s.herd.count < BitVec.ofNat 64 (c.word 2) → exec (.imgStart id) s = .next { s with
          img := { s.img with launch := some ⟨false, BitVec.ofNat 64 (c.word 2), id⟩ }, host := s.host.wait id }) ∧
        (c.word 1 = 2 → exec (.imgStart id) s = .next { s with
          img := { s.img with launch := some ⟨true, 0, id⟩ }, host := s.host.wait id
          herd := if s.herdComplete img.chip.herdN ∧ s.herd.bar.isNone then s.herd.arriveFirst else s.herd }))) ∧
    (∀ l : Launch, s.img.launch = some l → s.img.image = some img → s.clockOn = true →
      let launched := fun (i : Instr) => ∃ u : State, exec i s = .next (u.answer l.cmd 0 0 s.herd.count.toNat 0) ∧
        u.img.active = 1 ∧ u.img.activeHash = img.hash ∧ u.img.shadow = 0 ∧ u.img.image = none ∧ u.img.launch = none ∧
        u.img.runs = s.img.runs + 1 ∧ u.img.segment = 0 ∧ u.img.code = 0 ∧ u.plane.count = 0 ∧ u.plane.launched = true ∧
        u.plane.slipTotal = 0 ∧ u.plane.slipCause = [] ∧ u.plane.now = s.plane.now ∧ u.plane.cadence = s.plane.cadence ∧
        u.chip = img.chip ∧ u.sec = s.sec ∧ u.sup = s.sup
      (l.barrier = false →
        (l.at_ = 0 → launched .launch) ∧
        (l.at_ ≠ 0 → exec .launch s = .next s) ∧
        (l.at_ ≠ 0 → s.plane.half = false → l.at_ ≤ s.herd.count →
          (s.herdComplete img.chip.herdN = true → launched .atCountLaunch) ∧
          (s.herdComplete img.chip.herdN = false → exec .atCountLaunch s =
            .next (({ s with img := { s.img with launch := none, code := 0x18, section_ := 0xFFF, detail := 0 } } : State).answer
              l.cmd 1 0x18 0 0))) ∧
        (s.herd.count < l.at_ → exec .atCountLaunch s = .next s)) ∧
      (l.barrier = true →
        exec .atCountLaunch s = .next s ∧
        (s.herd.bar = none → exec .launch s = .next { s with
          herd := if s.herdComplete img.chip.herdN then s.herd.arriveFirst else s.herd }) ∧
        (s.herd.bar.isSome = true → s.plane.half = false → s.herd.released = some true → launched .launch)))

/-- Arming and stopping (R309, R345, R352, R381, R459, R576). IMG_ARM arms a READY NEXT image for an occurrence ahead, and not yet
sampled, of a point that exists; IMG_DISARM makes an ARMED one READY, or is LATE once its occurrence has been sampled; IMG_DISCARD empties the buffer, with arena 0 back in force where no image is
active; RUN_STOP makes every core halt at its next seam and waits; it ends when the plane is quiescent, with the plane
count of the latest halt, and records left uncompared show as UNMATCHED. -/
def Obligations.ArmAndStop : Prop :=
  ∀ (s : State) (id : Nat) (c : HostCmd),
    let coded := fun (t : State) (status code : Nat) =>
      ({ t with img := { t.img with code := code, section_ := 0xFFF, detail := 0 } } : State).answer id status code 0 0
    let waits := fun (x : Nat) => s.img.sampled.isSome = true ∧ ∃ pt, s.plane.pointAt s.chip = some (x, pt)
    (s.host.ready 0x13 id = some c → ∀ img : Image, s.img.image = some img →
      let x := bits (c.word 1) 7 0
      let n := bits (c.word 1) 63 32
      let next := (s.plane.occ.get 0 x).toNat + 1
      (s.img.shadow ≠ 2 → exec (.imgArm id) s = .next (coded s 1 0x16)) ∧
      (s.img.shadow = 2 → img.kind = 0 → exec (.imgArm id) s = .next (coded s 1 0x0A)) ∧
      (s.img.shadow = 2 → img.kind ≠ 0 → s.chip.points.any (·.1 == x) = false →
        exec (.imgArm id) s = .next (coded s 1 0x19)) ∧
      (s.img.shadow = 2 → img.kind ≠ 0 → s.chip.points.any (·.1 == x) = true →
        (n < next ∨ (n = next ∧ waits x) → exec (.imgArm id) s = .next (coded s 1 0x18)) ∧
        (next < n ∨ (n = next ∧ ¬ waits x) → exec (.imgArm id) s = .next
          (coded { s with img := { s.img with shadow := 3, armPoint := x, armOcc := n } } 0 0)))) ∧
    (s.host.ready 0x14 id = some c →
      let x := s.img.armPoint
      let next := (s.plane.occ.get 0 x).toNat + 1
      (s.img.shadow = 3 → next < s.img.armOcc ∨ (s.img.armOcc = next ∧ ¬ waits x) →
        exec (.imgDisarm id) s = .next (coded { s with img := { s.img with shadow := 2 } } 0 0)) ∧
      (s.img.shadow = 3 → s.img.armOcc < next ∨ (s.img.armOcc = next ∧ waits x) →
        exec (.imgDisarm id) s = .next (coded s 1 0x18)) ∧
      (s.img.shadow = 0 → s.img.active = 2 → s.img.xchgPoint = x → s.img.xchgOcc = s.img.armOcc →
        exec (.imgDisarm id) s = .next (coded s 1 0x18)) ∧
      (s.img.shadow = 1 ∨ s.img.shadow = 2 → exec (.imgDisarm id) s = .next (coded s 1 0x16))) ∧
    (s.host.ready 0x15 id = some c →
      (s.img.shadow = 2 → s.img.active = 0 → exec (.imgDiscard id) s = .next
        (({ s with img := { s.img with shadow := 0, image := none }, chip := ChipCfg.reset s.ext.okAtReset } : State).answer id 0 0 0 0)) ∧
      (s.img.shadow = 2 → s.img.active ≠ 0 → exec (.imgDiscard id) s = .next
        (({ s with img := { s.img with shadow := 0, image := none } } : State).answer id 0 0 0 0)) ∧
      (s.img.shadow = 1 ∨ s.img.shadow = 3 → exec (.imgDiscard id) s = .next (s.answer id 1 0x16 0 0))) ∧
    (s.host.ready 0x16 id = some c → exec (.runStop id) s = .next { s with
      plane := { s.plane with stop := true }, host := s.host.wait id }) ∧
    (let t : State := { s with herd := { s.herd with unmatched := s.herd.unmatched || s.recordsLeft } }
     (s.host.waiting 0x16 = some c → s.plane.quiescent = true →
       exec .planeQuiescent s = .next (t.answer c.id 0 0 s.plane.lastHalt.toNat 0)) ∧
     (s.host.waiting 0x16 = none → s.plane.quiescent = true → exec .planeQuiescent s = .next t) ∧
     (s.plane.quiescent = false → exec .planeQuiescent s = .next s) ∧
     (s.herd.remote = [] → (∀ d ∈ s.plane.live, (s.plane.core d).sig.queue = []) → s.recordsLeft = false))

/-- Commands on the store, power and membership (R32, R349, R429, R503, R504, R514). LIB_STORE, LIB_DELETE and MAP_EXTEND that
pass their checks queue a durable commit and wait for it; REJOIN of a FENCED chip waits for its admission, elsewhere it is
refused. POWER to the present state ends at once; otherwise a transition starts when nothing stands in its way, and at its
end the module is in the target state and the command ends with OK. Reaching P3 ends the run; P4 leaves the block at its
reset values. -/
def Obligations.ModuleCommands : Prop :=
  ∀ (s : State) (id : Nat) (c : HostCmd),
    let queued := fun (a : CommitAct) => ({ s with
      pwr := { s.pwr with commits := s.pwr.commits ++ [(⟨a, some id⟩ : Commit)] }, host := s.host.wait id } : State)
    (s.host.ready 0x17 id = some c → ∀ img : Bytes, img.length = c.word 2 →
      (s.img.libBytes (c.word 3) + img.length ≤ 12884901888 →
        exec (.libStore id img) s = .next (queued (.store (c.word 3) img))) ∧
      (∀ short : Bytes, short.length < c.word 2 → exec (.libStore id short) s = .next (s.answer id 5 0 0 0)) ∧
      (12884901888 < s.img.libBytes (c.word 3) + img.length → exec (.libStore id img) s = .next (s.refuse id 0x83))) ∧
    (s.host.ready 0x18 id = some c →
      (s.img.library.any (·.1 == c.word 1) = true → exec (.libDelete id) s = .next (queued (.delete (c.word 1)))) ∧
      (s.img.library.any (·.1 == c.word 1) = false → exec (.libDelete id) s = .next (s.refuse id 0x17))) ∧
    (s.host.ready 0x21 id = some c →
      (s.sup.nextMap.invalid (c.word 1) = true → exec (.mapExtend id) s = .next (s.refuse id 0x85)) ∧
      (s.sup.nextMap.invalid (c.word 1) = false →
        (s.sup.exts.length < 64 → exec (.mapExtend id) s = .next (queued (.mapExt (c.word 1)))) ∧
        (64 ≤ s.sup.exts.length → exec (.mapExtend id) s = .next (s.refuse id 0x81)))) ∧
    (s.host.ready 0x22 id = some c →
      (s.link.mstate = 3 → exec (.rejoin id) s = .next { s with
        link := s.link.sendTo s.chip 3 s.link.root s.joinSeg, host := s.host.wait id }) ∧
      (s.link.mstate ≠ 3 → exec (.rejoin id) s = .next (s.refuse id 0x84))) ∧
    (s.host.ready 0x20 id = some c → s.pwr.busy = false →
      (c.word 1 = s.pwr.state → exec (.power id) s = .next (s.answer id 0 0 0 0)) ∧
      (c.word 1 ≠ s.pwr.state → s.powerMayStart id (c.word 1) = true → ∃ t, exec (.power id) s = .next t ∧
        t.pwr.busy = true ∧ t.pwr.target = c.word 1 ∧ t.pwr.state = s.pwr.state ∧ t.pwr.powerCmd = some id ∧
        t.host = { s.host with paused := false }.wait id ∧ t.plane = s.plane ∧ t.ext = s.ext ∧
        (c.word 1 < 3 → t.sec = s.sec))) ∧
    (s.pwr.busy = true → s.pwr.powerCmd = some id →
      (s.pwr.target < 4 → ∃ t u, exec .powerTransitionEnd s = .next t ∧ t = State.answer u id 0 0 0 0 ∧
        u.pwr.state = s.pwr.target ∧ u.pwr.busy = false ∧ u.pwr.transitions = s.pwr.transitions + 1 ∧
        u.sec = s.sec ∧ u.tel = s.tel ∧ (s.pwr.target < 3 → u.plane = s.plane) ∧ (s.pwr.target = 3 → u.img.active = 0)) ∧
      (s.pwr.target = 4 → ∃ t, exec .powerTransitionEnd s = .next t ∧ t.pwr.state = 4 ∧ t.on = false ∧
        t.plane.sites = [] ∧ t.ext.mem = [] ∧ t.img = { ImgSt.reset with library := s.img.library } ∧ t.link = LinkSt.reset ∧
        t.herd = HerdSt.reset ∧ t.sup.exts = s.sup.exts ∧ t.pwr.journal = s.pwr.journal))

/-- Rings and doorbells (R453, R454, R483). A doorbell of a ring that the function owns, enabled, with a value inside it, sets TAIL or
HEAD; any other is ignored and counted; in P2 and P3 every doorbell raises source 1. ENABLE set on a disabled ring whose fields are good clears its pointers, and of a
completion ring sets PHASE; cleared on an enabled one it stops the ring. Only that ring changes. -/
def Obligations.RingsAndDoorbells : Prop :=
  ∀ (s : State) (fn : Fin 16) (q : Fin 16384), s.on = true →
    let h := s.host
    let rung := fun (h : HostSt) => ({ s with host := h, pwr := if s.pwr.state = 2 ∨ s.pwr.state = 3 then s.pwr.line 1 else s.pwr } : State)
    let ignored := h.onErr fn fun e => { e with dbIgnored := satAdd 16 e.dbIgnored 1 }
    (h.global fn q = none → (∀ val, exec (.sqTailDoorbell fn q val) s = .next (rung ignored) ∧
      exec (.cqHeadDoorbell fn q val) s = .next (rung ignored)) ∧
      ∀ on, exec (.sqEnable fn q on) s = .next s ∧ exec (.cqEnable fn q on) s = .next s) ∧
    (∀ g, h.global fn q = some g →
      let r := h.ring g
      (∀ val : BitVec 32,
        let v := val.toNat % 65536
        (r.sqEn = true → v < ringSize r.sqLog → exec (.sqTailDoorbell fn q val) s = .next
          (rung (h.onRing g fun r => { r with tail := v }))) ∧
        (r.sqEn = false ∨ ringSize r.sqLog ≤ v → exec (.sqTailDoorbell fn q val) s = .next (rung ignored)) ∧
        (r.cqEn = true → v < ringSize r.cqLog → exec (.cqHeadDoorbell fn q val) s = .next
          (rung (h.onRing g fun r => { r with cqHead := v }))) ∧
        (r.cqEn = false ∨ ringSize r.cqLog ≤ v → exec (.cqHeadDoorbell fn q val) s = .next (rung ignored))) ∧
      (r.cls < 4 → r.cq < 16384 → r.sqLog ≤ 12 → (h.global fn r.cq).isSome = true →
        (r.sqEn = false → exec (.sqEnable fn q true) s = .next { s with
          host := h.onRing g fun r => { r with sqEn := true, head := 0, tail := 0 } }) ∧
        (r.sqEn = true → exec (.sqEnable fn q false) s = .next { s with
          host := h.onRing g fun r => { r with sqEn := false } })) ∧
      (r.vector < (if fn.val = 0 then 2048 else 64) → r.coalesce < 256 → r.cqLog ≤ 12 →
        (r.cqEn = false → exec (.cqEnable fn q true) s = .next { s with
          host := h.onRing g fun r => { r with cqEn := true, cqHead := 0, cqTail := 0, phase := true, unsignalled := 0 } }) ∧
        (r.cqEn = true → exec (.cqEnable fn q false) s = .next { s with
          host := h.onRing g fun r => { r with cqEn := false } })))

/-- Events and messages (R462, R463). The oldest event of a part of the module is held, and written at the event ring where events are enabled
and it has room; with 256 held it is dropped and counted. A coalescing timeout signals the vector of a ring that has
unsignalled records; a masked vector stays pending. -/
def Obligations.EventsAndMessages : Prop :=
  ∀ (s : State), s.on = true →
    (∀ (e : Nat × Nat × Nat) (rest : List (Nat × Nat × Nat)), ∀ p ∈ [
        (Part.plane, s.plane.ob.events, ({ s with plane := { s.plane with ob := { s.plane.ob with events := rest } } } : State)),
        (.ext, s.ext.ob.events, { s with ext := { s.ext with ob := { s.ext.ob with events := rest } } }),
        (.link, s.link.ob.events, { s with link := { s.link with ob := { s.link.ob with events := rest } } }),
        (.herd, s.herd.ob.events, { s with herd := { s.herd with ob := { s.herd.ob with events := rest } } }),
        (.power, s.pwr.ob.events, { s with pwr := { s.pwr with ob := { s.pwr.ob with events := rest } } })],
      p.2.1 = e :: rest →
      (s.host.evtEn = false → s.host.events.length < 256 → exec (.eventRecord p.1) s = .next { p.2.2 with
        host := { s.host with events := s.host.events ++ [e] } }) ∧
      (s.host.evtEn = false → 256 ≤ s.host.events.length → exec (.eventRecord p.1) s = .next { p.2.2 with
        host := { s.host with evtLost := satAdd 16 s.host.evtLost 1 } }) ∧
      (s.host.evtEn = true → s.host.events = [] → (s.host.ring s.host.evtCq).cqEn = true →
        (s.host.ring s.host.evtCq).cqFull = false →
        let r := s.host.ring s.host.evtCq
        ∃ t, exec (.eventRecord p.1) s = .next t ∧ t = { p.2.2 with host := t.host } ∧ t.host.events = [] ∧
          (t.host.ring s.host.evtCq).cqTail = (r.cqTail + 1) % ringSize r.cqLog ∧
          (.write (s.host.owner s.host.evtCq) (r.cqBase.toNat * 64 + 32 * r.cqTail)
            (s.host.recordBytes ⟨s.host.evtCq, e.1, 0xFFFF, none, 0, 0, e.2.1, e.2.2⟩ r.phase)) ∈ t.host.out)) ∧
    (∀ q : Fin 16384,
      let r := s.host.ring q
      let k := 2048 * s.host.owner q + r.vector
      (r.unsignalled = 0 → exec (.msixCoalesceTimeout q) s = .next s) ∧
      (0 < r.unsignalled → ∃ t, exec (.msixCoalesceTimeout q) s = .next t ∧ t = { s with host := t.host } ∧
        (t.host.ring q).unsignalled = 0 ∧
        (r.irqEn = false → t.host.out = s.host.out ∧ t.host.msixPend = s.host.msixPend) ∧
        (r.irqEn = true → (s.host.msixEntry k).getLsbD 96 = false →
          t.host.out = s.host.out ++ [.msix (s.host.owner q) r.vector]) ∧
        (r.irqEn = true → (s.host.msixEntry k).getLsbD 96 = true → t.host.out = s.host.out ∧ k ∈ t.host.msixPend)))

/-- Functions and resets of the endpoint (R447, R450, R452, R567, R568). VF Enable sets the number of VFs; while set it changes nothing.
A Function Level Reset of a VF ends its rings, its records and those of its commands that have not started, and
counts nothing against it; one of the PF leaves the whole block at reset, what it has sent aside. A conventional reset does the
same and the link trains again unless PERST_N is low; its rise lets the link train once step 6 has ended; a training gives BAR2 sizes
that R447 allows. -/
def Obligations.FunctionsAndResets : Prop :=
  ∀ s : State,
    (s.on = true → ∀ n : Fin 16,
      (s.host.vfEnable = true → exec (.vfEnable n) s = .next s) ∧
      (s.host.vfEnable = false → ∃ t, exec (.vfEnable n) s = .next t ∧ t = { s with host := t.host } ∧
        t.host.vfEnable = true ∧ t.host.numVfs = n ∧ t.host.rings = s.host.rings ∧ t.host.cmds = s.host.cmds)) ∧
    (s.on = true → ∀ v : Fin 16, v.val ≠ 0 →
      ∃ t, exec (.functionLevelReset v) s = .next t ∧ t = { s with host := t.host } ∧
        (∀ g, s.host.owner g = v.val → t.host.ring g = Ring.reset) ∧ (∀ g, s.host.owner g ≠ v.val → t.host.ring g = s.host.ring g) ∧
        t.host.err.get HifErr.zero v = HifErr.zero ∧ (∀ x ∈ t.host.records, s.host.owner x.cq ≠ v.val) ∧
        (∀ c ∈ t.host.cmds, c.fn = v.val → c.started = true ∧ c.silent = true) ∧
        (∀ c ∈ s.host.cmds, c.fn ≠ v.val → c ∈ t.host.cmds)) ∧
    (let base := fun (t : State) => t.host.rings = [] ∧ t.host.records = [] ∧ t.host.events = [] ∧ t.host.vfEnable = false ∧
        t.host.evtEn = false ∧ t.host.err = [] ∧ t.host.out = s.host.out ∧
        (∀ c ∈ t.host.cmds, c.fn < 16 → c.started = true ∧ c.silent = true) ∧ t.plane = s.plane ∧ t.ext = s.ext
     let trained := fun (h : HostSt) => h.linkUp = true ∧ h.linkFree = s.free ∧
       30 ≤ h.bar2Log ∧ h.bar2Log ≤ 39 ∧ 30 ≤ h.vfBar2Log ∧ h.vfBar2Log ≤ 36
     (s.on = true → ∃ t, exec (.functionLevelReset 0) s = .next t ∧ t = { s with host := t.host } ∧ base t ∧
        t.host.linkUp = s.host.linkUp) ∧
     (s.on = true → ∀ perst : Bool, ∃ t, exec (.conventionalReset perst) s = .next t ∧ base t ∧
        t.host.perst = (s.host.perst || perst) ∧
        (7 ≤ s.sup.step → t.host.perst = false → trained t.host) ∧
        (s.sup.step < 7 ∨ t.host.perst = true → t.host.linkUp = false)) ∧
     (s.on = true → 7 ≤ s.sup.step → ∃ t, exec .perstNRise s = .next t ∧ t = { s with
        host := { s.host with perst := false, linkUp := true, linkFree := s.free,
                              bar2Log := t.host.bar2Log, vfBar2Log := t.host.vfBar2Log }
        free := s.free + 4 } ∧ trained t.host)) ∧
    (s.on = false ∨ s.sup.step < 7 → exec .perstNRise s = .next { s with host := { s.host with perst := false } })

/-! ### The herd -/

/-- Herd time (R382 to R384, R394, R483). While SYNC_ARMED the first sampled SYNC_IN begins the load, and a high SYNC_IN is source 3
in every state; the tick 40 ticks on gives the count its loaded value and clears SYNC_ARMED; any other tick of a chip that does
not slew adds one, and a slewed one 2 or 0; SYNC_OUT drives for 16 ticks at a multiple of 2^20. A beacon goes out on a trained
port with credit 65,536 ticks after the one before, and not earlier; one that comes in is answered with its stamps. A return from the timing parent
moves an ACQUIRING chip to the parent's count, makes it ALIGNED at the fourth near offset, and a far one makes an ALIGNED chip
LOST, which the next one makes ACQUIRING. The offset takes ASYM off and is rounded toward zero (ASYM: log entry 40). -/
def Obligations.HerdTime : Prop :=
  ∀ s : State,
    let seen : HerdSt := { s.herd with ob := s.herd.ob.line 3 }
    (s.on = true →
      exec .herdArm s = .next { s with herd := { s.herd with armed := true } } ∧
      (s.herd.armed = true → s.herd.loadIn = none →
        exec .syncIn s = .next { s with herd := { seen with loadIn := some 40 } }) ∧
      (s.herd.count.toNat % 1048576 = 0 → s.herd.syncOut = 0 →
        exec .syncOut s = .next { s with herd := { s.herd with syncOut := 16 } }) ∧
      (s.herd.count.toNat % 1048576 ≠ 0 → exec .syncOut s = .next s)) ∧
    (s.on = false ∨ s.herd.armed = false ∨ s.herd.loadIn ≠ none → exec .syncIn s = .next { s with herd := seen }) ∧
    (s.pending = [] → s.pwr.state = 2 → ∃ t, step s = .next t ∧ t = { s with herd := t.herd, link := { s.link with clock := s.link.clock + 1 } } ∧
      (s.herd.loadIn = some 1 → t.herd.count = s.herd.load ∧ t.herd.armed = false ∧ t.herd.loadIn = none) ∧
      (s.herd.loadIn = none →
        (s.herd.slew = 0 → t.herd.count = s.herd.count + 1) ∧
        (s.herd.state = 2 → 4095 ≤ s.herd.slewGap →
          (0 < s.herd.slew → t.herd.count = s.herd.count + 2 ∧ t.herd.slew = s.herd.slew - 1 ∧ t.herd.slewGap = 0) ∧
          (s.herd.slew < 0 → t.herd.count = s.herd.count ∧ t.herd.slew = s.herd.slew + 1 ∧ t.herd.slewGap = 0)) ∧
        (s.herd.slewGap < 4095 → t.herd.count = s.herd.count + 1 ∧ t.herd.slew = s.herd.slew))) ∧
    (s.herd.beaconGap < 65536 → exec .beaconSend s = .next { s with herd := s.herd.tree s.link s.chip }) ∧
    (∀ p : Fin 32, s.link.upPorts = [p.val] → 65536 ≤ s.herd.beaconGap →
      let q := s.link.port p
      let f : Flit := ⟨3, q.txSeq, 0, s.link.epoch, 0, 0, 15, 0, 0, true, [syncSeg 0x10 0 0 (leBytes 8 s.herd.count.toNat ++
        leBytes 8 0 ++ leBytes 8 0 ++ leBytes 2 (s.herd.depth.getD 0xFFFF))]⟩
      q.outq = [] → s.link.byreStill p → q.replay.length < 512 → 0 < nth q.credits 3 0 →
      ∃ t : State, exec .beaconSend s = .next t ∧ t = { s with link := t.link, herd := t.herd } ∧ t.herd.beaconGap = 0 ∧
        t.herd.count = s.herd.count ∧ (t.link.port p).wire = q.wire ++ [.data (q.stamp f).encode] ∧
        (t.link.port p).txSeq = (q.txSeq + 1) % 4096 ∧ (t.link.port p).replay = q.replay ++ [f]) ∧
    (∀ (p : Fin 32) (f : Flit) (i : Nat) (g : Seg), s.link.syncHead p 0x10 = some (f, i, g) → f.loc = true →
      let l1 := s.link.syncPop p
      let h1 := ({ s.herd with depths := s.herd.depths.set p (leAt g.data 24 2) } : HerdSt).tree l1 s.chip
      (g.aux % 2 = 0 → (l1.port p).outq = [] → l1.byreStill p → (l1.port p).replay.length < 512 → 0 < nth (l1.port p).credits 3 0 →
        (l1.port p).state = 2 →
        let r : Flit := ⟨3, (l1.port p).txSeq, 0, s.link.epoch, 0, 0, 15, 0, 0, true, [syncSeg 0x10 1 0 (leBytes 8 (leAt g.data 0 8) ++
          leBytes 8 s.herd.count.toNat ++ leBytes 8 s.herd.count.toNat ++ leBytes 2 (h1.depth.getD 0xFFFF))]⟩
        ∃ t, exec (.beacon p) s = .next t ∧ t = { s with link := t.link, herd := h1 } ∧
          (t.link.port p).wire = (l1.port p).wire ++ [.data ((l1.port p).stamp r).encode]) ∧
      (g.aux % 2 = 1 → h1.parent = some p.val →
        let off := beaconOffset (leAt g.data 0 8) (leAt g.data 8 8) (leAt g.data 16 8) s.herd.count.toNat (s.link.port p).asym
        let moved := h1.count + BitVec.ofInt 64 off
        ∃ t, exec (.beacon p) s = .next t ∧ t = { s with link := l1, herd := t.herd } ∧ t.herd.offset = off ∧
          (h1.state = 2 → off.natAbs ≤ 64 → t.herd = { h1 with offset := off, slew := off }) ∧
          (h1.state = 2 → 64 < off.natAbs → t.herd.state = 3 ∧ t.herd.count = moved ∧ t.herd.good = 0) ∧
          (h1.state = 3 → t.herd.state = 1 ∧ t.herd.count = moved) ∧
          (h1.state = 1 → h1.good < 3 → off.natAbs ≤ 2 → t.herd.state = 1 ∧ t.herd.good = h1.good + 1 ∧ t.herd.count = moved) ∧
          (h1.state = 1 → 3 ≤ h1.good → off.natAbs ≤ 2 → t.herd.state = 2 ∧ t.herd.count = moved) ∧
          (h1.state = 1 → 2 < off.natAbs → t.herd.state = 1 ∧ t.herd.good = 0 ∧ t.herd.count = moved)))

/-- Herd barriers and lock-step (R378, R380, R381, R385, R386, R388). A child's ARRIVE is kept while another child is missed; at the root, once every
member has arrived, it gives the barrier its count, MARGIN ticks on, and the AND of the decision bits. A RELEASE gives the barrier that this chip has
passed up its count and decision, is held for one it has not, and one whose count has passed is LATE; a barrier whose TIMEOUT has run out is
left with the decision bit clear, counted and reported. While a pairing is open a record of the partner is kept, and the 33 sums that give the
partner's signature name the tile of the first mismatch; the partner's message pairs the chips when both name each other with ENABLE set, otherwise they
are MISPAIRED, and one that comes before the run is kept for it. Which chips are children of this one is the command's operand (log entry 40). -/
def Obligations.BarriersAndLockstep : Prop :=
  ∀ (s : State) (p : Fin 32) (f : Flit) (i : Nat) (g : Seg),
    let l1 := s.link.syncPop p
    let seen := fun (h : HerdSt) => ({ s with link := l1, herd := h.tree l1 s.chip } : State)
    let came := fun (as : List Arrive) (seq : Nat) => (as.filter (·.seq == seq)).filterMap fun a => peerHerd s.chip (s.link.port a.port)
    let now := s.herd.arrives ++ [(⟨p, leAt g.data 0 4, g.aux.testBit 0⟩ : Arrive)]
    (∀ (b : Bar) (children : List (Fin 1024)) (members : List (List (Fin 1024))), s.link.syncHead p 0x11 = some (f, i, g) → f.loc = true →
      s.herd.bar = some b → leAt g.data 0 4 = b.seq →
      (∀ c ms, (c, ms) ∈ children.zip members → (s.herd.childPort l1 s.chip c).isSome → c.val ∉ came now b.seq →
        exec (.barrierArrive p children members) s = .next (seen { s.herd with arrives := now })) ∧
      (children = [] → b.sent = false → s.chip.herdX = timingRoot s.link → (∀ m ∈ s.link.mask, m = s.chip.herdX ∨ m ∈ came now b.seq) →
        ∃ t, exec (.barrierArrive p children members) s = .next t ∧ t = { s with link := t.link, herd := t.herd } ∧
          t.herd.arrives = now.filter (·.seq != b.seq) ∧
          ∃ b', t.herd.bar = some b' ∧ b'.seq = b.seq ∧ b'.sent = true ∧
            b'.release = some (s.herd.count + BitVec.ofNat 64 b.margin, b.bit && (now.filter (·.seq == b.seq)).all (·.bit)))) ∧
    (∀ b : Bar, s.link.syncHead p 0x12 = some (f, i, g) → f.loc = true → s.herd.bar = some b → leAt g.data 0 4 = b.seq →
      b.release = none → b.down = [] →
      let t := BitVec.ofNat 64 (leAt g.data 4 8)
      let taken := some { b with release := some (t, g.aux.testBit 0 && !s.herd.degraded) }
      (b.sent = true →
        (s.herd.count ≤ t → exec (.barrierRelease p []) s = .next (seen { s.herd with bar := taken })) ∧
        (t < s.herd.count → exec (.barrierRelease p []) s = .next (seen { s.herd with bar := taken, late := satAdd 16 s.herd.late 1 }))) ∧
      (b.sent = false → ∀ children, exec (.barrierRelease p children) s = .next (seen { s.herd with
        early := s.herd.early ++ [(b.seq, t, g.aux.testBit 0)] }))) ∧
    (∀ b : Bar, s.herd.bar = some b → b.release = none → b.sent = true →
      (b.timeout ≠ 0 → b.began.toNat + b.timeout * 65536 ≤ s.herd.count.toNat → ∀ children,
        exec (.barrierTimeout children) s = .next { s with herd := { s.herd with
          bar := some { b with sent := true, release := some (s.herd.count, false) }
          timeouts := satAdd 16 s.herd.timeouts 1
          ob := (s.herd.ob.line 67).event 6 b.seq 0 } }) ∧
      (b.timeout = 0 ∨ s.herd.count.toNat < b.began.toNat + b.timeout * 65536 → ∀ children,
        exec (.barrierTimeout children) s = .next s)) ∧
    (s.link.syncHead p 0x13 = some (f, i, g) → s.herd.lsState = 1 →
      (g.data.length = 32 → exec (.lsrec p) s = .next { s with
        link := l1
        herd := { s.herd with remote := s.herd.remote ++ [(⟨leAt g.data 0 2, leAt g.data 2 1, leAt g.data 8 8,
          BitVec.ofNat 64 (leAt g.data 16 8)⟩ : LsRec)] } }) ∧
      (∀ x rest, g.data.length = 264 → s.herd.fetches = x :: rest →
        let sums := (List.range 33).map fun i => BitVec.ofNat 64 (leAt g.data (8 * i) 8)
        coreSig sums = x.theirs → s.herd.first = some x.rec_ → exec (.lsrec p) s = .next { s with
          link := l1
          herd := { s.herd with fetches := rest, tile := (List.range 33).find? fun i => nth x.sums i 0 != nth sums i 0 } })) ∧
    (s.link.syncHead p 0x14 = some (f, i, g) →
      let w := BitVec.ofNat 12 (leAt g.data 0 2)
      let named := lsEnable w = true ∧ lsPartner w = s.chip.herdX
      (s.img.active = 0 → s.herd.lsState = 0 → exec (.pair p) s = .next (seen { s.herd with pairIn := s.herd.pairIn.set f.src w })) ∧
      (s.img.active ≠ 0 → s.herd.lsState = 1 → lsEnable s.herd.lsOn = true → lsPartner s.herd.lsOn = f.src →
        (named → ∃ t, exec (.pair p) s = .next t ∧ t.herd.lsState = 2) ∧
        (¬ named → ∃ t, exec (.pair p) s = .next t ∧ t.herd.lsState = 3 ∧ t.herd.remote = [] ∧ t.plane.comparing = false)))

/-- Membership (R424 to R428). The root admits a sender whose identity its HERD section names: the epoch rises by one and the
sender is a member. A MEMBER of a newer epoch that names this chip is adopted; one that excludes this chip fences it, and every
core halts at its next seam, in the epoch that excludes it. The chip that judges a suspicion issues the next epoch without the suspect; it suspects a chip
itself when every port to it has been DOWN, DISABLED or FENCED for DEAD_TIME, and not before. An epoch
request is answered; of a newer epoch that this chip only hears of it asks, and one that it hears excludes it fences it. -/
def Obligations.Membership : Prop :=
  ∀ (s : State) (p : Fin 32) (f : Flit) (i : Nat) (g : Seg),
    let me := s.chip.herdX
    let inForce := fun (t : State) (epoch root : Nat) (mask : List Nat) =>
      t.link.mstate = 2 ∧ t.link.epoch = epoch ∧ t.link.root = root ∧ t.link.mask = mask
    let next := (s.link.epoch + 1) % 65536
    (s.link.syncHead p 0x16 = some (f, i, g) → s.link.mstate = 2 → s.link.root = me →
      (s.chip.herdIds[f.src]? = some (leAt g.data 0 8) → me ∈ secIns f.src s.link.mask → ∃ t, exec (.join p) s = .next t ∧
        inForce t next ((secIns f.src s.link.mask).headD 0) (secIns f.src s.link.mask)) ∧
      (s.chip.herdIds[f.src]? ≠ some (leAt g.data 0 8) → exec (.join p) s = .next { s with link := s.link.syncPop p })) ∧
    (s.link.syncHead p 0x17 = some (f, i, g) → f.loc = true → s.link.mstate = 2 → newer (g.aux % 65536) s.link.epoch = true →
      let m := leNat (slice g.data 0 128)
      let mask := (List.range 1024).filter fun i => bit m i
      (bit m me = true → me < 1024 → ∃ t, exec (.member p) s = .next t ∧
        inForce t (g.aux % 65536) (g.addr % 1024) mask ∧ t.plane = s.plane ∧ t.host = s.host) ∧
      (bit m me = false → ∃ t, exec (.member p) s = .next t ∧ t.link.mstate = 3 ∧ t.link.epoch = g.aux % 65536 ∧
        t.link.root = g.addr % 1024 ∧ t.link.mask = mask ∧ t.plane = { s.plane with stop := true } ∧ t.link.xfers = [])) ∧
    (s.link.syncHead p 0x15 = some (f, i, g) → s.link.mstate = 2 →
      let y := g.aux % 1024
      let rest := s.link.mask.filter (· != y)
      (y ∈ s.link.mask → y ≠ me → s.link.judge y = me → me ∈ s.link.mask → ∃ t, exec (.suspect p) s = .next t ∧
        inForce t next (rest.headD 0) rest) ∧
      (y ∉ s.link.mask ∨ y = me ∨ s.link.judge y ≠ me → exec (.suspect p) s = .next { s with link := s.link.syncPop p })) ∧
    (∀ x : Fin 1024, s.link.mstate = 2 →
      let rest := s.link.mask.filter (· != x.val)
      let gone := fun (q : Nat) => ∃ t0, (s.link.port q).downSince = some t0 ∧ t0 + 65536 * s.link.deadTime.toNat ≤ s.link.clock
      (s.portsTo x ≠ [] → (∀ q ∈ s.portsTo x, gone q) → x.val ∈ s.link.mask → x.val ≠ me →
        s.link.judge x = me → me ∈ s.link.mask → ∃ t, exec (.suspectTimeout x) s = .next t ∧ inForce t next (rest.headD 0) rest) ∧
      ((s.portsTo x = [] ∨ ∃ q ∈ s.portsTo x, ¬ gone q) → exec (.suspectTimeout x) s = .next s)) ∧
    (∀ (e : BitVec 16) (root : Fin 1024), s.link.mstate = 2 →
      (∀ ex, exec (.epoch p true e root ex) s = .next { s with
        link := s.link.tell s.chip p (memberSeg s.link.epoch s.link.root s.link.mask) }) ∧
      (newer e.toNat s.link.epoch = true →
        exec (.epoch p false e root false) s = .next { s with link := s.link.control p .epochAsk } ∧
        ∃ t, exec (.epoch p false e root true) s = .next t ∧ t.link.mstate = 3 ∧ t.link.root = root ∧
          t.plane = { s.plane with stop := true }) ∧
      (newer e.toNat s.link.epoch = false → ∀ ex, exec (.epoch p false e root ex) s = .next s))

/-! ### The link -/

/-- Receiving and replay (R401, R405 to R408, R420, R426). On a port that is up: a sound flit with the SEQ expected, of the epoch in force,
for this chip, from a member, in a buffer that is free, waits there and moves the expected SEQ on, or enters the Sync handler, which frees its buffer; a broken one is answered with
NAK, its codewords counted; a duplicate leaves only its credit; one of KIND 3 is a violation. A flit in transit, for whose port there is no credit, waits in the byre,
its buffer freed and HOPS one less, or in its buffer where the byre holds 32 of its channel. An IDLE flit brings credit and acknowledges. A NAK, or the
replay timeout, sends again from the flit named, with the ACK and credit count of now, and after the eighth sending retrains the port. -/
def Obligations.LinkLevel : Prop :=
  ∀ (s : State) (p : Fin 32),
    let q := s.link.port p
    (q.state = 2 → ∀ (bytes : Bytes) (c u : Nat),
      let counted := fun (q : Port) => { q with fecCorr := q.fecCorr + BitVec.ofNat 32 c, fecUncorr := satAdd 16 q.fecUncorr u }
      (u ≠ 0 ∨ Flit.parse bytes = none → exec (.dataFlitReceive p bytes (c, u)) s = .next (s.onLink fun l => l.onPort p fun q =>
        { counted q with naksTx := satAdd 16 q.naksTx 1, wire := q.wire ++ [.nak q.rxSeq] })) ∧
      (∀ x : RxParse, u = 0 → Flit.parse bytes = some x →
        let f := x.flit
        let paid := fun (q : Port) => (counted q).credit f.ack f.crVc f.crCount
        (x.kind = 3 → q.violLimit = 255 → q.violTimes = [] → exec (.dataFlitReceive p bytes (c, u)) s = .next (s.onLink fun l => l.onPort p fun q =>
          { counted q with rxViol := satAdd 16 q.rxViol 1, lastClass := 1, lastSeq := f.seq, violTimes := [s.link.clock],
                           wire := q.wire ++ [.violation 1 f.seq 0] })) ∧
        (x.kind = 1 → x.sound = true → x.bad = none → q.outq = [] → s.link.byreStill p →
          (f.seq = q.rxSeq → q.inUse f.vc < vcSize f.vc → s.link.mstate ≠ 1 → f.epoch = s.link.epoch →
            (f.loc = true ∨ s.link.mstate ≠ 2 ∨ f.src ∈ s.link.mask) →
            (∀ r ∈ q.rx, r.flit.vc ≠ 3) → (f.loc = true ∨ f.dest = s.chip.herdX) → f.segs ≠ [] →
            (∀ g ∈ f.segs, opOnVc g.op f.vc = true ∧ readBad g = false) →
            let kept := f.segs.zipIdx.map fun x => (x.2, x.1)
            (f.vc ≠ 3 → exec (.dataFlitReceive p bytes (c, u)) s = .next (s.onLink fun l => l.onPort p fun q =>
              { paid q with rxSeq := (q.rxSeq + 1) % 4096, rx := q.rx ++ [⟨f, kept⟩] })) ∧
            (f.vc = 3 → q.sync.length + f.segs.length ≤ 64 → ∃ t, exec (.dataFlitReceive p bytes (c, u)) s = .next t ∧
              t = s.onLink (fun _ => t.link) ∧ (∀ o, o ≠ p.val → t.link.port o = s.link.port o) ∧
              (t.link.port p).rxSeq = (q.rxSeq + 1) % 4096 ∧ (t.link.port p).rx = q.rx ∧
              (t.link.port p).sync = q.sync ++ kept.map (fun x => (f, x)) ∧
              (t.link.port p).freed = q.freed.set 3 ((nth q.freed 3 0 + 1) % 1024))) ∧
          (f.seq ≠ q.rxSeq → (q.rxSeq + 4096 - f.seq) % 4096 ≤ 512 → exec (.dataFlitReceive p bytes (c, u)) s =
            .next (s.onLink fun l => l.onPort p fun q => paid q)) ∧
          (∀ d out : Nat, f.seq = q.rxSeq → q.inUse f.vc < vcSize f.vc → f.epoch = s.link.epoch → f.loc = false → f.dest ≠ s.chip.herdX →
            s.link.mstate = 2 → f.src ∈ s.link.mask →
            s.chip.links.find? (·.1 == f.dest) = some (d, out) → 0 < f.hops → out ≠ p.val → nth (s.link.port out).credits f.vc 0 = 0 →
            ∃ t, exec (.dataFlitReceive p bytes (c, u)) s = .next t ∧ t = s.onLink (fun _ => t.link) ∧
              (∀ o, o ≠ p.val → t.link.port o = s.link.port o) ∧ (t.link.port p).rx = q.rx ∧
              (t.link.port p).rxSeq = (q.rxSeq + 1) % 4096 ∧
              (q.byreUse f.vc < 32 → (t.link.port p).byre = q.byre ++ [(out, { f with hops := f.hops - 1 })] ∧
                (t.link.port p).through = q.through ∧
                (t.link.port p).freed = q.freed.set f.vc ((nth q.freed f.vc 0 + 1) % 1024)) ∧
              (32 ≤ q.byreUse f.vc → (t.link.port p).byre = q.byre ∧ (t.link.port p).freed = q.freed ∧
                (t.link.port p).through = q.through ++ [(out, { f with hops := f.hops - 1 })]))))) ∧
    (∀ (ack : Fin 4096) (vc : Fin 4) (n : Fin 1024), q.outq = [] → s.link.byreStill p → exec (.idleFlit p ack vc n) s = .next { s with
      link := s.link.onPort p fun q => q.credit ack vc n }) ∧
    (∀ (f : Flit) (rest : List Flit) (n : Fin 4096), q.replay = f :: rest → f.seq = n.val → q.state = 2 →
      (q.sendings < 8 → (∀ x ∈ q.replay, maySend s.link.mstate x = true) →
        let again := fun (q : Port) => (f :: rest).foldl (fun (q : Port) x => q.emit x) { q with sendings := q.sendings + 1 }
        exec (.nak p n) s = .next (s.onLink fun l => l.onPort p fun q => again { q with naksRx := satAdd 16 q.naksRx 1 }) ∧
        exec (.replayTimeout p) s = .next (s.onLink fun l => l.onPort p again)) ∧
      (8 ≤ q.sendings → (∃ t, exec (.nak p n) s = .next t ∧ (t.link.port p).state = 1 ∧ (t.link.port p).replay = q.replay) ∧
        ∃ t, exec (.replayTimeout p) s = .next t ∧ (t.link.port p).state = 1 ∧ (t.link.port p).replay = q.replay)) ∧
    (q.replay = [] → exec (.replayTimeout p) s = .next (s.onLink id))

/-- Control flits and stalls (R421, R426, R431, R432). VIOLATION is counted and reported; FENCED is remembered; a port that holds a
newer flit asks for the epoch again 65,536 ticks after it asked last, and drops the oldest as a violation of class EPOCH when it has been held for DEAD_TIME; a channel
without credit for 2^21 ticks is reported. None of them does so earlier. -/
def Obligations.LinkSignals : Prop :=
  ∀ (s : State) (p : Fin 32),
    let q := s.link.port p
    exec (.violation p) s = .next { s with
      link := (s.link.onPort p fun q => { q with txViol := satAdd 16 q.txViol 1 }).line (768 + p) } ∧
    exec (.fenced p) s = .next { s with link := s.link.onPort p fun q => { q with peerFenced := true } } ∧
    (∀ t0, q.asked = some t0 → q.held ≠ [] → t0 + 65536 ≤ s.link.clock → exec (.epochRequestRepeat p) s = .next { s with
      link := s.link.onPort p fun q => { q with asked := some s.link.clock, wire := q.wire ++ [.epochAsk] } }) ∧
    (q.held = [] ∨ (∃ t0, q.asked = some t0 ∧ s.link.clock < t0 + 65536) → exec (.epochRequestRepeat p) s = .next s) ∧
    (∀ h rest, q.held = h :: rest →
      (h.at_ + 65536 * s.link.deadTime.toNat ≤ s.link.clock → ∃ t, exec (.heldFlitTimeout p) s = .next t ∧
        t = s.onLink (fun _ => t.link) ∧ (t.link.port p).held = rest ∧ (t.link.port p).rxViol = satAdd 16 q.rxViol 1 ∧
        (t.link.port p).lastClass = 8 ∧ (t.link.port p).lastSeq = h.flit.seq ∧ nth (t.link.port p).freed h.flit.vc 0 =
          (if h.flit.vc < q.freed.length then (nth q.freed h.flit.vc 0 + 1) % 1024 else 0) ∧
        (t.link.port p).violTimes.length = (q.violTimes.filter fun v => decide (s.link.clock < v + 2 ^ 24)).length + 1 ∧
        (q.violLimit.toNat < (t.link.port p).violTimes.length → (t.link.port p).state = 4) ∧
        ((t.link.port p).violTimes.length ≤ q.violLimit.toNat → (t.link.port p).state = q.state) ∧
        ∀ d, d ≠ p.val → t.link.port d = s.link.port d) ∧
      (s.link.clock < h.at_ + 65536 * s.link.deadTime.toNat → exec (.heldFlitTimeout p) s = .next (s.onLink id))) ∧
    (∀ (vc : Fin 4), (∀ t0, q.drySince.find? (·.1 == vc.val) = some (vc.val, t0) → q.state = 2 →
        (t0 + 2097152 ≤ s.link.clock → exec (.creditStall p vc) s = .next { s with link := s.link.line (800 + p) }) ∧
        (s.link.clock < t0 + 2097152 → exec (.creditStall p vc) s = .next s)) ∧
      (q.drySince.find? (·.1 == vc.val) = none → exec (.creditStall p vc) s = .next s))

/-- Requests that arrive (R403, R410, R413 to R415, R417, R435). The segment at the head of its channel is taken. A WRITE into a MEMORY arena, or
a FOLD into a FOLD arena, reaches memory as a write of another agent, and counts for its transfer; at low rate it changes no
memory and marks its transfer; one outside every such arena changes no memory and is a violation of class ADDRESS; a READ is answered with the bytes and the sectors
poisoned; CLOSE gives the transfer its count. A
closed transfer that is served whole leaves, delivers its token and is answered with DONE, with the status of R417. Where AUX says what (a WRITE's half bytes,
RDATA's status) is log entry 38. -/
def Obligations.LinkRequests : Prop :=
  ∀ (s : State) (p : Fin 32) (f : Flit) (idx : Nat) (g : Seg),
    let q := s.link.port p
    let popped := fun (vc : Nat) => s.link.onPort p fun q => q.popSeg s.link.epoch vc
    let xfers := s.link.xfers
    let fresh := ∀ x ∈ xfers, ¬ (x.src = f.src ∧ x.tag = g.tag ∧ x.gen = g.gen ∧ x.port = p.val)
    let entry := fun (served : Nat) (close : Option Nat) (status : Nat) =>
      (⟨p, f.src, g.tag, g.gen, g.core, g.mch, served, close, status⟩ : InXfer)
    (∀ (vc op kind : Nat) (i : Instr), (i = .linkWrite p ∧ vc = 0 ∧ op = 1 ∧ kind = 1) ∨ (i = .linkFold p ∧ vc = 2 ∧ op = 3 ∧ kind = 2) →
      q.nextSeg vc = some (f, idx, g) → g.op = op → fresh →
      (q.state = 2 → inArena s.chip kind g.addr g.data.length = true → exec i s = .next { s with
        link := { popped vc with xfers := xfers ++ [entry 1 none 0] }
        ext := (s.ext.writeMasked s.chip g.addr g.data.length g.fmt (if kind = 1 then g.masked else plainBytes g.addr g.data)).1 }) ∧
      (q.state = 2 → inArena s.chip kind g.addr g.data.length = false → ∃ t, exec i s = .next t ∧ t = { s with link := t.link } ∧
        t.link.xfers = xfers ++ [entry 1 none 1] ∧ (t.link.port p).lastClass = 5 ∧ (t.link.port p).lastSeq = f.seq ∧
        (t.link.port p).rxViol = satAdd 16 q.rxViol 1) ∧
      (q.state = 3 → exec i s = .next { s with
        link := { popped vc with xfers := xfers ++ [entry 1 none 5] } })) ∧
    (q.nextSeg 0 = some (f, idx, g) → g.op = 2 →
      let n := bits g.aux 8 0
      (q.state = 2 → inArena s.chip 1 g.addr n = true →
        (g.addr - ((s.chip.arenaOf g.addr).map fun a => a.2.base).getD 0) % s.chip.granAt g.addr + n ≤ s.chip.granAt g.addr →
        let bs := (s.ext.readFor s.chip g.addr n).2
        ∃ (pois : Nat), (∀ i, bit pois i = (decide (i < n / 32) && (nth bs (32 * i) (0, false, false)).2.1)) ∧
          exec (.linkRead p) s = .next { s with
            link := (popped 0).answer s.chip p f.src ⟨8, g.tag, g.gen, 0, g.mch, g.core, pois, 0, bs.map (·.1)⟩
            ext := (s.ext.readFor s.chip g.addr n).1 }) ∧
      (q.state = 3 → exec (.linkRead p) s = .next { s with
        link := (popped 0).answer s.chip p f.src ⟨8, g.tag, g.gen, 0, g.mch, g.core, 255 + 256 * 5, 0, fillBytes n 0⟩ })) ∧
    (∀ vc : Fin 4, q.nextSeg vc = some (f, idx, g) → g.op = 4 → fresh → (q.state = 2 ∨ q.state = 3) →
      exec (.close p vc) s = .next { s with link := { popped vc with xfers := xfers ++ [entry 0 (some g.aux) (if q.state = 3 then 5 else 0)] } }) ∧
    (∀ (x : InXfer) (n : Nat), xfers = [x] → x.port = p.val → x.close = some n →
      (n ≤ x.served → exec (.transferServed p) s = .next { s with
        link := ({ s.link with xfers := [], ob := s.link.ob.token x.core (2044 + x.mch) } : LinkSt).answer s.chip p x.src
          ⟨9, x.tag, x.gen, 0, x.mch, x.core, x.status, 0, []⟩ }) ∧
      (x.served < n → exec (.transferServed p) s = .next s))

/-- Tags and answers (R403, R411 to R414, R417 to R419, R438). A READ of the plane for a port that carries no traffic is answered with poison at once; where the
port carries traffic, a READ or the first segment of a transfer takes the lowest free tag, whose timer runs by TAG_TIMEOUT, and leaves as one flit, and a CLOSE leaves on its transfer's
tag. RDATA ends the READ that holds its tag with the elements it asked for, DONE its transfer with
the token of the issuing core, each with the status it brings, and the tag is free with the next generation; one for no live use is counted STALE. A
tag whose timer has expired ends its READ with poison or gives its transfer's token, one whose timer runs stays (RDATA's status field is log entry 38). -/
def Obligations.LinkAnswers : Prop :=
  ∀ (s : State) (p : Fin 32),
    let q := s.link.port p
    (∀ (x : Transit) (core m chip rel : Nat) (els : List (Nat × Nat × Nat)), s.mayAct = true → s.plane.mesh = [x] →
      x.due ≤ s.plane.now → x.lost = false → x.load = .remRead core m p chip rel els →
      q.state = 0 → s.link.mstate ≠ 3 → (s.link.mstate = 2 → chip ∈ s.link.mask) → ∃ t, exec (.segmentHandOver p) s = .next t ∧
        t = { s with plane := { s.plane with mesh := [] }, link := t.link } ∧
        t.link.resp = s.link.resp ++ [⟨core, m, 400 + p, rel, els.map fun e => (elName e.1 e.2.2, none)⟩] ∧
        (t.link.port p).lastErr = 3 ∧ (t.link.port p).doneErr = satAdd 16 q.doneErr (readRuns s.chip els).length) ∧
    (∀ (x : Transit) (chip vc k : Nat), s.mayAct = true → s.plane.mesh = [x] → x.due ≤ s.plane.now → x.lost = false →
      q.state = 2 → s.link.mstate = 2 → chip ∈ s.link.mask → q.outq = [] → s.link.byreStill p → q.replay.length < 512 →
      0 < nth q.credits vc 0 → s.link.room s.chip p [x.load] = true →
      let leaves := fun (t : State) (g : Seg) =>
        let f : Flit := ⟨vc, q.txSeq, 0, s.link.epoch, chip, s.chip.herdX, 15, 0, 0, false, [g]⟩
        exec (.segmentHandOver p) s = .next t ∧ t.plane.mesh = [] ∧ t.ext = s.ext ∧
          (t.link.port p).replay = q.replay ++ [f] ∧ (t.link.port p).wire = q.wire ++ [.data (q.stamp f).encode]
      let taken := fun (t : State) (u : TagUse) =>
        (t.link.port p).tag k = ⟨(q.tag k).gen, some u, s.link.clock + 65536 * q.tagTimeout.toNat⟩ ∧
          ∀ j, j ≠ k → (t.link.port p).tag j = q.tag j
      (∀ core m rel idx a code, x.load = .remRead core m p chip rel [(idx, a, code)] → a < 2 ^ 39 → vc = 0 → q.freeTag = some k →
        ∃ t, leaves t ⟨2, k, (q.tag k).gen, 0, m, core, (a + elSpan (idx, a, code) + 31) / 32 * 32 - a / 32 * 32, a / 32 * 32, []⟩ ∧
          taken t (.read core m rel chip (a / 32 * 32) [(idx, a, code)])) ∧
      (∀ core m fmt addr bs fold, x.load = .remSeg core m p chip fmt fold false addr bs → vc = (if fold then 2 else 0) →
        q.asm = [] → q.gone = [] → q.tagOf (.xfer core m chip fold false) = none → q.freeTag = some k →
        ∃ t, leaves t ⟨if fold then 3 else 1, k, (q.tag k).gen, if fold then fmt else 0, m, core, if fold then 0 else halfAux bs, addr,
            bs.map (·.2)⟩ ∧
          taken t (.xfer core m chip fold false)) ∧
      (∀ core m n fold, x.load = .remClose core m p chip n fold → vc = (if fold then 2 else 0) → q.gone = [] →
        q.tagOf (.xfer core m chip fold false) = some k →
        ∃ t, leaves t ⟨4, k, (q.tag k).gen, 0, m, core, n, 0, []⟩ ∧ ((t.link.port p).tag k).use = some (.xfer core m chip fold true) ∧
          ∀ j, j ≠ k → (t.link.port p).tag j = q.tag j)) ∧
    (∀ (f : Flit) (idx : Nat) (g : Seg), q.nextSeg 1 = some (f, idx, g) →
      let l1 := s.link.onPort p fun q => q.popSeg s.link.epoch 1
      let tg := q.tag g.tag
      let freed := fun (t : State) (status : Nat) => (t.link.port p).tag g.tag = ⟨(tg.gen + 1) % 16, none, 0⟩ ∧
        (∀ j, j ≠ g.tag → (t.link.port p).tag j = q.tag j) ∧
        (status = 0 → (t.link.port p).doneOk = q.doneOk + 1 ∧ (t.link.port p).doneErr = q.doneErr) ∧
        (status ≠ 0 → (t.link.port p).lastErr = status ∧ (t.link.port p).doneErr = satAdd 16 q.doneErr 1 ∧
          (t.link.port p).doneOk = q.doneOk)
      (g.op = 8 → (tg.use = none ∨ tg.gen ≠ g.gen) → exec (.rdata p) s = .next { s with
        link := l1.onPort p fun q => { q with stale := satAdd 16 q.stale 1 } }) ∧
      (g.op = 9 → (tg.use = none ∨ tg.gen ≠ g.gen) → exec (.done p) s = .next { s with
        link := l1.onPort p fun q => { q with stale := satAdd 16 q.stale 1 } }) ∧
      (∀ core m rel chip addr els, g.op = 8 → tg.gen = g.gen → tg.use = some (.read core m rel chip addr els) →
        ∃ t vals, exec (.rdata p) s = .next t ∧ freed t (bits g.aux 15 8) ∧ t = { s with link := t.link } ∧
          t.link.resp = s.link.resp ++ [⟨core, m, 400 + p, rel, vals⟩] ∧
          vals.length = els.length ∧ ∀ i (h : i < els.length), vals[i]? = some (elName els[i].1 els[i].2.2,
            if bit g.aux ((els[i].2.1 - addr) / 32) then none
            else some (let w := els[i].2.2
              let v := leAt g.data (els[i].2.1 - addr)
              if w = 4 then v 1 % 16 else if w = 5 then v 1 / 16
              else if w = 257 ∨ w = 258 then v 32 else v (max 1 (w / 8))))) ∧
      (∀ core m chip fold closed, g.op = 9 → tg.gen = g.gen → tg.use = some (.xfer core m chip fold closed) →
        ∃ t, exec (.done p) s = .next t ∧ freed t (bits g.aux 7 0) ∧ t = { s with link := t.link } ∧
          t.link.ob.tokens = s.link.ob.tokens ++ [(core, 2040 + m)])) ∧
    (∀ (tag : Fin 256) (u : TagUse), (q.tag tag).use = some u →
      (s.link.clock < (q.tag tag).due → exec (.tagTimeout p tag) s = .next s) ∧
      ((q.tag tag).due ≤ s.link.clock → ∃ t, exec (.tagTimeout p tag) s = .next t ∧ t = { s with link := t.link } ∧
        (t.link.port p).tag tag = ⟨((q.tag tag).gen + 1) % 16, none, 0⟩ ∧
        (t.link.port p).timeouts = satAdd 16 q.timeouts 1 ∧ (t.link.port p).lastErr = 4 ∧
        (∀ core m rel chip addr els, u = .read core m rel chip addr els →
          t.link.resp = s.link.resp ++ [⟨core, m, 400 + p, rel, els.map fun e => (elName e.1 e.2.2, none)⟩]) ∧
        (∀ core m chip fold closed, u = .xfer core m chip fold closed →
          t.link.ob.tokens = s.link.ob.tokens ++ [(core, 2040 + m)])))

/-- Training and lanes (R433 to R435, R437, R558). A training that finishes with three good lanes or more brings the port UP, or in P2
and P3 to LOW with its lowest good lane, marks the lanes that failed in it as bad and sends this port's IDENT; otherwise the port is DOWN and no lane is marked. The first training sets the credits; a later one keeps credit, SEQ and the replay buffer. A
DOWN port with a cable tries again. A lane that fails leaves the lanes in use, and the port trains without it; DISABLE takes it
down with no lane up; clearing it starts a training without the bad lanes, and RETRAIN one with all lanes, if a cable is seated (which of the two tries all lanes: log entry 29). -/
def Obligations.Training : Prop :=
  ∀ (s : State) (p : Fin 32),
    let q := s.link.port p
    (∀ (lanes : BitVec 6) (fin : Bool) (peerId : BitVec 64) (peerPort : Fin 32) (rtt : BitVec 32) (asym : BitVec 32), q.state = 1 →
      let good := lanes.toNat &&& (63 - q.badLanes)
      let failed := 63 - q.badLanes - good
      ((fin = false ∨ laneCount good < 3) → ∃ t, exec (.linkTraining p lanes fin peerId peerPort rtt asym) s = .next t ∧
        (t.link.port p).state = 0 ∧ (t.link.port p).lanes = 0 ∧ (t.link.port p).badLanes = q.badLanes ∧
        (t.link.port p).failovers = q.failovers ∧ ∀ d, d ≠ p.val → t.link.port d = s.link.port d) ∧
      (fin = true → 3 ≤ laneCount good → q.outq = [] → s.link.byreStill p → ∃ t,
        exec (.linkTraining p lanes fin peerId peerPort rtt asym) s = .next t ∧
        (t.link.port p).state = (if 2 ≤ s.pwr.state then 3 else 2) ∧
        (t.link.port p).lanes = (if 2 ≤ s.pwr.state then lowestLane good else good) ∧
        (t.link.port p).badLanes = q.badLanes + failed ∧ (t.link.port p).failovers = satAdd 16 q.failovers (laneCount failed) ∧
        (t.link.port p).peerId = peerId ∧ (t.link.port p).peerPort = peerPort ∧ (t.link.port p).rtt = rtt ∧ (t.link.port p).asym = asym ∧
        (q.replay = [] → (t.link.port p).wire = q.wire ++ [.ident s.sup.moduleId p [128, 128, 128, 32]]) ∧
        (q.trained = false → (t.link.port p).credits = [128, 128, 128, 32] ∧ (t.link.port p).rxSeq = 0 ∧ (t.link.port p).txSeq = 0) ∧
        (q.trained = true → (t.link.port p).credits = q.credits ∧ (t.link.port p).rxSeq = q.rxSeq ∧
          (t.link.port p).txSeq = q.txSeq) ∧
        (t.link.port p).replay = q.replay ∧ ∀ d, d ≠ p.val → t.link.port d = s.link.port d)) ∧
    (s.on = true → s.sup.cabled p = true →
      (q.state = 0 → ∃ t, exec (.trainingRetry p) s = .next t ∧ t.link.port p = { q with
        state := 1, downSince := none, retrains := if q.trained then satAdd 16 q.retrains 1 else q.retrains }) ∧
      (q.state ≠ 0 → exec (.trainingRetry p) s = .next s)) ∧
    (∀ lane : Fin 6, bit q.lanes lane = true → q.state = 2 → ∃ t, exec (.laneFailure p lane) s = .next t ∧
      bit (t.link.port p).badLanes lane = true ∧ bit (t.link.port p).lanes lane = false ∧
      (t.link.port p).failovers = satAdd 16 q.failovers 1 ∧
      (t.link.port p).state = (if laneCount (63 - (q.badLanes ||| 2 ^ lane.val)) < 3 then 0 else 1)) ∧
    (s.snap.portThere p = true →
      (∃ t, exec (.disable p true) s = .next t ∧ (t.link.port p).state = 5 ∧ (t.link.port p).disable = true ∧
        (q.state ≠ 5 → (t.link.port p).lanes = 0)) ∧
      (∃ t, exec (.disable p false) s = .next t ∧ (t.link.port p).state = (if s.sup.cabled p then 1 else 0) ∧ (t.link.port p).disable = false ∧
        (t.link.port p).badLanes = q.badLanes) ∧
      (q.disable = false → s.sup.cabled p = true → ∃ t, exec (.retrain p) s = .next t ∧ (t.link.port p).state = 1 ∧
        (t.link.port p).badLanes = 0 ∧ (t.link.port p).replay = q.replay) ∧
      (q.disable = true ∨ s.sup.cabled p = false → exec (.retrain p) s = .next (s.onLink id)))

/-! ### Interrupts -/

/-- Lines (R485 to R487, R493). A line that rises becomes the line of its source, and in LEVEL mode makes it pending, unless a management source is
active; in P4 it sets the wake latch of a source that has one; a line that nothing raises does nothing. FILTER_ACCEPT takes the line over into the
filtered value, and in FILTER mode a rise makes the source pending, while a fall takes the pending of a management source back. A rise
that finds a data source pending is merged and counted. A source with HOST_EN signals its vector as it becomes pending. The first cycle of the service clock
makes every source with a set latch pending and clears the latch. -/
def Obligations.InterruptLines : Prop :=
  ∀ (s : State) (n : Fin 1024),
    let q := s.icu.src n
    let src := fun (i : Instr) (x : IcuSrc) => ∃ t, exec i s = .next t ∧ t.icu.src n = x ∧ t.icu.cores = s.icu.cores ∧
      ∀ m, m ≠ n.val → t.icu.src m = s.icu.src m
    let told := fun (i : Instr) => ∃ t, exec i s = .next t ∧
      t.host = (s.icu.msi ++ (if q.hostEn then [q.hostVec.toNat] else [])).foldl (fun (h : HostSt) v => h.signal 0 v) s.host
    let free := srcData n = true ∨ q.active = false
    (s.takeLine n = none → exec (.lineRise n) s = .next s) ∧
    (s.on = false → lineOutside n = true → s.takeLine n = some s →
      exec (.lineFall n) s = .next s ∧ exec (.filterAccept n) s = .next s ∧
      (srcWake n = true → src (.lineRise n) { q with latched := true })) ∧
    (s.on = true →
      (s.takeLine n = some s → q.line = false →
        (q.level = false → src (.lineRise n) { q with line := true }) ∧
        (q.level = true → q.pending = false → free →
          src (.lineRise n) { q with line := true, pending := true } ∧ told (.lineRise n)) ∧
        (q.level = true → ¬ free → src (.lineRise n) { q with line := true })) ∧
      (q.line = true →
        (q.level = true → srcData n = false → src (.lineFall n) { q with line := false, pending := false }) ∧
        (q.level = false ∨ srcData n = true → src (.lineFall n) { q with line := false })) ∧
      (q.filtered ≠ q.line →
        (q.level = true → src (.filterAccept n) { q with filtered := q.line }) ∧
        (q.level = false → q.line = true →
          (q.pending = false → free → src (.filterAccept n) { q with filtered := true, pending := true } ∧ told (.filterAccept n)) ∧
          (q.pending = true → srcData n = true →
            src (.filterAccept n) { q with filtered := true, coalesced := satAdd 16 q.coalesced 1 }) ∧
          (¬ free → src (.filterAccept n) { q with filtered := true })) ∧
        (q.level = false → q.line = false →
          (srcData n = false → src (.filterAccept n) { q with filtered := false, pending := false }) ∧
          (srcData n = true → src (.filterAccept n) { q with filtered := false }))) ∧
      (∃ t, exec .wakeLatch s = .next t ∧ t.icu.cores = s.icu.cores ∧
        (∀ m, (s.icu.src m).latched = true → (t.icu.src m).latched = false ∧ (t.icu.src m).pending = true) ∧
        ((∀ p ∈ s.icu.srcs, p.2.latched = false) → t.icu.srcs = s.icu.srcs)))

/-- Takes, claims and completions (R484, R488 to R493); core 1 is the other half of the lockstep pair 0 (R473). A pending source that is not active is offered to the eligible core of its mask with the
lowest running priority, the lowest number first, and to none without one; PRIORITY 0 is never offered; the running priority of a core is the largest of its
threshold and of the priorities it holds. What is offered to a core is pending and not active, names the core, has a
priority above the core's running priority, and none of a higher priority is offered to it. A take goes to VBASE + 8L on a vectored level, with the
source active and JICU_SRC set, and to VBASE on a shared one, with no source changed; the trap saves the pc and the cause. A claim makes
the offered source active and returns it; without one it returns 0 and counts SPURIOUS. A completion by the owner ends ACTIVE, and a
management source whose value is still high is pending again; any other completion counts BAD_COMPLETE. -/
def Obligations.Interrupts : Prop :=
  ∀ (s : State) (k : Fin 20), s.on = true →
    let h := pairCore k.val
    let c := s.icu.core k
    let eligible := fun (n : Nat) (d : Nat) => s.icu.running d < (s.icu.src n).prio.toNat ∧
      (if (s.icu.core d).machine then (s.icu.core d).meie else (s.icu.core d).seie) = true ∧ d ∉ s.icu.lostCores
    let usable := fun (n d : Nat) => d < 20 ∧ d ≠ 1 ∧ (s.icu.src n).target.getLsbD d = true
    c.threshold.toNat ≤ s.icu.running h ∧
    (∀ x ∈ s.icu.srcs, x.2.active = true → x.2.owner = h → x.2.grantPri ≤ s.icu.running h) ∧
    (s.icu.running h = c.threshold.toNat ∨
      ∃ x ∈ s.icu.srcs, x.2.active = true ∧ x.2.owner = h ∧ x.2.grantPri = s.icu.running h) ∧
    (∀ n, (s.icu.src n).prio = 0 → s.icu.offeredTo n = none) ∧
    (∀ n, (∀ d, usable n d → ¬ eligible n d) → s.icu.offeredTo n = none) ∧
    (∀ n d, (s.icu.src n).pending = true → (s.icu.src n).active = false → usable n d → eligible n d →
      ∃ e, s.icu.offeredTo n = some e ∧ usable n e ∧ eligible n e ∧
        (s.icu.running e < s.icu.running d ∨ (s.icu.running e = s.icu.running d ∧ e ≤ d))) ∧
    let taken := fun (n : Nat) => { s.icu.src n with
      active := true, pending := false, owner := h, grantPri := (s.icu.src n).prio.toNat }
    let rest := fun (t : State) (n : Nat) => ∀ m, m ≠ n → t.icu.src m = s.icu.src m
    (∀ n, s.icu.offer h = some n →
      (s.icu.src n).pending = true ∧ (s.icu.src n).active = false ∧ (s.icu.src n).target.getLsbD h = true ∧
      s.icu.running h < (s.icu.src n).prio.toNat ∧
      ∀ m, s.icu.offeredTo m = some h → (s.icu.src m).prio.toNat ≤ (s.icu.src n).prio.toNat) ∧
    (c.state = 1 ∨ c.state = 2 →
      (s.icu.offer h = none → ∃ t, exec (.interruptTake k) s = .next t ∧ t.icu.srcs = s.icu.srcs ∧ t.icu.cores = s.icu.cores) ∧
      (∀ n, s.icu.offer h = some n →
        let l := (s.icu.src n).prio.toNat
        (c.vectored.getLsbD l = true → ∃ t, exec (.interruptTake k) s = .next t ∧ t.icu.src n = taken n ∧ rest t n ∧
          (t.icu.core k).pc = BitVec.ofNat 64 (c.vbase.toNat + 8 * l) ∧ (t.icu.core k).jicuSrc = BitVec.ofNat 10 n) ∧
        (c.vectored.getLsbD l = false → ∃ t, exec (.interruptTake k) s = .next t ∧ t.icu.srcs = s.icu.srcs ∧
          (t.icu.core k).pc = BitVec.ofNat 64 c.vbase.toNat) ∧
        ∃ t, exec (.interruptTake k) s = .next t ∧ (t.icu.core k).state = 1 ∧
          (c.deleg = true → c.machine = false → (t.icu.core k).sepc = c.pc ∧
            (t.icu.core k).scause = BitVec.ofNat 64 (2 ^ 63 + 9) ∧ (t.icu.core k).machine = false) ∧
          (¬ (c.deleg = true ∧ c.machine = false) → (t.icu.core k).mepc = c.pc ∧
            (t.icu.core k).mcause = BitVec.ofNat 64 (2 ^ 63 + 11) ∧ (t.icu.core k).machine = true))) ∧
    (∀ n, s.icu.offer h = some n → ∃ t, exec (.icuCoreClaim k) s = .next t ∧ t.bus = n ∧ t.icu.src n = taken n ∧ rest t n ∧
      t.icu.cores = s.icu.cores) ∧
    (s.icu.offer h = none → ∃ t, exec (.icuCoreClaim k) s = .next t ∧ t.bus = 0 ∧ t.icu.srcs = s.icu.srcs ∧
      t.icu.spurious = satAdd 16 s.icu.spurious 1 ∧ t.icu.cores = s.icu.cores) ∧
    (∀ n : Fin 1024,
      let q := s.icu.src n
      let mine := q.active = true ∧ q.owner = h
      let ended := { q with active := false, grantPri := 0, owner := 0 }
      (mine → srcData n = false → q.sensed = true → ∃ t, exec (.icuCoreComplete k n) s = .next t ∧
        t.icu.src n = { ended with pending := true } ∧ rest t n) ∧
      (mine → srcData n = true ∨ q.sensed = false → ∃ t, exec (.icuCoreComplete k n) s = .next t ∧
        t.icu.src n = ended ∧ rest t n) ∧
      (¬ mine → ∃ t, exec (.icuCoreComplete k n) s = .next t ∧ t.icu.srcs = s.icu.srcs ∧
        t.icu.badComplete = satAdd 16 s.icu.badComplete 1))

/-- LADLE and the stewards (R477 to R482). A LADLE that has moved all its elements retires: DONE is 0 and the pc goes on. With
elements left, one element within the data SRAMs is moved and counted; a word that is reserved, and an address that is not aligned to the
element, take the exception, with the pc saved, at mtvec. STW_TOKEN keeps a token for its core and pail until its delivery, and a
routed event is logged and counted, with the map entry of its diagnosis kept, which awaits MAP_EXTEND (log entry 14). -/
def Obligations.LadleAndStewards : Prop :=
  ∀ (s : State) (k : Fin 20), s.on = true →
    let c := s.icu.core k
    let core := fun (i : Instr) (x : CtlCore) => ∃ t, exec i s = .next t ∧ t = { s with icu := s.icu.onCore k fun _ => x }
    let trap := fun (i : Instr) (cause tval : Nat) => core i { c with
      mepc := c.pc, mcause := BitVec.ofNat 64 cause, mtval := BitVec.ofNat 64 tval, mppM := c.machine, machine := true, pc := c.mtvec }
    (∀ (word : BitVec 32) (src dst : BitVec 64) (steps : Nat), c.state = 1 → isLadle word = true →
      (ladleSize word = none → trap (.ladle k word src dst steps) 2 word.toNat) ∧
      (∀ size, ladleSize word = some size →
        (src.toNat % size ≠ 0 → trap (.ladle k word src dst steps) 4 src.toNat) ∧
        (src.toNat % size = 0 → dst.toNat % size ≠ 0 → trap (.ladle k word src dst steps) 6 dst.toNat) ∧
        (src.toNat % size = 0 → dst.toNat % size = 0 →
          (c.ladleCnt ≤ c.ladleDone → core (.ladle k word src dst steps) { c with ladleDone := 0, pc := c.pc + 4 }) ∧
          (∀ m o d p, c.ladleDone < c.ladleCnt → (∀ n, (s.icu.src n).pending = false) →
            ctlPlace k (src.toNat + c.ladleDone.toNat * size) = .data m o →
            ctlPlace k (dst.toNat + c.ladleDone.toNat * size) = .data d p →
            ∃ t, exec (.ladle k word src dst 1) s = .next t ∧
              t.icu.dataSram.get [] d = Mem.write (s.icu.dataSram.get [] d) p (Mem.read (s.icu.dataSram.get [] m) o size) ∧
              (∀ e, e ≠ d → t.icu.dataSram.get [] e = s.icu.dataSram.get [] e) ∧ t.icu.fwSram = s.icu.fwSram ∧
              t.icu.core k = (if c.ladleDone + 1 = c.ladleCnt then { c with ladleDone := 0, pc := c.pc + 4 }
                else { c with ladleDone := c.ladleDone + 1 }))))) ∧
    (∀ val : BitVec 64,
      let q := bits val.toNat 18 11 / s.sup.cpq
      s.snap.quadrant q = true → k.val ∉ s.icu.lostCores → q < 8 →
      exec (.stwToken k val) s = .next { s with icu := s.icu.onSteward q fun w => { w with
        tokens := w.tokens ++ [(bits val.toNat 18 11, bits val.toNat 10 0)] } }) ∧
    (∀ (qd : Fin 8) (source : Fin 1024) (cause : Nat), (s.icu.steward qd).ready = true →
      exec (.stewardEventLog qd source cause none) s = .next { s with icu := s.icu.onSteward qd fun w => { w with
        logged := w.logged + 1, log := w.log ++ [(source.val, cause)] } } ∧
      ∀ d : BitVec 64, exec (.stewardEventLog qd source cause (some d)) s = .next { s with icu := s.icu.onSteward qd fun w => { w with
        logged := w.logged + 1, log := w.log ++ [(source.val, cause)], diag := w.diag ++ [d.toNat] } })

/-! ### Power, limits and the nonvolatile store -/

/-- Governor, temperatures and failures (R508 to R512, R523). A sample adds the input power above the cap to E, which never falls below 0;
E of 40 J, or a 1-ms average above 3,300 W, clamps with GOV_IDLE 16, and a clamp ends with E at 0. GOV_IDLE rises by 16 up to 224 above the cap and falls by
8 down to 16 below the cap less 100 W. The thermal level follows the hotter die by the table of R510, one level down a sample, and a die at 115 °C raises its line. A fault stop whose cause stands
latches the first cause, writes the crash record while the main rails stand or the bank holds 3 J, and leaves the module off; one whose cause does not stand does nothing. East lost takes its dies, stacks and
ports away and stops the run; one steward core lost leaves the quadrant to the other, both lost take the quadrant away. -/
def Obligations.LimitsAndFailures : Prop :=
  ∀ s : State, s.on = true →
    let p := s.pwr
    (∀ power avg rail : Nat,
      let e := p.excess + power - p.cap
      let q := { p with excess := e, powerW := avg % 65536, rail := rail % 65536, peakW := max p.peakW (avg % 65536) }
      let gives := fun (r : PwrSt) => exec (.governorSample power avg rail) s = .next { s with pwr := r }
      (p.clamped = false → 4000000 ≤ e ∨ 3300 < avg → gives { q with
        clamped := true, idle := 16, clamps := satAdd 16 p.clamps 1, ob := p.ob.event 0xA 1 0 }) ∧
      (p.clamped = false → e < 4000000 → avg ≤ 3300 → gives q) ∧
      (p.clamped = true → e = 0 → gives { q with clamped := false, idle := 0, ob := p.ob.event 0xA 2 0 }) ∧
      (p.clamped = true → e ≠ 0 → gives q)) ∧
    (∀ power : Nat,
      let gives := fun (n : Nat) => exec (.governorAdjust power) s = .next { s with pwr := { p with idle := n } }
      (p.clamped = true → p.cap < power → gives (min 224 (p.idle + 16))) ∧
      (p.clamped = true → power + 100 < p.cap → gives (max 16 (p.idle - 8))) ∧
      (p.clamped = false ∨ (power ≤ p.cap ∧ p.cap ≤ power + 100) → gives p.idle)) ∧
    (∀ west east : Nat,
      let t := max west east
      let old := p.level
      ∃ u, exec (.dieThermalSample west east) s = .next u ∧ u = { s with pwr := u.pwr } ∧
        u.pwr.level = (if old < 3 ∧ 112 ≤ t then 3 else if old < 2 ∧ 109 ≤ t then 2 else if old < 1 ∧ 105 ≤ t then 1
          else if old = 3 ∧ t ≤ 109 then 2 else if old = 2 ∧ t ≤ 106 then 1 else if old = 1 ∧ t ≤ 102 then 0 else old) ∧
        u.pwr.changes = (if u.pwr.level = old then p.changes else satAdd 16 p.changes 1) ∧
        u.pwr.ob.rise = p.ob.rise ++ (if 115 ≤ west then [7] else []) ++ (if 115 ≤ east then [8] else []) ∧
        u.pwr.ob.events = (if u.pwr.level = old then p.ob.events else p.ob.events ++ [(0xA, 3 + 256 * (u.pwr.level % 256), 0)]) ∧
        u.pwr.westC = min 255 west ∧ u.pwr.eastC = min 255 east ∧
        u.pwr.hotWest = (if 115 ≤ west then p.hotWest + 1 else 0) ∧
        u.pwr.hotEast = (if 115 ≤ east then p.hotEast + 1 else 0) ∧
        u.pwr.idle = p.idle ∧ u.pwr.clamped = p.clamped ∧ u.pwr.cap = p.cap) ∧
    (∀ (cause : Fin 256) (rtc : BitVec 48) (rails : Bool),
      let stands := cause.val = 1 ∨ cause.val = 2 ∨ (cause.val = 3 ∧ 2 ≤ p.hotWest) ∨ (cause.val = 4 ∧ 2 ≤ p.hotEast) ∨
        cause.val = 5 ∨ cause.val = 6 ∨ (cause.val = 7 ∧ p.clamped = true ∧ 5000000 ≤ p.excess)
      let crash := [3, 4, 5, 7].contains cause.val && (rails || decide (3000 ≤ p.energy))
      (stands → ∃ t, exec (.faultStop cause rtc rails) s = .next t ∧ t.on = false ∧ t.clockOn = false ∧ t.sup.rtc = rtc ∧
        (p.faultValid = false → t.pwr.faultValid = true ∧ t.pwr.faultCause = cause ∧ t.pwr.faultRtc = rtc ∧
          t.pwr.crashRec = crash) ∧
        (p.faultValid = true → t.pwr.faultValid = true ∧ t.pwr.faultCause = p.faultCause ∧ t.pwr.faultRtc = p.faultRtc) ∧
        (crash = false → t.pwr.crashes = p.crashes) ∧
        (crash = true → p.crashes.length < 256 → t.pwr.crashes = p.crashes ++ [(cause.val, rtc.toNat)]) ∧
        t.img.library = s.img.library ∧ t.sec.record = s.sec.record ∧ t.sec.life = (if s.sec.scrapFuse then .scrapped else s.sec.life)) ∧
      (¬ stands → exec (.faultStop cause rtc rails) s = .next { s with sup := { s.sup with rtc := rtc } })) ∧
    (s.sup.eastOk = true → ∃ t, exec .eastLost s = .next t ∧ t.sup.eastOk = false ∧ t.sup.quadrantOk = s.sup.quadrantOk % 16 ∧
      t.sup.short = s.sup.short ||| 0xF0 ∧ t.plane.stop = true ∧ t.plane.sites = s.plane.sites.filter (·.2 < 72) ∧
      t.plane.cores = s.plane.cores ∧ t.icu.lostCores = s.icu.lostCores ++ [12, 13, 14, 15, 16, 17, 18, 19] ∧ t.pwr = { p with ob := (p.ob.line 70).event 9 0 0 } ∧
      (∀ d : Fin 32, (t.link.port d).state = (if 16 ≤ d.val then 0 else (s.link.port d).state)) ∧ t.host = s.host) ∧
    (s.sup.eastOk = false → exec .eastLost s = .next s) ∧
    (∀ k : Fin 20, 2 ≤ k.val → k.val ∉ s.icu.lostCores →
      let q := (k.val - 4) / 2
      let mate := if k.val % 2 = 0 then k.val + 1 else k.val - 1
      (k.val < 4 ∨ mate ∉ s.icu.lostCores → ∃ t, exec (.stewardCoreLost k) s = .next t ∧
        t.icu.lostCores = s.icu.lostCores ++ [k.val] ∧ (t.icu.core k).state = 4 ∧
        t = { s with icu := t.icu, pwr := t.pwr } ∧ t.pwr = (if k.val < 4 then p else { p with ob := p.ob.event 0xA (8 + 256 * k.val) 0 })) ∧
      (4 ≤ k.val → mate ∈ s.icu.lostCores → ∃ t, exec (.stewardCoreLost k) s = .next t ∧
        t.sup.quadrantOk = s.sup.quadrantOk &&& (255 - 1 <<< q) ∧ t.sup.short = s.sup.short ||| 1 <<< q ∧
        t.plane.sites = s.plane.sites.filter (fun x => x.2 / 18 != q) ∧
        (∀ i : Fin 4, (t.link.port (4 * q + i)).state = 4) ∧ (t.icu.steward q).ready = false))

/-- The nonvolatile store and snapshots (R32, R481, R514 to R521). A health check sets what the bank gives and reports HOLDUP_LOW below 15 J and
HOLDUP_UNHEALTHY. No commit runs while a health check is overdue. The oldest commit that waits is refused with HOLDUP, and nothing is written, on a bank that is not healthy or holds less than
its need and 3 J, and otherwise writes INTENT, COMMIT and DONE and its content; a map extension that changes nothing any more, or finds no entry left, is refused as R32 says; a host command that waits for it completes. Each share of 80,
90 and 100 % that the mean or the worst block passes is reported. A trigger takes a shot of the module, or is counted in MISSED while BUSY; at the end of the capture the view
switches whole and NUMBER goes up by one. -/
def Obligations.StoreAndSnapshots : Prop :=
  ∀ s : State, s.on = true →
    let p := s.pwr
    let low := fun (energy : Nat) => if energy < 15000 then (p.ob.event 0xA 4 0).line 6 else p.ob
    let due := p.checked + 60 * 32768 < s.sup.rtc.toNat
    (∀ energy cap esr : Nat,
      let ok := decide (85 ≤ cap) && decide (esr ≤ 150)
      exec (.holdupHealthCheck energy cap esr) s = .next { s with pwr := { p with
        energy := min 65535 energy, capPct := min 255 cap, esrPct := min 255 esr, healthy := ok, checked := s.sup.rtc.toNat
        ob := if ok then low energy else (low energy).event 0xA 5 0 } }) ∧
    (p.commits = [] ∨ due → ∀ energy : Nat, exec (.durableCommit energy) s = .next s) ∧
    (∀ (energy : Nat) (c : Commit) (rest : List Commit), energy < 65536 → p.commits = c :: rest → ¬ due →
      let p1 := { p with commits := rest, energy := energy, ob := low energy }
      let fits := fun (need : Nat) => p.healthy = true ∧ need + 3000 ≤ energy ∧ p.railsFailing = false
      let done := fun (q : PwrSt) (kind target : Nat) (content : Bytes) =>
        let r := fun (st : Nat) => (⟨p.nextSeq, st, kind, target, sha384 content⟩ : JRec)
        ({ q with
          journal := p.journal ++ [r 0, r 1, r 2]
          nextSeq := p.nextSeq + 1
          done := p.done + 1 } : PwrSt).note 5 kind
      let gives := fun (t : State) (r0 : Nat) => exec (.durableCommit energy) s = .next (t.answerCommit c.cmd 0 0 r0)
      let refused := exec (.durableCommit energy) s =
        .next ({ s with pwr := { p1 with refused := satAdd 16 p.refused 1 } }.answerCommit c.cmd 1 0x82 0)
      (c.act = .audit → (fits 2000 → gives { s with pwr := done { p1 with
        auditLog := newest (2 ^ 24) (p.auditLog ++ p.audit.take 1024), audit := p.audit.drop 1024 } 2 0 [] } 0) ∧ (¬ fits 2000 → refused)) ∧
      (∀ e, c.act = .mapExt e →
        let u := { s.sup with exts := s.sup.exts ++ [e] }
        (s.sup.extCode e = 0 → fits 3000 → ∃ i, gives { s with pwr := done p1 3 e (leBytes 8 e), sup := u, icu := i } (s.sup.exts.length + 1) ∧
          ∀ q : Fin 8, (i.steward q).diag = (s.icu.steward q).diag.filter fun d => !u.nextMap.invalid d) ∧
        (s.sup.extCode e = 0 → ¬ fits 3000 → refused) ∧
        (s.sup.extCode e ≠ 0 → exec (.durableCommit energy) s =
          .next ({ s with pwr := p1 }.answerCommit c.cmd 1 (if s.sup.nextMap.invalid e then 0x85 else 0x81) 0))) ∧
      (∀ slot img, c.act = .store slot img → (fits 4000 → gives { s with
        pwr := done p1 4 slot img, img := { s.img with library := s.img.library.set slot img } } img.length) ∧
        (¬ fits 4000 → refused)) ∧
      (∀ slot, c.act = .delete slot → (fits 4000 → gives { s with
        pwr := done p1 4 slot [], img := { s.img with library := s.img.library.del slot } } 0) ∧ (¬ fits 4000 → refused)) ∧
      (∀ slot svn, c.act = .firmware slot svn → (fits 12000 → gives { s with
        pwr := done p1 5 slot (leBytes 2 svn)
        sec := { s.sec with activeSlot := slot, rollback := BitVec.ofNat 16 (max s.sec.rollback.toNat svn) } } 0) ∧
        (¬ fits 12000 → refused))) ∧
    (∀ life worst bad erased : Nat, life < 256 → worst < 256 → bad < 65536 → erased < 2 ^ 32 →
      let passed := fun (old new : Nat) => [80, 90, 100].filter fun t => decide (old < t) && decide (t ≤ new)
      exec (.nandWearManagement life worst bad erased) s = .next { s with pwr := { p with
        lifePct := life, worstPct := worst, badBlocks := bad, erasedMib := erased
        ob := (passed p.lifePct life ++ passed p.worstPct worst).foldl (fun (o : Outbox) t => o.event 0xA (7 + 256 * t) 0) p.ob } }) ∧
    (∀ i : Instr, i = .trigger ∨ (i = .periodicSnapshot ∧ s.tel.period ≠ 0) →
      (s.tel.busy = true → exec i s = .next { s with tel := { s.tel with missed := satAdd 16 s.tel.missed 1 } }) ∧
      (s.tel.busy = false → exec i s = .next { s with tel := { s.tel with
        busy := true, shot := some s.snap, shotFrozen := decide (2 ≤ s.pwr.state) } })) ∧
    (s.tel.period = 0 → exec .periodicSnapshot s = .next s) ∧
    (s.tel.busy = false → exec .snapshotCaptureEnd s = .next s) ∧
    (∀ x : Snap, s.tel.busy = true → s.tel.shot = some x →
      let ended := { s with tel := { s.tel with
        busy := false
        number := s.tel.number + 1
        frozen := s.tel.shotFrozen
        count := BitVec.ofNat 64 (x.plane.cadence.toNat - 1)
        plane := BitVec.ofNat 64 x.plane.shown
        view := some x
        shot := none } }
      (s.host.cmds = [] → exec .snapshotCaptureEnd s = .next ended) ∧
      (∀ c : HostCmd, s.host.cmds = [c] → c.op = 6 → c.waits = true →
        exec .snapshotCaptureEnd s = .next (ended.answer c.id 0 0 (s.tel.number + 1).toNat 0)))

/-! ### Security and debug -/

/-- Nonces and authorisations (R531, R532, R535 to R538, R549). GET_NONCE raises NONCE_SEQ by one commit and holds its nonce for 60 s. SUBMIT
takes steps 1 to 6 of R537 in order: POWER, STATE, WAIT or CLOSED, HOLDUP with nothing counted and the nonce held; then the counters
of the path rise, the nonce is voided, and a wrong nonce or signature ends it, with WAIT_S after an owner's failure; else the authorisation waits for
step 7. Step 7 commits the transition of its OP, with OWNER_FAIL 0: the new state, the record, GRANTED and the lease; a transition that erases ends the run and leaves
no library, no device memory and no erasure pending; a commit that is refused changes no state. The expiry of a lease ends
the session and relocks; a nonce expires. -/
def Obligations.Authorisations : Prop :=
  ∀ (s : State) (rtc : BitVec 48), s.on = true →
    let s0 := { s with sup := { s.sup with rtc := rtc } }
    let fits := s.pwr.healthy = true ∧ 3500 ≤ s.pwr.energy ∧ s.pwr.railsFailing = false
    let busyless := s.sec.busy = false
    (busyless → s.sec.life ≠ .scrapped → s.pwr.state ≠ 2 →
      (fits → ∃ t, exec (.getNonce rtc) s = .next t ∧ t = { s0 with pwr := t.pwr, sec := { s.sec with
        nonceSeq := s.sec.nonceSeq + 1, nonce := some (nonceOf (s.sec.nonceSeq + 1)), nonceEnd := rtc.toNat + 60 * 32768, result := 0 } } ∧
        t.pwr.done = s.pwr.done + 1) ∧
      (¬ fits → ∃ t, exec (.getNonce rtc) s = .next t ∧ t = { s0 with pwr := t.pwr, sec := { s.sec with result := 6 } } ∧
        t.pwr.refused = satAdd 16 s.pwr.refused 1)) ∧
    (busyless → s.sec.life = .scrapped ∨ s.pwr.state = 2 → exec (.getNonce rtc) s = .next { s0 with sec := { s.sec with
      result := if s.sec.life = .scrapped then 1 else 7 } }) ∧
    (busyless →
      let a := s.sec.mbox.read 0 8192
      let op := leAt a 40 1
      let ends := fun (code : Nat) => exec (.submit rtc) s = .next { s0 with sec := { s.sec with result := code } }
      let step1 := s.pwr.state = 0 ∨ s.pwr.state = 1 ∨ s.pwr.state = 3
      let step2 := opAllowed s.sec.life op = true ∧ leAt a 32 8 = s.sup.moduleId ∧ authWellFormed s.sec.record a = true
      let owner := 1 ≤ op ∧ op ≤ 4
      let wait := secondsTo rtc.toNat s.sec.waitEnd ≠ 0
      let closed := op = 5 ∧ s.sec.vendorDead = true
      (¬ step1 → ends 7) ∧ (step1 → ¬ step2 → ends 1) ∧ (step1 → step2 → owner → wait → ends 5) ∧ (step1 → step2 → closed → ends 9) ∧
      (step1 → step2 → (owner → ¬ wait) → ¬ closed →
        let good := op = 5 ∨ (s.sec.nonce = some (slice a 0 32) ∧ rtc.toNat < s.sec.nonceEnd)
        let code := s.sec.submitCheck s.sup.moduleId a
        let tries := fun (t : State) =>
          (owner → t.sec.ownerFail = satAdd 16 s.sec.ownerFail 1 ∧ t.sec.ownerTries = satAdd 16 s.sec.ownerTries 1) ∧
          (op = 5 → t.sec.vendorTries = s.sec.vendorTries + 1) ∧ t.sec.nonce = none ∧ t.sec.life = s.sec.life ∧
          t.sec.record = s.sec.record ∧ t.sec.level = s.sec.level
        let failed := fun (code : Nat) => ∃ t, exec (.submit rtc) s = .next t ∧ tries t ∧ t.sec.result = code ∧ t.sec.busy = false ∧
          (owner → t.sec.waitEnd = rtc.toNat + 2 ^ min (satAdd 16 s.sec.ownerFail 1) 12 * 32768) ∧
          (op = 5 → 15 ≤ s.sec.vendorTries → t.sec.vendorDead = true)
        (op ≤ 5 → ¬ fits → ∃ t, exec (.submit rtc) s = .next t ∧ t = { s0 with pwr := t.pwr, sec := { s.sec with result := 6 } }) ∧
        (5 < op ∨ fits → (¬ good → failed 2) ∧ (good → code ≠ 0 → failed code) ∧
          (good → code = 0 → ∃ t, exec (.submit rtc) s = .next t ∧ tries t ∧ t.sec.busy = true ∧ t.sec.verified = some op ∧ t.sec.auth = a)))) ∧
    (∀ op i, (op = 1 ∧ i = .takeOwnership rtc) ∨ (op = 2 ∧ i = .ownerOpen rtc) ∨ (op = 3 ∧ i = .setPolicy rtc) ∨
      (op = 4 ∧ i = .releaseOwnership rtc) ∨ (op = 5 ∧ i = .vendorOpen rtc) ∨ (op = 6 ∧ i = .vendorBlank rtc) ∨ (op = 7 ∧ i = .scrap rtc) →
      let newRec := slice s.sec.auth 64 2752
      (s.sec.verified ≠ some op → exec i s = .next s0) ∧
      (s.sec.verified = some op → fits → ∃ t, exec i s = .next t ∧ t.sec.verified = none ∧ t.sec.busy = false ∧ t.sec.result = 0 ∧
        t.sec.ownerFail = 0 ∧ t.sec.level ≤ t.sec.reach ∧
        t.sec.life = (match op with | 1 | 3 => .ownedLocked | 2 => .ownedOpen | 4 | 6 => .blank | 5 => .vendorOpen | _ => .scrapped) ∧
        (op = 1 ∨ op = 3 → t.sec.record = newRec ∧ t.sec.granted = 0) ∧
        (op = 2 → t.sec.record = s.sec.record ∧ t.sec.granted = leAt s.sec.auth 41 1 ∧
          t.sec.leaseEnd = rtc.toNat + leAt s.sec.auth 44 4 * 32768) ∧
        (op = 4 ∨ op = 5 → t.sec.record = [] ∧ t.sec.granted = 0) ∧ (op = 5 → t.sec.vendorTries = 0) ∧
        (op = 7 → t.sec.scrapFuse = true ∧ t.sec.level = 0 ∧ t.sec.keysOff = true) ∧
        (op ≤ 3 → s.sec.erasePending = false → t.img = s.img ∧ t.ext = s.ext ∧ t.plane = s.plane) ∧
        (4 ≤ op → t.img.library = [] ∧ t.ext.mem = [] ∧ t.img.active = 0 ∧ t.sec.erasePending = false)) ∧
      (s.sec.verified = some op → ¬ fits → ∃ t, exec i s = .next t ∧ t.sec.verified = none ∧ t.sec.busy = false ∧ t.sec.result = 6 ∧
        t.sec.life = s.sec.life ∧ t.sec.record = s.sec.record)) ∧
    (s.sec.life = .ownedOpen → s.sec.leaseEnd ≤ rtc.toNat → ∃ t, exec (.leaseExpiry rtc) s = .next t ∧ t.sec.level = 0 ∧
      t.sec.life = (if s.pwr.admits 1 then .ownedLocked else .ownedOpen) ∧ t.sec.record = s.sec.record) ∧
    (s.sec.life ≠ .ownedOpen ∨ rtc.toNat < s.sec.leaseEnd → exec (.leaseExpiry rtc) s = .next s0) ∧
    (s.sec.nonce ≠ none → s.sec.nonceEnd ≤ rtc.toNat → exec (.nonceExpiry rtc) s = .next { s0 with sec := { s.sec with
      nonce := none, nonceEnd := 0 } }) ∧
    (s.sec.nonce = none ∨ rtc.toNat < s.sec.nonceEnd → exec (.nonceExpiry rtc) s = .next s0)

/-- The debug port and attestation (R543 to R548; the form of the SPDM answers is log entry 17). A SESSION is granted up to the level that the
lifecycle state reaches, in P0 and P1; entering Full ends the run and clears the stores; END and RELOCK end it. EXTEST drives the pins from
the cells in a Full session and is otherwise BYPASS; IDCODE shifts out 0x13C51A7B. In a Full session a control core that runs halts and goes
on again. SPDM requests are answered and change no measured state; in P4 with STATE. -/
def Obligations.DebugAndAttestation : Prop :=
  ∀ s : State, s.pwr.railsFailing = false →
    (s.on = true → s.sec.busy = false →
      (s.sec.life ≠ .scrapped → s.pwr.state ≠ 2 →
        (∀ level : Fin 4, s.sec.verified = none →
          (s.sec.reach < level ∨ level.val = 3 → exec (.session level) s = .next { s with sec := { s.sec with result := 8 } }) ∧
          (level.val ≤ s.sec.reach → level.val ≤ 2 → s.pwr.state = 3 →
            exec (.session level) s = .next { s with sec := { s.sec with result := 7 } }) ∧
          (level.val ≤ s.sec.reach → s.pwr.state ≤ 1 →
            (level.val = 1 ∨ (level.val = 2 ∧ s.sec.level = 2) →
              exec (.session level) s = .next { s with sec := { s.sec with level := level, result := 0 } }) ∧
            (level.val = 2 → s.sec.level ≠ 2 → ∃ t, exec (.session level) s = .next t ∧ t.sec.level = 2 ∧ t.sec.result = 0 ∧
              t.img.active = 0 ∧ ∀ c ∈ t.plane.live, (t.plane.core c).st.tile = [] ∧ (t.plane.core c).ve.regs = []))) ∧
        ∀ i, i = .endSession ∨ (i = .session 0 ∧ s.sec.verified = none ∧ s.pwr.state ≤ 1) → ∃ t, exec i s = .next t ∧
          t = { s with icu := t.icu, sec := { s.sec with level := 0, result := 0 } } ∧ t.icu.srcs = s.icu.srcs ∧
          ∀ k : Fin 20, (t.icu.core k).state = (if (s.icu.core k).state = 3 then 1 else (s.icu.core k).state)) ∧
      (s.sec.life = .scrapped ∨ s.pwr.state = 2 →
        let no := { s with sec := { s.sec with result := if s.sec.life = .scrapped then 1 else 7 } }
        (∀ level, exec (.session level) s = .next no) ∧ exec .endSession s = .next no) ∧
      (s.sec.life ≠ .ownedOpen → ∃ t, exec .relock s = .next t ∧ t.sec = { s.sec with result := 1 } ∧ t.pwr = s.pwr ∧ t.icu = s.icu) ∧
      (s.sec.life = .ownedOpen → s.pwr.admits 1 = true → ∃ t, exec .relock s = .next t ∧ t.sec = { s.sec with
        life := .ownedLocked, granted := 0, leaseEnd := 0, level := 0, result := 0 })) ∧
    exec .bypass s = .next { s with sec := { s.sec with ir := .bypass, dap := false } } ∧
    exec .idcode s = .next { s with sec := { s.sec with ir := .idcode, dap := false }, data := leBytes 4 0x13C51A7B } ∧
    (s.on = true → exec .dapacc s = .next { s with sec := { s.sec with ir := .dapacc, dap := true } }) ∧
    (∀ cells : Bytes, s.on = true → s.sec.life ≠ .scrapped → exec (.samplePreload cells) s = .next { s with
      sec := { s.sec with ir := .sample, dap := false, scan := cells }
      data := freeBytes s.free cells.length
      free := s.free + cells.length }) ∧
    (s.on = true → s.sec.level = 2 → exec .extest s = .next { s with sec := { s.sec with
      ir := .extest, dap := false, driven := s.sec.scan } }) ∧
    (s.on = false ∨ s.sec.level ≠ 2 → exec .extest s = exec .bypass s) ∧
    (∀ k : Fin 20, (s.sec.level = 2 → s.pwr.state ≤ 1 →
        ((s.icu.core k).state = 1 ∨ (s.icu.core k).state = 2 →
          exec (.debugHalt k) s = .next { s with icu := s.icu.onCore k fun c => { c with state := 3 } }) ∧
        ((s.icu.core k).state = 3 → exec (.resume k) s = .next { s with icu := s.icu.onCore k fun c => { c with state := 1 } })) ∧
      (s.sec.level ≠ 2 → exec (.debugHalt k) s = .next s ∧ exec (.resume k) s = .next s)) ∧
    (s.sec.recovery = false → s.on = true →
      let answers := fun (i : Instr) (b : Bytes) => exec i s = .next { s with data := b }
      let pub := Config.certChain s.sec.aliasSeed
      exec .getVersion s = .next { s with data := [0x12, 0x13], sec := { s.sec with version12 := true } } ∧
      answers .getCapabilities (leBytes 4 0x16) ∧
      (∀ a b, exec (.negotiateAlgorithms a b) s = .next { s with
        data := (if a && b then leBytes 4 0x80 ++ leBytes 4 2 else leBytes 4 0 ++ leBytes 4 0)
        sec := { s.sec with negotiated := a && b } }) ∧
      (s.sec.keysOff = false →
        answers .getDigests (sha384 pub) ∧
        (∀ off len, answers (.getCertificate 0 off len) ((pub.drop off).take len)) ∧
        (∀ nonce, answers (.challenge 0 nonce) (sha384 pub ++ Config.aliasEcdsa s.sec.aliasSeed (nonce ++ sha384 pub))) ∧
        (∀ (index : Fin 256) nonce, index.val ≤ 8 ∨ index.val = 255 → ∃ m, m = s.sec.measured s.measEnv index nonce ∧
          answers (.getMeasurements index nonce) (m ++ Config.aliasEcdsa s.sec.aliasSeed (nonce ++ m))))) ∧
    (s.sec.recovery = false → s.on = false → exec .getVersion s = .next { s with data := [2] } ∧
      ∀ index nonce, exec (.getMeasurements index nonce) s = .next { s with data := [2] })

/-! ### The module -/

/-- Start-up and resets (R541, R564 to R569, R573). Every start-up leaves the module in P0 without an image, a run, external memory or a debug session, and
gives the cause. It holds at step 2 without the reference or with SYS_RST_N low, stays at step 3 in RECOVERY when no firmware slot passes, holds at step 4
without the input and at step 5 while hot; otherwise the clock starts with the cadence count at 0 and the stacks train. It starts at an
auxiliary power-up, which resets the real-time count and PWR_FAULT, at WAKE in P4 and at each module reset, which keep both and the wake latches. A
request, by the command or by a write of SUP_RESET_CTRL with its KEY, of a module reset waits for it; a compute reset waits for the second pass of a load, ends the run and zeroes the stores until its end. Without the
auxiliary rail the module is off, and the commits that waited are gone. -/
def Obligations.StartsAndResets : Prop :=
  ∀ (s : State) (c : StartCond),
    let passes := fun (k : Nat) => s.sec.slotOk (s.sec.slots.get FwSlot.factory k) && (s.sec.slots.get FwSlot.factory k).stewardOk
    let a := s.sec.activeSlot
    let starts := fun (i : Instr) (cause : Nat) (low : Bool) => ∃ t, exec i s = .next t ∧ t.sup.cause = cause ∧
      t.pwr.state = 0 ∧ t.img.active = 0 ∧ t.plane.launched = false ∧ t.ext.mem = [] ∧ t.host.cmds = [] ∧ t.sec.level = 0 ∧
      t.sec.record = s.sec.record ∧ (s.sec.erasePending = false → t.img.library = s.img.library) ∧
      (c.refclk = false → t.sup.step = 2 ∧ t.sup.held = 1) ∧
      (c.refclk = true → low = true → t.sup.step = 2 ∧ t.sup.held = 4) ∧
      (c.refclk = true → low = false →
        (c.fuseOk = false ∨ (passes a = false ∧ passes (1 - a) = false) → t.sup.step = 3 ∧ t.sec.recovery = true) ∧
        (c.fuseOk = true → passes a = true ∨ passes (1 - a) = true →
          t.sec.recovery = false ∧ t.sec.slot = (if passes a then a else 1 - a) ∧ t.sec.fallback = !passes a ∧
          (c.inputOk = false → t.sup.step = 4 ∧ t.sup.held = 2) ∧
          (c.inputOk = true → c.cool = false → t.sup.step = 5 ∧ t.sup.held = 3) ∧
          (c.inputOk = true → c.cool = true → t.sup.step = 7 ∧ t.sup.held = 0 ∧ t.plane.cadence = 0 ∧ t.clockOn = true ∧
            t.sup.eastOk = c.eastOk ∧ ∀ ch, ch < (if c.eastOk then 256 else 128) → (t.ext.chan ch).state = 1)))
    let kept := fun (i : Instr) => ∃ t, exec i s = .next t ∧ t.sup.rtc = s.sup.rtc ∧ t.pwr.faultValid = s.pwr.faultValid ∧
      t.pwr.faultCause = s.pwr.faultCause ∧ t.sup.moduleResets = s.sup.moduleResets + 1 ∧
      ∀ n, (s.icu.src n).latched = true → (t.icu.src n).latched = true
    starts (.auxiliaryPowerUp c) 1 s.sup.sysRst ∧
    (∃ t, exec (.auxiliaryPowerUp c) s = .next t ∧ t.sup.rtc = 0 ∧ t.pwr.faultValid = false ∧ t.sup.moduleResets = 0) ∧
    (s.on = false → s.pwr.railsFailing = false → starts (.wake c) 6 s.sup.sysRst ∧ kept (.wake c)) ∧
    (s.on = true → s.pwr.railsFailing = false →
      exec (.wake c) s = .next { s with data := [2] } ∧
      (s.sec.recovery = false → starts (.reset c) 3 s.sup.sysRst ∧ kept (.reset c)) ∧
      (s.sec.recovery = true → exec (.reset c) s = .next { s with data := [2] })) ∧
    (s.on = true → starts (.sysRstN true c) 2 true ∧ kept (.sysRstN true c)) ∧
    (s.on = false → exec (.sysRstN true c) s = .next { s with sup := { s.sup with sysRst := true } }) ∧
    (s.sup.held ≠ 4 → exec (.sysRstN false c) s = .next { s with sup := { s.sup with sysRst := false } }) ∧
    (s.sup.held = 0 → exec (.startHoldRelease c) s = .next s) ∧
    (s.on = true → s.sup.held ≠ 0 → s.sup.step = 5 → ∃ t, exec (.startHoldRelease c) s = .next t ∧
      t.sup.step = (if c.cool then 7 else 5) ∧ t.sup.held = (if c.cool then 0 else 3) ∧ t.sec = s.sec) ∧
    (∀ key : BitVec 16, s.on = true →
      (key = 0x5AFE → exec (.moduleRequest key) s = .next { s with sup := { s.sup with moduleWanted := some 4 } }) ∧
      (key = 0x5AFE → s.img.second = true →
        exec (.computeRequest key) s = .next { s with sup := { s.sup with computeWanted := true } }) ∧
      (key = 0x5AFE → s.img.second = false → ∃ t, exec (.computeRequest key) s = .next t ∧
        t.sup = { s.sup with
          zeroing := true, computeWanted := false, cause := 5, computeResets := s.sup.computeResets + 1 } ∧
        t.img = { s.img with active := 0, activeHash := [], sampled := none } ∧ t.plane = s.plane.clear ∧ t.clockOn = false ∧ t.ext = s.ext ∧
        t.herd.bar = none ∧ t.herd.unmatched = (s.herd.unmatched || s.recordsLeft) ∧ t.herd.count = s.herd.count ∧
        t.link = s.link.newRun ∧ t.icu = s.icu ∧ t.sec = s.sec ∧ t.host = s.host) ∧
      (key ≠ 0x5AFE → exec (.moduleRequest key) s = .next s ∧ exec (.computeRequest key) s = .next s)) ∧
    (∀ val : BitVec 64, s.on = true →
      let key := bits val.toNat 63 48 = 0x5AFE
      (¬ key → exec (.registerWrite (.host 0) 0x6008 8 val) s = .next s) ∧
      (key → bit val.toNat 1 = true → exec (.registerWrite (.host 0) 0x6008 8 val) s = exec (.moduleRequest 0x5AFE) s) ∧
      (key → bit val.toNat 1 = false → bit val.toNat 0 = true →
        exec (.registerWrite (.host 0) 0x6008 8 val) s = exec (.computeRequest 0x5AFE) s) ∧
      (bit val.toNat 1 = false → bit val.toNat 0 = false → exec (.registerWrite (.host 0) 0x6008 8 val) s = .next s) ∧
      exec (.readClear (.host 0) 0x6008 8) s = .next { s with bus := 0 }) ∧
    (∀ cause, s.on = true → s.sup.moduleWanted = some cause → starts (.moduleReset c) cause s.sup.sysRst ∧ kept (.moduleReset c)) ∧
    (s.sup.moduleWanted = none → exec (.moduleReset c) s = .next s) ∧
    (s.sup.zeroing = true → exec .computeResetEnd s = .next { s with
      sup := { s.sup with zeroing := false }, plane := { s.plane with cadence := 0 } }) ∧
    (s.sup.zeroing = false → exec .computeResetEnd s = .next s) ∧
    (∃ t, exec .auxiliaryRailFail s = .next t ∧ t.on = false ∧ t.pwr.railsFailing = true ∧ t.pwr.commits = [] ∧
      t.pwr.journal = s.pwr.journal ∧ t.img.library = s.img.library ∧ t.sup.rtc = s.sup.rtc)

/-- The sideband and firmware (R542, R563). GET_ID answers with the identity, the start-up state, PWR_FAULT, the power state and the lifecycle state;
FAULT_CLEAR clears PWR_FAULT, and both in every state. A firmware update writes the slot that does not run, unless its SVN is below ROLLBACK; the
activation of a slot that passes its checks waits for its FIRMWARE commit, and no other slot is activated; in P4 both are answered with STATE. -/
def Obligations.SidebandAndFirmware : Prop :=
  ∀ s : State, s.pwr.railsFailing = false →
    exec .getId s = .next { s with data := 0 :: (leBytes 8 s.sup.moduleId ++ leBytes 8 s.sup.startStat ++ leBytes 8 (s.pwr.reg 0 0x38) ++
      [BitVec.ofNat 8 s.pwr.state, BitVec.ofNat 8 s.sec.life.code]) } ∧
    exec .faultClear s = .next { s with pwr := { s.pwr with faultValid := false, faultCause := 0, crashRec := false }, data := [0] } ∧
    (∀ (pair : Fin 5) (signed bodyOk stewardOk : Bool) (svn : BitVec 16) (version : BitVec 32) (body : Bytes),
      let f : FwSlot := ⟨pair, signed, svn, version, bodyOk, stewardOk, body⟩
      let i := Instr.firmwareUpdate pair signed svn version bodyOk stewardOk body
      (s.on = true → s.sec.rollback.toNat ≤ svn.toNat → ∃ t, exec i s = .next t ∧ t = { s with sec := { s.sec with slots := t.sec.slots } } ∧
        t.sec.slots.get FwSlot.factory (1 - s.sec.slot) = f ∧
        ∀ k, k ≠ 1 - s.sec.slot → t.sec.slots.get FwSlot.factory k = s.sec.slots.get FwSlot.factory k) ∧
      (s.on = true → svn.toNat < s.sec.rollback.toNat → exec i s = .next s) ∧
      (s.on = false → exec i s = .next { s with data := [2] })) ∧
    (s.on = true →
      let k := 1 - s.sec.slot
      let f := s.sec.slots.get FwSlot.factory k
      let good := f.pair < 4 ∧ s.sec.revoked.getLsbD f.pair = false ∧ f.signed = true ∧ s.sec.rollback.toNat ≤ f.svn.toNat ∧ f.bodyOk = true
      (good → exec .firmwareActivation s = .next { s with pwr := { s.pwr with
        commits := s.pwr.commits ++ [⟨.firmware k f.svn.toNat, none⟩] } }) ∧
      (¬ good → exec .firmwareActivation s = .next s)) ∧
    (s.on = false → exec .firmwareActivation s = .next { s with data := [2] })

/-! ### Reset and the invariant of the debug port -/

/-- The module right after reset, by the values the spec gives: P0 (R524), the cap at 2,800 W and not locked (R525), no image (R345), no ring enabled and
no command (R472), BLANK as delivered without a debug session (R530, R553; log entry 6), source 300 at PRIORITY 8, FILTER 4 and TARGET 0x40 (R483, R495),
and every core IDLE at step 0 with its tallies and pails at 0, its watchdog at 0x40000000 cycles and its flush thresholds at -56 and -120
(R184, R248, R271, R273, R274); the commands' queue is empty and the module's memories list nothing (log entries 1 and 8). The debug level is within
reach there. -/
def Obligations.ResetValues : Prop :=
  let s := State.reset
  s.pending = [] ∧ s.pwr.state = 0 ∧ s.pwr.cap = 2800 ∧ s.pwr.lock = false ∧ s.img.active = 0 ∧ s.img.shadow = 0 ∧
  s.host.cmds = [] ∧ (∀ g, (s.host.ring g).sqEn = false ∧ (s.host.ring g).cqEn = false) ∧ s.sec.life = .blank ∧
  s.sec.level = 0 ∧ s.sec.level ≤ s.sec.reach ∧
  (s.icu.src 300).prio = 8 ∧ (s.icu.src 300).target = 0x40 ∧ (s.icu.src 300).filter = 4 ∧
  (∀ c : Fin 128,
    let k := s.plane.core c
    k.seq.state = .idle ∧ k.seq.step = 0 ∧ k.seq.wdogLimit = 0x40000000 ∧ k.seq.wdogCount = 0 ∧
    (∀ i : Fin 16, k.tally i = ⟨0, false⟩) ∧ (∀ p, k.pail p = Pail.reset) ∧ k.ve.flush16 = -56 ∧ k.ve.flush32 = -120) ∧
  s.ext.mem = [] ∧ ∀ c, (s.plane.core c).st.tile = []

/-- What a debug session may do never goes beyond what the lifecycle state lets a session reach (R530, R547, R548): every step keeps the
debug level within the level that the state reaches. -/
def Obligations.DebugWithinReach : Prop :=
  ∀ s t : State, s.sec.level ≤ s.sec.reach → step s = .next t → t.sec.level ≤ t.sec.reach
end

