-- ==== Sys2Proof/Laws/Tab.lean ====
section
/-! SUPPORT. Laws of the sparse tables: a read after a write. -/

namespace Sys2Proof

variable {α : Type}

@[simp] theorem Tab.get_nil (d : α) (i : Nat) : Tab.get d [] i = d := rfl

@[simp] theorem Tab.get_set_self (d : α) (t : Tab α) (i : Nat) (x : α) : (t.set i x).get d i = x := by
  induction t with
  | nil => simp [Tab.set, Tab.get]
  | cons p t ih =>
    obtain ⟨j, y⟩ := p
    simp only [Tab.set]
    split
    · simp [Tab.get]
    · split
      · simp [Tab.get]
      · rename_i h1 h2
        simp only [Tab.get]
        rw [if_neg (fun h => h2 h.symm)]
        exact ih

theorem Tab.get_set_ne (d : α) (t : Tab α) {i k : Nat} (x : α) (h : k ≠ i) : (t.set i x).get d k = t.get d k := by
  induction t with
  | nil => simp [Tab.set, Tab.get, h.symm]
  | cons p t ih =>
    obtain ⟨j, y⟩ := p
    simp only [Tab.set]
    split
    · simp [Tab.get, h.symm]
    · split
      · rename_i h1 h2
        subst h2
        simp [Tab.get, h.symm]
      · simp only [Tab.get, ih]

@[simp] theorem Tab.set_set (t : Tab α) (i : Nat) (x y : α) : (t.set i x).set i y = t.set i y := by
  induction t with
  | nil => simp [Tab.set]
  | cons p t ih =>
    obtain ⟨j, z⟩ := p
    simp only [Tab.set]
    split
    · simp [Tab.set]
    · split
      · simp [Tab.set]
      · rename_i h1 h2
        simp only [Tab.set, h1, h2, if_false, ih]

/-- Writing back what a listed index holds changes nothing. -/
theorem Tab.set_get (d : α) (t : Tab α) (i : Nat) (h : i ∈ t.map (·.1)) (hs : (t.map (·.1)).Pairwise (· < ·)) :
    t.set i (t.get d i) = t := by
  induction t with
  | nil => simp at h
  | cons p t ih =>
    obtain ⟨j, y⟩ := p
    simp only [List.map_cons, List.pairwise_cons] at hs
    simp only [Tab.set, Tab.get]
    by_cases hji : j = i
    · subst hji
      simp
    · have hmem : i ∈ t.map (·.1) := by
        simp only [List.map_cons, List.mem_cons] at h
        exact h.resolve_left (fun e => hji e.symm)
      have hlt : j < i := hs.1 i hmem
      simp only [if_neg hji, if_neg (by omega : ¬ i < j), if_neg (by omega : ¬ i = j), ih hmem hs.2]

theorem Tab.mem_set (t : Tab α) (i : Nat) (x : α) (y : Nat × α) (h : y ∈ t.set i x) : y ∈ t ∨ y = (i, x) := by
  induction t with
  | nil => exact .inr (by simpa [Tab.set] using h)
  | cons a t ih =>
    obtain ⟨j, z⟩ := a
    simp only [Tab.set] at h
    split at h
    · simp only [List.mem_cons] at h ⊢
      tauto
    · split at h
      · simp only [List.mem_cons] at h ⊢
        tauto
      · simp only [List.mem_cons] at h ⊢
        rcases h with h | h
        · exact .inl (.inl h)
        · have := ih h
          tauto

theorem Tab.get_mem (d : α) (t : Tab α) (i : Nat) : (i, t.get d i) ∈ t ∨ t.get d i = d := by
  induction t with
  | nil => exact .inr rfl
  | cons a t ih =>
    obtain ⟨j, z⟩ := a
    simp only [Tab.get]
    split
    · next h => exact .inl (by simp [h])
    · rcases ih with h | h
      · exact .inl (by simp [h])
      · exact .inr h

end Sys2Proof
end

