-- ==== Sys2Proof/Laws/Core.lean ====
section
/-! SUPPORT. Laws of commands that act on one core: what a slot, an event and a register write make of the module, and
what they leave. -/

namespace Sys2Proof.Machine

/-! ### Reading the plane after a core has been replaced -/

@[simp] theorem PlaneSt.core_setCore_self (p : PlaneSt) (c : Nat) (k : Core) : (p.setCore c k).core c = k := by
  simp [PlaneSt.core, PlaneSt.setCore]

theorem PlaneSt.core_setCore_ne (p : PlaneSt) {c d : Nat} (k : Core) (h : d ≠ c) :
    (p.setCore c k).core d = p.core d := by
  simp only [PlaneSt.core, PlaneSt.setCore]
  exact Tab.get_set_ne _ _ _ h

@[simp] theorem PlaneSt.setCore_setCore (p : PlaneSt) (c : Nat) (k l : Core) :
    (p.setCore c k).setCore c l = p.setCore c l := by
  simp [PlaneSt.setCore]

@[simp] theorem PlaneSt.setCore_now (p : PlaneSt) (c : Nat) (k : Core) : (p.setCore c k).now = p.now := rfl
@[simp] theorem PlaneSt.setCore_mesh (p : PlaneSt) (c : Nat) (k : Core) : (p.setCore c k).mesh = p.mesh := rfl
@[simp] theorem PlaneSt.setCore_sites (p : PlaneSt) (c : Nat) (k : Core) : (p.setCore c k).sites = p.sites := rfl
@[simp] theorem PlaneSt.setCore_live (p : PlaneSt) (c : Nat) (k : Core) : (p.setCore c k).live = p.live := rfl
@[simp] theorem PlaneSt.setCore_group (p : PlaneSt) (c : Nat) (k : Core) : (p.setCore c k).group = p.group := rfl
@[simp] theorem PlaneSt.setCore_ob (p : PlaneSt) (c : Nat) (k : Core) : (p.setCore c k).ob = p.ob := rfl
@[simp] theorem PlaneSt.setCore_reports (p : PlaneSt) (c : Nat) (k : Core) : (p.setCore c k).reports = p.reports := rfl

@[simp] theorem PlaneSt.core_collect_self (p : PlaneSt) (c : Nat) :
    (p.collect c).core c = { p.core c with ev := [] } := by
  simp [PlaneSt.collect, PlaneSt.core, PlaneSt.setCore]

theorem PlaneSt.core_collect_ne (p : PlaneSt) {c d : Nat} (h : d ≠ c) : (p.collect c).core d = p.core d := by
  simp only [PlaneSt.collect, PlaneSt.core, PlaneSt.setCore]
  exact Tab.get_set_ne _ _ _ h

@[simp] theorem PlaneSt.collect_now (p : PlaneSt) (c : Nat) : (p.collect c).now = p.now := rfl
@[simp] theorem PlaneSt.collect_mesh (p : PlaneSt) (c : Nat) : (p.collect c).mesh = p.mesh := rfl
@[simp] theorem PlaneSt.collect_sites (p : PlaneSt) (c : Nat) : (p.collect c).sites = p.sites := rfl
@[simp] theorem PlaneSt.collect_reports (p : PlaneSt) (c : Nat) :
    (p.collect c).reports = p.reports ++ (p.core c).ev.map fun e => (c, e) := rfl

/-! ### One core replaced -/

@[simp] theorem State.withCore_core (s : State) (c : Nat) (k : Core) :
    (s.withCore c k).plane.core c = { k with ev := [] } := by
  simp [State.withCore]

theorem State.withCore_core_ne (s : State) {c d : Nat} (k : Core) (h : d ≠ c) :
    (s.withCore c k).plane.core d = s.plane.core d := by
  simp only [State.withCore]
  rw [PlaneSt.core_collect_ne _ h, PlaneSt.core_setCore_ne _ _ h]

@[simp] theorem State.withCore_sup (s : State) (c : Nat) (k : Core) : (s.withCore c k).sup = s.sup := rfl
@[simp] theorem State.withCore_chip (s : State) (c : Nat) (k : Core) : (s.withCore c k).chip = s.chip := rfl
@[simp] theorem State.withCore_ext (s : State) (c : Nat) (k : Core) : (s.withCore c k).ext = s.ext := rfl
@[simp] theorem State.withCore_link (s : State) (c : Nat) (k : Core) : (s.withCore c k).link = s.link := rfl
@[simp] theorem State.withCore_herd (s : State) (c : Nat) (k : Core) : (s.withCore c k).herd = s.herd := rfl
@[simp] theorem State.withCore_host (s : State) (c : Nat) (k : Core) : (s.withCore c k).host = s.host := rfl
@[simp] theorem State.withCore_icu (s : State) (c : Nat) (k : Core) : (s.withCore c k).icu = s.icu := rfl
@[simp] theorem State.withCore_pwr (s : State) (c : Nat) (k : Core) : (s.withCore c k).pwr = s.pwr := rfl
@[simp] theorem State.withCore_tel (s : State) (c : Nat) (k : Core) : (s.withCore c k).tel = s.tel := rfl
@[simp] theorem State.withCore_sec (s : State) (c : Nat) (k : Core) : (s.withCore c k).sec = s.sec := rfl
@[simp] theorem State.withCore_img (s : State) (c : Nat) (k : Core) : (s.withCore c k).img = s.img := rfl
@[simp] theorem State.withCore_bus (s : State) (c : Nat) (k : Core) : (s.withCore c k).bus = s.bus := rfl
@[simp] theorem State.withCore_data (s : State) (c : Nat) (k : Core) : (s.withCore c k).data = s.data := rfl
@[simp] theorem State.withCore_free (s : State) (c : Nat) (k : Core) : (s.withCore c k).free = s.free := rfl
@[simp] theorem State.withCore_pending (s : State) (c : Nat) (k : Core) : (s.withCore c k).pending = s.pending := rfl

/-! ### What the shared operations on one core do -/

theorem State.runs_of (s : State) {c : Nat} (h : s.coreRuns c) : s.runs c = true := by
  obtain ⟨h1, h2, h3⟩ := h
  simp [State.runs, h1, h3, h2]

theorem State.not_runs_of (s : State) {c : Nat} (h : ¬ s.coreRuns c) : s.runs c = false := by
  rw [Bool.eq_false_iff]
  intro hc
  apply h
  simp only [State.runs, Bool.and_eq_true, List.contains_iff_mem, beq_iff_eq] at hc
  exact ⟨hc.1.1, hc.1.2, hc.2⟩

theorem State.there_of (s : State) {c : Nat} (h : s.coreThere c) : (s.mayAct && s.plane.live.contains c) = true := by
  simp [h.1, h.2]

/-- A slot that hands nothing to the mesh replaces its core and nothing else. -/
theorem State.slotIn_runs (s : State) {c : Nat} (h : s.coreRuns c) (f : Nat → Core → Core) :
    s.slotIn c f = s.withCore c (f s.plane.now (s.coreNow c)) := by
  rw [State.slotIn, if_pos (s.runs_of h), State.withCore]

/-- On a core that does not run, or in no cycle that begins, no slot issues. -/
theorem State.slotIn_rest (s : State) {c : Nat} (h : ¬ s.coreRuns c) (f : Nat → Core → Core) : s.slotIn c f = s := by
  simp [State.slotIn, s.not_runs_of h]

/-- An event due in a core replaces that core and nothing else. -/
theorem State.coreEvent_there (s : State) {c : Nat} (h : s.coreThere c) (f : Nat → Core → Core) :
    s.coreEvent c f = s.withCore c (f s.plane.now (s.plane.core c)) := by
  rw [State.coreEvent, if_pos (s.there_of h), State.withCore]

/-- A unit that acts without an access replaces its core and nothing else. -/
theorem State.actAt_there (s : State) {c : Nat} (h : s.coreThere c) (f : Nat → Core → Core) :
    s.actAt c f = s.withCore c (f s.plane.now (s.coreNow c)) := by
  rw [State.actAt, if_pos (s.there_of h), State.withCore]

/-- A write to a core that is powered replaces that core and nothing else. -/
theorem State.coreWrite_on (s : State) {c : Nat} (h : s.pwr.state ≤ 2) (hc : c ∈ s.plane.live) (f : Core → Core) :
    s.coreWrite c f = s.withCore c (f (s.plane.core c)) := by
  rw [State.coreWrite, if_pos (by simp [h, hc]), State.withCore]

/-- Once phase A of a cycle has been performed it is not performed again. -/
theorem State.frontNow_half (s : State) (h : s.plane.half = true) : s.frontNow = s := by
  simp [State.frontNow, PlaneSt.front, h]

/-- What falls due at the end of a cycle replaces its core and nothing else, once phase A has been performed. -/
theorem State.rearEvent_rear (s : State) {c : Nat} (h : s.coreRear c) (due : Nat → Core → Bool) (f : Nat → Core → Core)
    (hd : due s.frontNow.plane.now (s.frontNow.plane.core c) = true) :
    s.rearEvent c due f = s.frontNow.withCore c (f s.frontNow.plane.now (s.frontNow.plane.core c)) := by
  obtain ⟨h1, h2⟩ := h
  simp [State.rearEvent, h1, h2, hd, State.withCore]

/-- What is not due at the end of a cycle changes nothing. -/
theorem State.rearEvent_not (s : State) (c : Nat) (due : Nat → Core → Bool) (f : Nat → Core → Core)
    (hd : due s.frontNow.plane.now (s.frontNow.plane.core c) = false) : s.rearEvent c due f = s := by
  simp [State.rearEvent, hd]

/-- A slot that offers nothing replaces its core and nothing else. -/
theorem State.slot_none (s : State) {c : Nat} (h : s.coreRuns c) (f : SeqEnv → Nat → Core → Core × List Transit)
    (hf : (f (s.plane.seqEnv s.chip c) s.plane.now (s.coreNow c)).2 = []) :
    s.slot c f = s.withCore c (f (s.plane.seqEnv s.chip c) s.plane.now (s.coreNow c)).1 := by
  rw [State.slot, if_pos (s.runs_of h)]
  simp only [hf]
  rfl

/-- A slot that offers one transfer to a free local port replaces its core, and the transfer joins the mesh. -/
theorem State.slot_one (s : State) {c : Nat} (h : s.coreRuns c) (f : SeqEnv → Nat → Core → Core × List Transit)
    (k : Core) (x : Transit) (hf : f (s.plane.seqEnv s.chip c) s.plane.now (s.coreNow c) = (k, [x]))
    (ht : s.plane.taken.contains c = false) :
    s.slot c f = ({ s with plane := { s.plane with
          taken := c :: s.plane.taken, group := s.plane.group + 1
          mesh := s.plane.mesh ++ [{ x with group := s.plane.group }] } } : State).withCore c k := by
  rw [State.slot, if_pos (s.runs_of h), hf]
  have e : (s.plane.setCore c k).taken = s.plane.taken := rfl
  simp only [PlaneSt.seqOffer, e, ht]
  rfl

end Sys2Proof.Machine
end

