-- ==== Sys2Proof/Laws/Mem.lean ====
section
/-! SUPPORT. Laws of byte memories: a read after a write, and that every operation keeps the canonical form. -/

namespace Sys2Proof.Machine

/-! ### The canonical form -/

theorem Mem.wfFrom_mono {a b : Nat} {m : Mem} (h : Mem.wfFrom b m = true) (hab : a ≤ b) : Mem.wfFrom a m = true := by
  cases m with
  | nil => rfl
  | cons c t =>
    obtain ⟨i, x⟩ := c
    simp only [Mem.wfFrom, Bool.and_eq_true, decide_eq_true_eq] at h ⊢
    exact ⟨⟨by omega, h.1.2⟩, h.2⟩

theorem Mem.wfFrom_cons {a i : Nat} {x : Byte} {t : Mem} :
    Mem.wfFrom a ((i, x) :: t) = true ↔ a ≤ i ∧ x ≠ 0 ∧ Mem.wfFrom (i + 1) t = true := by
  simp [Mem.wfFrom, and_assoc]

/-- One byte written keeps the form. -/
theorem Mem.wfFrom_put {a i : Nat} {m : Mem} (x : Byte) (h : Mem.wfFrom a m = true) (hi : a ≤ i) :
    Mem.wfFrom a (m.put i x) = true := by
  induction m generalizing a with
  | nil =>
    simp only [Mem.put]
    split
    · rfl
    · simp_all [Mem.wfFrom]
  | cons c t ih =>
    obtain ⟨j, y⟩ := c
    obtain ⟨h1, h2, h3⟩ := Mem.wfFrom_cons.mp h
    simp only [Mem.put]
    split
    · split
      · exact h
      · exact Mem.wfFrom_cons.mpr ⟨hi, ‹_›, Mem.wfFrom_cons.mpr ⟨by omega, h2, h3⟩⟩
    · split
      · split
        · exact Mem.wfFrom_mono h3 (by omega)
        · subst_vars
          exact Mem.wfFrom_cons.mpr ⟨hi, ‹_›, h3⟩
      · exact Mem.wfFrom_cons.mpr ⟨h1, h2, ih h3 (by omega)⟩

theorem Mem.wf_put {m : Mem} (h : m.wf = true) (i : Nat) (x : Byte) : (m.put i x).wf = true :=
  Mem.wfFrom_put x h (Nat.zero_le _)

/-- A byte string written keeps the form. -/
theorem Mem.wf_write {m : Mem} (h : m.wf = true) (a : Nat) (bs : Bytes) : (m.write a bs).wf = true := by
  induction bs generalizing m a with
  | nil => exact h
  | cons b t ih => exact ih (Mem.wf_put h a b) _

theorem Mem.wfFrom_filter {a : Nat} {m : Mem} (p : Host.Cell → Bool) (h : Mem.wfFrom a m = true) :
    Mem.wfFrom a (m.filter p) = true := by
  induction m generalizing a with
  | nil => rfl
  | cons c t ih =>
    obtain ⟨i, x⟩ := c
    obtain ⟨h1, h2, h3⟩ := Mem.wfFrom_cons.mp h
    simp only [List.filter_cons]
    split
    · exact Mem.wfFrom_cons.mpr ⟨h1, h2, ih h3⟩
    · exact ih (Mem.wfFrom_mono h3 (by omega))

/-- Zeroing a range keeps the form. -/
theorem Mem.wf_zero {m : Mem} (h : m.wf = true) (a b : Nat) : (m.zero a b).wf = true := Mem.wfFrom_filter _ h

@[simp] theorem Mem.wf_nil : Mem.wf [] = true := rfl

/-! ### A read after a write -/

@[simp] theorem Mem.get_nil (i : Nat) : Mem.get [] i = 0 := rfl

theorem Mem.get_below {a i : Nat} {m : Mem} (h : Mem.wfFrom a m = true) (hi : i < a) : m.get i = 0 := by
  cases m with
  | nil => rfl
  | cons c t =>
    obtain ⟨j, x⟩ := c
    obtain ⟨h1, -, -⟩ := Mem.wfFrom_cons.mp h
    simp only [Mem.get]
    rw [if_neg (by omega), if_pos (by omega)]

theorem Mem.get_put_from {a : Nat} {m : Mem} (h : Mem.wfFrom a m = true) (i k : Nat) (x : Byte) :
    (m.put i x).get k = if k = i then x else m.get k := by
  induction m generalizing a with
  | nil =>
    simp only [Mem.put]
    split
    · subst_vars; simp
    · simp only [Mem.get]
      by_cases hk : k = i
      · simp [hk]
      · rw [if_neg (fun e => hk e.symm), if_neg hk]
        split <;> rfl
  | cons c t ih =>
    obtain ⟨j, y⟩ := c
    obtain ⟨h1, h2, h3⟩ := Mem.wfFrom_cons.mp h
    simp only [Mem.put]
    split
    · split
      · subst_vars
        by_cases hk : k = i
        · subst hk
          simp only [Mem.get, if_true]
          rw [if_neg (by omega), if_pos (by omega)]
        · simp [hk]
      · by_cases hk : k = i
        · subst hk
          simp [Mem.get]
        · simp only [Mem.get, hk, if_false]
          rw [if_neg (fun e => hk e.symm)]
          by_cases hki : k < i
          · rw [if_pos hki, if_neg (by omega), if_pos (by omega)]
          · rw [if_neg hki]
    · split
      · rename_i hji
        subst hji
        split
        · subst_vars
          by_cases hk : k = i
          · subst hk
            simp [Mem.get_below h3]
          · simp only [Mem.get, hk, if_false]
            rw [if_neg (fun e => hk e.symm)]
            split
            · exact Mem.get_below h3 (by omega)
            · rfl
        · by_cases hk : k = i
          · subst hk
            simp [Mem.get]
          · have : ¬ i = k := fun e => hk e.symm
            simp [Mem.get, hk, this]
      · simp only [Mem.get, ih h3]
        by_cases hk : k = i
        · subst hk
          rw [if_neg (by omega), if_neg (by omega)]
          simp
        · simp [hk]

/-- A byte written is read back, and every other byte is as before. -/
theorem Mem.get_put {m : Mem} (h : m.wf = true) (i k : Nat) (x : Byte) :
    (m.put i x).get k = if k = i then x else m.get k := Mem.get_put_from h i k x

/-- What a written string leaves at an address. -/
theorem Mem.get_write {m : Mem} (h : m.wf = true) (a k : Nat) (bs : Bytes) :
    (m.write a bs).get k = if a ≤ k ∧ k < a + bs.length then bs.getD (k - a) 0 else m.get k := by
  induction bs generalizing m a with
  | nil =>
    simp only [Mem.write, List.length_nil, Nat.add_zero]
    rw [if_neg (by omega)]
  | cons b t ih =>
    simp only [Mem.write, ih (Mem.wf_put h a b), Mem.get_put h, List.length_cons]
    by_cases hk : k = a
    · subst hk
      rw [if_neg (by omega), if_pos rfl, if_pos (by omega)]
      simp
    · by_cases hin : a ≤ k ∧ k < a + (t.length + 1)
      · rw [if_pos (by omega), if_pos hin]
        obtain ⟨n, hn⟩ : ∃ n, k - a = n + 1 := ⟨k - a - 1, by omega⟩
        have : k - (a + 1) = n := by omega
        rw [hn, this]
        simp
      · rw [if_neg (by omega), if_neg hin, if_neg hk]

@[simp] theorem Mem.length_read (m : Mem) (a n : Nat) : (m.read a n).length = n := by
  induction n generalizing a with
  | zero => rfl
  | succ n ih => simp [Mem.read, ih]

theorem Mem.read_congr {m m' : Mem} (a n : Nat) (h : ∀ k, a ≤ k → k < a + n → m.get k = m'.get k) :
    m.read a n = m'.read a n := by
  induction n generalizing a with
  | zero => rfl
  | succ n ih =>
    simp only [Mem.read]
    rw [h a (by omega) (by omega), ih (a + 1) (fun k h1 h2 => h k (by omega) (by omega))]

/-- Bytes written are read back. -/
theorem Mem.read_write_self {m : Mem} (h : m.wf = true) (a : Nat) (bs : Bytes) : (m.write a bs).read a bs.length = bs := by
  induction bs generalizing m a with
  | nil => rfl
  | cons b t ih =>
    simp only [Mem.write, List.length_cons, Mem.read]
    rw [ih (Mem.wf_put h a b), Mem.get_write (Mem.wf_put h a b), if_neg (by omega), Mem.get_put h, if_pos rfl]

/-- A write leaves what it does not reach. -/
theorem Mem.read_write_ne {m : Mem} (h : m.wf = true) (a b n : Nat) (bs : Bytes) (hd : b + n ≤ a ∨ a + bs.length ≤ b) :
    (m.write a bs).read b n = m.read b n :=
  Mem.read_congr b n fun k h1 h2 => by rw [Mem.get_write h, if_neg (by omega)]

theorem Mem.get_zero_from {a : Nat} {m : Mem} (h : Mem.wfFrom a m = true) (lo hi k : Nat) :
    (m.zero lo hi).get k = if lo ≤ k ∧ k < hi then 0 else m.get k := by
  induction m generalizing a with
  | nil => simp [Mem.zero]
  | cons c t ih =>
    obtain ⟨j, y⟩ := c
    obtain ⟨h1, h2, h3⟩ := Mem.wfFrom_cons.mp h
    have ih := ih h3
    simp only [Mem.zero] at ih ⊢
    by_cases hp : decide (j < lo) || decide (hi ≤ j)
    · rw [List.filter_cons, if_pos hp]
      simp only [Mem.get, ih]
      simp only [Bool.or_eq_true, decide_eq_true_eq] at hp
      by_cases hjk : j = k
      · subst hjk
        simp only [if_true]
        rw [if_neg (by omega)]
      · rw [if_neg hjk]
        by_cases hkj : k < j
        · rw [if_pos hkj]
          simp [hjk, hkj]
        · simp [hjk, hkj]
    · rw [List.filter_cons, if_neg hp, ih]
      simp only [Bool.or_eq_true, decide_eq_true_eq, not_or] at hp
      by_cases hin : lo ≤ k ∧ k < hi
      · simp [hin]
      · rw [if_neg hin, if_neg hin]
        simp only [Mem.get]
        rw [if_neg (by omega)]
        split
        · exact Mem.get_below h3 (by omega)
        · rfl

/-- A zeroed range reads as zero, and every other byte is as before. -/
theorem Mem.get_zero {m : Mem} (h : m.wf = true) (lo hi k : Nat) :
    (m.zero lo hi).get k = if lo ≤ k ∧ k < hi then 0 else m.get k := Mem.get_zero_from h lo hi k

/-- Memories in canonical form that read alike are equal. -/
theorem Mem.ext_from {a : Nat} {m m' : Mem} (h : Mem.wfFrom a m = true) (h' : Mem.wfFrom a m' = true)
    (e : ∀ k, m.get k = m'.get k) : m = m' := by
  induction m generalizing a m' with
  | nil =>
    cases m' with
    | nil => rfl
    | cons c t =>
      obtain ⟨j, y⟩ := c
      have := e j
      simp [Mem.get] at this
      exact absurd this.symm (Mem.wfFrom_cons.mp h').2.1
  | cons c t ih =>
    obtain ⟨i, x⟩ := c
    obtain ⟨h1, h2, h3⟩ := Mem.wfFrom_cons.mp h
    cases m' with
    | nil =>
      have := e i
      simp [Mem.get] at this
      exact absurd this h2
    | cons c' t' =>
      obtain ⟨j, y⟩ := c'
      obtain ⟨g1, g2, g3⟩ := Mem.wfFrom_cons.mp h'
      have hij : i = j := by
        rcases Nat.lt_trichotomy i j with hlt | heq | hgt
        · have := e i
          simp only [Mem.get, if_true] at this
          rw [if_neg (by omega), if_pos hlt] at this
          exact absurd this h2
        · exact heq
        · have := e j
          simp only [Mem.get, if_true] at this
          rw [if_neg (by omega), if_pos hgt] at this
          exact absurd this.symm g2
      subst hij
      have hxy : x = y := by simpa [Mem.get] using e i
      subst hxy
      have : t = t' := ih h3 g3 fun k => by
        have := e k
        simp only [Mem.get] at this
        by_cases hk : i = k
        · subst hk
          rw [Mem.get_below h3 (by omega), Mem.get_below g3 (by omega)]
        · rw [if_neg hk, if_neg hk] at this
          by_cases hlt : k < i
          · rw [Mem.get_below h3 (by omega), Mem.get_below g3 (by omega)]
          · simpa [hlt] using this
      rw [this]

/-- Equal memories are equal data. -/
theorem Mem.ext {m m' : Mem} (h : m.wf = true) (h' : m'.wf = true) (e : ∀ k, m.get k = m'.get k) : m = m' :=
  Mem.ext_from h h' e

end Sys2Proof.Machine
end

