-- ==== Sys2Proof/Laws/Parts.lean ====
section
/-! SUPPORT. A part of the module read after it has been changed: the part changed is the new one, every other part is
as it was, and what else the record holds stays. -/

namespace Sys2Proof

variable {α : Type}

@[simp] theorem Tab.get_upd_self (d : α) (t : Tab α) (i : Nat) (f : α → α) : (t.upd d i f).get d i = f (t.get d i) := by
  simp [Tab.upd]

theorem Tab.get_upd_ne (d : α) (t : Tab α) {i k : Nat} (f : α → α) (h : k ≠ i) : (t.upd d i f).get d k = t.get d k := by
  simp only [Tab.upd]
  exact Tab.get_set_ne _ _ _ h

namespace Machine

/-! ### Ports, channels, rings -/

@[simp] theorem LinkSt.port_onPort_self (l : LinkSt) (p : Nat) (f : Port → Port) : (l.onPort p f).port p = f (l.port p) := by
  simp [LinkSt.port, LinkSt.onPort]

theorem LinkSt.port_onPort_ne (l : LinkSt) {p d : Nat} (f : Port → Port) (h : d ≠ p) : (l.onPort p f).port d = l.port d :=
  Tab.get_set_ne _ _ _ h

@[simp] theorem LinkSt.onPort_onPort (l : LinkSt) (p : Nat) (f g : Port → Port) :
    (l.onPort p f).onPort p g = l.onPort p (g ∘ f) := by
  simp [LinkSt.onPort, LinkSt.port]

/-- What stands in the byre after a port has changed stood there before, or is that port's. -/
theorem LinkSt.mem_byres_onPort (l : LinkSt) (p : Nat) (f : Port → Port) (x : Nat × Nat × Flit)
    (h : x ∈ (l.onPort p f).byres) : x ∈ l.byres ∨ (x.1 = p ∧ x.2 ∈ (f (l.port p)).byre) := by
  simp only [LinkSt.byres, LinkSt.onPort, List.mem_flatMap, List.mem_map] at h ⊢
  obtain ⟨y, hy, z, hz, rfl⟩ := h
  rcases Tab.mem_set _ _ _ _ hy with h | h
  · exact .inl ⟨y, h, z, hz, rfl⟩
  · subst h
    exact .inr ⟨rfl, hz⟩

/-- What a port holds in the byre stands there. -/
theorem LinkSt.mem_byres (l : LinkSt) (p : Nat) (z : Nat × Flit) (h : z ∈ (l.port p).byre) : (p, z) ∈ l.byres := by
  simp only [LinkSt.byres, List.mem_flatMap, List.mem_map]
  rcases Tab.get_mem Port.reset l.ports p with h1 | h1
  · exact ⟨_, h1, z, h, rfl⟩
  · rw [show l.port p = Port.reset from h1] at h
    cases h

/-- A byre in which no flit can leave forwards none. -/
theorem LinkSt.forwardAll_still (l : LinkSt) (h : ∀ x ∈ l.byres, l.canSend x.2.1 x.2.2 = false) : l.forwardAll = l := by
  have hn : l.byres.find? (fun x => l.canSend x.2.1 x.2.2) = none := by
    rw [List.find?_eq_none]
    intro x hx
    simp [h x hx]
  unfold LinkSt.forwardAll
  generalize (l.ports.map fun p => p.2.byre.length + p.2.through.length).foldl (· + ·) 0 = n
  cases n with
  | zero => rfl
  | succ n => simp [LinkSt.forward, hn]

/-- A change of port `p` that leaves its share of the byre keeps a byre still towards `p`. -/
theorem LinkSt.byreStill_onPort (l : LinkSt) {p : Nat} {f : Port → Port} (h : l.byreStill p)
    (hf : (f (l.port p)).byre = (l.port p).byre) : (l.onPort p f).byreStill p := by
  intro x hx
  have hm : x ∈ l.byres := by
    rcases l.mem_byres_onPort p f x hx with h1 | ⟨h1, h2⟩
    · exact h1
    · rw [hf] at h2
      have := l.mem_byres p x.2 h2
      rwa [← h1] at this
  refine ⟨(h x hm).1, ?_⟩
  have h3 : l.canSend x.2.1 x.2.2 = (l.onPort p f).canSend x.2.1 x.2.2 := by
    simp only [LinkSt.canSend, l.port_onPort_ne f (h x hm).1]
    rfl
  exact h3 ▸ (h x hm).2

theorem LinkSt.byreStill_forwardAll (l : LinkSt) {p : Nat} (h : l.byreStill p) : l.forwardAll = l :=
  l.forwardAll_still fun x hx => (h x hx).2

/-- A port with nothing of its own to send, after a change, sends nothing while the byre is still towards it. -/
theorem LinkSt.pump_still (l : LinkSt) {p : Nat} {f : Port → Port} (h : l.byreStill p) (ho : (f (l.port p)).outq = [])
    (hb : (f (l.port p)).byre = (l.port p).byre) : (l.onPort p f).pump p = l.onPort p f := by
  unfold LinkSt.pump
  have : (l.onPort p f).onPort p (fun q => q.pump (l.onPort p f).env q.outq.length) = l.onPort p f := by
    rw [LinkSt.onPort_onPort]
    simp only [LinkSt.onPort, Function.comp]
    simp [ho, Port.pump]
  rw [this, LinkSt.byreStill_forwardAll _ (l.byreStill_onPort h hb)]

@[simp] theorem LinkSt.onPort_mstate (l : LinkSt) (p : Nat) (f : Port → Port) : (l.onPort p f).mstate = l.mstate := rfl
@[simp] theorem LinkSt.onPort_epoch (l : LinkSt) (p : Nat) (f : Port → Port) : (l.onPort p f).epoch = l.epoch := rfl
@[simp] theorem LinkSt.onPort_root (l : LinkSt) (p : Nat) (f : Port → Port) : (l.onPort p f).root = l.root := rfl
@[simp] theorem LinkSt.onPort_mask (l : LinkSt) (p : Nat) (f : Port → Port) : (l.onPort p f).mask = l.mask := rfl
@[simp] theorem LinkSt.onPort_xfers (l : LinkSt) (p : Nat) (f : Port → Port) : (l.onPort p f).xfers = l.xfers := rfl
@[simp] theorem LinkSt.onPort_ob (l : LinkSt) (p : Nat) (f : Port → Port) : (l.onPort p f).ob = l.ob := rfl
@[simp] theorem LinkSt.port_line (l : LinkSt) (n p : Nat) : (l.line n).port p = l.port p := rfl

@[simp] theorem ExtSt.chan_onChan_self (x : ExtSt) (c : Nat) (f : Chan → Chan) : (x.onChan c f).chan c = f (x.chan c) := by
  simp [ExtSt.chan, ExtSt.onChan]

theorem ExtSt.chan_onChan_ne (x : ExtSt) {c d : Nat} (f : Chan → Chan) (h : d ≠ c) : (x.onChan c f).chan d = x.chan d :=
  Tab.get_set_ne _ _ _ h

@[simp] theorem ExtSt.onChan_mem (x : ExtSt) (c : Nat) (f : Chan → Chan) : (x.onChan c f).mem = x.mem := rfl
@[simp] theorem ExtSt.onChan_bad (x : ExtSt) (c : Nat) (f : Chan → Chan) : (x.onChan c f).bad = x.bad := rfl
@[simp] theorem ExtSt.onChan_resp (x : ExtSt) (c : Nat) (f : Chan → Chan) : (x.onChan c f).resp = x.resp := rfl
@[simp] theorem ExtSt.onChan_fenced (x : ExtSt) (c : Nat) (f : Chan → Chan) : (x.onChan c f).fenced = x.fenced := rfl
@[simp] theorem ExtSt.onChan_stackOk (x : ExtSt) (c : Nat) (f : Chan → Chan) : (x.onChan c f).stackOk = x.stackOk := rfl
@[simp] theorem ExtSt.onChan_ob (x : ExtSt) (c : Nat) (f : Chan → Chan) : (x.onChan c f).ob = x.ob := rfl

@[simp] theorem HostSt.ring_onRing_self (h : HostSt) (i : Nat) (f : Ring → Ring) : (h.onRing i f).ring i = f (h.ring i) := by
  simp [HostSt.ring, HostSt.onRing]

theorem HostSt.ring_onRing_ne (h : HostSt) {i j : Nat} (f : Ring → Ring) (e : j ≠ i) : (h.onRing i f).ring j = h.ring j :=
  Tab.get_set_ne _ _ _ e

@[simp] theorem HostSt.onRing_cmds (h : HostSt) (i : Nat) (f : Ring → Ring) : (h.onRing i f).cmds = h.cmds := rfl
@[simp] theorem HostSt.onRing_records (h : HostSt) (i : Nat) (f : Ring → Ring) : (h.onRing i f).records = h.records := rfl
@[simp] theorem HostSt.onRing_events (h : HostSt) (i : Nat) (f : Ring → Ring) : (h.onRing i f).events = h.events := rfl
@[simp] theorem HostSt.onRing_out (h : HostSt) (i : Nat) (f : Ring → Ring) : (h.onRing i f).out = h.out := rfl
@[simp] theorem HostSt.onRing_owner (h : HostSt) (i g : Nat) (f : Ring → Ring) : (h.onRing i f).owner g = h.owner g := rfl
@[simp] theorem HostSt.onRing_global (h : HostSt) (i fn j : Nat) (f : Ring → Ring) : (h.onRing i f).global fn j = h.global fn j := rfl

/-! ### Interrupt sources, control cores, stewards -/

@[simp] theorem IcuSt.src_setSrc_self (i : IcuSt) (n : Nat) (x : IcuSrc) : (i.setSrc n x).src n = x := by
  simp [IcuSt.src, IcuSt.setSrc]

theorem IcuSt.src_setSrc_ne (i : IcuSt) {n m : Nat} (x : IcuSrc) (h : m ≠ n) : (i.setSrc n x).src m = i.src m :=
  Tab.get_set_ne _ _ _ h

@[simp] theorem IcuSt.setSrc_cores (i : IcuSt) (n : Nat) (x : IcuSrc) : (i.setSrc n x).cores = i.cores := rfl
@[simp] theorem IcuSt.core_setSrc (i : IcuSt) (n k : Nat) (x : IcuSrc) : (i.setSrc n x).core k = i.core k := rfl

@[simp] theorem IcuSt.core_onCore_self (i : IcuSt) (c : Nat) (f : CtlCore → CtlCore) : (i.onCore c f).core c = f (i.core c) := by
  simp [IcuSt.core, IcuSt.onCore]

theorem IcuSt.core_onCore_ne (i : IcuSt) {c d : Nat} (f : CtlCore → CtlCore) (h : (if d = 1 then 0 else d) ≠ (if c = 1 then 0 else c)) :
    (i.onCore c f).core d = i.core d :=
  Tab.get_set_ne _ _ _ h

@[simp] theorem IcuSt.src_onCore (i : IcuSt) (c n : Nat) (f : CtlCore → CtlCore) : (i.onCore c f).src n = i.src n := rfl
@[simp] theorem IcuSt.onCore_srcs (i : IcuSt) (c : Nat) (f : CtlCore → CtlCore) : (i.onCore c f).srcs = i.srcs := rfl

@[simp] theorem IcuSt.steward_onSteward_self (i : IcuSt) (q : Nat) (f : Steward → Steward) :
    (i.onSteward q f).steward q = f (i.steward q) := by
  simp [IcuSt.steward, IcuSt.onSteward]

theorem IcuSt.steward_onSteward_ne (i : IcuSt) {q r : Nat} (f : Steward → Steward) (h : r ≠ q) :
    (i.onSteward q f).steward r = i.steward r :=
  Tab.get_set_ne _ _ _ h

/-! ### Parts of a core -/

@[simp] theorem Core.me_setMe_self (c : Core) (e : Nat) (g : Engine) : (c.setMe e g).me e = g := by simp [Core.me, Core.setMe]

theorem Core.me_setMe_ne (c : Core) {e d : Nat} (g : Engine) (h : d ≠ e) : (c.setMe e g).me d = c.me d :=
  Tab.get_set_ne _ _ _ h

@[simp] theorem Core.setMe_seq (c : Core) (e : Nat) (g : Engine) : (c.setMe e g).seq = c.seq := rfl
@[simp] theorem Core.setMe_cfg (c : Core) (e : Nat) (g : Engine) : (c.setMe e g).cfg = c.cfg := rfl
@[simp] theorem Core.setMe_st (c : Core) (e : Nat) (g : Engine) : (c.setMe e g).st = c.st := rfl
@[simp] theorem Core.setMe_ve (c : Core) (e : Nat) (g : Engine) : (c.setMe e g).ve = c.ve := rfl

@[simp] theorem Engine.vat_setVat_self (g : Engine) (v : Nat) (x : Vat) : (g.setVat v x).vat v = x := by
  simp [Engine.vat, Engine.setVat]

theorem Engine.vat_setVat_ne (g : Engine) {v w : Nat} (x : Vat) (h : w ≠ v) : (g.setVat v x).vat w = g.vat w :=
  Tab.get_set_ne _ _ _ h

@[simp] theorem Core.pail_setPail_self (c : Core) (i : Nat) (p : Pail) : (c.setPail i p).pail i = p := by
  simp [Core.pail, Core.setPail]

theorem Core.pail_setPail_ne (c : Core) {i j : Nat} (p : Pail) (h : j ≠ i) : (c.setPail i p).pail j = c.pail j :=
  Tab.get_set_ne _ _ _ h

@[simp] theorem Core.ctx_setCtx_self (c : Core) (i : Nat) (x : SmCtx) : (c.setCtx i x).ve.ctx i = x := by
  simp [VeSt.ctx, Core.setCtx]

theorem Core.ctx_setCtx_ne (c : Core) {i j : Nat} (x : SmCtx) (h : j ≠ i) : (c.setCtx i x).ve.ctx j = c.ve.ctx j :=
  Tab.get_set_ne _ _ _ h

/-! ### Stores and external memory -/

/-- The masked bytes of a line keep the memory's form. -/
theorem wf_putBytes {m : Mem} (h : m.wf = true) (base : Nat) (ws : List WByte) : (putBytes m base ws).wf = true := by
  induction ws generalizing m with
  | nil => exact h
  | cons w t ih => exact ih (Mem.wf_put h _ _)

/-- Masked bytes leave every byte alone that none of them names. -/
theorem get_putBytes_ne {m : Mem} (h : m.wf = true) (base k : Nat) (ws : List WByte) (hk : ∀ w ∈ ws, base + w.off ≠ k) :
    (putBytes m base ws).get k = m.get k := by
  induction ws generalizing m with
  | nil => rfl
  | cons w t ih =>
    rw [putBytes, ih (Mem.wf_put h _ _) fun x hx => hk x (List.mem_cons_of_mem _ hx), Mem.get_put h,
      if_neg (hk w List.mem_cons_self).symm]

theorem wf_foldl_put {β : Type} (k : β → Nat) (v : Mem → β → Byte) (bs : List β) {m : Mem} (h : m.wf = true) :
    (bs.foldl (fun (m : Mem) b => m.put (k b) (v m b)) m).wf = true := by
  induction bs generalizing m with
  | nil => exact h
  | cons b t ih => exact ih (Mem.wf_put h _ _)

theorem get_foldl_put_ne {β : Type} (k : β → Nat) (v : Mem → β → Byte) (bs : List β) {m : Mem} (h : m.wf = true) (a : Nat)
    (ha : ∀ b ∈ bs, k b ≠ a) : (bs.foldl (fun (m : Mem) b => m.put (k b) (v m b)) m).get a = m.get a := by
  induction bs generalizing m with
  | nil => rfl
  | cons b t ih =>
    rw [List.foldl_cons, ih (Mem.wf_put h _ _) fun x hx => ha x (List.mem_cons_of_mem _ hx), Mem.get_put h,
      if_neg (ha b List.mem_cons_self).symm]

/-- A write of external memory keeps its form. -/
theorem ExtSt.wf_writeBytes {x : ExtSt} (h : x.mem.wf = true) (c : Nat) (bs : List (Nat × Byte × Byte)) :
    (x.writeBytes c bs).mem.wf = true :=
  wf_foldl_put _ _ bs h

/-- A write of external memory leaves every byte alone that it does not name. -/
theorem ExtSt.get_writeBytes_ne {x : ExtSt} (h : x.mem.wf = true) (c a : Nat) (bs : List (Nat × Byte × Byte))
    (ha : ∀ b ∈ bs, memKey c b.1 ≠ a) : (x.writeBytes c bs).mem.get a = x.mem.get a :=
  get_foldl_put_ne _ _ bs h a ha

/-- A write of external memory touches no other channel, and of its own only the write-back that waits. -/
theorem ExtSt.chan_writeBytes_ne (x : ExtSt) {c d : Nat} (bs : List (Nat × Byte × Byte)) (h : d ≠ c) :
    (x.writeBytes c bs).chan d = x.chan d :=
  Tab.get_set_ne _ _ _ h

/-- Every memory of the module has its canonical form after reset. -/
theorem State.reset_wf : State.reset.ext.mem.wf = true ∧ State.reset.sec.mbox.wf = true ∧
    (∀ c, (State.reset.plane.core c).st.tile.wf = true ∧ (State.reset.plane.core c).st.stage.wf = true) :=
  ⟨rfl, rfl, fun _ => ⟨rfl, rfl⟩⟩

end Machine

end Sys2Proof
end

