-- ==== Sys2Proof/Laws/State.lean ====
section
/-! SUPPORT. What the shared operations on the state leave alone: none of them touches the queue, and only those that
a security rule names touch the security block. A proof about a command cites these and unfolds none of them. -/

namespace Sys2Proof.Machine

open Sys2Proof

/-- A fold keeps what each of its steps keeps. -/
theorem foldl_keeps {α β γ : Type} (p : α → γ) (f : α → β → α) (h : ∀ a b, p (f a b) = p a) (l : List β) (a : α) :
    p (l.foldl f a) = p a := by
  induction l generalizing a with
  | nil => rfl
  | cons b t ih => simp [ih, h]

/-! ### The queue -/

@[simp] theorem State.noteBusy_pending (s : State) : s.noteBusy.pending = s.pending := by
  simp [State.noteBusy, apply_ite State.pending]
@[simp] theorem State.startAll_pending (s : State) : s.startAll.pending = s.pending := by simp [State.startAll]
@[simp] theorem State.answer_pending (s : State) (id status detail r0 r1 : Nat) :
    (s.answer id status detail r0 r1).pending = s.pending := by simp [State.answer]
@[simp] theorem State.refuse_pending (s : State) (id detail : Nat) : (s.refuse id detail).pending = s.pending := by simp [State.refuse]
@[simp] theorem State.imgCode_pending (s : State) (id code r0 : Nat) : (s.imgCode id code r0).pending = s.pending := by
  simp [State.imgCode]
@[simp] theorem State.handOver_pending (s : State) (w : Payload) : (s.handOver w).pending = s.pending := by
  unfold State.handOver
  split <;> simp [apply_ite State.pending]
@[simp] theorem State.slot_pending (s : State) (c : Nat) (f : SeqEnv → Nat → Core → Core × List Transit) :
    (s.slot c f).pending = s.pending := by
  simp [State.slot, apply_ite State.pending]
@[simp] theorem State.actAt_pending (s : State) (c : Nat) (f : Nat → Core → Core) :
    (s.actAt c f).pending = s.pending := by
  simp [State.actAt, apply_ite State.pending]
@[simp] theorem State.upsets_pending (s : State) (f : List CellUpset) : (s.upsets f).pending = s.pending := rfl
@[simp] theorem State.fetchPass_pending (s : State) (off : Nat) : (s.fetchPass off).pending = s.pending := by
  simp [State.fetchPass, apply_ite State.pending]
@[simp] theorem State.runOver_pending (s : State) : s.runOver.pending = s.pending := rfl
@[simp] theorem State.slotIn_pending (s : State) (c : Nat) (f : Nat → Core → Core) :
    (s.slotIn c f).pending = s.pending := by
  simp [State.slotIn, apply_ite State.pending]
@[simp] theorem State.coreWrite_pending (s : State) (c : Nat) (f : Core → Core) :
    (s.coreWrite c f).pending = s.pending := by
  simp [State.coreWrite, apply_ite State.pending]
@[simp] theorem State.coreEvent_pending (s : State) (c : Nat) (f : Nat → Core → Core) :
    (s.coreEvent c f).pending = s.pending := by
  simp [State.coreEvent, apply_ite State.pending]
@[simp] theorem State.herdCycle_pending (s : State) : s.herdCycle.pending = s.pending := rfl
@[simp] theorem State.joinBarrier_pending (s : State) : s.joinBarrier.pending = s.pending := by
  unfold State.joinBarrier
  repeat' split
  all_goals simp
@[simp] theorem State.slipCycle_pending (s : State) (late : Bool) : (s.slipCycle late).pending = s.pending := by
  unfold State.slipCycle
  repeat' split
  all_goals simp
@[simp] theorem State.lsSend_pending (s : State) (old : Nat → Nat) :
    (s.lsSend old).pending = s.pending := by
  simp [State.lsSend, apply_ite State.pending]
@[simp] theorem State.lsOne_pending (s : State) (core : Nat) (e : Nat × Nat × List (BitVec 64)) :
    (s.lsOne core e).pending = s.pending := by
  unfold State.lsOne
  dsimp only
  repeat' split
  all_goals rfl
@[simp] theorem State.lsCompare_pending (s : State) :
    s.lsCompare.pending = s.pending := by
  simp [State.lsCompare, foldl_keeps State.pending, apply_ite State.pending]
@[simp] theorem State.useChip_pending (s : State) (img : Image) : (s.useChip img).pending = s.pending := rfl
@[simp] theorem State.exchange_pending (s : State) (img : Image) (x n : Nat) :
    (s.exchange img x n).pending = s.pending := rfl
@[simp] theorem State.pointDone_pending (s : State) (x : Nat) (pt : Point) (dec : Option Bool) :
    (s.pointDone x pt dec).pending = s.pending := by
  unfold State.pointDone
  dsimp only
  repeat' split
  all_goals rfl
@[simp] theorem State.owe_pending (s : State) : s.owe.pending = s.pending := rfl
@[simp] theorem State.coldStart_pending (s : State) (img : Image) : (s.coldStart img).pending = s.pending := rfl
@[simp] theorem State.launchWith_pending (s : State) (img : Image) (cmd : Nat) :
    (s.launchWith img cmd).pending = s.pending := by simp [State.launchWith]
@[simp] theorem State.launchLate_pending (s : State) (cmd : Nat) : (s.launchLate cmd).pending = s.pending := by simp [State.launchLate]
@[simp] theorem State.launchDue_pending (s : State) : s.launchDue.pending = s.pending := by
  unfold State.launchDue
  repeat' split
  all_goals simp
@[simp] theorem State.beginCycle_pending (s : State) : s.beginCycle.pending = s.pending := by
  simp [State.beginCycle, apply_ite State.pending]
@[simp] theorem State.frontNow_pending (s : State) : s.frontNow.pending = s.pending := by
  simp [State.frontNow, foldl_keeps State.pending]
@[simp] theorem State.rearNow_pending (s : State) : s.rearNow.pending = s.pending := by
  simp [State.rearNow, foldl_keeps State.pending]
@[simp] theorem State.rearEvent_pending (s : State) (c : Nat) (due : Nat → Core → Bool) (f : Nat → Core → Core) :
    (s.rearEvent c due f).pending = s.pending := by
  unfold State.rearEvent
  dsimp only
  split
  · exact s.frontNow_pending
  · rfl
@[simp] theorem State.planeCycle_pending (s : State) : s.planeCycle.pending = s.pending := by
  unfold State.planeCycle
  dsimp only
  split
  · simp
  · split <;> simp
@[simp] theorem State.endRun_pending (s : State) : s.endRun.pending = s.pending := by
  unfold State.endRun
  dsimp only
  repeat' split
  all_goals first | rfl | simp
@[simp] theorem State.blank_pending (s : State) : s.blank.pending = s.pending := rfl
@[simp] theorem State.off_pending (s : State) : s.off.pending = s.pending := rfl
@[simp] theorem State.erase_pending (s : State) : s.erase.pending = s.pending := by simp [State.erase]
@[simp] theorem State.eraseAll_pending (s : State) :
    s.eraseAll.pending = s.pending := by
  simp [State.eraseAll, apply_ite State.pending]
@[simp] theorem State.noEast_pending (s : State) : s.noEast.pending = s.pending := rfl
@[simp] theorem State.ready_pending (s : State) : s.ready.pending = s.pending := rfl
@[simp] theorem State.startLinks_pending (s : State) :
    s.startLinks.pending = s.pending := by
  simp [State.startLinks, apply_ite State.pending]
@[simp] theorem State.startDies_pending (s : State) (eastOk : Bool) :
    (s.startDies eastOk).pending = s.pending := by
  simp [State.startDies, apply_ite State.pending]
@[simp] theorem State.startStore_pending (s : State) : s.startStore.pending = s.pending := rfl
@[simp] theorem State.startUp_pending (s : State) (c : StartCond) (n : Nat) : (s.startUp c n).pending = s.pending := by
  induction n generalizing s with
  | zero => rfl
  | succ n ih =>
    unfold State.startUp
    dsimp only
    split
    · rfl
    · split <;> first | rfl | simp only [ih, State.startDies_pending, State.eraseAll_pending, apply_ite State.pending, ite_self]
@[simp] theorem State.startFrom_pending (s : State) (step : Nat) (c : StartCond) : (s.startFrom step c).pending = s.pending := by
  simp [State.startFrom]
@[simp] theorem State.restart_pending (s : State) (cause : Nat) (c : StartCond) :
    (s.restart cause c).pending = s.pending := by
  simp [State.restart]
@[simp] theorem State.moduleReset_pending (s : State) (cause : Nat) (c : StartCond) :
    (s.moduleReset cause c).pending = s.pending := by
  simp [State.moduleReset, apply_ite State.pending]
@[simp] theorem State.auxPowerUp_pending (s : State) (c : StartCond) :
    (s.auxPowerUp c).pending = s.pending := by
  simp [State.auxPowerUp]
@[simp] theorem State.computeBegin_pending (s : State) : s.computeBegin.pending = s.pending := rfl
@[simp] theorem State.computeReset_pending (s : State) :
    s.computeReset.pending = s.pending := by
  simp [State.computeReset, apply_ite State.pending]
@[simp] theorem State.computeEnd_pending (s : State) :
    s.computeEnd.pending = s.pending := by
  simp [State.computeEnd, apply_ite State.pending]
@[simp] theorem State.afterLoad_pending (s : State) :
    s.afterLoad.pending = s.pending := by
  simp [State.afterLoad, apply_ite State.pending]
@[simp] theorem State.loseEast_pending (s : State) :
    s.loseEast.pending = s.pending := by
  simp [State.loseEast, apply_ite State.pending]
@[simp] theorem State.fence_pending (s : State) (epoch root : Nat) :
    (s.fence epoch root).pending = s.pending := by
  simp [State.fence, apply_ite State.pending]
@[simp] theorem State.adopt_pending (s : State) (epoch root : Nat) (mask : List Nat) :
    (s.adopt epoch root mask).pending = s.pending := by
  unfold State.adopt
  by_cases h : mask.contains s.chip.herdX
  · rw [if_pos h]
    by_cases h3 : s.link.mstate = 3
    · simp only [if_pos h3]
      generalize HostSt.waiting _ _ = w
      cases w with
      | none => simp only
      | some c => simp only [State.answer_pending]
    · simp only [if_neg h3]
  · rw [if_neg h]
    by_cases h1 : s.link.mstate = 1
    · rw [if_pos h1]
    · rw [if_neg h1, State.fence_pending]
@[simp] theorem State.issue_pending (s : State) (mask : List Nat) :
    (s.issue mask).pending = s.pending := by
  simp [State.issue]
@[simp] theorem State.startJoin_pending (s : State) : s.startJoin.pending = s.pending := by
  simp only [State.startJoin]; split <;> simp
@[simp] theorem State.join_pending (s : State) (p : Nat) : (s.join p).pending = s.pending := by
  unfold State.join
  dsimp only
  repeat' split
  all_goals first | rfl | simp
@[simp] theorem State.member_pending (s : State) (p : Nat) : (s.member p).pending = s.pending := by
  unfold State.member
  split
  · rfl
  · simp only [apply_ite State.pending, State.adopt_pending, ite_self]
@[simp] theorem State.suspectOf_pending (s : State) (y : Nat) :
    (s.suspectOf y).pending = s.pending := by
  simp [State.suspectOf, apply_ite State.pending]
@[simp] theorem State.suspect_pending (s : State) (p : Nat) : (s.suspect p).pending = s.pending := by
  unfold State.suspect
  dsimp only
  repeat' split
  all_goals first | rfl | simp
@[simp] theorem State.suspectTimeout_pending (s : State) (x : Nat) :
    (s.suspectTimeout x).pending = s.pending := by
  simp [State.suspectTimeout, apply_ite State.pending]
@[simp] theorem State.epochFlit_pending (s : State) (p : Nat) (request : Bool) (epoch root : Nat) (excludes : Bool) :
    (s.epochFlit p request epoch root excludes).pending = s.pending := by
  simp [State.epochFlit, apply_ite State.pending]
@[simp] theorem State.barrierTimeout_pending (s : State) (children : List Nat) :
    (s.barrierTimeout children).pending = s.pending := by
  simp [State.barrierTimeout, foldl_keeps State.pending, apply_ite State.pending]
@[simp] theorem State.hold_pending (s : State) (id : Nat) : (s.hold id).pending = s.pending := rfl
@[simp] theorem State.tokensEnd_pending (s : State) (c : HostCmd) (core pail result : Nat) :
    (s.tokensEnd c core pail result).pending = s.pending := by
  unfold State.tokensEnd
  split
  · simp
  · split <;> simp
@[simp] theorem State.copyInDone_pending (s : State) (c : HostCmd) : (s.copyInDone c).pending = s.pending := by
  unfold State.copyInDone
  repeat' split
  all_goals simp
@[simp] theorem State.loadEnds_pending (s : State) (id : Nat) (r : LoadRes) (img : Option Image) :
    (s.loadEnds id r img).pending = s.pending := by
  simp [State.loadEnds]
@[simp] theorem State.loadRefused_pending (s : State) (id code : Nat) : (s.loadRefused id code).pending = s.pending := by simp [State.loadRefused]
@[simp] theorem State.spoil_pending (s : State) (b : Bytes) (img : Image) (i : Nat) :
    (s.spoil b img i).pending = s.pending := by
  simp [State.spoil, foldl_keeps State.pending, apply_ite State.pending]
@[simp] theorem State.place_pending (s : State) (img : Image) : (s.place img).pending = s.pending := by
  simp only [State.place, apply_ite State.pending, State.startJoin_pending, ite_self]
@[simp] theorem State.loadSections_pending (s : State) (id : Nat) (b : Bytes) :
    (s.loadSections id b).pending = s.pending := by
  simp [State.loadSections, apply_ite State.pending]
@[simp] theorem State.load_pending (s : State) (id : Nat) (b : Bytes) :
    (s.load id b).pending = s.pending := by
  simp [State.load, apply_ite State.pending]
@[simp] theorem State.launchWaits_pending (s : State) (l : Launch) : (s.launchWaits l).pending = s.pending := rfl
@[simp] theorem State.arriveStart_pending (s : State) (img : Image) :
    (s.arriveStart img).pending = s.pending := by
  simp [State.arriveStart, apply_ite State.pending]
@[simp] theorem State.queueCommit_pending (s : State) (id : Nat) (a : CommitAct) :
    (s.queueCommit id a).pending = s.pending := rfl
@[simp] theorem State.endSession_pending (s : State) : s.endSession.pending = s.pending := by simp [State.endSession]
@[simp] theorem State.powerStart_pending (s : State) (id t : Nat) :
    (s.powerStart id t).pending = s.pending := by
  simp [State.powerStart, apply_ite State.pending]
@[simp] theorem State.enter_pending (s : State) (t : Nat) :
    (s.enter t).pending = s.pending := by
  simp [State.enter, apply_ite State.pending]
@[simp] theorem State.aloneAt_pending (s : State) (c : Nat) (f : Nat → Core → Core) :
    (s.aloneAt c f).pending = s.pending := by
  simp [State.aloneAt, apply_ite State.pending]
@[simp] theorem State.releaseReads_pending (s : State) (c m : Nat) : (s.releaseReads c m).pending = s.pending := rfl
@[simp] theorem State.deliverDue_pending (s : State) (f : Transit → Bool) :
    (s.deliverDue f).pending = s.pending := by
  simp [State.deliverDue, foldl_keeps State.pending]
theorem State.takeToken_pending (s : State) (src : TokenSrc) : (s.takeToken src).2.pending = s.pending := by
  cases src <;> rfl
@[simp] theorem State.tokenIn_pending (s : State) (src : TokenSrc) : (s.tokenIn src).pending = s.pending := by
  have h := s.takeToken_pending src
  unfold State.tokenIn
  generalize s.takeToken src = r at h ⊢
  obtain ⟨_ | ⟨c, p⟩, s1⟩ := r
  · exact ite_self _ ▸ rfl
  · split
    · rfl
    · exact h
@[simp] theorem State.stackSample_pending (s : State) (k t : Nat) :
    (s.stackSample k t).pending = s.pending := by
  simp [State.stackSample, apply_ite State.pending]
@[simp] theorem State.onHerdLink_pending (s : State) (r : HerdSt × LinkSt) : (s.onHerdLink r).pending = s.pending := rfl
@[simp] theorem State.onLink_pending (s : State) (f : LinkSt → LinkSt) : (s.onLink f).pending = s.pending := rfl
@[simp] theorem State.onLinkExt_pending (s : State) (r : LinkSt × ExtSt) : (s.onLinkExt r).pending = s.pending := rfl
@[simp] theorem State.portTrained_pending (s : State) (p : Nat) :
    (s.portTrained p).pending = s.pending := by
  simp [State.portTrained, apply_ite State.pending]
@[simp] theorem State.reservedWrite_pending (s : State) (ch off : Nat) (bs : Bytes) :
    (s.reservedWrite ch off bs).pending = s.pending := by
  simp [State.reservedWrite, apply_ite State.pending]
@[simp] theorem State.ctlTrap_pending (s : State) (k cause tval : Nat) :
    (s.ctlTrap k cause tval).pending = s.pending := rfl
@[simp] theorem State.loseQuadrant_pending (s : State) (q : Nat) : (s.loseQuadrant q).pending = s.pending := rfl
@[simp] theorem State.answerCommit_pending (s : State) (cmd : Option Nat) (status detail r0 : Nat) :
    (s.answerCommit cmd status detail r0).pending = s.pending := by
  unfold State.answerCommit
  split
  all_goals first | rfl | simp
@[simp] theorem State.trigger_pending (s : State) : s.trigger.pending = s.pending := rfl
@[simp] theorem State.atRtc_pending (s : State) (rtc : BitVec 48) : (s.atRtc rtc).pending = s.pending := rfl
@[simp] theorem State.onSec_pending (s : State) (r : SecSt × PwrSt) : (s.onSec r).pending = s.pending := rfl
@[simp] theorem State.dbgResult_pending (s : State) (code : Nat) : (s.dbgResult code).pending = s.pending := rfl
theorem State.dbgRequest_pending (s : State) (f : State → State) (h : ∀ t, (f t).pending = t.pending) :
    (s.dbgRequest f).pending = s.pending := by
  simp only [State.dbgRequest, apply_ite State.pending, h, State.dbgResult, ite_self]
@[simp] theorem State.newNonce_pending (s : State) :
    s.newNonce.pending = s.pending := by
  simp [State.newNonce, apply_ite State.pending]
@[simp] theorem State.submit_pending (s : State) :
    s.submit.pending = s.pending := by
  simp [State.submit, apply_ite State.pending]
@[simp] theorem State.authorise_pending (s : State) (op : Nat) (rtc : BitVec 48) :
    (s.authorise op rtc).pending = s.pending := by
  simp [State.authorise, apply_ite State.pending]
@[simp] theorem State.session_pending (s : State) (level : Nat) :
    (s.session level).pending = s.pending := by
  simp [State.session, apply_ite State.pending]
@[simp] theorem State.relock_pending (s : State) :
    s.relock.pending = s.pending := by
  simp [State.relock, apply_ite State.pending]
@[simp] theorem State.jtag_pending (s : State) (ir : JtagIr) (allowed : Bool) :
    (s.jtag ir allowed).pending = s.pending := by
  simp [State.jtag, apply_ite State.pending]
@[simp] theorem State.spdm_pending (s : State) (answer : SecSt → Bytes) :
    (s.spdm answer).pending = s.pending := by
  simp [State.spdm, apply_ite State.pending]
@[simp] theorem State.onIcu_pending (s : State) (f : IcuSt → IcuSt) : (s.onIcu f).pending = s.pending := rfl
@[simp] theorem State.claim_pending (s : State) (k : Nat) : (s.claim k).pending = s.pending := rfl
@[simp] theorem State.regClear_pending (s : State) (ctl : Bool) (a m : Nat) :
    (s.regClear ctl a m).pending = s.pending := by
  simp [State.regClear, apply_ite State.pending]
@[simp] theorem State.readCtl_pending (s : State) (k off size : Nat) : (s.readCtl k off size).pending = s.pending := by
  unfold State.readCtl
  repeat' split
  all_goals simp
@[simp] theorem State.readHost_pending (s : State) (fn off size : Nat) :
    (s.readHost fn off size).pending = s.pending := by
  unfold State.readHost
  repeat' split
  all_goals simp
@[simp] theorem State.read_pending (s : State) (who : Agent) (off size : Nat) :
    (s.read who off size).pending = s.pending := by
  unfold State.read
  repeat' split
  all_goals simp
@[simp] theorem State.resetCtrl_pending (s : State) (key : Nat) (module_ compute : Bool) :
    (s.resetCtrl key module_ compute).pending = s.pending := by
  simp [State.resetCtrl, apply_ite State.pending]
@[simp] theorem State.writeSup_pending (s : State) (a m v : Nat) : (s.writeSup a m v).pending = s.pending := by
  unfold State.writeSup
  split
  all_goals first | rfl | simp
@[simp] theorem State.writeIcu_pending (s : State) (k : Option Nat) (off m v : Nat) :
    (s.writeIcu k off m v).pending = s.pending := by
  unfold State.writeIcu
  repeat' split
  all_goals simp
@[simp] theorem State.writePwr_pending (s : State) (off m v : Nat) : (s.writePwr off m v).pending = s.pending := by
  unfold State.writePwr
  dsimp only
  repeat' split
  all_goals rfl
@[simp] theorem State.writeTel_pending (s : State) (off m v : Nat) :
    (s.writeTel off m v).pending = s.pending := by
  simp [State.writeTel, apply_ite State.pending]
@[simp] theorem State.writeLnk_pending (s : State) (p off m v : Nat) :
    (s.writeLnk p off m v).pending = s.pending := by
  simp [State.writeLnk, apply_ite State.pending]
@[simp] theorem State.writeMem_pending (s : State) (ch off m v : Nat) :
    (s.writeMem ch off m v).pending = s.pending := by
  simp [State.writeMem, apply_ite State.pending]
@[simp] theorem State.writeBar0_pending (s : State) (ctl : Option Nat) (icu : Bool) (a m v : Nat) :
    (s.writeBar0 ctl icu a m v).pending = s.pending := by
  simp [State.writeBar0, apply_ite State.pending]
@[simp] theorem State.dbgCtrl_pending (s : State) (w : Nat) : (s.dbgCtrl w).pending = s.pending := by
  unfold State.dbgCtrl
  split
  · exact s.dbgRequest_pending _ State.newNonce_pending
  · exact s.submit_pending
  · exact s.dbgRequest_pending _ fun t => t.session_pending _
  · refine s.dbgRequest_pending (fun s => s.endSession.dbgResult 0) fun t => ?_
    rw [State.dbgResult_pending, State.endSession_pending]
  · exact s.relock_pending
  · rfl
@[simp] theorem State.writeDebug_pending (s : State) (a m v : Nat) :
    (s.writeDebug a m v).pending = s.pending := by
  simp [State.writeDebug, apply_ite State.pending]
@[simp] theorem State.write_pending (s : State) (who : Agent) (off size : Nat) (val : BitVec 64) :
    (s.write who off size val).pending = s.pending := by
  unfold State.write
  repeat' split
  all_goals simp
@[simp] theorem State.sideband_pending (s : State) (code : Nat) (answer : Bytes) :
    (s.sideband code answer).pending = s.pending := by
  simp [State.sideband, apply_ite State.pending]
@[simp] theorem State.goOn_pending (s : State) (c : StartCond) : (s.goOn c).pending = s.pending := by
  simp [State.goOn, apply_ite State.pending]
@[simp] theorem State.stackTrained_pending (s : State) (k : Nat) :
    (s.stackTrained k).pending = s.pending := by
  simp [State.stackTrained, apply_ite State.pending]

/-! ### The security block -/

@[simp] theorem State.noteBusy_sec (s : State) : s.noteBusy.sec = s.sec := by
  simp [State.noteBusy, apply_ite State.sec]
@[simp] theorem State.startAll_sec (s : State) : s.startAll.sec = s.sec := by simp [State.startAll]
@[simp] theorem State.answer_sec (s : State) (id status detail r0 r1 : Nat) :
    (s.answer id status detail r0 r1).sec = s.sec := by simp [State.answer]
@[simp] theorem State.refuse_sec (s : State) (id detail : Nat) : (s.refuse id detail).sec = s.sec := by simp [State.refuse]
@[simp] theorem State.imgCode_sec (s : State) (id code r0 : Nat) : (s.imgCode id code r0).sec = s.sec := by
  simp [State.imgCode]
@[simp] theorem State.handOver_sec (s : State) (w : Payload) : (s.handOver w).sec = s.sec := by
  unfold State.handOver
  split <;> simp [apply_ite State.sec]
@[simp] theorem State.slot_sec (s : State) (c : Nat) (f : SeqEnv → Nat → Core → Core × List Transit) :
    (s.slot c f).sec = s.sec := by
  simp [State.slot, apply_ite State.sec]
@[simp] theorem State.actAt_sec (s : State) (c : Nat) (f : Nat → Core → Core) :
    (s.actAt c f).sec = s.sec := by
  simp [State.actAt, apply_ite State.sec]
@[simp] theorem State.upsets_sec (s : State) (f : List CellUpset) : (s.upsets f).sec = s.sec := rfl
@[simp] theorem State.fetchPass_sec (s : State) (off : Nat) : (s.fetchPass off).sec = s.sec := by
  simp [State.fetchPass, apply_ite State.sec]
@[simp] theorem State.runOver_sec (s : State) : s.runOver.sec = s.sec := rfl
@[simp] theorem State.slotIn_sec (s : State) (c : Nat) (f : Nat → Core → Core) :
    (s.slotIn c f).sec = s.sec := by
  simp [State.slotIn, apply_ite State.sec]
@[simp] theorem State.coreWrite_sec (s : State) (c : Nat) (f : Core → Core) :
    (s.coreWrite c f).sec = s.sec := by
  simp [State.coreWrite, apply_ite State.sec]
@[simp] theorem State.coreEvent_sec (s : State) (c : Nat) (f : Nat → Core → Core) :
    (s.coreEvent c f).sec = s.sec := by
  simp [State.coreEvent, apply_ite State.sec]
@[simp] theorem State.herdCycle_sec (s : State) : s.herdCycle.sec = s.sec := rfl
@[simp] theorem State.joinBarrier_sec (s : State) : s.joinBarrier.sec = s.sec := by
  unfold State.joinBarrier
  repeat' split
  all_goals simp
@[simp] theorem State.slipCycle_sec (s : State) (late : Bool) : (s.slipCycle late).sec = s.sec := by
  unfold State.slipCycle
  repeat' split
  all_goals simp
@[simp] theorem State.lsSend_sec (s : State) (old : Nat → Nat) :
    (s.lsSend old).sec = s.sec := by
  simp [State.lsSend, apply_ite State.sec]
@[simp] theorem State.lsOne_sec (s : State) (core : Nat) (e : Nat × Nat × List (BitVec 64)) :
    (s.lsOne core e).sec = s.sec := by
  unfold State.lsOne
  dsimp only
  repeat' split
  all_goals rfl
@[simp] theorem State.lsCompare_sec (s : State) :
    s.lsCompare.sec = s.sec := by
  simp [State.lsCompare, foldl_keeps State.sec, apply_ite State.sec]
@[simp] theorem State.useChip_sec (s : State) (img : Image) : (s.useChip img).sec = s.sec := rfl
@[simp] theorem State.exchange_sec (s : State) (img : Image) (x n : Nat) : (s.exchange img x n).sec = s.sec := rfl
@[simp] theorem State.pointDone_sec (s : State) (x : Nat) (pt : Point) (dec : Option Bool) :
    (s.pointDone x pt dec).sec = s.sec := by
  unfold State.pointDone
  dsimp only
  repeat' split
  all_goals rfl
@[simp] theorem State.owe_sec (s : State) : s.owe.sec = s.sec := rfl
@[simp] theorem State.coldStart_sec (s : State) (img : Image) : (s.coldStart img).sec = s.sec := rfl
@[simp] theorem State.launchWith_sec (s : State) (img : Image) (cmd : Nat) : (s.launchWith img cmd).sec = s.sec := by simp [State.launchWith]
@[simp] theorem State.launchLate_sec (s : State) (cmd : Nat) : (s.launchLate cmd).sec = s.sec := by simp [State.launchLate]
@[simp] theorem State.launchDue_sec (s : State) : s.launchDue.sec = s.sec := by
  unfold State.launchDue
  repeat' split
  all_goals simp
@[simp] theorem State.beginCycle_sec (s : State) : s.beginCycle.sec = s.sec := by
  simp [State.beginCycle, apply_ite State.sec]
@[simp] theorem State.frontNow_sec (s : State) : s.frontNow.sec = s.sec := by
  simp [State.frontNow, foldl_keeps State.sec]
@[simp] theorem State.rearNow_sec (s : State) : s.rearNow.sec = s.sec := by
  simp [State.rearNow, foldl_keeps State.sec]
@[simp] theorem State.rearEvent_sec (s : State) (c : Nat) (due : Nat → Core → Bool) (f : Nat → Core → Core) :
    (s.rearEvent c due f).sec = s.sec := by
  unfold State.rearEvent
  dsimp only
  split
  · exact s.frontNow_sec
  · rfl
@[simp] theorem State.planeCycle_sec (s : State) : s.planeCycle.sec = s.sec := by
  unfold State.planeCycle
  dsimp only
  split
  · simp
  · split <;> simp
@[simp] theorem State.endRun_sec (s : State) : s.endRun.sec = s.sec := by
  unfold State.endRun
  dsimp only
  repeat' split
  all_goals first | rfl | simp
@[simp] theorem State.erase_sec (s : State) : s.erase.sec = s.sec := by simp [State.erase]
@[simp] theorem State.noEast_sec (s : State) : s.noEast.sec = s.sec := rfl
@[simp] theorem State.ready_sec (s : State) : s.ready.sec = s.sec := rfl
@[simp] theorem State.startLinks_sec (s : State) :
    s.startLinks.sec = s.sec := by
  simp [State.startLinks, apply_ite State.sec]
@[simp] theorem State.startDies_sec (s : State) (eastOk : Bool) :
    (s.startDies eastOk).sec = s.sec := by
  simp [State.startDies, apply_ite State.sec]
@[simp] theorem State.startStore_sec (s : State) : s.startStore.sec = s.sec := rfl
@[simp] theorem State.computeBegin_sec (s : State) : s.computeBegin.sec = s.sec := rfl
@[simp] theorem State.computeReset_sec (s : State) :
    s.computeReset.sec = s.sec := by
  simp [State.computeReset, apply_ite State.sec]
@[simp] theorem State.computeEnd_sec (s : State) :
    s.computeEnd.sec = s.sec := by
  simp [State.computeEnd, apply_ite State.sec]
@[simp] theorem State.afterLoad_sec (s : State) :
    s.afterLoad.sec = s.sec := by
  simp [State.afterLoad, apply_ite State.sec]
@[simp] theorem State.loseEast_sec (s : State) : s.loseEast.sec = s.sec := by simp [State.loseEast, apply_ite State.sec]
@[simp] theorem State.fence_sec (s : State) (epoch root : Nat) :
    (s.fence epoch root).sec = s.sec := by
  simp [State.fence, apply_ite State.sec]
@[simp] theorem State.adopt_sec (s : State) (epoch root : Nat) (mask : List Nat) :
    (s.adopt epoch root mask).sec = s.sec := by
  unfold State.adopt
  by_cases h : mask.contains s.chip.herdX
  · rw [if_pos h]
    by_cases h3 : s.link.mstate = 3
    · simp only [if_pos h3]
      generalize HostSt.waiting _ _ = w
      cases w with
      | none => simp only
      | some c => simp only [State.answer_sec]
    · simp only [if_neg h3]
  · rw [if_neg h]
    by_cases h1 : s.link.mstate = 1
    · rw [if_pos h1]
    · rw [if_neg h1, State.fence_sec]
@[simp] theorem State.issue_sec (s : State) (mask : List Nat) : (s.issue mask).sec = s.sec := by simp [State.issue]
@[simp] theorem State.startJoin_sec (s : State) :
    s.startJoin.sec = s.sec := by
  simp [State.startJoin, apply_ite State.sec]
@[simp] theorem State.join_sec (s : State) (p : Nat) : (s.join p).sec = s.sec := by
  unfold State.join
  dsimp only
  repeat' split
  all_goals first | rfl | simp
@[simp] theorem State.member_sec (s : State) (p : Nat) : (s.member p).sec = s.sec := by
  unfold State.member
  split
  · rfl
  · simp only [apply_ite State.sec, State.adopt_sec, ite_self]
@[simp] theorem State.suspectOf_sec (s : State) (y : Nat) :
    (s.suspectOf y).sec = s.sec := by
  simp [State.suspectOf, apply_ite State.sec]
@[simp] theorem State.suspect_sec (s : State) (p : Nat) : (s.suspect p).sec = s.sec := by
  unfold State.suspect
  dsimp only
  repeat' split
  all_goals first | rfl | simp
@[simp] theorem State.suspectTimeout_sec (s : State) (x : Nat) :
    (s.suspectTimeout x).sec = s.sec := by
  simp [State.suspectTimeout, apply_ite State.sec]
@[simp] theorem State.epochFlit_sec (s : State) (p : Nat) (request : Bool) (epoch root : Nat) (excludes : Bool) :
    (s.epochFlit p request epoch root excludes).sec = s.sec := by
  simp [State.epochFlit, apply_ite State.sec]
@[simp] theorem State.barrierTimeout_sec (s : State) (children : List Nat) :
    (s.barrierTimeout children).sec = s.sec := by
  simp [State.barrierTimeout, foldl_keeps State.sec, apply_ite State.sec]
@[simp] theorem State.hold_sec (s : State) (id : Nat) : (s.hold id).sec = s.sec := rfl
@[simp] theorem State.tokensEnd_sec (s : State) (c : HostCmd) (core pail result : Nat) :
    (s.tokensEnd c core pail result).sec = s.sec := by
  unfold State.tokensEnd
  split
  · simp
  · split <;> simp
@[simp] theorem State.copyInDone_sec (s : State) (c : HostCmd) : (s.copyInDone c).sec = s.sec := by
  unfold State.copyInDone
  repeat' split
  all_goals simp
@[simp] theorem State.loadEnds_sec (s : State) (id : Nat) (r : LoadRes) (img : Option Image) :
    (s.loadEnds id r img).sec = s.sec := by
  simp [State.loadEnds]
@[simp] theorem State.loadRefused_sec (s : State) (id code : Nat) : (s.loadRefused id code).sec = s.sec := by simp [State.loadRefused]
@[simp] theorem State.spoil_sec (s : State) (b : Bytes) (img : Image) (i : Nat) :
    (s.spoil b img i).sec = s.sec := by
  simp [State.spoil, foldl_keeps State.sec, apply_ite State.sec]
@[simp] theorem State.place_sec (s : State) (img : Image) : (s.place img).sec = s.sec := by
  simp only [State.place, apply_ite State.sec, State.startJoin_sec, ite_self]
@[simp] theorem State.loadSections_sec (s : State) (id : Nat) (b : Bytes) :
    (s.loadSections id b).sec = s.sec := by
  simp [State.loadSections, apply_ite State.sec]
@[simp] theorem State.load_sec (s : State) (id : Nat) (b : Bytes) :
    (s.load id b).sec = s.sec := by
  simp [State.load, apply_ite State.sec]
@[simp] theorem State.launchWaits_sec (s : State) (l : Launch) : (s.launchWaits l).sec = s.sec := rfl
@[simp] theorem State.arriveStart_sec (s : State) (img : Image) :
    (s.arriveStart img).sec = s.sec := by
  simp [State.arriveStart, apply_ite State.sec]
@[simp] theorem State.queueCommit_sec (s : State) (id : Nat) (a : CommitAct) : (s.queueCommit id a).sec = s.sec := rfl
@[simp] theorem State.aloneAt_sec (s : State) (c : Nat) (f : Nat → Core → Core) :
    (s.aloneAt c f).sec = s.sec := by
  simp [State.aloneAt, apply_ite State.sec]
@[simp] theorem State.releaseReads_sec (s : State) (c m : Nat) : (s.releaseReads c m).sec = s.sec := rfl
@[simp] theorem State.deliverDue_sec (s : State) (f : Transit → Bool) :
    (s.deliverDue f).sec = s.sec := by
  simp [State.deliverDue, foldl_keeps State.sec]
theorem State.takeToken_sec (s : State) (src : TokenSrc) : (s.takeToken src).2.sec = s.sec := by
  cases src <;> rfl
@[simp] theorem State.tokenIn_sec (s : State) (src : TokenSrc) : (s.tokenIn src).sec = s.sec := by
  have h := s.takeToken_sec src
  unfold State.tokenIn
  generalize s.takeToken src = r at h ⊢
  obtain ⟨_ | ⟨c, p⟩, s1⟩ := r
  · exact ite_self _ ▸ rfl
  · split
    · rfl
    · exact h
@[simp] theorem State.stackSample_sec (s : State) (k t : Nat) :
    (s.stackSample k t).sec = s.sec := by
  simp [State.stackSample, apply_ite State.sec]
@[simp] theorem State.onHerdLink_sec (s : State) (r : HerdSt × LinkSt) : (s.onHerdLink r).sec = s.sec := rfl
@[simp] theorem State.onLink_sec (s : State) (f : LinkSt → LinkSt) : (s.onLink f).sec = s.sec := rfl
@[simp] theorem State.onLinkExt_sec (s : State) (r : LinkSt × ExtSt) : (s.onLinkExt r).sec = s.sec := rfl
@[simp] theorem State.portTrained_sec (s : State) (p : Nat) :
    (s.portTrained p).sec = s.sec := by
  simp [State.portTrained, apply_ite State.sec]
@[simp] theorem State.reservedWrite_sec (s : State) (ch off : Nat) (bs : Bytes) :
    (s.reservedWrite ch off bs).sec = s.sec := by
  simp [State.reservedWrite, apply_ite State.sec]
@[simp] theorem State.ctlTrap_sec (s : State) (k cause tval : Nat) : (s.ctlTrap k cause tval).sec = s.sec := rfl
@[simp] theorem State.loseQuadrant_sec (s : State) (q : Nat) : (s.loseQuadrant q).sec = s.sec := rfl
@[simp] theorem State.answerCommit_sec (s : State) (cmd : Option Nat) (status detail r0 : Nat) :
    (s.answerCommit cmd status detail r0).sec = s.sec := by
  unfold State.answerCommit
  split
  all_goals first | rfl | simp
@[simp] theorem State.trigger_sec (s : State) : s.trigger.sec = s.sec := rfl
@[simp] theorem State.atRtc_sec (s : State) (rtc : BitVec 48) : (s.atRtc rtc).sec = s.sec := rfl
@[simp] theorem State.spdm_sec (s : State) (answer : SecSt → Bytes) :
    (s.spdm answer).sec = s.sec := by
  simp [State.spdm, apply_ite State.sec]
@[simp] theorem State.onIcu_sec (s : State) (f : IcuSt → IcuSt) : (s.onIcu f).sec = s.sec := rfl
@[simp] theorem State.claim_sec (s : State) (k : Nat) : (s.claim k).sec = s.sec := rfl
@[simp] theorem State.regClear_sec (s : State) (ctl : Bool) (a m : Nat) :
    (s.regClear ctl a m).sec = s.sec := by
  simp [State.regClear, apply_ite State.sec]
@[simp] theorem State.readCtl_sec (s : State) (k off size : Nat) : (s.readCtl k off size).sec = s.sec := by
  unfold State.readCtl
  repeat' split
  all_goals simp
@[simp] theorem State.readHost_sec (s : State) (fn off size : Nat) : (s.readHost fn off size).sec = s.sec := by
  unfold State.readHost
  repeat' split
  all_goals simp
@[simp] theorem State.read_sec (s : State) (who : Agent) (off size : Nat) : (s.read who off size).sec = s.sec := by
  unfold State.read
  repeat' split
  all_goals simp
@[simp] theorem State.resetCtrl_sec (s : State) (key : Nat) (module_ compute : Bool) :
    (s.resetCtrl key module_ compute).sec = s.sec := by
  simp [State.resetCtrl, apply_ite State.sec]
@[simp] theorem State.writeSup_sec (s : State) (a m v : Nat) : (s.writeSup a m v).sec = s.sec := by
  unfold State.writeSup
  split
  all_goals first | rfl | simp
@[simp] theorem State.writeIcu_sec (s : State) (k : Option Nat) (off m v : Nat) : (s.writeIcu k off m v).sec = s.sec := by
  unfold State.writeIcu
  repeat' split
  all_goals simp
@[simp] theorem State.writePwr_sec (s : State) (off m v : Nat) : (s.writePwr off m v).sec = s.sec := by
  unfold State.writePwr
  dsimp only
  repeat' split
  all_goals rfl
@[simp] theorem State.writeTel_sec (s : State) (off m v : Nat) :
    (s.writeTel off m v).sec = s.sec := by
  simp [State.writeTel, apply_ite State.sec]
@[simp] theorem State.writeLnk_sec (s : State) (p off m v : Nat) :
    (s.writeLnk p off m v).sec = s.sec := by
  simp [State.writeLnk, apply_ite State.sec]
@[simp] theorem State.writeMem_sec (s : State) (ch off m v : Nat) :
    (s.writeMem ch off m v).sec = s.sec := by
  simp [State.writeMem, apply_ite State.sec]
@[simp] theorem State.writeBar0_sec (s : State) (ctl : Option Nat) (icu : Bool) (a m v : Nat) :
    (s.writeBar0 ctl icu a m v).sec = s.sec := by
  simp [State.writeBar0, apply_ite State.sec]
@[simp] theorem State.sideband_sec (s : State) (code : Nat) (answer : Bytes) :
    (s.sideband code answer).sec = s.sec := by
  simp [State.sideband, apply_ite State.sec]
@[simp] theorem State.stackTrained_sec (s : State) (k : Nat) :
    (s.stackTrained k).sec = s.sec := by
  simp [State.stackTrained, apply_ite State.sec]

end Sys2Proof.Machine
end

