-- ==== Sys2Proof/Tests/Witnesses.lean ====
section
/-! SUPPORT. For every statement with hypotheses, a state and operands that meet them, clause by clause. -/

namespace Sys2Proof.Tests

open Sys2Proof Sys2Proof.Machine

set_option Elab.async false

/-- Engines of a core as tables list them. -/
def engs (g : Engine) : Tab Engine := [(0, g), (1, Engine.reset), (2, Engine.reset), (3, Engine.reset)]

/-- A core that runs, with its engine 0. -/
def running (g : Engine) : Core := { Core.reset with eng := engs g, seq := { SeqSt.reset with state := .run } }

/-- The same with a configuration. -/
def loaded (cfg : CoreCfg) (g : Engine) : Core := { running g with cfg := cfg }

/-- The module after start-up in plane cycle 100, with two cores: core 0 as given, core 1 idle. -/
def up (k : Core) : State := { State.reset with
  sup := { SupSt.reset with step := 9, westOk := true, eastOk := true, quadrantOk := 255 }
  plane := { PlaneSt.reset with now := 100, enabled := 2, sites := [(0, 0), (1, 1)], cores := [(0, k)] } }

/-- The module after start-up, nothing running. -/
def idleUp : State := up Core.reset

/-! ### SEQ slots -/

theorem witness_StepTakesFront : ({ State.reset with pending := [.nop 0] } : State).pending = .nop 0 :: [] := rfl

theorem witness_QueueAndIdle :
    (let s := ({ State.reset with pwr := { PwrSt.reset with state := 2 } } : State)
     s.pending = [] ∧ s.pwr.state = 2) ∧
    (let s := ({ State.reset with sup := { SupSt.reset with step := 3 } } : State)
     s.pending = [] ∧ s.pwr.state ≤ 1 ∧ 3 ≤ s.sup.step ∧ s.clockOn = false) ∧
    (let s := State.reset
     s.pending = [] ∧ ¬ (s.pwr.state = 2 ∨ s.pwr.state = 3 ∨ (s.pwr.state ≤ 1 ∧ 3 ≤ s.sup.step ∧ s.clockOn = false))) := by
  decide +kernel

def kTally : Core := { running Engine.reset with seq := { SeqSt.reset with
  state := .run, tallies := [⟨0, false⟩, ⟨1, false⟩, ⟨7, true⟩] } }

theorem witness_TallySlots : (up kTally).coreRuns 0 ∧
    (let k := (up kTally).coreNow 0
     let i := fun (a : BitVec 27) => bits a.toNat 26 23
     (k.tally (i 0x0)).data = false ∧ (k.tally (i 0x0)).val = 0 ∧
     (k.tally (i 0x800FFF)).data = false ∧ (k.tally (i 0x800FFF)).val ≠ 0 ∧ bits (0x800FFF : BitVec 27).toNat 22 12 = 0 ∧
     (k.tally (i 0x1000000)).data = true) := by
  unfold State.coreRuns; decide +kernel

def kPail (p : Pail) (t : List (Nat × Nat)) : Core := ({ running Engine.reset with seq := { SeqSt.reset with
  state := .run, tokens := t } } : Core).setPail 2047 p

theorem witness_PailSlots :
    (let s := up (kPail Pail.reset [])
     s.coreRuns 0 ∧ (bits (0x7FF0000 : BitVec 27).toNat 7 0 = 0 ∧ bit (0x7FF0000 : BitVec 27).toNat 15 = false) ∧
      (bits (0x7FF8100 : BitVec 27).toNat 7 0 = 0 ∧ bit (0x7FF8100 : BitVec 27).toNat 15 = true ∧
        bits (0x7FF8100 : BitVec 27).toNat 14 8 < s.plane.enabled ∧ s.plane.site 1 ≠ s.plane.site 0 ∧ s.plane.taken.contains 0 = false)) ∧
    (let k := fun (level queue : Nat) (edge : Bool) => (up (kPail ⟨level, edge, false, queue⟩ [])).coreNow 0
     bits (0x7FF0000 : BitVec 27).toNat 15 0 = 0 ∧ bits (0x7FF0000 : BitVec 27).toNat 26 16 = 2047 ∧
      (((k 1 0 false).pail 2047).queue = 0 ∧ 0 < ((k 1 0 false).pail 2047).level) ∧
      (0 < ((k 16 3 true).pail 2047).level ∧ ((k 16 3 true).pail 2047).level ≤ 16 ∧ 0 < ((k 16 3 true).pail 2047).queue ∧
        ((k 16 3 true).pail 2047).edge = true) ∧
      (((k 0 0 false).pail 2047).level = 0 ∧ ((k 0 0 false).pail 2047).edge = false) ∧ ((k 0 0 true).pail 2047).edge = true) ∧
    (let s := fun (level : Nat) (edge : Bool) (due : Nat) => up (kPail ⟨level, edge, false, 0⟩ [(due, 2047)])
     let k := fun (level : Nat) (edge : Bool) (due : Nat) => ((s level edge due).frontNow).plane.core 0
     (s 15 false 100).coreRear 0 ∧ (s 15 false 100).frontNow.plane.now = 100 ∧ (k 15 false 101).seq.tokens = [(101, 2047)] ∧
      ((k 15 false 100).seq.tokens = [(100, 2047)] ∧ ((k 15 false 100).pail 2047).edge = false ∧ ((k 15 false 100).pail 2047).level < 16) ∧
      ((k 16 false 100).seq.tokens = [(100, 2047)] ∧ 16 ≤ ((k 16 false 100).pail 2047).level) ∧
      ((k 15 true 100).seq.tokens = [(100, 2047)] ∧ ((k 15 true 100).pail 2047).edge = true)) := by
  unfold State.coreRuns State.coreRear; decide +kernel

/-- A core with a seam under way since cycle 99. -/
def kSeam (halt fault : Bool) : Core := { running Engine.reset with
  cfg := { CoreCfg.reset with seams := [(1, 0x1000000000000000)], faultHalt := halt }
  seq := { SeqSt.reset with state := .run, faulted := fault, seam := some ⟨99, 5, 0, none⟩ } }

theorem witness_SeamAndHalt :
    (let s := up (kSeam false false)
     let k := s.coreNow 0
     s.coreRuns 0 ∧ (s.plane.govDebt = 0 ∧ s.plane.thermDebt = 0 ∧ s.plane.comparing = false) ∧
      ({ s with plane := { s.plane with govDebt := 1 } } : State).plane.govDebt ≠ 0 ∧
      ({ s with plane := { s.plane with govDebt := 1 } } : State).coreRuns 0 ∧
      (bits (0x0 : BitVec 27).toNat 26 21 = 0 ∧ bits (0x0 : BitVec 27).toNat 13 0 = 0 ∧ bit (0x0 : BitVec 27).toNat 20 = false) ∧
      (bits (0x104000 : BitVec 27).toNat 26 21 = 0 ∧ bits (0x104000 : BitVec 27).toNat 13 0 = 0 ∧ bit (0x104000 : BitVec 27).toNat 20 = true ∧
        bits (k.cfg.seams.get 0 (bits (0x104000 : BitVec 27).toNat 19 14)).toNat 63 60 = 1 ∧
        bits (k.cfg.seams.get 0 (bits (0x100000 : BitVec 27).toNat 19 14)).toNat 63 60 = 0)) ∧
    (let s := up (kSeam false false)
     let k := s.plane.core 0
     s.coreThere 0 ∧ k.seq.seam = some ⟨99, 5, 0, none⟩ ∧ 99 < s.plane.now ∧ s.plane.stop = false ∧ k.su.pendDesc = [] ∧
      (k.cfg.faultHalt && k.seq.faulted) = false) ∧
    (let s := up (kSeam true true)
     s.coreThere 0 ∧ (s.plane.core 0).seq.seam = some ⟨99, 5, 0, none⟩ ∧
      (s.plane.stop || ((s.plane.core 0).cfg.faultHalt && (s.plane.core 0).seq.faulted)) = true) := by
  unfold State.coreRuns State.coreThere; decide +kernel

/-- A core at its bundle 0, which is `b`; engines as a settled core lists them. -/
def kBundle (b : BitVec 256) (q : SeqSt) : Core := { running Engine.reset with
  cfg := { CoreCfg.reset with prog := [b] }
  seq := { q with state := .run, nextAt := some 100 } }

theorem witness_BundleIssues :
    (let s := fun (b : BitVec 256) => up (kBundle b SeqSt.reset)
     let k := fun (b : BitVec 256) => (s b).coreNow 0
     (s 0x01000300).coreRuns 0 ∧ (k 0x01000300).bundle = some 0x01000300 ∧ (k 0x01000300).seq.nextAt = some 100 ∧
      100 ≤ (s 0x01000300).plane.now ∧ slotOf 0x01000300 1 = 0 ∧ (k 0x01000300).seq.rep < bits (slotOf 0x01000300 0) 31 24 ∧
      (s 0x00000300).coreRuns 0 ∧ (k 0x00000300).bundle = some 0x00000300 ∧ bits (slotOf 0x00000300 0) 31 24 ≤ (k 0x00000300).seq.rep) ∧
    (let s := up ((kBundle 0x1000000000000000 { SeqSt.reset with stalled := true }).setPail 0 ⟨1, false, false, 0⟩)
     let k := s.coreNow 0
     s.coreRuns 0 ∧ k.bundle = some 0x1000000000000000 ∧ k.seq.nextAt = some 100 ∧ bits (slotOf 0x1000000000000000 1) 31 27 = 2 ∧
      bits (slotOf 0x1000000000000000 1) 15 0 = 0 ∧ k.seq.stalled = true ∧
      0 < (k.pail (bits (slotOf 0x1000000000000000 1) 26 16)).level ∧ bits (slotOf 0x1000000000000000 0) 31 24 ≤ k.seq.rep ∧
      (k.pail (bits (slotOf 0x1000000000000000 1) 26 16)).edge = false) := by
  unfold State.coreRuns; decide +kernel

theorem witness_AtomSlots :
    (let s := up (running Engine.reset)
     s.coreRuns 0 ∧ (bits (0x5800000 : BitVec 27).toNat 12 0 = 0 ∧ bit (0x5800000 : BitVec 27).toNat 20 = false ∧
       bits (0x5800000 : BitVec 27).toNat 26 23 + 4 ≤ 15 ∧ ((s.coreNow 0).tally 11).val.toNat % 2 ^ 21 % 2 = 0) ∧
      bits (0x7000000 : BitVec 27).toNat 26 23 + 1 ≤ 15 ∧
      (bits (0x5902000 : BitVec 27).toNat 12 0 = 0 ∧ bit (0x5902000 : BitVec 27).toNat 20 = true ∧
       bits (0x5902000 : BitVec 27).toNat 19 13 = 1 ∧ 1 < s.plane.enabled ∧ s.plane.taken.contains 0 = false ∧
       bits (0x5902000 : BitVec 27).toNat 26 23 = 11)) := by
  unfold State.coreRuns; decide +kernel

def kAtom (o : AtomOp) : Core := { running Engine.reset with seq := { SeqSt.reset with state := .run, atoms := [o] } }

theorem witness_AtomAccess :
    (let o : AtomOp := ⟨1, 0, 0, 0, 2097151, [5], 100, 103, false, none⟩
     let s := up (kAtom o)
     let k := s.coreNow 0
     s.coreThere 0 ∧ k.seq.atoms = [o] ∧ o.target = 0 ∧ k.st.tile.wf = true ∧ o.kind = 0 ∧ o.issued = false ∧ o.bankAt ≤ 100 ∧
      o.old = none ∧ o.word < 2 ^ 21 ∧ s.plane.lateOf 0 = [] ∧ s.portFree 0 false (o.word / 16) 1 0 ∧ k.st.adders = [] ∧
      k.st.poisoned false (4 * o.word) = false) ∧
    (let o : AtomOp := ⟨1, 0, 0, 0, 3, [5], 97, 100, true, some [9]⟩
     (up (kAtom o)).coreThere 0 ∧ ((up (kAtom o)).plane.core 0).seq.atoms = [o] ∧ o.writeAt ≤ 100 ∧ o.old = some [9]) := by
  unfold State.coreThere State.portFree; decide +kernel

theorem witness_ScrubAndWriteBack :
    (let s := up (running Engine.reset)
     let k := s.plane.core 0
     s.cycleOpen = true ∧ 0 ∈ s.plane.live ∧ k.st.scrubDone.contains (false, 31) = false ∧
      (∀ i, i < 2 → (k.st.soft false).contains (2 * scrubRow false k.st.scrubCount 31 + i) = false) ∧
      (k.st.bad false).contains (2 * scrubRow false k.st.scrubCount 31) = false) ∧
    (let s := up { running Engine.reset with st := { StoreSt.reset with scrubDone := [(true, 7)] } }
     s.cycleOpen = true ∧ (s.plane.core 0).st.scrubDone.contains (true, 7) = true) ∧
    (let first := lineBytes true / 32 * scrubRow true 0 7
     let s := up { running Engine.reset with st := { StoreSt.reset with softStage := [first] } }
     let k := s.plane.core 0
     s.cycleOpen = true ∧ k.st.scrubCount = 0 ∧ k.st.scrubDone.contains (true, 7) = false ∧ (k.st.soft true).contains first = true ∧
      ∀ i, i < lineBytes true / 32 → 0 < i → (k.st.soft true).contains (first + i) = false) ∧
    (let o : AdderOp := ⟨63, 0, [1, 2], 100, 0⟩
     let s := up { running Engine.reset with st := { StoreSt.reset with adders := [o] } }
     let k := s.frontNow.plane.core 0
     s.coreRear 0 ∧ k.st.tile.wf = true ∧ k.st.adders = [o] ∧ o.due ≤ s.frontNow.plane.now ∧ o.line % 32 = 31 ∧ o.off + o.bytes.length ≤ 64) := by
  unfold State.coreRear; decide +kernel

theorem witness_Watchdog :
    (let s := up { running Engine.reset with seq := { SeqSt.reset with state := .run, wdogLimit := 5, wdogCount := 5 } }
     let k := s.plane.core 0
     0 ∈ s.plane.live ∧ s.clockOn = true ∧ s.plane.half = false ∧ k.seq.state = .run ∧ k.seq.wdogLimit ≠ 0 ∧
      k.seq.wdogLimit.toNat ≤ k.seq.wdogCount) ∧
    (up (running Engine.reset)).pwr.state ≤ 2 ∧ 0 ∈ (up (running Engine.reset)).plane.live := by
  decide +kernel

/-! ### Engines -/

/-- An engine with one vat. -/
def gVat (v : Vat) : Engine := { Engine.reset with vats := [(0, v)] }

/-- A vat of generation 1, EXACT over Q128, one row from slot 1,020 on. -/
def vat1 (st : VatState) : Vat := { Vat.reset with gen := 1, state := st, fmt := 8, rowBase := 1020 }

/-- A core whose operation table of engine 0 holds one entry, of a kind and its further bits. -/
def kEnt (x : BitVec 128) (g : Engine) : Core := loaded { CoreCfg.reset with opt := [(0, x)] } g

theorem witness_VatLife :
    (let m := meSlot (0x80000 : BitVec 27).toNat
     let s := up (kEnt (1 <<< 124 ||| 8 <<< 118 ||| 1020 <<< 108) Engine.reset)
     let k := s.coreNow 0
     let sh := shapeOf (k.meEnt 0 m.entry).toNat
     s.coreRuns 0 ∧ k.meCheck 0 1 m = 0 ∧ ∀ i ∈ k.gang 0, BitVec.ofNat 4 m.gen = ((k.me i).vat m.vat).gen + 1 ∧
       ((k.me i).vat m.vat).state = .idle ∧ openCheck (k.me i) m.vat sh = 0) ∧
    (let m := meSlot (0x80000 : BitVec 27).toNat
     let k := (up (running (gVat (vat1 .vopen)))).coreNow 0
     k.meCheck 0 2 m = 0 ∧ ∀ i ∈ k.gang 0, BitVec.ofNat 4 m.gen = ((k.me i).vat m.vat).gen ∧
       ((k.me i).vat m.vat).state = .vopen ∧ ((k.me i).vat m.vat).sealAt = none) ∧
    (let m := meSlot (0x80000 : BitVec 27).toNat
     let k := (up (running (gVat { vat1 .vsealed with sealAt := some 94 }))).coreNow 0
     k.meCheck 0 5 m = 0 ∧ ∀ i ∈ k.gang 0, BitVec.ofNat 4 m.gen = ((k.me i).vat m.vat).gen ∧
       ((k.me i).vat m.vat).state = .vsealed ∧ ((k.me i).vat m.vat).earliest 100 m.gen ≤ 100) ∧
    (let k := running (gVat { vat1 .vopen with sealAt := some 94 })
     (up k).coreThere 0 ∧ ((k.me 0).vat 0).state = .vopen ∧ ((k.me 0).vat 0).sealAt = some 94 ∧ 94 + 6 ≤ 100) := by
  unfold State.coreRuns State.coreThere; decide +kernel

theorem witness_ContributionSlots :
    (let s := fun (kind : BitVec 128) (form : Nat) => up (kEnt (kind <<< 124) { Engine.reset with form := form })
     let k := fun (kind : BitVec 128) (form : Nat) => (s kind form).coreNow 0
     let m := meSlot (0 : BitVec 27).toNat
     (s 2 0).coreRuns 0 ∧ (k 2 0).meCheck 0 8 m = 0 ∧ (s 3 2).coreRuns 0 ∧ (k 3 2).meCheck 0 9 m = 0 ∧ (s 4 1).coreRuns 0 ∧
       (k 4 1).meCheck 0 10 m = 0 ∧ (s 6 0).coreRuns 0 ∧ (k 6 0).meCheck 0 11 m = 0 ∧ ((k 6 0).me 0).fold = none ∧ (k 2 0).meCheck 0 6 m = 0) ∧
    (let f : FoldOp := ⟨1, 0, 0, 0, 0, 0, none, 0, []⟩
     let s := up (kEnt (6 <<< 124) { Engine.reset with fold := some f })
     let k := s.coreNow 0
     s.coreRuns 0 ∧ k.meCheck 0 11 (meSlot (0 : BitVec 27).toNat) = 0 ∧ (k.me 0).fold ≠ none) := by
  unfold State.coreRuns; decide +kernel

/-- An MMA of posit8 by posit8 that has made a number of swaps. -/
def mma (blk swapAt lastSwap : Nat) : ColOp := ⟨1, .mma, 0, 1, 0, 2 <<< 124, 0, 0, 0, swapAt, lastSwap, blk, [], 200⟩

theorem witness_ColumnPipe :
    (let k := running { Engine.reset with pend := some (mma 0 0 0) }
     (up k).coreThere 0 ∧ (k.me 0).pend = some (mma 0 0 0) ∧ (mma 0 0 0).kind = .mma ∧ (k.me 0).run = none ∧
       (k.me 0).preload = none ∧ (k.me 0).epi = none) ∧
    (let s := up (running { Engine.reset with run := some (mma 0 100 0), colAt := 100 })
     let k := s.coreNow 0
     s.coreThere 0 ∧ (k.me 0).run = some (mma 0 100 0) ∧ (mma 0 100 0).kind = .mma ∧ (mma 0 100 0).swapAt = 100 ∧ (mma 0 100 0).blk = 0 ∧
       (k.me 0).colAt ≤ 100) ∧
    (let p : Preload := ⟨0, 2 <<< 124, 100 - loadTime (2 <<< 124)⟩
     let k := running { Engine.reset with loading := some p }
     (up k).coreThere 0 ∧ (k.me 0).loading = some p ∧ p.begin_ + loadTime p.ent.toNat ≤ 100) := by
  unfold State.coreThere; decide +kernel

theorem witness_ChunkForms :
    (let op := mma 1 0 99
     let s := up (running { Engine.reset with run := some op, colAt := 100 })
     let k := s.coreNow 0
     let f : Forming := ⟨0, 0, 128, 0, true, 0, true, 0⟩
     (s.coreThere 0 ∧ (k.me 0).run = some op ∧ op.kind = .mma ∧ op.forming 100 = some f ∧ op.swapAt ≠ 100 ∧ op.loads = [] ∧
       (k.me 0).loading = none ∧ (k.me 0).pend = none ∧ (k.me 0).colAt ≤ 100 ∧ f.reads = true ∧ f.first = true ∧ f.lo < f.hi ∧
       s.portFree 0 true f.stage 7 10 ∧ (∀ i, i < 4 → k.st.poisoned true (128 * f.stage + 32 * i) = false) ∧
       ¬ (bits op.ent.toNat 123 120 = 3 ∧ bits op.ent.toNat 119 116 = 4)) ∧
     (let h := ({ s with plane := { s.plane with half := true } } : State)
      h.clockOn = true ∧ h.plane.half = true ∧ 0 ∈ h.plane.live ∧ ((h.plane.core 0).me 0).run = some op ∧ ((h.plane.core 0).me 0).colAt ≤ 100)) := by
  unfold State.coreThere State.portFree; decide +kernel

theorem witness_Landings :
    (let ch := fun (gen row posit : Nat) (masked : Bool) => (⟨100, 94, 1, 0, gen, row, 0, posit, 128, masked, [Val.num Dy.zero]⟩ : Chunk)
     let s := fun (v : Vat) (c : Chunk) => up (running { gVat v with chunks := [c] })
     let g := fun (v : Vat) (c : Chunk) => ((s v c).plane.core 0).me 0
     let seg := fun (v : Vat) (c : Chunk) => ((s v c).plane.core 0).segment
     let x := vat1 .vopen
     let y := { vat1 .vopen with mode := 1 }
     let takes := fun (v : Vat) (c : Chunk) => (s v c).coreThere 0 ∧ (g v c).chunks = [c] ∧ (g v c).foldRows = [] ∧ c.due ≤ (s v c).plane.now ∧
       c.masked = false ∧ ((g v c).vat 0).accepts c.gen c.issue c.segment (seg v c) = true ∧ c.row ≤ ((g v c).vat 0).rowsM1
     (takes x (ch 1 0 8 false) ∧ ((g x (ch 1 0 8 false)).vat 0).mode = 0 ∧ (ch 1 0 8 false).posit ≤ 8 * qwOf x.fmt ∧
       x.rowBase + 4 * qwOf x.fmt * 0 + 4 * qwOf x.fmt ≤ 1024 ∧ (ch 1 0 8 false).sums[0]? = some (Val.num Dy.zero)) ∧
     (takes y (ch 1 0 8 false) ∧ ((g y (ch 1 0 8 false)).vat 0).mode = 1 ∧ y.rowBase + (0 + 1) * (y.depth + 1) ≤ 1024) ∧
     (takes x (ch 1 0 32 false) ∧ 8 * qwOf x.fmt < (ch 1 0 32 false).posit) ∧
     ((s x (ch 1 0 8 true)).coreThere 0 ∧ (g x (ch 1 0 8 true)).chunks = [ch 1 0 8 true] ∧ (ch 1 0 8 true).masked = true) ∧
     ((s x (ch 1 1 8 false)).coreThere 0 ∧ ((g x (ch 1 1 8 false)).vat 0).accepts 1 94 0 (seg x (ch 1 1 8 false)) = true ∧
       ((g x (ch 1 1 8 false)).vat 0).rowsM1 < 1) ∧
     ((s x (ch 2 0 8 false)).coreThere 0 ∧ ((g x (ch 2 0 8 false)).vat 0).accepts 2 94 0 (seg x (ch 2 0 8 false)) = false ∧
       (g x (ch 2 0 8 false)).stales.contains 1 = false)) ∧
    (let fr : FoldRow := ⟨100, 90, 1, 0, 1, 0, 0, 1, 8 <<< 21, [Quire.zero], true, false⟩
     let s := fun (f : FoldRow) (cs : List Chunk) => up (running { gVat (vat1 .vopen) with foldRows := [f], chunks := cs })
     let k := fun (f : FoldRow) (cs : List Chunk) => (s f cs).plane.core 0
     let g := fun (f : FoldRow) (cs : List Chunk) => (k f cs).me 0
     let x := (g fr []).vat 0
     ((s fr []).coreThere 0 ∧ (g fr []).foldRows = [fr] ∧ (g fr []).chunks = [] ∧ fr.due ≤ (s fr []).plane.now ∧ fr.dropped = false ∧
       x.accepts fr.gen fr.issue fr.segment (k fr []).segment = true ∧ fr.row ≤ x.rowsM1 ∧ x.rowBase + 4 * qwOf x.fmt * 0 + 4 * qwOf x.fmt ≤ 1024 ∧
       (x.mode = 0 ∧ bits fr.trailer 26 25 = 0 ∧ bits fr.trailer 24 21 = x.fmt ∧ fr.w = qwOf x.fmt) ∧
       (g fr []).termed.contains fr.opId = false ∧ fr.quires[0]? = some Quire.zero) ∧
     (let bad := { fr with trailer := 9 <<< 21 }
      (s bad []).coreThere 0 ∧ (g bad []).foldRows = [bad] ∧ bits bad.trailer 24 21 ≠ x.fmt) ∧
     (let ch : Chunk := ⟨100, 94, 2, 0, 1, 0, 0, 8, 128, false, [Val.num Dy.zero]⟩
      (s fr [ch]).coreThere 0 ∧ (g fr [ch]).foldRows = [fr] ∧ (g fr [ch]).chunks = [ch] ∧ ch.due ≤ (s fr [ch]).plane.now ∧
       (g fr [ch]).pairOk (k fr [ch]).segment ch fr = true)) := by
  unfold State.coreThere; refine ⟨by decide +kernel, by decide +kernel⟩

/-- An epilogue operation on the vat of generation 1. -/
def epi (vexport : Bool) (ent : BitVec 128) (start : Option Nat) (rows w : Nat) (vals : Tab (List Val)) : EpiOp :=
  ⟨vexport, 0, 1, ent, false, false, 0, 100, start, rows, w, [], [], [], vals⟩

theorem witness_EpiloguePath :
    (let s := fun (kind : BitVec 128) (epi_ : Option EpiOp) => up (kEnt (kind <<< 124) { gVat (vat1 .vsealed) with epi := epi_ })
     let k := fun (kind : BitVec 128) (epi_ : Option EpiOp) => (s kind epi_).coreNow 0
     let m := meSlot (0x80000 : BitVec 27).toNat
     let o := some (epi true 0 (some 99) 1 1 [])
     (s 5 none).coreRuns 0 ∧ (k 5 none).meCheck 0 3 m = 0 ∧ (∀ i ∈ (k 5 none).gang 0, ((k 5 none).me i).epi = none) ∧
       (k 6 none).meCheck 0 4 m = 0 ∧ ((k 6 none).me 0).epi = none ∧ (s 6 o).coreRuns 0 ∧ (k 6 o).meCheck 0 4 m = 0 ∧ ((k 6 o).me 0).epi ≠ none) ∧
    (let op := fun (e : Bool) => epi e 0 none 0 0 []
     let s := fun (e : Bool) => up (running { gVat (vat1 .vsealed) with epi := some (op e), epiAt := 100 })
     let k := fun (e : Bool) => (s e).coreNow 0
     (s true).coreThere 0 ∧ ((k true).me 0).epiAt ≤ 100 ∧ ((k true).me 0).epi = some (op true) ∧ (op true).start = none ∧
       (op true).earliest ≤ 100 ∧ (((k true).me 0).vat 0).state = .vsealed ∧ (((k true).me 0).vat 0).gen = BitVec.ofNat 4 (op true).gen ∧
       (op true).vexport = true ∧ (s false).coreThere 0 ∧ ((k false).me 0).epi = some (op false) ∧ (op false).vexport = false ∧
       bit (op false).ent.toNat 112 = false ∧ bit (op false).ent.toNat 111 = false ∧ bit (op false).ent.toNat 109 = false ∧
       (((k false).me 0).vat 0).mode = 0) ∧
    (let vs := List.replicate 64 (Val.num Dy.zero)
     let op := epi false 0 (some 96) 1 1 [(0, vs)]
     let s := up (running { gVat (vat1 .draining) with epi := some op })
     let k := s.coreNow 0
     s.coreThere 0 ∧ (k.me 0).epiAt ≤ 100 ∧ (k.me 0).epi = some op ∧ k.st.tile.wf = true ∧ op.gang = false ∧ op.start = some (100 - 4) ∧
       op.rows = 1 ∧ op.vals = [(0, vs)] ∧ vs.length = 64 ∧ k.ncols 0 = 64 ∧ bits op.ent.toNat 123 120 = 0 ∧ bit op.ent.toNat 112 = false ∧
       s.portFree 0 false (bits op.ent.toNat 56 40) 3 0) ∧
    (let op := epi true 0 (some 98) 1 1 []
     let s := up (running { gVat (vat1 .vsealed) with epi := some op })
     let k := s.coreNow 0
     s.coreThere 0 ∧ (k.me 0).epi = some op ∧ op.vexport = true ∧ op.segment = k.segment ∧ op.start = some 98 ∧
       100 = 98 + op.rowCycles * op.rows + 1 ∧
       s.portFree 0 false ((bits op.ent.toNat 123 107 + op.rows * (if op.w = 0 then 4 else 16 * op.w)) % 131072) 3 0) := by
  unfold State.coreRuns State.coreThere State.portFree
  refine ⟨by decide +kernel, by decide +kernel, by decide +kernel, by decide +kernel⟩

/-! ### Vector slots -/

/-- The vector slot of width code 1 on V31, V30, V29, V28 with modifier bits. -/
def vs (d a b c md : Nat) : BitVec 26 := BitVec.ofNat 26 (2 ^ 24 + d * 2 ^ 19 + a * 2 ^ 14 + b * 2 ^ 9 + c * 2 ^ 4 + md)

theorem witness_VectorLanes :
    (let s := up (running Engine.reset)
     let ok := fun (op : Nat) (x : BitVec 26) => (s.coreNow 0).veCheck 100 op (veSlot x.toNat) = 0
     s.coreRuns 0 ∧ s.plane.now = 100 ∧ ok 0x08 (vs 31 30 29 0 0) ∧ ok 0x08 (vs 31 30 29 0 1) ∧ ok 0x09 (vs 31 30 29 0 0) ∧
       ok 0x0A (vs 31 30 29 28 3) ∧ ok 0x0B (vs 31 30 29 0 0) ∧ ok 0x0C (vs 31 30 29 0 0) ∧ ok 0x0D (vs 31 30 0 0 0) ∧
       ok 0x0D (vs 31 30 0 0 1) ∧ ok 0x0E (vs 31 30 29 0 3) ∧ ok 0x0F (vs 31 30 29 28 0) ∧
       bit (veSlot (vs 31 30 29 0 1).toNat).md 0 = true ∧ bit (veSlot (vs 31 30 29 0 0).toNat).md 0 = false) := by
  unfold State.coreRuns; decide +kernel

theorem witness_VectorMoves :
    (let s := up (running Engine.reset)
     let ok := fun (op : Nat) (x : BitVec 26) => (s.coreNow 0).veCheck 100 op (veSlot x.toNat) = 0
     let md := fun (x : BitVec 26) => (veSlot x.toNat).md
     s.coreRuns 0 ∧ ok 0x03 (vs 31 30 0 0 0) ∧ ok 0x04 (vs 31 30 0 0 0) ∧
       (ok 0x05 (vs 31 30 0 0 1) ∧ md (vs 31 30 0 0 1) % 4 = 1) ∧ (ok 0x05 (vs 31 30 0 0 6) ∧ 1 < md (vs 31 30 0 0 6) % 4) ∧
       (ok 0x05 (vs 31 30 0 0 4) ∧ md (vs 31 30 0 0 4) % 4 < 1) ∧ ok 0x02 (vs 15 30 0 0 1) ∧ ok 0x01 (vs 31 15 0 0 0) ∧
       ok 0x01 (vs 31 15 0 0 1)) ∧
    (let k := fun (f : VeFlight) => ({ running Engine.reset with ve := { VeSt.reset with flight := [f] } } : Core)
     let s := fun (f : VeFlight) => up (k f)
     let f : VeFlight := ⟨100, .reg 31 []⟩
     let g : VeFlight := ⟨100, .store 131068 (List.replicate 256 1)⟩
     (s f).coreThere 0 ∧ ((s f).plane.core 0).ve.flight = [f] ∧ f.due ≤ (s f).plane.now ∧ ((s f).plane.core 0).seq.seam = none ∧
       (s g).coreThere 0 ∧ ((s g).coreNow 0).ve.flight = [g] ∧ g.due ≤ (s g).plane.now ∧ 131068 + 4 ≤ 131072 ∧
       ((s g).coreNow 0).st.tile.wf = true ∧ ∀ i, i < 4 → (s g).portFree 0 false (131068 + i) 4 0) := by
  unfold State.coreRuns State.coreThere State.portFree; decide +kernel

theorem witness_VectorQuires :
    (let s := up (running Engine.reset)
     let ok := fun (op : Nat) (x : BitVec 26) => (s.coreNow 0).veCheck 100 op (veSlot x.toNat) = 0
     s.coreRuns 0 ∧ ok 0x10 (vs 7 0 0 0 0) ∧ ok 0x11 (vs 7 30 29 0 0) ∧ ok 0x12 (vs 7 30 0 0 0) ∧ ok 0x13 (vs 7 6 0 0 0) ∧
       ok 0x14 (vs 31 7 0 0 0) ∧ ok 0x15 (vs 31 30 29 28 1) ∧ ok 0x16 (vs 31 30 29 28 0)) := by
  unfold State.coreRuns; decide +kernel

theorem witness_VectorFunctions :
    (let step : BitVec 32 := 0x21001000
     let k := fun (compat : Bool) => loaded { CoreCfg.reset with
       compat := compat
       tabs := [(3, { FTable.reset with loaded := true, linear := true })]
       uprogs := [(31, { UProg.reset with loaded := true, cycles := 4, steps := [step] })] } Engine.reset
     let now := fun (c : Bool) => (up (k c)).coreNow 0
     let ok := fun (c : Bool) (op : Nat) (x : BitVec 26) => (now c).veCheck 100 op (veSlot x.toNat) = 0
     (up (k true)).coreRuns 0 ∧ (ok false 0x18 (vs 31 30 0 0 0) ∧ (now false).cfg.compat = false) ∧ ok false 0x19 (vs 31 30 0 0 0) ∧
       (ok true 0x18 (vs 31 30 0 0 0) ∧ (now true).cfg.compat = true ∧ (veSlot (vs 31 30 0 0 0).toNat).w = 1) ∧
       ok true 0x19 (vs 31 30 0 0 0) ∧ (ok true 0x1A (vs 31 30 0 0 7) ∧ bit (veSlot (vs 31 30 0 0 7).toNat).md 2 = true) ∧
       (ok true 0x1A (vs 31 30 0 0 3) ∧ bit (veSlot (vs 31 30 0 0 3).toNat).md 2 = false) ∧ ok true 0x1B (vs 31 30 29 31 0) ∧
       ((now true).uprog (veSlot (vs 31 30 29 31 0).toNat)).steps = [step] ∧
       ((now true).uprog (veSlot (vs 31 30 29 31 0).toNat)).dur = 4 ∧ bits step.toNat 31 26 = 8 ∧ bits step.toNat 23 20 = 0 ∧
       bits step.toNat 19 16 = 0 ∧ bits step.toNat 15 12 = 1 ∧ bit step.toNat 4 = false) ∧
    (let f : VeFlight := ⟨100, .reg 31 []⟩
     let k := fun (f : VeFlight) (u : Nat) => ({ running Engine.reset with ve := { VeSt.reset with flight := [f], microUntil := u } } : Core)
     let s := fun (u : Nat) => up (k f u)
     (s 100).coreThere 0 ∧ ((s 100).plane.core 0).ve.flight = [f] ∧ f.due ≤ (s 100).plane.now ∧
       0 < ((s 100).plane.core 0).ve.microUntil ∧ ((s 100).plane.core 0).ve.microUntil ≤ 100 ∧
       (s 101).coreThere 0 ∧ (s 101).plane.now < ((s 101).plane.core 0).ve.microUntil ∧
       (s 100).pwr.state ≤ 2 ∧ 0 ∈ (s 100).plane.live) := by
  unfold State.coreRuns State.coreThere; decide +kernel

theorem witness_SoftMaximum :
    (let k := fun (x : SmCtx) => ({ running Engine.reset with ve := { VeSt.reset with
       sm := [(7, x)], regs := [(30, leBytes 8 0 ++ leBytes 4 1)] } } : Core)
     let x := fun (st : Nat) => ({ SmCtx.reset with st := st, w := 1, tiles := 1 } : SmCtx)
     let now := fun (st : Nat) => (up (k (x st))).coreNow 0
     let ok := fun (st op : Nat) (a : BitVec 26) => (now st).veCheck 100 op (veSlot a.toNat) = 0
     (up (k (x 0))).coreRuns 0 ∧ ok 0 0x20 (vs 7 0 0 0 0) ∧ (ok 1 0x21 (vs 31 30 0 7 0) ∧ ((now 1).ve.ctx 7).m = none) ∧
       (ok 1 0x22 (vs 7 30 0 0 0) ∧ leAt ((now 1).ve.reg 30) 8 4 ≠ 0) ∧
       (ok 1 0x23 (vs 7 30 0 0 1) ∧ bit (veSlot (vs 7 30 0 0 1).toNat).md 0 = true) ∧
       (ok 1 0x23 (vs 7 30 0 0 0) ∧ bit (veSlot (vs 7 30 0 0 0).toNat).md 0 = false) ∧ ok 2 0x24 (vs 31 30 0 7 0) ∧
       ok 0 0x25 (vs 31 7 0 0 0)) := by
  unfold State.coreRuns; decide +kernel

/-! ### Stream slots, moves and refusals -/

/-- A tensor descriptor of one dimension of one element. -/
def dw (fmt space base : Nat) (writable : Bool) : BitVec 1024 :=
  BitVec.ofNat 1024 (2 ^ 60 + fmt * 2 ^ 56 + 2 ^ 53 + space * 2 ^ 51 + (if writable then 2 ^ 50 else 0) + base * 2 ^ 64 +
    (2 ^ 32 + 1) * 2 ^ 192)

/-- A core whose move entry 63 is of a TYPE and goes from descriptor 127 to descriptor 126, one element each; quantisation entry 5 is
a ZPCORR entry. -/
def kMove (typ space : Nat) : Core := loaded { CoreCfg.reset with
  moves := [(63, if typ = 4 then 4 <<< 124 ||| 1 <<< 93 ||| 5 <<< 87
    else BitVec.ofNat 128 (typ * 2 ^ 124 + 127 * 2 ^ 117 + 126 * 2 ^ 110))]
  wins := [(0, 1)]
  quant := [(5, 3 <<< 124)]
  desc := [(126, dw 0 1 0 true), (127, dw 0 space 64 false)] } Engine.reset

theorem witness_MoveSlots :
    (let m := suSlot (63 <<< 21 : BitVec 27).toNat
     let s := fun (t sp : Nat) => up (kMove t sp)
     let k := fun (t sp : Nat) => (s t sp).coreNow 0
     let x := fun (t : Nat) => ((k t 0).cfg.moves.get 0 m.entry).toNat
     (s 1 0).coreRuns 0 ∧
       (∀ t ∈ [1, 2, 3, 4], ∀ sp ∈ [0, 1, 3], (k t sp).suCheck m = 0 ∧ (k t sp).freeChan = some 0 ∧ bits (x t) 127 124 = t) ∧
       (∀ t ∈ [1, 2, 3], ∀ sp ∈ [0, 1, 3], ((k t sp).moveCheck m).1 = 0 ∧
         (k t sp).descAt (bits (x t) 123 117) = some (Desc.of (dw 0 sp 64 false)) ∧ (Desc.of (dw 0 sp 64 false)).space = sp ∧
         (k t sp).descAt (bits (x t) 116 110) = some (Desc.of (dw 0 1 0 true))) ∧ bit (x 1) 93 = false ∧ bit (x 1) 76 = false) := by
  unfold State.coreRuns; decide +kernel

/-- A move of one posit8 element that has read it. -/
def opMove (typ : Nat) (quant : Option (BitVec 128)) (t0 last : Nat) : MoveOp :=
  { id := 1, typ := typ, ent := 0, src := Desc.of (dw 0 1 64 false), dst := Desc.of (dw 0 1 63 true), srcWin := [(0, 1)],
    dstWin := [(0, 1)], sepProg := 0, perm := false, quant := quant, list := [], sstream := none, n := 1, rate := 1, t0 := t0,
    off := 0, dDst := 0, segment := 0, herdX := 0, herdN := 0, dstFold := false, segs := [], sent := [], trl := none,
    data := [(0, 0x40)], lines := [], lastWrite := last, at_ := 100 }

/-- A core with that move on channel 3. -/
def kOp (op : MoveOp) : Core := { running Engine.reset with su := { SuSt.reset with chans := [(3, op)] } }

theorem witness_MoveEvents :
    (let op := opMove 1 none 95 100
     let s := up (kOp op)
     let k := s.coreNow 0
     s.coreThere 0 ∧ k.st.tile.wf = true ∧ k.su.chans.find? (·.1 == 3) = some (3, op) ∧ op.at_ ≤ 100 ∧
       op.typ = 1 ∧ op.n = 1 ∧ 1 ≤ op.rate ∧ op.perm = false ∧ op.quant = none ∧ op.sstream = none ∧ op.trl = none ∧
       op.fold = 0 ∧ op.src.fmt = op.dst.fmt ∧ op.dst.space = 1 ∧ s.plane.now = op.t0 + op.off + 5 ∧
       op.data.find? (·.1 == 0) = some (0, 0x40) ∧ op.dstTuple 0 = some [0] ∧ op.dst.loc op.herdX op.herdN [0] = .here (63, false) ∧
       codeBits op.dst.fmt = 8 * 1 ∧ 63 % 64 + 1 ≤ 64 ∧ s.portFree 0 false (63 / 64) 2 3) ∧
    (let q : BitVec 128 := 3 <<< 124
     let op := opMove 4 (some q) (99 - (zpDims q.toNat).1 * (zpDims q.toNat).2) 100
     let s := up (kOp op)
     let k := s.coreNow 0
     s.coreThere 0 ∧ k.st.tile.wf = true ∧ k.su.chans.find? (·.1 == 3) = some (3, op) ∧ op.at_ ≤ s.plane.now ∧
       op.typ = 4 ∧ op.quant = some q ∧ s.plane.now = op.t0 + (zpDims q.toNat).1 * (zpDims q.toNat).2 + 1 ∧
       s.portFree 0 false ((bits q.toNat 74 58 + (zpDims q.toNat).2 * 16 * (zpDims q.toNat).1) % 131072) 2 3) ∧
    (let op := opMove 1 none 94 99
     let s := up (kOp op)
     s.coreThere 0 ∧ (s.plane.core 0).su.chans = [(3, op)] ∧ op.lastWrite < s.plane.now) ∧
    (let x : Resp := ⟨0, 3, 144, 100, []⟩
     let s := { idleUp with ext := { ExtSt.reset with resp := [x] } }
     s.cycleOpen = true ∧ s.ext.resp = [x] ∧ x.core = 0 ∧ x.ch = 3 ∧ x.rel ≤ s.plane.now) := by
  unfold State.coreThere State.portFree; refine ⟨by decide +kernel, by decide +kernel, by decide +kernel, by decide +kernel⟩

theorem witness_RefusedSlots :
    (let a : BitVec 27 := 0x7FFFFFF
     let s := up (running Engine.reset)
     let k := s.coreNow 0
     s.coreRuns 0 ∧ bits a.toNat 7 0 ≠ 0 ∧ (bit (0x8200 : BitVec 27).toNat 15 = true ∧ s.plane.enabled ≤ bits (0x8200 : BitVec 27).toNat 14 8) ∧
       bits a.toNat 15 0 ≠ 0 ∧ bits a.toNat 22 12 ≠ 0 ∧
       (bits (0x1000000 : BitVec 27).toNat 22 12 = 0 ∧ (((up kTally).coreNow 0).tally (bits (0x1000000 : BitVec 27).toNat 26 23)).data = true) ∧
       (s.seamOpen 0 = true ∧ bits a.toNat 13 0 ≠ 0) ∧ a ≠ 0 ∧ bits a.toNat 12 0 ≠ 0 ∧ 15 ≤ bits a.toNat 26 23 ∧
       (∀ e ∈ [0, 1, 2, 3], ∀ op ∈ [1, 2, 3, 4, 5, 6, 8, 9, 10, 11], k.meCheck e op (meSlot a.toNat) ≠ 0)) ∧
    (∀ op ∈ [0x01, 0x02, 0x03, 0x04, 0x05, 0x08, 0x09, 0x0A, 0x0B, 0x0C, 0x0D, 0x0E, 0x0F, 0x10, 0x11, 0x12, 0x13, 0x14, 0x15, 0x16,
        0x18, 0x19, 0x1A, 0x1B, 0x20, 0x21, 0x22, 0x23, 0x24, 0x25],
      ((up (running Engine.reset)).coreNow 0).veCheck 100 op (veSlot (0x3FFFFFF : BitVec 26).toNat) ≠ 0) ∧
    (∀ t ∈ [1, 2, 3, 4], ((up (kMove t 0)).coreNow 0).moveType (63 <<< 21 ||| 1 : BitVec 27).toNat = t ∧
      ((up (kMove t 0)).coreNow 0).suCheck (suSlot (63 <<< 21 ||| 1 : BitVec 27).toNat) ≠ 0) ∧
    (let k := fun (t : Nat) => (up (loaded { (kMove t 0).cfg with desc := [] } Engine.reset)).coreNow 0
     ∀ t ∈ [1, 2, 3], (k t).moveType (63 <<< 21 : BitVec 27).toNat = t ∧ (k t).suCheck (suSlot (63 <<< 21 : BitVec 27).toNat) = 0 ∧
       ((k t).moveCheck (suSlot (63 <<< 21 : BitVec 27).toNat)).1 ≠ 0) := by
  unfold State.coreRuns; refine ⟨by decide +kernel, by decide +kernel, by decide +kernel, by decide +kernel⟩

/-! ### Mesh, tokens and the cadence clock -/

/-- A state with one transfer that has come to its end. -/
def meshed (k : Core) (p : Payload) : State :=
  { up k with plane := { (up k).plane with mesh := [⟨1, 0, [], 100, false, false, p⟩] } }

theorem witness_TokensArrive :
    ((meshed Core.reset (.signal 0 2047)).coreThere 0 ∧ (meshed Core.reset (.signal 0 2047)).plane.mesh =
      [⟨1, 0, [], 100, false, false, .signal 0 2047⟩] ∧ 100 ≤ (meshed Core.reset (.signal 0 2047)).plane.now) ∧
    (let ob : Outbox := { Outbox.empty with tokens := [(0, 2047)] }
     let s := fun (edge : Bool) => { up (kPail ⟨16, edge, false, 0⟩ []) with
       ext := { ExtSt.reset with ob := ob, units := [255] }
       link := { LinkSt.reset with ob := ob }
       icu := (IcuSt.reset 16).onSteward 7 fun w => { w with tokens := [(0, 2047)] } }
     ∀ edge, (s edge).coreThere 0 ∧ (((s edge).plane.core 0).pail 2047).edge = edge ∧ (s edge).ext.ob.tokens = (0, 2047) :: [] ∧
       (s edge).ext.units = 255 :: [] ∧ (s edge).link.ob.tokens = (0, 2047) :: [] ∧ ((s edge).icu.steward 7).tokens = (0, 2047) :: []) ∧
    State.reset.clockOn = false := by
  unfold State.coreThere; decide +kernel

theorem witness_PlaneAdvance :
    (idleUp.clockOn = true ∧ idleUp.img.launch = none ∧ idleUp.beginCycle.cycleOpen = true ∧
      idleUp.frontNow.plane.pointAt idleUp.frontNow.chip = none ∧ (idleUp.plane.pointAt idleUp.chip).isSome = false) ∧
    (let t := { up (kBundle 0x2800000000000000 SeqSt.reset) with
       chip := { ChipCfg.reset 0 with points := [(0, ⟨false, List.replicate 128 0⟩)] }
       img := { ImgSt.reset with shadow := 3, armPoint := 0, armOcc := 1, image := some ⟨1, [], ChipCfg.reset 0, [], [], []⟩ } }
     let u := { t with plane := { t.plane with sites := [(0, 0)], enabled := 1, slipRun := some (3, 9) } }
     u.clockOn = true ∧ u.img.launch = none ∧ u.cycleOpen = true ∧ (u.plane.pointAt u.chip).isSome = true ∧
       u.plane.slipRun = some (3, 9) ∧
       u.frontNow.plane.pointAt u.frontNow.chip = some (0, ⟨false, List.replicate 128 0⟩) ∧ u.img.image.isSome = true ∧
       u.img.sampled = none ∧ u.armedFor 0 (u.nextOcc 0) = true) ∧
    (let k := (kBundle 0x1000000000000000 SeqSt.reset).setPail 0 ⟨0, true, false, 0⟩
     let s := up k
     s.clockOn = true ∧ s.plane.half = false ∧ s.slipCause false = some 5 ∧ s.img.launch = none ∧ s.beginCycle.cycleOpen = false) := by
  decide +kernel

/-! ### External memory and the creamery -/

/-- A state with a channel as given, under the default arena over all stacks. -/
def chanSt (ch : Nat) (k : Chan) : State := { idleUp with
  chip := ChipCfg.reset 255
  ext := { ExtSt.reset with stackOk := 255, chans := [(ch, k)] } }

theorem witness_ChannelRequests :
    (let s := { meshed Core.reset (.extRead 0 3 255 100 [(0, 0xFF00, 0)]) with
       chip := ChipCfg.reset 255, ext := { ExtSt.reset with stackOk := 255 } }
     s.plane.mesh = [⟨1, 0, [], 100, false, false, .extRead 0 3 255 100 [(0, 0xFF00, 0)]⟩] ∧ 100 ≤ s.plane.now ∧ s.mayAct = true ∧
       (∃ c l, s.chip.whereIs 0xFF00 = .memory c l ∧ s.ext.isFenced c = false) ∧ s.ext.room 255 = true ∧
       ({ s.ext with chans := [(255, { Chan.reset with queue := List.replicate 64 (.read 0 0 0 []) })] } : ExtSt).room 255 = false) ∧
    (let r : ReqKind := .read 0 3 100 [(0, 0, 8)]
     let w : ReqKind := .write (plainBytes 31 [1, 2])
     let s := fun (q : List ReqKind) (d : List CmdDone) => chanSt 255 { Chan.reset with queue := q, running := d }
     let may := fun (q : List ReqKind) (d : List CmdDone) (i : Nat) => mayServe ((s q d).ext.chan 255).running ((s q d).ext.chan 255).queue i
     ((s [r] []).ext.chan 255).queue[0]? = some r ∧ may [r] [] 0 = true ∧ (s [r] []).ext.isFenced 255 = false ∧
       (s [r] []).ext.poisoned 255 0 = false ∧ ((s [w] []).ext.chan 255).queue[0]? = some w ∧ may [w] [] 0 = true ∧
       (s [w] []).ext.mem.wf = true ∧ ((s [w, r] []).ext.chan 255).queue[1]? = some r ∧ may [w, r] [] 1 = false ∧
       may [r] [⟨some (0, [1]), none⟩] 0 = false ∧ ({ (s [r] []).ext with fenced := 128 } : ExtSt).isFenced 255 = true) := by
  refine ⟨⟨rfl, by decide +kernel, by decide +kernel, ⟨255, 0, by decide +kernel, by decide +kernel⟩, by decide +kernel, by decide +kernel⟩,
    by decide +kernel⟩

theorem witness_MemoryErrors :
    ((chanSt 255 { Chan.reset with attempts := 7 }).ext.chan (255 : Fin 256).val).attempts < 8 ∧ bit idleUp.ext.fenced (7 : Fin 8).val = false ∧
    bit (chanSt 255 { Chan.reset with attempts := 8 }).ext.fenced (7 : Fin 8).val = false ∧
    8 ≤ ((chanSt 255 { Chan.reset with attempts := 8 }).ext.chan (255 : Fin 256).val).attempts ∧ (255 : Fin 256).val / 32 = (7 : Fin 8).val := by
  decide +kernel

theorem witness_MemoryUpkeep :
    (let s := fun (wb : List Nat) => chanSt 255 { Chan.reset with state := 2, position := 46874999, wbPend := wb }
     ∀ wb ∈ [[], [5, 6]], ((s wb).ext.chan 255).state = 2 ∧ (s wb).pwr.state ≤ 1 ∧ (s wb).ext.poisoned 255 (32 * 46874999) = false ∧
       ((s wb).ext.chan 255).wbPend = wb ∧ memKey 255 (32 * 46874999) / 32 ∉ (s wb).ext.soft) ∧
    ((chanSt 255 Chan.reset).ext.chan 255).state ≠ 2 ∧
    ((104 : Fin 256).val < 105 ∧ 105 ≤ (105 : Fin 256).val ∧ bit idleUp.ext.fenced 7 = false) ∧
    (let s := chanSt 224 { Chan.reset with state := 1 }
     let t := { s with sup := { s.sup with step := 7, stacksLeft := 128 } }
     (s.ext.chan (32 * 7)).state = 1 ∧ ((chanSt 225 Chan.reset).ext.chan (32 * 7)).state ≠ 1 ∧ s.sup.step ≠ 7 ∧
       (t.sup.step = 7 ∧ bit t.sup.stacksLeft 7 = true) ∧
       (∀ h, h < 32 → (failedLanes (List.replicate 32 [3, 1]) h).length ≤ 2) ∧
       (∀ h, h < 32 → 2 < (failedLanes (List.replicate 32 [3, 1, 1023]) h).length)) := by
  decide +kernel

/-- A command record: operation, formats, entries, bytes of a row, pitch, list; SRC 0, DST 1 MiB. -/
def crmRec (op fmt tgt cnt rb pitch list : Nat) : Bytes :=
  leBytes 64 (op * 2 ^ 58 + fmt * 2 ^ 54 + tgt * 2 ^ 50 + (if op = 4 then 0 else 2 ^ 148) + list * 2 ^ 192 + rb * 2 ^ 256 +
    cnt * 2 ^ 288 + pitch * 2 ^ 320)

theorem witness_Creamery :
    (let s := fun (q : List ReqKind) => chanSt 255 { Chan.reset with queue := q }
     let bs := plainBytes 0 [1, 2, 3, 4]
     let tr := plainBytes 32 (fillBytes 32 0)
     (∀ r ∈ [ReqKind.fold 2 6 6 bs, .fold 5 7 7 tr], ((s [r]).ext.chan 255).queue = r :: [] ∧ (s [r]).ext.isFenced 255 = false ∧
       mayServe ((s [r]).ext.chan 255).running ((s [r]).ext.chan 255).queue 0 = true ∧ (s [r]).ext.mem.wf = true ∧
       (∀ i, i < 64 → (s [r]).ext.poisoned 255 (0 + i) = false)) ∧
       foldSuits 2 6 5 bs = false ∧ foldSuits 2 6 6 bs = true ∧ [1, 2, 3, 4].length = foldBytes (foldOfOp 2) 6 ∧
       foldSuits 5 7 7 tr = true ∧ (fillBytes 32 0).length = 32) ∧
    (let s := fun (r : Bytes) => chanSt 255 { Chan.reset with queue := [.command r] }
     (∀ r ∈ [crmRec 1 2 6 1 4 65536 (2 ^ 21), crmRec 2 2 0 64 0 0 0, crmRec 3 8 2 64 0 0 0, crmRec 4 0 0 0 0 0 0],
       ((s r).ext.chan 255).queue = .command r :: [] ∧ (s r).ext.frontCmd (s r).chip 255 = some r ∧
         (Cmd.of r).check (s r).chip ((s r).ext.isFenced 255) 255 = 0) ∧
     (∀ r ∈ [crmRec 1 2 6 1 0 65536 (2 ^ 21), crmRec 2 3 0 64 0 0 0, crmRec 3 7 2 64 0 0 0, crmRec 4 1 0 0 0 0 0, crmRec 5 0 0 0 0 0 0,
         crmRec 0 0 0 0 0 0 0],
       ((s r).ext.chan 255).queue = .command r :: [] ∧ (s r).ext.frontCmd (s r).chip 255 = some r ∧
         (Cmd.of r).check (s r).chip ((s r).ext.isFenced 255) 255 ≠ 0) ∧
     [crmRec 1 2 6 1 4 65536 (2 ^ 21), crmRec 2 2 0 64 0 0 0, crmRec 3 8 2 64 0 0 0, crmRec 4 0 0 0 0 0 0, crmRec 5 0 0 0 0 0 0].map (fun r => (Cmd.of r).op) =
       [1, 2, 3, 4, 5]) ∧
    ((chanSt 255 { Chan.reset with queue := [.badPort] }).ext.chan 255).queue = [.badPort] ∧ (idleUp.ext.chan 255).running = [] ∧
    (let d : CmdDone := ⟨some (0, [1]), some (0, 5)⟩
     let s := chanSt 255 { Chan.reset with running := [d] }
     (s.ext.chan 255).running = d :: [] ∧ s.ext.isFenced 255 = false ∧ s.ext.mem.wf = true) := by
  refine ⟨by decide +kernel, by decide +kernel, by decide +kernel, by decide +kernel, by decide +kernel⟩

/-! ### Registers and host commands -/

theorem witness_RegisterAccess :
    ({ State.reset with pwr := { PwrSt.reset with state := 4 } } : State).on = false ∧ idleUp.on = true ∧
    (¬ ((8 : Nat) = 8 ∧ 4 % 8 = 0) ∧ ¬ ((8 : Nat) = 4 ∧ 4 % 4 = 0) ∧ ¬ ((2 : Nat) = 8 ∧ 0 % 8 = 0) ∧ ¬ ((2 : Nat) = 4 ∧ 0 % 4 = 0)) ∧
    idleUp.snap.coreThere (1 : Fin 128).val = true ∧ idleUp.pwr.lock = false ∧
    ({ idleUp with pwr := { PwrSt.reset with lock := true } } : State).pwr.lock = true ∧
    ([999, 1000, 2800, 2801].map fun n => decide (1000 ≤ bits (n : BitVec 64).toNat 11 0 ∧ bits (n : BitVec 64).toNat 11 0 ≤ 2800)) =
      [false, true, true, false] ∧
    (∀ off ∈ [0x310000, 0x32FFF8], 0x310000 ≤ off ∧ off < 0x330000 ∧ off % 8 = 0) ∧
    (0x31FFF8 < 0x320000 ∧ 0x31FFF8 % 8 = 0 ∧ idleUp.fullDebug = false) ∧
    (∀ off ∈ [0x310040, 0x310060], 0x310040 ≤ off ∧ off < 0x310068 ∧ off % 8 = 0) := by
  decide +kernel

/-- A host command that has started, of function 0 on ring 0. -/
def hc (op : Nat) (w : List Nat) : HostCmd := ⟨7, 0, 0, 5, false, false, op, w, true, false, false⟩

/-- A state where that command is the one command. -/
def sh (c : HostCmd) : State := { idleUp with host := { HostSt.reset with linkUp := true, cmds := [c], nextId := 8 } }

/-- A state with ring 3 as given. -/
def sr (r : Ring) (x : List Record) : State := { idleUp with
  host := { HostSt.reset with linkUp := true, rings := [(3, r)], records := x } }

theorem witness_CommandFlow :
    (let s := sr { Ring.reset with sqEn := true, cq := 3, head := 15, tail := 0, cqEn := true } []
     s.on = true ∧ s.host.nextSq = some 3 ∧ s.host.cmds = [] ∧ s.host.busyNote = false ∧
       (let w0 := leAt (leBytes 64 0x50000) 0 8
        let c : HostCmd := ⟨s.host.nextId, s.host.owner 3, 3, bits w0 31 16, bit w0 9, bit w0 8, bits w0 7 0,
          (List.range 7).map (fun i => leAt (leBytes 64 0x50000) (8 + 8 * i) 8), true, false, false⟩
        bits w0 63 32 = 0 ∧ bits w0 15 10 = 0 ∧ s.host.judge s.hostEnv c = 0) ∧
       bits (leAt (leBytes 64 (2 ^ 63)) 0 8) 63 32 ≠ 0 ∧ bits (leAt (leBytes 64 (2 ^ 10)) 0 8) 15 10 ≠ 0 ∧
       s.host.global (s.host.owner 3) (s.host.ring 3).cq = some 3 ∧
       (let r := s.host.ring 3
        let h1 := { s.host.onRing 3 fun r => { r with head := (r.head + 1) % ringSize r.sqLog } with
          nextId := s.host.nextId + 1, rr := s.host.rr.set r.cls 3
          cmds := [⟨0, 0, 3, 5, false, false, 0, [0, 0, 0, 0, 0, 0, 0], true, false, false⟩] }
        h1.judge s.hostEnv ⟨0, 0, 3, 5, false, false, 0, [0, 0, 0, 0, 0, 0, 0], true, false, false⟩ = 0)) ∧
    (let s0 := sr { Ring.reset with sqEn := true, cq := 3, head := 15, tail := 0, cqEn := true } []
     let s := { s0 with host := { s0.host with cmds := [hc 0x12 []], nextId := 8 } }
     s.on = true ∧ s.host.nextSq = some 3 ∧ s.host.cmds = [hc 0x12 []] ∧ (hc 0x12 []).started = true ∧ s.host.busyNote = false ∧
       imageOp (hc 0x12 []).op = true ∧ (hc 0x12 []).id ≠ s.host.nextId ∧
       ∀ op ∈ [0x10, 0x13, 0x15], bits (leAt (leBytes 64 (0x50000 + op)) 0 8) 63 32 = 0 ∧ bits (leAt (leBytes 64 (0x50000 + op)) 0 8) 15 8 = 0 ∧
         imageOp op = true ∧ s.host.judge s.hostEnv ⟨8, s.host.owner 3, 3, 5, false, false, op,
           (List.range 7).map (fun i => leAt (leBytes 64 (0x50000 + op)) (8 + 8 * i) 8), true, false, false⟩ = 0) ∧
    (let s := sr { Ring.reset with sqEn := true, cq := 3, head := 15, tail := 0, cqEn := true, cqTail := 15, cqHead := 1 } [⟨3, 5, 3, some 3, 0, 0, 0, 0⟩]
     s.host.nextSq = some 3 ∧ s.host.global (s.host.owner 3) (s.host.ring 3).cq = some 3 ∧ s.host.records.any (·.cq == 3) = true) ∧
    (∀ op ∈ [1, 4, 0x10, 0x17], (sh (hc op [])).host.cmds = [hc op []] ∧ (hc op []).id = 7 ∧ (hc op []).started = true ∧
      (hc op []).waits = false ∧ (op = 1 ∨ op = 4 ∨ op = 0x10 ∨ op = 0x17)) ∧
    ((hc 0 []).silent = false ∧ (hc 0 []).quiet = false ∧
      (sh (hc 0 [])).host.global ((sh (hc 0 [])).host.owner 0) ((sh (hc 0 [])).host.ring 0).cq = some 0 ∧
      ({ hc 0 [] with quiet := true } : HostCmd).quiet = true) ∧
    (let x : Record := ⟨3, 5, 3, some 3, 0, 0, 0, 0⟩
     let s := sr { Ring.reset with cqEn := true, cqTail := 15, cqHead := 1 } [x]
     let t := { s with host := { s.host with cmds := [hc 0 []] } }
     t.host.cmds = [hc 0 []] ∧ t.host.busyNote = false ∧ t.on = true ∧ t.host.records = [x] ∧ (t.host.ring x.cq).cqEn = true ∧ (t.host.ring x.cq).cqFull = false ∧
       (t.host.ring x.cq).irqEn = false ∧
       (let r := (sr { Ring.reset with cqEn := true, cqTail := 15, cqHead := 0 } [x]).host.ring 3
        r.cqEn = true ∧ (r.cqTail + 1) % ringSize r.cqLog = r.cqHead) ∧
       ((sr Ring.reset [x]).host.ring 3).cqEn = false) := by
  decide +kernel

theorem witness_DeviceMemory :
    (let s := chanSt 255 Chan.reset
     0 < 2 ∧ 0xFF00 % 32 = 0 ∧ 255 < 256 ∧ (∀ i, i < 2 → s.chip.whereIs (0xFF00 + i) = .memory 255 (0 + i)) ∧ s.ext.isFenced 255 = false ∧
       (s.ext.chan 255).queue = [] ∧ (s.ext.chan 255).running = [] ∧ [1, 2].length = 2 ∧ s.ext.mem.wf = true ∧
       ∀ i, i < 2 → s.ext.poisoned 255 (0 + i) = false) ∧
    (let s := { chanSt 255 Chan.reset with host := HostSt.reset }
     s.on = true ∧ 2 ^ (if (0 : Fin 16).val = 0 then s.host.bar2Log else s.host.vfBar2Log) < 2 ^ 39 - 1 + 2 ∧
       2 ^ (if (15 : Fin 16).val = 0 then s.host.bar2Log else s.host.vfBar2Log) < 2 ^ 36 - 1 + 2 ∧
       0xFF00 + 2 ≤ 2 ^ (if (0 : Fin 16).val = 0 then s.host.bar2Log else s.host.vfBar2Log) ∧
       2 ^ 39 - 1 + 1 ≤ 2 ^ (if (0 : Fin 16).val = 0 then s.host.bar2Log else s.host.vfBar2Log) ∧
       s.host.bar2Range (0 : Fin 16).val 0xFF00 2 = some 0xFF00 ∧ (s.deviceRead 0xFF00 2).2.2 = 0 ∧
       s.host.bar2Range (0 : Fin 16).val (2 ^ 39 - 1) 1 = some (2 ^ 39 - 1) ∧ (s.deviceRead (2 ^ 39 - 1) 1).2.2 ≠ 0 ∧
       (s.deviceWrite 0xFF00 [1, 2]).2 = 0 ∧ (s.deviceWrite (2 ^ 39 - 1) [1]).2 ≠ 0 ∧
       ∀ i, i < 2 → s.host.bar2 (15 : Fin 16).val (0 + i) = none) := by
  decide +kernel

theorem witness_DataCommands :
    (∀ op ∈ [0, 1, 2, 3, 4, 5, 6], (sh (hc op [])).host.ready op 7 = some (hc op [])) ∧
    (let c := hc 1 [0, 0xFF00, 2, 2 ^ 63 + 2047]
     [1].length < c.word 3 ∧ c.word 3 ≤ [1, 2].length ∧ c.token = some (0, 2047) ∧ (hc 1 [0, 0xFF00, 2, 0]).token = none ∧
       (up (kPail ⟨15, true, false, 0⟩ [])).plane.planePail 0 2047 = false) ∧
    (let c := hc 3 [16 * 2 ^ 48 + 2047]
     bits (c.word 1) 18 11 ∈ (up (kPail ⟨0, true, false, 0⟩ [])).plane.live ∧ bits (c.word 1) 10 0 = 2047 ∧
       (up (kPail ⟨0, true, false, 0⟩ [])).plane.planePail 0 2047 = false ∧ (up (kPail Pail.reset [])).plane.planePail 0 2047 = true) ∧
    (let c := { hc 3 [16 * 2 ^ 48 + 2047] with waits := true }
     (sh c).host.ready 3 7 = none ∧ (sh c).host.held 3 7 = some c ∧
       ((((up (kPail ⟨16, true, false, 0⟩ [])).plane.core 0).pail 2047).queue = 0) ∧
       ((((up (kPail ⟨16, true, false, 1⟩ [])).plane.core 0).pail 2047).queue ≠ 0) ∧
       (let p := (up (kPail ⟨15, true, false, 0⟩ [])).plane.edgeToken 0 2047
        p.planePail 0 2047 = false ∧ ((p.core 0).pail 2047).queue = 0) ∧
       (let p := (up (kPail ⟨16, true, false, 0⟩ [])).plane.edgeToken 0 2047
        p.planePail 0 2047 = false ∧ ((p.core 0).pail 2047).queue ≠ 0)) ∧
    (let s := idleUp
     (fillBytes 128 0).length = 128 ∧ bits 0 7 0 ∈ s.plane.live ∧
       validate s.plane.enabled s.chip.arenaRange (BitVec.ofNat 1024 (leNat (leBytes 128 (dw 0 1 0 true).toNat))) = 0 ∧
       validate s.plane.enabled s.chip.arenaRange (BitVec.ofNat 1024 (leNat (fillBytes 128 0))) ≠ 0) ∧
    idleUp.tel.busy = false := by
  decide +kernel

/-! ### Images and starts -/

/-- An image with one empty section of type 0: KIND, BASE_HASH byte. -/
def tinyImg (kind : Nat) (base : Byte) : Bytes :=
  let head := [0x4A, 0x43, 0x51, 0x49, 0x4D, 0x47, 0, 0] ++ leBytes 2 1 ++ leBytes 2 256 ++ leBytes 2 1 ++ leBytes 2 kind ++ leBytes 8 320 ++
    leBytes 8 0 ++ leBytes 8 256 ++ leBytes 8 0 ++ leBytes 2 0x8128 ++ leBytes 2 0 ++ leBytes 4 0 ++ fillBytes 48 base ++ fillBytes 148 0
  let body := head ++ leBytes 4 (crc32c head).toNat ++ fillBytes 64 0
  body ++ sha384 body

/-- A state with image storage as given and one command. -/
def si (c : HostCmd) (i : ImgSt) : State := { sh c with img := i }

set_option maxRecDepth 100000 in
theorem witness_ImageLoads :
    (∀ op ∈ [0x10, 0x11], (si (hc op []) { ImgSt.reset with shadow := 1 }).host.ready op 7 = some (hc op [])) ∧
    ((si (hc 0x11 [63]) ImgSt.reset).img.shadow = 0 ∧ (si (hc 0x11 [63]) ImgSt.reset).img.library.find? (·.1 == 63) = none) ∧
    (let s := si (hc 0x11 [63]) { ImgSt.reset with library := [(63, tinyImg 0 0)] }
     s.img.shadow = 0 ∧ s.sup.computeWanted = false ∧ s.host.ready 0x11 7 = some (hc 0x11 [63]) ∧
       s.img.library.find? (·.1 == 63) = some (63, tinyImg 0 0) ∧ loadFirst (tinyImg 0 0) = 0 ∧
       loadSecond s.loadEnv (tinyImg 0 0) = 0 ∧ leAt (tinyImg 0 0) 14 1 ≠ 1 ∧ loadFirst [] ≠ 0) ∧
    (let s := si (hc 0x10 [0, 368]) { ImgSt.reset with active := 1, activeHash := fillBytes 48 9 }
     s.img.shadow = 0 ∧ s.sup.computeWanted = false ∧ s.host.ready 0x10 7 = some (hc 0x10 [0, 368]) ∧ (tinyImg 1 9).length = 368 ∧
       loadFirst (tinyImg 1 9) = 0 ∧ loadSecond s.loadEnv (tinyImg 1 9) = 0 ∧ leAt (tinyImg 1 9) 14 1 = 1) ∧
    (let s := si (hc 0x10 [0, 368]) { ImgSt.reset with shadow := 1, second := true, loading := tinyImg 0 0 }
     s.img.second = true ∧ s.plane.quiescent = true ∧ s.sup.computeWanted = false) := by
  decide +kernel

/-- The image above as a load leaves it. -/
def anImg (kind : Nat) : Image := ⟨kind, fillBytes 48 1, { ChipCfg.reset 0 with points := [(255, ⟨false, []⟩)] }, [], [], []⟩

theorem witness_Starts :
    (∀ w ∈ [[0], [1, 0], [1, 1], [2]], (si (hc 0x12 w) ImgSt.reset).host.ready 0x12 7 = some (hc 0x12 w)) ∧
    (si (hc 0x12 []) { ImgSt.reset with image := some (anImg 0), shadow := 1 }).img.shadow ≠ 2 ∧ ImgSt.reset.image = none ∧
    (let s := fun (k : Nat) => si (hc 0x12 []) { ImgSt.reset with image := some (anImg k), shadow := 2 }
     (s 0).img.image = some (anImg 0) ∧ (s 0).img.shadow = 2 ∧ (anImg 1).kind = 1 ∧ (anImg 0).kind ≠ 1 ∧
       (hc 0x12 [0]).word 1 = 0 ∧ (hc 0x12 [1, 0]).word 1 = 1 ∧ (hc 0x12 [2]).word 1 = 2 ∧
       BitVec.ofNat 64 ((hc 0x12 [1, 0]).word 2) ≤ (s 0).herd.count ∧ (s 0).herd.count < BitVec.ofNat 64 ((hc 0x12 [1, 1]).word 2)) ∧
    (let s := fun (bar : Bool) (a : BitVec 64) (ms : Nat) (b : Option Bar) =>
       { si (hc 0x12 []) { ImgSt.reset with image := some (anImg 0), shadow := 2, launch := some ⟨bar, a, 7⟩ } with
       herd := { HerdSt.reset with count := 5, bar := b }, link := { LinkSt.reset with mstate := ms } }
     let b : Bar := ⟨0, true, 0, 0, 0, true, some (5, true), []⟩
     (∀ x ∈ [false, true], (s x 0 2 none).img.launch = some ⟨x, 0, 7⟩) ∧ (s false 0 2 none).img.image = some (anImg 0) ∧
       (s false 0 2 none).clockOn = true ∧ (s false 0 2 none).plane.half = false ∧ (5 : BitVec 64) ≠ 0 ∧
       5 ≤ (s false 5 2 none).herd.count ∧ (s false 5 2 none).herdComplete (anImg 0).chip.herdN = true ∧
       (s false 5 0 none).herdComplete (anImg 0).chip.herdN = false ∧ (s false 6 2 none).herd.count < 6 ∧
       (s true 0 2 none).herd.bar = none ∧ (s true 0 2 (some b)).herd.bar.isSome = true ∧
       (s true 0 2 (some b)).herd.released = some true) := by
  decide +kernel

theorem witness_ArmAndStop :
    (∀ op ∈ [0x13, 0x14, 0x15, 0x16], (sh (hc op [])).host.ready op 7 = some (hc op [])) ∧
    (let s := fun (k sh : Nat) => { si (hc 0x13 [255]) { ImgSt.reset with image := some (anImg k), shadow := sh } with chip := (anImg 1).chip }
     (s 1 3).img.image = some (anImg 1) ∧ (s 1 3).img.shadow ≠ 2 ∧ (s 1 2).img.shadow = 2 ∧ (anImg 0).kind = 0 ∧ (anImg 1).kind ≠ 0 ∧
       (s 1 2).chip.points.any (·.1 == bits ((hc 0x13 [254]).word 1) 7 0) = false ∧
       (s 1 2).chip.points.any (·.1 == bits ((hc 0x13 [255]).word 1) 7 0) = true ∧
       bits ((hc 0x13 [255]).word 1) 63 32 < ((s 1 2).plane.occ.get 0 255).toNat + 1 ∧
       bits ((hc 0x13 [255 + 2 ^ 32]).word 1) 63 32 = ((s 1 2).plane.occ.get 0 255).toNat + 1 ∧
       ((s 1 2).plane.occ.get 0 255).toNat + 1 < bits ((hc 0x13 [255 + 2 ^ 33]).word 1) 63 32 ∧ (s 1 2).img.sampled.isSome = false) ∧
    (let s := fun (b : Bool) (arm : Nat) =>
       { up (kBundle 0x2800000000000000 SeqSt.reset) with
         chip := { ChipCfg.reset 0 with points := [(0, ⟨true, List.replicate 128 0⟩)] }
         img := { ImgSt.reset with shadow := 3, armPoint := 0, armOcc := arm, sampled := some b } }
     let one := fun (b : Bool) (arm : Nat) => { s b arm with plane := { (s b arm).plane with sites := [(0, 0)], enabled := 1 } }
     (one true 1).img.sampled.isSome = true ∧ (one true 1).plane.pointAt (one true 1).chip = some (0, ⟨true, List.replicate 128 0⟩) ∧
       (one true 1).img.shadow = 3 ∧ (one true 1).img.armOcc = ((one true 1).plane.occ.get 0 0).toNat + 1 ∧
       ((one true 2).plane.occ.get 0 0).toNat + 1 < (one true 2).img.armOcc ∧
       (one true 0).img.armOcc < ((one true 0).plane.occ.get 0 0).toNat + 1) ∧
    (∀ x ∈ [0, 1, 2, 3], ({ ImgSt.reset with shadow := x } : ImgSt).shadow = x) ∧ ImgSt.reset.active = 0 ∧
    (let m := { ImgSt.reset with active := 2, xchgPoint := 9, xchgOcc := 3, armPoint := 9, armOcc := 3 }
     m.shadow = 0 ∧ m.active = 2 ∧ m.xchgPoint = m.armPoint ∧ m.xchgOcc = m.armOcc ∧ m.active ≠ 0) ∧
    (let c := { hc 0x16 [] with waits := true }
     (sh c).host.waiting 0x16 = some c ∧ (sh c).plane.quiescent = true ∧ (sh (hc 0 [])).host.waiting 0x16 = none ∧
       (up (kBundle 0x2800000000000000 SeqSt.reset)).plane.quiescent = false ∧ (sh c).herd.remote = [] ∧
       ∀ d ∈ (sh c).plane.live, ((sh c).plane.core d).sig.queue = []) := by
  decide +kernel

theorem witness_ModuleCommands :
    (∀ op ∈ [0x17, 0x18, 0x20, 0x21, 0x22], (sh (hc op [])).host.ready op 7 = some (hc op [])) ∧
    (let c := hc 0x17 [0, 12884901888, 63]
     let s := fun (n : Nat) => si c { ImgSt.reset with library := [(63, fillBytes n 0), (5, fillBytes n 0)] }
     [1, 2].length = (hc 0x17 [0, 2, 63]).word 2 ∧ (s 1).img.libBytes 63 + [1, 2].length ≤ 12884901888) ∧
    (let s := si (hc 0x18 [63]) { ImgSt.reset with library := [(63, [])] }
     s.img.library.any (·.1 == (hc 0x18 [63]).word 1) = true ∧ s.img.library.any (·.1 == (hc 0x18 [62]).word 1) = false) ∧
    (let s := sh (hc 0x21 [2 ^ 63])
     s.sup.nextMap.invalid (2 ^ 63) = false ∧ s.sup.nextMap.invalid (2 ^ 63 + 144) = true ∧ s.pwr.commits = [] ∧ s.sup.exts.length < 64 ∧
       64 ≤ (List.replicate 64 (2 ^ 63)).length ∧
       ({ SupSt.reset with exts := List.replicate 64 (2 ^ 63) } : SupSt).nextMap.invalid (2 ^ 63 + 143) = true ∧
       ({ SupSt.reset with exts := List.replicate 64 (2 ^ 63) } : SupSt).nextMap.invalid (2 ^ 63 + 17) = true ∧
       ({ SupSt.reset with exts := List.replicate 64 (2 ^ 63) } : SupSt).nextMap.invalid (2 ^ 63 + 15) = false) ∧
    (({ idleUp with link := { LinkSt.reset with mstate := 3 } } : State).link.mstate = 3 ∧ idleUp.link.mstate ≠ 3) ∧
    (let s := sh (hc 0x20 [4])
     s.pwr.busy = false ∧ (hc 0x20 [0]).word 1 = s.pwr.state ∧ (hc 0x20 [4]).word 1 ≠ s.pwr.state ∧ s.powerMayStart 7 4 = true) ∧
    (let s := fun (t : Nat) => { idleUp with pwr := { PwrSt.reset with busy := true, target := t, powerCmd := some 7 } }
     (s 3).pwr.busy = true ∧ (s 3).pwr.powerCmd = some 7 ∧ (s 3).pwr.target < 4 ∧ (s 4).pwr.target = 4) := by
  decide +kernel


theorem libBytes_fill (n : Nat) : ({ ImgSt.reset with library := [(5, fillBytes n 0)] } : ImgSt).libBytes 63 = n := by
  show (fillBytes n 0).length + 0 = n
  simp [fillBytes]

theorem witness_ModuleCommands_full :
    12884901888 < ({ ImgSt.reset with library := [(5, fillBytes 12884901888 0)] } : ImgSt).libBytes 63 + [(1 : Byte)].length := by
  rw [libBytes_fill]; exact Nat.lt_succ_self _

/-! ### Rings, events and functions -/

theorem witness_RingsAndDoorbells :
    (let s := sr Ring.reset []
     s.on = true ∧ s.host.global (15 : Fin 16).val (16383 : Fin 16384).val = none ∧
       s.host.global (0 : Fin 16).val (3 : Fin 16384).val = some 3 ∧ (s.host.ring 3).sqEn = false ∧ (s.host.ring 3).cqEn = false ∧
       (s.host.ring 3).cls < 4 ∧ (s.host.ring 3).cq < 16384 ∧ (s.host.ring 3).sqLog ≤ 12 ∧
       (s.host.global (0 : Fin 16).val (s.host.ring 3).cq).isSome = true ∧ (s.host.ring 3).vector < 2048 ∧
       (s.host.ring 3).coalesce < 256 ∧ (s.host.ring 3).cqLog ≤ 12) ∧
    (let r := { Ring.reset with sqEn := true, cqEn := true, sqLog := 12, cqLog := 12, vector := 2047, coalesce := 255, cls := 3, cq := 16383 }
     let s := sr r []
     s.host.global (0 : Fin 16).val (3 : Fin 16384).val = some 3 ∧ (s.host.ring 3).sqEn = true ∧ (s.host.ring 3).cqEn = true ∧
       (65535 : BitVec 32).toNat % 65536 < ringSize r.sqLog ∧ ringSize Ring.reset.sqLog ≤ (16 : BitVec 32).toNat % 65536 ∧
       r.cls < 4 ∧ r.cq < 16384 ∧ r.sqLog ≤ 12 ∧ (s.host.global (0 : Fin 16).val r.cq).isSome = true ∧
       r.vector < 2048 ∧ r.coalesce < 256 ∧ r.cqLog ≤ 12) := by
  decide +kernel

theorem witness_EventsAndMessages :
    (let e := (4, 7, 9)
     let s := fun (h : HostSt) => { idleUp with pwr := { PwrSt.reset with ob := { Outbox.empty with events := [e] } }, host := h }
     (s HostSt.reset).on = true ∧ (s HostSt.reset).pwr.ob.events = e :: [] ∧ (s HostSt.reset).host.evtEn = false ∧
       (List.replicate 255 e).length < 256 ∧ 256 ≤ (List.replicate 256 e).length ∧
       (let h := { HostSt.reset with evtEn := true, evtCq := 3, rings := [(3, { Ring.reset with cqEn := true, cqTail := 14 })] }
        (s h).host.evtEn = true ∧ (s h).host.events = [] ∧ ((s h).host.ring (s h).host.evtCq).cqEn = true ∧
          ((s h).host.ring (s h).host.evtCq).cqFull = false)) ∧
    (let s := fun (n : Nat) => { sr { Ring.reset with unsignalled := n, irqEn := true, vector := 2047 } [] with
       host := { (sr { Ring.reset with unsignalled := n, irqEn := true, vector := 2047 } []).host with msix := [(2047, 0)] } }
     ((s 0).host.ring (3 : Fin 16384).val).unsignalled = 0 ∧ 0 < ((s 1).host.ring (3 : Fin 16384).val).unsignalled ∧
       ((s 1).host.ring (3 : Fin 16384).val).irqEn = true ∧
       ((s 1).host.msixEntry (2048 * (s 1).host.owner (3 : Fin 16384).val + ((s 1).host.ring (3 : Fin 16384).val).vector)).getLsbD 96 = false) := by
  decide +kernel

theorem witness_FunctionsAndResets :
    (idleUp.on = true ∧ idleUp.host.vfEnable = false ∧ ({ HostSt.reset with vfEnable := true } : HostSt).vfEnable = true) ∧
    (let h := { HostSt.reset with vfEnable := true, numVfs := 15, vfCfg := [(15, (2 ^ 32, 16383 * 2 ^ 50 + 2 ^ 40))] }
     (15 : Fin 16).val ≠ 0 ∧ h.usable (15 : Fin 16).val = true ∧ h.owner 16383 = 15 ∧ h.owner 16382 ≠ 15) ∧
    7 ≤ idleUp.sup.step ∧ State.reset.sup.step < 7 ∧ idleUp.host.perst = false ∧
    ({ State.reset with pwr := { PwrSt.reset with state := 4 } } : State).on = false := by
  decide +kernel

/-! ### The herd and the link -/

/-- A SYNC flit from chip `src` with one segment. -/
def syncFlit (src : Nat) (loc : Bool) (g : Seg) : Flit := ⟨3, 7, 0, 4, 0, src, 0, 0, 0, loc, [g]⟩

/-- A flit's segments as records of the Sync handler. -/
def records (f : Flit) : List (Flit × Nat × Seg) := f.segs.zipIdx.map fun x => (f, x.2, x.1)

/-- A SYNC segment. -/
def syncG (op aux addr : Nat) (d : Bytes) : Seg := ⟨op, 0, 0, 0, 0, 0, aux, addr, d⟩

/-- A state whose port 31 is up and has one SYNC flit in its handler; the chip is herd index 0 of three, its partner there is chip 2. -/
def sl (f : Flit) : State := { idleUp with
  chip := { ChipCfg.reset 255 with herdN := 3, herdIds := [11, 12, 13] }
  link := { LinkSt.reset with
    ports := [(31, { Port.reset with
      state := 2, peerValid := true, peerId := 13, credits := [1, 1, 1, 1], sync := records f })]
    mstate := 2, epoch := 4, root := 0, mask := [0, 1, 2] } }

theorem witness_HerdTime :
    (let s := fun (h : HerdSt) => { idleUp with herd := h }
     idleUp.on = true ∧ (s { HerdSt.reset with armed := true }).herd.armed = true ∧ HerdSt.reset.loadIn = none ∧
       HerdSt.reset.armed = false ∧ HerdSt.reset.count.toNat % 1048576 = 0 ∧ HerdSt.reset.syncOut = 0 ∧
       ({ HerdSt.reset with count := 1048575 } : HerdSt).count.toNat % 1048576 ≠ 0) ∧
    (let s := fun (h : HerdSt) => { idleUp with pwr := { PwrSt.reset with state := 2 }, herd := h }
     (s HerdSt.reset).pending = [] ∧ (s HerdSt.reset).pwr.state = 2 ∧ (s { HerdSt.reset with loadIn := some 1 }).herd.loadIn = some 1 ∧
       HerdSt.reset.loadIn = none ∧ HerdSt.reset.slew = 0 ∧ HerdSt.reset.slewGap < 4095 ∧
       (∀ x : Int, x = 64 ∨ x = -64 → ({ HerdSt.reset with state := 2, slew := x, slewGap := 4095 } : HerdSt).slew = x ∧
         4095 ≤ ({ HerdSt.reset with state := 2, slew := x, slewGap := 4095 } : HerdSt).slewGap)) ∧
    (let q := { Port.reset with state := 3, credits := [0, 0, 0, 1] }
     let l := { LinkSt.reset with ports := [(31, q)] }
     l.upPorts = [(31 : Fin 32).val] ∧ 65536 ≤ HerdSt.reset.beaconGap ∧ ({ HerdSt.reset with beaconGap := 65535 } : HerdSt).beaconGap < 65536 ∧
       (l.port (31 : Fin 32).val).outq = [] ∧ l.byreStill (31 : Fin 32).val ∧ (l.port (31 : Fin 32).val).replay.length < 512 ∧
       0 < nth (l.port (31 : Fin 32).val).credits 3 0) ∧
    (let g := fun (aux t1 t2 : Nat) => syncG 0x10 aux 0 (leBytes 8 t1 ++ leBytes 8 t2 ++ leBytes 8 t2 ++ leBytes 2 3)
     let s := fun (aux t1 t2 st good : Nat) => { sl (syncFlit 2 true (g aux t1 t2)) with
       chip := { (sl (syncFlit 2 true (g aux t1 t2))).chip with herdX := 1 }
       herd := { HerdSt.reset with state := st, parent := some 31, good := good, depth := some 4 } }
     let h1 := fun (t1 t2 st good : Nat) =>
       let s := s 1 t1 t2 st good
       ({ s.herd with depths := s.herd.depths.set 31 (leAt (g 1 t1 t2).data 24 2) } : HerdSt).tree (s.link.syncPop 31) s.chip
     let off : Nat → Nat → Int := fun t1 t2 => beaconOffset t1 t2 t2 0 0
     (∀ x ∈ [(0, 64, 2, 0), (0, 65, 2, 0), (0, 2, 3, 0), (0, 2, 1, 2), (0, 2, 1, 3), (0, 3, 1, 0)],
       let s := s 1 x.1 x.2.1 x.2.2.1 x.2.2.2
       s.link.syncHead (31 : Fin 32).val 0x10 = some (syncFlit 2 true (g 1 x.1 x.2.1), 0, g 1 x.1 x.2.1) ∧ (g 1 x.1 x.2.1).aux % 2 = 1 ∧
         (syncFlit 2 true (g 1 x.1 x.2.1)).loc = true ∧ s.herd.count = 0 ∧ (s.link.port 31).asym = 0 ∧
         (h1 x.1 x.2.1 x.2.2.1 x.2.2.2).parent = some 31 ∧ (h1 x.1 x.2.1 x.2.2.1 x.2.2.2).state = x.2.2.1 ∧
         (h1 x.1 x.2.1 x.2.2.1 x.2.2.2).good = x.2.2.2) ∧
     (off 0 64).natAbs ≤ 64 ∧ 64 < (off 0 65).natAbs ∧ (off 0 2).natAbs ≤ 2 ∧ 2 < (off 0 3).natAbs ∧
     (let l1 := (s 0 0 0 0 0).link.syncPop 31
      (s 0 0 0 0 0).link.syncHead (31 : Fin 32).val 0x10 = some (syncFlit 2 true (g 0 0 0), 0, g 0 0 0) ∧ (g 0 0 0).aux % 2 = 0 ∧
        (l1.port 31).outq = [] ∧ l1.byreStill 31 ∧ (l1.port 31).replay.length < 512 ∧ 0 < nth (l1.port 31).credits 3 0 ∧
        (l1.port 31).state = 2)) := by
  refine ⟨by decide +kernel, ⟨by decide +kernel, by decide +kernel, by decide +kernel, by decide +kernel, by decide +kernel, by decide +kernel,
    ?_⟩, by decide +kernel, by decide +kernel⟩
  rintro x (rfl | rfl) <;> decide +kernel

theorem witness_BarriersAndLockstep :
    (let g := syncG 0x11 1 0 (leBytes 4 9)
     let s := sl (syncFlit 2 true g)
     let b : Bar := ⟨9, true, 0, 1, 0, false, none, []⟩
     let t := { s with herd := { HerdSt.reset with bar := some b, depth := some 0, depths := [(31, 1), (30, 1)] }
                       link := { s.link with mask := [0, 1, 2]
                                             ports := s.link.ports.set 30 { Port.reset with state := 2, peerValid := true, peerId := 12 } } }
     let u := { s with herd := { HerdSt.reset with bar := some b }, link := { s.link with mask := [0, 2] } }
     let came := fun (x : State) => ((x.herd.arrives ++ [(⟨31, leAt g.data 0 4, g.aux.testBit 0⟩ : Arrive)]).filter (·.seq == b.seq)).filterMap
       fun a => peerHerd x.chip (x.link.port a.port)
     (∀ x ∈ [t, u], x.link.syncHead (31 : Fin 32).val 0x11 = some (syncFlit 2 true g, 0, g) ∧ x.herd.bar = some b) ∧
       (syncFlit 2 true g).loc = true ∧ leAt g.data 0 4 = b.seq ∧
       ((1 : Fin 1024), ([] : List (Fin 1024))) ∈ [(1 : Fin 1024), 2].zip [[], []] ∧
       (t.herd.childPort (t.link.syncPop 31) t.chip (1 : Fin 1024).val).isSome = true ∧ (1 : Fin 1024).val ∉ came t ∧
       b.sent = false ∧ u.chip.herdX = timingRoot u.link ∧ (∀ m ∈ u.link.mask, m = u.chip.herdX ∨ m ∈ came u)) ∧
    (let g := syncG 0x12 1 0 (leBytes 4 9 ++ leBytes 8 5)
     let s := fun (n : Nat) (sent : Bool) => { sl (syncFlit 2 true g) with
       herd := { HerdSt.reset with count := BitVec.ofNat 64 n, bar := some ⟨9, true, 0, 1, 0, sent, none, []⟩ } }
     (∀ sent, ∀ n ∈ [5, 6], (s n sent).link.syncHead (31 : Fin 32).val 0x12 = some (syncFlit 2 true g, 0, g) ∧
       (s n sent).herd.bar = some ⟨9, true, 0, 1, 0, sent, none, []⟩) ∧ leAt g.data 0 4 = 9 ∧
       (s 5 true).herd.count ≤ BitVec.ofNat 64 (leAt g.data 4 8) ∧ BitVec.ofNat 64 (leAt g.data 4 8) < (s 6 true).herd.count) ∧
    (let b := fun (n : Nat) => (⟨9, true, 0, n, 0, true, none, []⟩ : Bar)
     let h := fun (n : Nat) => { HerdSt.reset with bar := some (b n), count := 65536 }
     (h 1).bar = some (b 1) ∧ (b 1).release = none ∧ (b 1).sent = true ∧ (b 1).timeout ≠ 0 ∧
       (b 1).began.toNat + (b 1).timeout * 65536 ≤ (h 1).count.toNat ∧ (b 0).timeout = 0 ∧
       (h 2).count.toNat < (b 2).began.toNat + (b 2).timeout * 65536) ∧
    (let g := fun (n : Nat) => syncG 0x13 0 0 (fillBytes n 0)
     let r : LsRec := LsRec.of (fillBytes 32 0)
     ∀ sig : BitVec 64,
       let x : LsFetch := ⟨r, List.replicate 33 1, sig⟩
       let s := fun (n : Nat) => { sl (syncFlit 2 true (g n)) with herd := { HerdSt.reset with lsState := 1, fetches := [x], first := some r } }
       (∀ n ∈ [32, 264], (s n).link.syncHead (31 : Fin 32).val 0x13 = some (syncFlit 2 true (g n), 0, g n) ∧ (g n).data.length = n) ∧
       ∀ n, (s n).herd.lsState = 1 ∧ (s n).herd.fetches = x :: [] ∧ (s n).herd.first = some x.rec_ ∧ sig = x.theirs) ∧
    (let g := fun (w : Nat) => syncG 0x14 0 0 (leBytes 2 w)
     let s := fun (w a : Nat) => { sl (syncFlit 2 true (g w)) with
       herd := { HerdSt.reset with lsState := if a = 0 then 0 else 1, lsOn := if a = 0 then 0 else 0x402 }
       img := { ImgSt.reset with active := a } }
     let named := fun (w : Nat) => lsEnable (BitVec.ofNat 12 (leAt (g w).data 0 2)) = true ∧ lsPartner (BitVec.ofNat 12 (leAt (g w).data 0 2)) = 0
     (∀ w ∈ [0x400, 0, 0x401], ∀ a ∈ [0, 1], (s w a).link.syncHead (31 : Fin 32).val 0x14 = some (syncFlit 2 true (g w), 0, g w) ∧
       (s w a).img.active = a ∧ (s w a).herd.lsState = a ∧ (s w a).chip.herdX = 0) ∧
       lsEnable (s 0 1).herd.lsOn = true ∧ lsPartner (s 0 1).herd.lsOn = (syncFlit 2 true (g 0)).src ∧
       named 0x400 ∧ ¬ named 0 ∧ ¬ named 0x401) := by
  refine ⟨by decide +kernel, by decide +kernel, by decide +kernel, fun sig => ⟨?_, fun n => ⟨rfl, rfl, rfl, rfl⟩⟩, by decide +kernel⟩
  intro n hn
  simp only [List.mem_cons, List.not_mem_nil, or_false] at hn
  rcases hn with rfl | rfl <;> exact ⟨rfl, by decide +kernel⟩

theorem witness_Membership :
    (let g := syncG 0x16 0 0 (leBytes 8 13)
     let s := sl (syncFlit 2 true g)
     s.link.syncHead (31 : Fin 32).val 0x16 = some (syncFlit 2 true g, 0, g) ∧ s.link.mstate = 2 ∧ s.link.root = s.chip.herdX ∧
       s.chip.herdIds[2]? = some (leAt g.data 0 8) ∧ s.chip.herdX ∈ secIns 2 s.link.mask ∧
       s.chip.herdIds[1]? ≠ some (leAt g.data 0 8)) ∧
    (let g := fun (m e : Nat) => syncG 0x17 e 0 (leBytes 128 m)
     let s := fun (m e : Nat) => sl (syncFlit 2 true (g m e))
     (∀ m ∈ [4, 5], (s m 5).link.syncHead (31 : Fin 32).val 0x17 = some (syncFlit 2 true (g m 5), 0, g m 5)) ∧
       (syncFlit 2 true (g 5 5)).loc = true ∧ (s 5 5).link.mstate = 2 ∧
       newer ((g 5 5).aux % 65536) (s 5 5).link.epoch = true ∧ bit (leNat (slice (g 5 5).data 0 128)) (s 5 5).chip.herdX = true ∧
       (s 5 5).chip.herdX < 1024 ∧ bit (leNat (slice (g 4 5).data 0 128)) (s 4 5).chip.herdX = false) ∧
    (let g := fun (y : Nat) => syncG 0x15 y 0 []
     let s := fun (y : Nat) => sl (syncFlit 2 true (g y))
     (s 2).link.syncHead (31 : Fin 32).val 0x15 = some (syncFlit 2 true (g 2), 0, g 2) ∧ 2 ∈ (s 2).link.mask ∧ 2 ≠ (s 2).chip.herdX ∧
       (s 2).link.judge 2 = (s 2).chip.herdX ∧ (s 2).chip.herdX ∈ (s 2).link.mask ∧ 3 ∉ (s 3).link.mask ∧ 0 = (s 0).chip.herdX ∧
       ({ (s 2).link with root := 1 } : LinkSt).judge 2 ≠ (s 2).chip.herdX) ∧
    (let s := fun (d : Option Nat) (n : Nat) => { sl (syncFlit 2 true (syncG 0 0 0 [])) with link := { (sl (syncFlit 2 true (syncG 0 0 0 []))).link with
       clock := n, ports := [(31, { Port.reset with downSince := d, peerValid := true, peerId := 13 })] } }
     (s (some 7) 6291463).link.mstate = 2 ∧ (s (some 7) 6291463).portsTo (2 : Fin 1024).val = [31] ∧
       ((s (some 7) 6291463).link.port 31).downSince = some 7 ∧ 7 + 65536 * (s (some 7) 6291463).link.deadTime.toNat ≤ (s (some 7) 6291463).link.clock ∧
       ¬ 7 + 65536 * (s (some 7) 6291462).link.deadTime.toNat ≤ (s (some 7) 6291462).link.clock ∧
       (2 : Fin 1024).val ∈ (s none 0).link.mask ∧ (2 : Fin 1024).val ≠ (s none 0).chip.herdX ∧ (s none 0).link.judge 2 = (s none 0).chip.herdX ∧
       (s none 0).chip.herdX ∈ (s none 0).link.mask ∧ (s none 0).portsTo 2 = [31] ∧ ((s none 0).link.port 31).downSince = none ∧
       (s none 0).portsTo (1 : Fin 1024).val = []) ∧
    (newer (5 : BitVec 16).toNat 4 = true ∧ newer (4 : BitVec 16).toNat 4 = false ∧ newer 32771 4 = true ∧ newer 32772 4 = false) := by
  refine ⟨by decide +kernel, by decide +kernel, by decide +kernel, by decide +kernel, by decide +kernel⟩

/-- A flit of channel `vc` with one segment. -/
def onVc (vc : Nat) (g : Seg) : Flit := { syncFlit 2 false g with vc := vc }

/-- A state whose port 31 is as given; the chip is herd index 0, member of epoch 4. -/
def sp (q : Port) : State := { sl (syncFlit 2 true (syncG 0 0 0 [])) with
  link := { LinkSt.reset with ports := [(31, q)], mstate := 2, epoch := 4, root := 0, mask := [0, 1, 2] } }

set_option maxRecDepth 100000 in
theorem witness_LinkLevel :
    (let q := { Port.reset with state := 2, rxSeq := 7, rx := List.replicate 31 (⟨onVc 0 (syncG 4 0 0 []), []⟩ : RxFlit), violLimit := 255 }
     let a : Flit := { onVc 0 (syncG 4 0 0 []) with dest := 0 }
     let b := syncFlit 0 true (syncG 0x16 0 0 (leBytes 8 13))
     let s := sp q
     let p := s.link.port (31 : Fin 32).val
     p.state = 2 ∧ Flit.parse [] = none ∧ Flit.parse a.encode = some ⟨1, a, true, none⟩ ∧ Flit.parse b.encode = some ⟨1, b, true, none⟩ ∧
       (Flit.parse (a.encodeAs 3)).map (·.kind) = some 3 ∧ p.violLimit = 255 ∧ p.violTimes = [] ∧
       p.outq = [] ∧ s.link.byreStill (31 : Fin 32).val ∧ s.link.mstate ≠ 1 ∧ (∀ r ∈ p.rx, r.flit.vc ≠ 3) ∧
       (∀ f ∈ [a, b], f.seq = p.rxSeq ∧ p.inUse f.vc < vcSize f.vc ∧ f.epoch = s.link.epoch ∧
         (f.loc = true ∨ s.link.mstate ≠ 2 ∨ f.src ∈ s.link.mask) ∧ (f.loc = true ∨ f.dest = s.chip.herdX) ∧ f.segs ≠ [] ∧
         (∀ g ∈ f.segs, opOnVc g.op f.vc = true ∧ readBad g = false)) ∧ a.vc ≠ 3 ∧ b.vc = 3 ∧ p.sync.length + b.segs.length ≤ 64 ∧
       (let r := (sp { q with rxSeq := 519 }).link.port (31 : Fin 32).val
        a.seq ≠ r.rxSeq ∧ (r.rxSeq + 4096 - a.seq) % 4096 ≤ 512)) ∧
    (let g : Flit := { onVc 0 (syncG 4 0 0 []) with dest := 3, hops := 1 }
     let s := fun (n : Nat) => { sp { Port.reset with state := 2, rxSeq := 7, byre := List.replicate n (0, g) } with
       chip := { ChipCfg.reset 255 with links := [(3, 0)] } }
     Flit.parse g.encode = some ⟨1, g, true, none⟩ ∧ g.seq = 7 ∧ g.dest ≠ (s 0).chip.herdX ∧ (s 0).link.mstate = 2 ∧ g.src ∈ (s 0).link.mask ∧
       (s 0).chip.links.find? (·.1 == g.dest) = some (3, 0) ∧ 0 < g.hops ∧ 0 ≠ (31 : Fin 32).val ∧ nth ((s 0).link.port 0).credits g.vc 0 = 0 ∧
       g.epoch = (s 0).link.epoch ∧
       (∀ n ∈ [31, 32], (s n).link.byreStill (31 : Fin 32).val ∧ ((s n).link.port (31 : Fin 32).val).outq = [] ∧
         ((s n).link.port (31 : Fin 32).val).inUse g.vc < vcSize g.vc) ∧
       ((s 31).link.port (31 : Fin 32).val).byreUse g.vc < 32 ∧ 32 ≤ ((s 32).link.port (31 : Fin 32).val).byreUse g.vc ∧ g.loc = false) ∧
    (let f := syncFlit 0 true (syncG 0x16 0 0 [])
     let q := fun (n : Nat) => { Port.reset with state := 2, replay := [f], sendings := n }
     ((sp (q 7)).link.port (31 : Fin 32).val).replay = f :: [] ∧ f.seq = (7 : Fin 4096).val ∧
       ((sp (q 7)).link.port (31 : Fin 32).val).state = 2 ∧ (q 7).sendings < 8 ∧ 8 ≤ (q 8).sendings ∧
       (∀ x ∈ (q 7).replay, maySend (sp (q 7)).link.mstate x = true) ∧ Port.reset.replay = []) := by
  refine ⟨by decide +kernel, by decide +kernel, by decide +kernel⟩

theorem witness_LinkSignals :
    (let h : HeldFlit := ⟨syncFlit 2 true (syncG 0x16 0 0 []), none, 7⟩
     let q := fun (lim : BitVec 8) (ts : List Nat) => ({ Port.reset with
       state := 2, held := [h], asked := some 7, violLimit := lim, violTimes := ts, credits := [0, 1, 0, 0], drySince := [(0, 7)] } : Port)
     let s := fun (n : Nat) (lim : BitVec 8) (ts : List Nat) => { sp (q lim ts) with link := { (sp (q lim ts)).link with clock := n } }
     let p := (s 65543 16 []).link.port (31 : Fin 32).val
     p.asked = some 7 ∧ p.held = h :: [] ∧ 7 + 65536 ≤ (s 65543 16 []).link.clock ∧ (s 65542 16 []).link.clock < 7 + 65536 ∧ Port.reset.held = [] ∧
       h.at_ + 65536 * (s 6291463 16 []).link.deadTime.toNat ≤ (s 6291463 16 []).link.clock ∧
       (s 6291462 16 []).link.clock < h.at_ + 65536 * (s 6291462 16 []).link.deadTime.toNat ∧ h.flit.vc < p.freed.length ∧
       (∀ x ∈ [(16, 1), (0, 1)], ((q (BitVec.ofNat 8 x.1) []).violTimes.filter fun v => decide (6291463 < v + 2 ^ 24)).length + 1 = x.2) ∧
       (0 : BitVec 8).toNat < 1 ∧ 1 ≤ (16 : BitVec 8).toNat ∧
       p.drySince.find? (·.1 == (0 : Fin 4).val) = some ((0 : Fin 4).val, 7) ∧ p.state = 2 ∧ 7 + 2097152 ≤ (s 2097159 16 []).link.clock ∧
       (s 2097158 16 []).link.clock < 7 + 2097152 ∧ p.drySince.find? (·.1 == (1 : Fin 4).val) = none) := by
  decide +kernel

/-- A segment of an operation with a tag. -/
def seg (op tag gen aux addr : Nat) (d : Bytes) : Seg := ⟨op, tag, gen, 2, 3, 0, aux, addr, d⟩

/-- A state whose port 31, in a state, holds that flit; arena 1 is a FOLD arena over arena 0. -/
def sq (st : Nat) (f : Flit) : State := { sp { Port.reset with state := st, rx := [⟨f, f.segs.zipIdx.map fun x => (x.2, x.1)⟩] } with
  chip := { ChipCfg.reset 255 with arenas := [(0, ⟨1, 0, 0, 256, 255, 0, 0, 2 ^ 20, 0⟩), (1, ⟨2, 2, 2, 256, 0, 0, 2 ^ 20, 2 ^ 20, 0⟩)] } }

theorem witness_LinkRequests :
    (let g := fun (op addr : Nat) => seg op 5 1 32 addr [1, 2]
     let s := fun (st vc op addr : Nat) => sq st (onVc vc (g op addr))
     (∀ x ∈ [(0, 1, 1, 0), (2, 3, 2, 2 ^ 20), (0, 1, 1, 2 ^ 20), (2, 3, 2, 0)],
       ((s 2 x.1 x.2.1 x.2.2.2).link.port (31 : Fin 32).val).nextSeg x.1 = some (onVc x.1 (g x.2.1 x.2.2.2), 0, g x.2.1 x.2.2.2) ∧
       (g x.2.1 x.2.2.2).op = x.2.1 ∧ (s 2 x.1 x.2.1 x.2.2.2).link.xfers = [] ∧
       inArena (s 2 x.1 x.2.1 x.2.2.2).chip x.2.2.1 (g x.2.1 x.2.2.2).addr (g x.2.1 x.2.2.2).data.length =
         (x.2.2.2 == if x.1 = 0 then 0 else 2 ^ 20) ∧
       ((s 2 x.1 x.2.1 x.2.2.2).link.port (31 : Fin 32).val).state = 2 ∧ ((s 3 x.1 x.2.1 x.2.2.2).link.port (31 : Fin 32).val).state = 3) ∧
     (let t := s 2 0 2 (256 - 32)
      ((t.link.port (31 : Fin 32).val).nextSeg 0 = some (onVc 0 (g 2 224), 0, g 2 224)) ∧ (t.link.port (31 : Fin 32).val).state = 2 ∧
        ((s 3 0 2 224).link.port (31 : Fin 32).val).state = 3 ∧
        inArena t.chip 1 224 (bits (g 2 224).aux 8 0) = true ∧
        (224 - ((t.chip.arenaOf 224).map fun a => a.2.base).getD 0) % t.chip.granAt 224 + bits (g 2 224).aux 8 0 ≤ t.chip.granAt 224) ∧
     (∀ vc ∈ [0, 2], ((s 2 vc 4 0).link.port (31 : Fin 32).val).nextSeg vc = some (onVc vc (g 4 0), 0, g 4 0) ∧ (s 2 vc 4 0).link.xfers = [])) ∧
    (let x : InXfer := ⟨31, 2, 5, 1, 0, 3, 4, some 4, 0⟩
     let y : InXfer := ⟨31, 2, 5, 1, 0, 3, 3, some 4, 0⟩
     x.port = (31 : Fin 32).val ∧ x.close = some 4 ∧ 4 ≤ x.served ∧ y.served < 4) := by
  decide +kernel

theorem witness_LinkAnswers :
    (let s := fun (q : Port) (r : Payload) => { sp q with plane := { idleUp.plane with mesh := [⟨1, 0, [], 100, false, false, r⟩] } }
     let rd := fun (els : List (Nat × Nat × Nat)) => Payload.remRead 0 3 31 2 100 els
     let wr := fun (fold : Bool) => Payload.remSeg 0 3 31 2 2 fold false 0 [(0xFF, 1)]
     let cl := fun (fold : Bool) => Payload.remClose 0 3 31 2 9 fold
     (s Port.reset (rd [])).mayAct = true ∧ (s Port.reset (rd [])).plane.mesh = [⟨1, 0, [], 100, false, false, rd []⟩] ∧
       100 ≤ (s Port.reset (rd [])).plane.now ∧ ((s Port.reset (rd [])).link.port (31 : Fin 32).val).state = 0 ∧
       (s Port.reset (rd [])).link.mstate = 2 ∧ 2 ∈ (s Port.reset (rd [])).link.mask ∧
       (let q := fun (u : Option TagUse) => { Port.reset with
          state := 2, credits := [1, 1, 1, 1],
          tags := (255, ⟨15, u, 0⟩) :: (List.range 255).map fun i => (i, (⟨0, some (.read 0 0 200 0 0 []), 0⟩ : Tag)) }
        let p := fun (u : Option TagUse) => (s (q u) (rd [])).link.port (31 : Fin 32).val
        2 ^ 39 - 1 < 2 ^ 39 ∧ (p none).state = 2 ∧ (p none).outq = [] ∧ (s (q none) (rd [])).link.byreStill (31 : Fin 32).val ∧
          (p none).replay.length < 512 ∧ (∀ vc ∈ [0, 2], 0 < nth (p none).credits vc 0) ∧ (p none).asm = [] ∧ (p none).gone = [] ∧
          (p none).freeTag = some 255 ∧
          (∀ r ∈ [rd [(0, 2 ^ 39 - 1, 8)], wr false, wr true], (s (q none) r).link.room (s (q none) r).chip (31 : Fin 32).val [r] = true ∧
            (s (q none) r).mayAct = true) ∧
          ∀ fold, (p none).tagOf (.xfer 0 3 2 fold false) = none ∧
            (p (some (.xfer 0 3 2 fold false))).tagOf (.xfer 0 3 2 fold false) = some 255 ∧
            (s (q (some (.xfer 0 3 2 fold false))) (cl fold)).link.room (s (q none) (cl fold)).chip (31 : Fin 32).val [cl fold] = true)) ∧
    (let g := fun (op aux : Nat) => seg op 255 15 aux 0 [1, 2]
     let u : TagUse := .read 0 3 100 2 0 [(0, 1, 8)]
     let v : TagUse := .xfer 0 3 2 false true
     let s := fun (op aux : Nat) (tg : Tag) =>
       sp { Port.reset with state := 2, rx := [⟨onVc 1 (g op aux), [(0, g op aux)]⟩], tags := [(255, tg)] }
     (∀ x ∈ [(8, 0, (⟨15, some u, 0⟩ : Tag)), (8, 256, ⟨15, some u, 0⟩), (8, 0, ⟨14, some u, 0⟩), (8, 0, ⟨15, none, 0⟩), (9, 0, ⟨15, some v, 0⟩),
         (9, 2, ⟨15, some v, 0⟩), (9, 0, ⟨15, none, 0⟩)],
       ((s x.1 x.2.1 x.2.2).link.port (31 : Fin 32).val).nextSeg 1 = some (onVc 1 (g x.1 x.2.1), 0, g x.1 x.2.1) ∧
         ((s x.1 x.2.1 x.2.2).link.port (31 : Fin 32).val).tag (g x.1 x.2.1).tag = x.2.2) ∧
     bits (g 9 0).aux 7 0 = 0 ∧ bits (g 9 2).aux 7 0 ≠ 0 ∧ bits (g 8 256).aux 15 8 = 1 ∧
     (((s 8 0 ⟨15, some u, 0⟩).link.port (31 : Fin 32).val).tag (255 : Fin 256).val).use = some u ∧
     (((s 8 0 ⟨15, some v, 0⟩).link.port (31 : Fin 32).val).tag (255 : Fin 256).val).use = some v ∧
     (s 8 0 ⟨15, some u, 0⟩).link.clock = 0 ∧ (⟨15, some u, 1⟩ : Tag).due = 1) := by
  refine ⟨by decide +kernel, by decide +kernel⟩

theorem witness_Training :
    (let s := fun (q : Port) => { sp q with sup := { (sp q).sup with cables := 128 } }
     let off := fun (q : Port) => { sp q with sup := { (sp q).sup with cables := 0 } }
     let l := fun (x : BitVec 6) (bad : Nat) => laneCount (x.toNat &&& (63 - bad))
     let q := { Port.reset with state := 1 }
     let u := { Port.reset with state := 2, lanes := 63 }
     ((s q).link.port (31 : Fin 32).val).state = 1 ∧ l 63 15 < 3 ∧ 3 ≤ l 63 7 ∧ (s q).link.byreStill (31 : Fin 32).val ∧ Port.reset.outq = [] ∧
       Port.reset.replay = [] ∧ Port.reset.trained = false ∧ ({ Port.reset with trained := true } : Port).trained = true ∧
       (s Port.reset).on = true ∧ (s Port.reset).sup.cabled (31 : Fin 32).val = true ∧ (off Port.reset).sup.cabled (31 : Fin 32).val = false ∧
       ((s Port.reset).link.port (31 : Fin 32).val).state = 0 ∧ ((s u).link.port (31 : Fin 32).val).state = 2 ∧
       bit ((s u).link.port (31 : Fin 32).val).lanes (5 : Fin 6).val = true ∧
       (s Port.reset).snap.portThere (31 : Fin 32).val = true ∧ (off Port.reset).snap.portThere (31 : Fin 32).val = true ∧
       ((s Port.reset).link.port (31 : Fin 32).val).disable = false ∧
       ((s { Port.reset with disable := true }).link.port (31 : Fin 32).val).disable = true) := by
  decide +kernel

/-! ### Interrupts, power, the store, security and the module -/

/-- The module after start-up with an interrupt controller as given. -/
def ic (srcs : Tab IcuSrc) (cores : Tab CtlCore) : State := { idleUp with
  icu := { IcuSt.reset 16 with srcs := srcs, cores := cores } }

/-- The module in P4. -/
def off : State := { idleUp with pwr := { PwrSt.reset with state := 4 } }

theorem witness_InterruptLines :
    let q := IcuSrc.reset 16
    off.takeLine 127 = none ∧ off.on = false ∧ lineOutside 49 = true ∧ off.takeLine 49 = some off ∧ srcWake 49 = true ∧ idleUp.on = true ∧
    idleUp.takeLine 87 = some idleUp ∧ (q 87).line = false ∧ (q 87).level = false ∧ ({ q 87 with level := true } : IcuSrc).level = true ∧
    (q 87).pending = false ∧ (q 87).active = false ∧ srcData 128 = true ∧ srcData 959 = true ∧ srcData 87 = false ∧
    (∀ x ∈ [(87, { q 87 with line := true, level := true }), (959, { q 959 with line := true, level := true }), (87, { q 87 with line := true }),
        (87, { q 87 with active := true }), (959, { q 959 with line := true, pending := true }), (87, { q 87 with filtered := true }),
        (959, { q 959 with filtered := true })], (ic [x] []).icu.src x.1 = x.2) ∧
    (let s := ic [(49, { q 49 with latched := true })] []
     (s.icu.src 49).latched = true ∧ ∀ p ∈ (ic [(49, q 49)] []).icu.srcs, p.2.latched = false) := by
  decide +kernel

theorem witness_Interrupts :
    let x := { IcuSrc.reset 16 49 with target := 0x80002, pending := true }
    let k := { CtlCore.reset with state := 2, meie := true }
    let s := ic [(49, x)] [(19, k)]
    (∀ st ∈ [1, 2], ({ k with state := st } : CtlCore).state = st) ∧
    s.on = true ∧ (s.icu.src 49).pending = true ∧ (s.icu.src 49).active = false ∧ (s.icu.src 49).target.getLsbD 19 = true ∧
    s.icu.running 19 < (s.icu.src 49).prio.toNat ∧ (s.icu.core 19).machine = true ∧ (s.icu.core 19).meie = true ∧ 19 ∉ s.icu.lostCores ∧
    s.icu.offer 19 = some 49 ∧ s.icu.offeredTo 49 = some 19 ∧ (s.icu.core 19).state = 2 ∧
    (let l := (s.icu.src 49).prio.toNat
     (s.icu.core 19).vectored.getLsbD l = false ∧ ({ k with vectored := 0x1000000 } : CtlCore).vectored.getLsbD l = true) ∧
    ({ k with deleg := true, machine := false, seie := true } : CtlCore).deleg = true ∧
    (ic [(49, x)] []).icu.offer 19 = none ∧ (ic [(49, { x with target := 2 })] [(19, k)]).icu.offeredTo 49 = none ∧
    (∀ d, d < 20 → d ≠ 1 → ((2 : BitVec 20).getLsbD d) = false) ∧
    (let t := ic [(49, { x with active := true, owner := 19, grantPri := 31 })] [(19, k)]
     (t.icu.src 49).active = true ∧ (t.icu.src 49).owner = 19 ∧ (t.icu.src 49).sensed = false ∧ srcData 49 = false ∧
       ({ x with line := true, level := true } : IcuSrc).sensed = true) := by
  decide +kernel

theorem witness_LadleAndStewards :
    let k := { CtlCore.reset with state := 1, ladleCnt := 1 }
    let s := ic [] [(19, k)]
    let w : BitVec 32 := 0x0200000B
    s.on = true ∧ (s.icu.core (19 : Fin 20).val).state = 1 ∧ isLadle w = true ∧ ladleSize w = some 1 ∧
    (isLadle (w + 0x4000) = true ∧ ladleSize (w + 0x4000) = some 32) ∧ (isLadle (w + 0x5000) = true ∧ ladleSize (w + 0x5000) = none) ∧
    (31 : BitVec 64).toNat % 32 ≠ 0 ∧ (32 : BitVec 64).toNat % 32 = 0 ∧ CtlCore.reset.ladleCnt ≤ CtlCore.reset.ladleDone ∧
    (s.icu.core (19 : Fin 20).val).ladleDone < (s.icu.core (19 : Fin 20).val).ladleCnt ∧
    (∀ p ∈ s.icu.srcs, p.2.pending = false) ∧ (∀ n, n < 1024 → (IcuSrc.reset 16 n).pending = false) ∧
    ctlPlace (19 : Fin 20).val (0x2003FFFF + 0) = .data 19 0x3FFFF ∧ ctlPlace (1 : Fin 20).val (0x20000000 + 0) = .data 0 0 ∧
    (let q := bits (BitVec.ofNat 64 (127 * 2048 + 2047)).toNat 18 11 / s.sup.cpq
     s.snap.quadrant q = true ∧ (19 : Fin 20).val ∉ s.icu.lostCores ∧ q < 8) ∧
    (let t := { s with icu := s.icu.onSteward 7 fun w => { w with ready := true } }
     (t.icu.steward (7 : Fin 8).val).ready = true) := by
  decide +kernel

theorem witness_LimitsAndFailures :
    let p := PwrSt.reset
    idleUp.on = true ∧ p.clamped = false ∧ ({ p with clamped := true } : PwrSt).clamped = true ∧
    4000000 ≤ p.excess + 4002800 - p.cap ∧ p.excess + 4002799 - p.cap < 4000000 ∧ 3300 < 3301 ∧ p.excess + 0 - p.cap = 0 ∧
    p.excess + 2801 - p.cap ≠ 0 ∧ p.cap < 2801 ∧ 2699 + 100 < p.cap ∧ (2800 ≤ p.cap ∧ p.cap ≤ 2700 + 100) ∧ p.level ≤ 3 ∧
    2 ≤ ({ p with hotWest := 2 } : PwrSt).hotWest ∧ 2 ≤ ({ p with hotEast := 2 } : PwrSt).hotEast ∧
    5000000 ≤ ({ p with clamped := true, excess := 5000000 } : PwrSt).excess ∧ p.faultValid = false ∧
    p.hotWest < 2 ∧ p.hotEast < 2 ∧ p.crashes.length < 256 ∧
    ((∀ c ∈ [3, 4, 5, 7], ([3, 4, 5, 7].contains (Fin.ofNat 256 c).val && (true || decide (3000 ≤ p.energy))) = true) ∧
      ([3, 4, 5, 7].contains (6 : Fin 256).val && (true || decide (3000 ≤ p.energy))) = false) ∧
    (8 : Fin 256).val ≠ 1 ∧ (8 : Fin 256).val ≠ 2 ∧ (8 : Fin 256).val ≠ 3 ∧ (8 : Fin 256).val ≠ 4 ∧ (8 : Fin 256).val ≠ 5 ∧
    (8 : Fin 256).val ≠ 6 ∧ (8 : Fin 256).val ≠ 7 ∧
    ({ p with faultValid := true } : PwrSt).faultValid = true ∧
    idleUp.sup.eastOk = true ∧ SupSt.reset.eastOk = false ∧ 2 ≤ (2 : Fin 20).val ∧ 2 ∉ idleUp.icu.lostCores ∧ (2 : Fin 20).val < 4 ∧
    4 ≤ (19 : Fin 20).val ∧ 19 ∉ idleUp.icu.lostCores ∧ 18 ∉ idleUp.icu.lostCores ∧ 18 ∈ ({ IcuSt.reset 16 with lostCores := [18] } : IcuSt).lostCores := by
  decide +kernel

theorem witness_StoreAndSnapshots :
    let c := fun (a : CommitAct) => (⟨a, some 7⟩ : Commit)
    let p := { PwrSt.reset with healthy := true }
    PwrSt.reset.commits = [] ∧
    (let s := fun (r : BitVec 48) => ({ idleUp with sup := { idleUp.sup with rtc := r } } : State)
     (s 1966081).pwr.checked + 60 * 32768 < (s 1966081).sup.rtc.toNat ∧ ¬ (s 1966080).pwr.checked + 60 * 32768 < (s 1966080).sup.rtc.toNat) ∧
    (idleUp.sup.extCode (2 ^ 63) = 0 ∧ idleUp.sup.extCode (2 ^ 63 + 144) ≠ 0 ∧ idleUp.sup.nextMap.invalid (2 ^ 63 + 144) = true ∧
      (let u := { idleUp.sup with exts := List.replicate 64 (2 ^ 63) }
       u.extCode (2 ^ 63 + 15) ≠ 0 ∧ u.nextMap.invalid (2 ^ 63 + 15) = false)) ∧
    (∀ a ∈ [CommitAct.audit, .mapExt 0, .store 63 [], .delete 63, .firmware 1 0],
      ({ p with commits := [c a] } : PwrSt).commits = c a :: [] ∧ (c a).act = a) ∧ 65535 < 65536 ∧
    (p.healthy = true ∧ 12000 + 3000 ≤ 15000 ∧ p.railsFailing = false) ∧ ¬ 12000 + 3000 ≤ 14999 ∧
    255 < 256 ∧ 65535 < 65536 ∧
    (∀ t ∈ [80, 90, 100], (max p.lifePct p.worstPct < t ∧ (max t 0 < t + 10)) ∧ (t = 80 ∨ t = 90 ∨ t = 100) ∧ max (t - 1) 0 < t) ∧
    ({ TelSt.reset with period := 1 } : TelSt).period ≠ 0 ∧ TelSt.reset.period = 0 ∧ TelSt.reset.busy = false ∧
    (let x := idleUp.snap
     let t := { TelSt.reset with busy := true, shot := some x }
     t.busy = true ∧ t.shot = some x ∧ idleUp.host.cmds = [] ∧
       (let w := { hc 6 [] with waits := true }
        (sh w).host.cmds = [w] ∧ w.op = 6 ∧ w.waits = true)) := by
  decide +kernel

/-- An authorisation block in the mailbox: OP, level, lease; all other fields zero. -/
def authBox (op lvl lease : Nat) : Mem :=
  Mem.write [] 32 (leBytes 8 idleUp.sup.moduleId ++ [BitVec.ofNat 8 op, BitVec.ofNat 8 lvl, 0, 0] ++ leBytes 4 lease)

/-- Security state with an owner record of zeros but for one byte of its policy, a held nonce of zeros, and a mailbox. -/
def secBox (life : Life) (pol : Byte) (op lvl lease : Nat) : State := { idleUp with
  pwr := { PwrSt.reset with healthy := true, energy := 3500 }
  sec := { SecSt.reset with
    life := life, record := fillBytes 8 0 ++ leBytes 7 1 ++ [pol] ++ fillBytes 2736 0, nonce := some (fillBytes 32 0), nonceEnd := 1, mbox := authBox op lvl lease } }

set_option maxRecDepth 100000 in
theorem witness_Authorisations :
    (let s := secBox .ownedLocked 0 2 2 1
     let a := s.sec.mbox.read 0 8192
     s.on = true ∧ s.sec.busy = false ∧ s.sec.life ≠ .scrapped ∧ s.pwr.state ≠ 2 ∧
       (s.pwr.healthy = true ∧ 3500 ≤ s.pwr.energy ∧ s.pwr.railsFailing = false) ∧ ¬ (3500 ≤ 3499) ∧ s.pwr.state = 0 ∧
       opAllowed s.sec.life (leAt a 40 1) = true ∧ leAt a 32 8 = s.sup.moduleId ∧ authWellFormed s.sec.record a = true ∧
       leAt a 40 1 = 2 ∧ ¬ secondsTo (0 : BitVec 48).toNat s.sec.waitEnd ≠ 0 ∧ secondsTo (0 : BitVec 48).toNat 1 ≠ 0 ∧
       s.sec.nonce = some (slice a 0 32) ∧ (0 : BitVec 48).toNat < s.sec.nonceEnd ∧ ¬ (1 : BitVec 48).toNat < s.sec.nonceEnd ∧
       s.sec.submitCheck s.sup.moduleId a = 0 ∧ (secBox .ownedLocked 0x10 2 2 1).sec.submitCheck s.sup.moduleId a ≠ 0 ∧
       opAllowed .blank (leAt a 40 1) = false) ∧
    (let s := secBox .ownedLocked 0 5 0 0
     let a := s.sec.mbox.read 0 8192
     opAllowed s.sec.life (leAt a 40 1) = true ∧ leAt a 32 8 = s.sup.moduleId ∧ authWellFormed s.sec.record a = true ∧
       leAt a 40 1 = 5 ∧ s.sec.vendorDead = false ∧ ({ s.sec with vendorDead := true } : SecSt).vendorDead = true) ∧
    (let s := secBox .vendorOpen 0 7 0 0
     let a := s.sec.mbox.read 0 8192
     opAllowed s.sec.life (leAt a 40 1) = true ∧ authWellFormed s.sec.record a = true ∧ leAt a 40 1 = 7 ∧ 5 < leAt a 40 1 ∧
       s.sec.submitCheck s.sup.moduleId a ≠ 0) ∧
    (∀ op, op < 8 → ({ SecSt.reset with verified := some op } : SecSt).verified = some op) ∧ SecSt.reset.verified ≠ some 1 ∧
    ({ SecSt.reset with life := .ownedOpen, leaseEnd := 5 } : SecSt).leaseEnd ≤ (5 : BitVec 48).toNat ∧ (4 : BitVec 48).toNat < 5 ∧
    SecSt.reset.life ≠ .ownedOpen ∧ SecSt.reset.nonce = none ∧ SecSt.reset.life ≠ .scrapped := by
  decide +kernel

theorem witness_DebugAndAttestation :
    (let s := idleUp
     s.pwr.railsFailing = false ∧ s.on = true ∧ s.sec.busy = false ∧ s.sec.life ≠ .scrapped ∧ s.pwr.state ≠ 2 ∧ s.sec.verified = none ∧
       s.sec.reach = 2 ∧ ({ SecSt.reset with life := .ownedLocked } : SecSt).reach < (1 : Fin 4).val ∧ (3 : Fin 4).val = 3 ∧
       (2 : Fin 4).val ≤ s.sec.reach ∧ s.pwr.state ≤ 1 ∧ s.sec.level ≠ 2 ∧ ({ SecSt.reset with level := 2 } : SecSt).level = 2 ∧
       ({ PwrSt.reset with state := 3 } : PwrSt).state = 3 ∧ s.sec.life ≠ .ownedOpen ∧ s.sec.recovery = false ∧ s.sec.keysOff = false ∧
       (8 : Fin 256).val ≤ 8 ∧ (255 : Fin 256).val = 255) ∧
    (let s := { idleUp with pwr := { PwrSt.reset with healthy := true, energy := 3500 }, sec := { SecSt.reset with life := .ownedOpen } }
     s.sec.life = .ownedOpen ∧ s.pwr.admits 1 = true) ∧
    (let s := fun (st : Nat) => { ic [] [(19, { CtlCore.reset with state := st })] with sec := { SecSt.reset with level := 2 } }
     ∀ st ∈ [1, 2, 3], ((s st).icu.core (19 : Fin 20).val).state = st ∧ (s st).sec.level = 2 ∧ (s st).pwr.state ≤ 1) ∧
    off.on = false ∧ off.sec.recovery = false ∧ off.pwr.railsFailing = false := by
  decide +kernel

theorem witness_StartsAndResets :
    (let c : StartCond := ⟨true, true, true, true, true, 20000, 100, 100, 255, 5⟩
     c.refclk = true ∧ c.fuseOk = true ∧ c.inputOk = true ∧ c.cool = true ∧ c.eastOk = true ∧
     ({ c with refclk := false, inputOk := false, cool := false, fuseOk := false } : StartCond) =
       ⟨false, false, false, false, true, 20000, 100, 100, 255, 5⟩) ∧
    (let passes := fun (x : SecSt) (k : Nat) => x.slotOk (x.slots.get FwSlot.factory k) && (x.slots.get FwSlot.factory k).stewardOk
     passes SecSt.reset 0 = true ∧ passes SecSt.reset 1 = true ∧
     (let x := { SecSt.reset with slots := [(0, { FwSlot.factory with signed := false }), (1, { FwSlot.factory with stewardOk := false })] }
      passes x 0 = false ∧ passes x 1 = false)) ∧
    SecSt.reset.erasePending = false ∧ (IcuSrc.reset 16 1).latched = false ∧
    ((ic [(1, { IcuSrc.reset 16 1 with latched := true })] []).icu.src 1).latched = true ∧
    off.on = false ∧ off.pwr.railsFailing = false ∧ idleUp.on = true ∧ idleUp.pwr.railsFailing = false ∧ idleUp.sec.recovery = false ∧
    ({ SecSt.reset with recovery := true } : SecSt).recovery = true ∧ idleUp.sup.held ≠ 4 ∧ idleUp.sup.held = 0 ∧
    (let u := { SupSt.reset with held := 3, step := 5 }
     u.held ≠ 0 ∧ u.step = 5) ∧
    ({ ImgSt.reset with second := true } : ImgSt).second = true ∧ idleUp.img.second = false ∧ (0x5AFD : BitVec 16) ≠ 0x5AFE ∧
    (∀ low ∈ [0, 1, 2, 3], bits (BitVec.ofNat 64 (0x5AFE * 2 ^ 48 + low)).toNat 63 48 = 0x5AFE) ∧
    ¬ bits (BitVec.ofNat 64 (0x5AFF * 2 ^ 48 + 3)).toNat 63 48 = 0x5AFE ∧
    ({ SupSt.reset with moduleWanted := some 4 } : SupSt).moduleWanted = some 4 ∧ SupSt.reset.moduleWanted = none ∧
    ({ SupSt.reset with zeroing := true } : SupSt).zeroing = true ∧ SupSt.reset.zeroing = false := by
  decide +kernel

theorem witness_SidebandAndFirmware :
    idleUp.pwr.railsFailing = false ∧ idleUp.on = true ∧ off.on = false ∧ off.pwr.railsFailing = false ∧
    idleUp.sec.rollback.toNat ≤ (0 : BitVec 16).toNat ∧ (0 : BitVec 16).toNat < ({ SecSt.reset with rollback := 1 } : SecSt).rollback.toNat ∧
    (let f := idleUp.sec.slots.get FwSlot.factory (1 - idleUp.sec.slot)
     f.pair < 4 ∧ idleUp.sec.revoked.getLsbD f.pair = false ∧ f.signed = true ∧ idleUp.sec.rollback.toNat ≤ f.svn.toNat ∧ f.bodyOk = true) ∧
    ¬ (({ FwSlot.factory with pair := 4 } : FwSlot).pair < 4) := by
  decide +kernel

theorem witness_DebugWithinReach :
    (let s := { idleUp with sec := { SecSt.reset with level := 2 }, pending := [.endSession] }
     s.sec.level ≤ s.sec.reach ∧ ∃ t, step s = .next t) := ⟨by decide +kernel, _, rfl⟩

end Sys2Proof.Tests
end

