-- ==== Sys2Proof/WellFormed.lean ====
section
/-! DEFINITION. The checks of a command's operands that their types do not make: how many bytes or records come with
it, and the ranges of percentages and offsets. Nothing outside these bounds can reach the module; a meaning reads what
is missing as zero and leaves out what is too much. -/

namespace Sys2Proof

/-- What start-up measures: percentages, and an energy that PWR_HOLDUP can show (R515). -/
def StartCond.wf (c : StartCond) : Bool := decide (c.energy < 65536000) && decide (c.cap ≤ 255) && decide (c.esr ≤ 65535)

/-- Whether the operands of a command are ones that can reach the module. -/
def Instr.wf : Instr → Bool
  | .registerWrite _ _ size _ => decide (1 ≤ size) && decide (size ≤ 8)
  | .readClear _ _ size => decide (1 ≤ size) && decide (size ≤ 8)
  | .tileScrub _ staging bank seen => seen.found.length == (if staging then 4 else 2) && (!staging || decide (bank.val < 8))
  | .channelRequestServed _ idx found => decide (idx < 64) && decide (found.length ≤ 64)
  | .foldWrite _ found => decide (found.length ≤ 64)
  | .stackTraining _ _ failed => failed.length == 32
  | .copyIn _ data => decide (data.length < 2 ^ 32)
  | .descCreate _ words => decide (words.length ≤ 128)
  | .sqFetch entry => entry.length == 64
  | .bar2Read _ _ n => decide (1 ≤ n) && decide (n ≤ 4096)
  | .bar2Write _ _ data => decide (1 ≤ data.length) && decide (data.length ≤ 4096)
  | .barrierArrive _ children members => decide (children.length ≤ 32) && decide children.Nodup && members.length == children.length
  | .barrierRelease _ children => decide (children.length ≤ 32) && decide children.Nodup
  | .barrierTimeout children => decide (children.length ≤ 32) && decide children.Nodup
  | .dataFlitReceive _ bytes _ => bytes.length == 512
  | .governorSample _ _ rail => decide (rail ≤ 65535)
  | .holdupHealthCheck _ cap esr => decide (cap ≤ 255) && decide (esr ≤ 65535)
  | .challenge _ nonce => nonce.length == 32
  | .getMeasurements _ nonce => nonce.length == 32
  | .firmwareUpdate _ _ _ _ _ _ body => body.length == 48
  | .stewardEventLog _ _ cause _ => decide (cause < 65536)
  | .wake cond => cond.wf
  | .reset cond => cond.wf
  | .auxiliaryPowerUp cond => cond.wf
  | .startHoldRelease cond => cond.wf
  | .sysRstN _ cond => cond.wf
  | .moduleReset cond => cond.wf
  | .nandWearManagement life worst bad erased => decide (life ≤ 255) && decide (worst ≤ 255) && decide (bad < 65536) && decide (erased < 2 ^ 32)
  | _ => true

end Sys2Proof
end

