-- ==== Sys2Proof/Tests/Slice0.lean ====
section
/-! SUPPORT. Tests of the model: the checks of operands, and single steps whose results stand in the spec's own worked
examples and tables, or follow from a published check value. The source of every expected result stands with it. -/

namespace Sys2Proof.Tests

open Sys2Proof Sys2Proof.Machine

set_option Elab.async false

/-- Whether an outcome is a next state with a property. -/
def after (o : Host.Outcome State Fault Refusal) (f : State → Bool) : Bool :=
  match o with
  | .next t => f t
  | _ => false

/-! ### Operands -/

/-- Start-up conditions with an energy that no register can show. -/
def badStart : StartCond := ⟨true, true, true, true, true, 65536000, 100, 100, 255, 0⟩

/-- One ill-formed command for every check of `Instr.wf`; each is refused. -/
theorem test_wf_refuses : ∀ i ∈ [
    Instr.registerWrite .debug 0 0 0, .registerWrite .debug 0 9 0, .readClear .debug 0 0, .readClear .debug 0 9,
    .tileScrub 0 false 0 ⟨[], []⟩, .tileScrub 0 true 0 ⟨[], [.clean, .clean]⟩, .tileScrub 0 true 8 ⟨[], [.clean, .clean, .clean, .clean]⟩,
    .channelRequestServed 0 64 [], .channelRequestServed 0 0 (List.replicate 65 .clean), .foldWrite 0 (List.replicate 65 .clean),
    .stackTraining 0 2 (List.replicate 31 []), .descCreate 0 (List.replicate 129 0), .sqFetch (List.replicate 63 0),
    .bar2Read 0 0 0, .bar2Read 0 0 4097, .bar2Write 0 0 [], .bar2Write 0 0 (List.replicate 4097 0),
    .barrierArrive 0 [1, 1] [[], []], .barrierArrive 0 (List.replicate 33 0) (List.replicate 33 []), .barrierArrive 0 [1] [], .barrierRelease 0 [1, 1], .barrierRelease 0 (List.replicate 33 0),
    .barrierTimeout [1, 1], .barrierTimeout (List.replicate 33 0), .dataFlitReceive 0 (List.replicate 511 0) (0, 0),
    .governorSample 0 0 65536, .holdupHealthCheck 0 256 0, .holdupHealthCheck 0 0 65536, .challenge 0 [], .getMeasurements 0 [],
    .firmwareUpdate 0 true 0 0 true true [], .stewardEventLog 0 0 65536 none, .wake badStart, .reset badStart, .auxiliaryPowerUp badStart,
    .startHoldRelease badStart, .sysRstN true badStart, .moduleReset badStart, .wake { badStart with energy := 0, cap := 256 },
    .wake { badStart with energy := 0, esr := 65536 }, .nandWearManagement 256 0 0 0, .nandWearManagement 0 256 0 0,
    .nandWearManagement 0 0 65536 0, .nandWearManagement 0 0 0 (2 ^ 32)], i.wf = false := by decide +kernel

/-- COPY_IN carries at most what its length field can name (R459). -/
theorem test_wf_copyIn (data : Bytes) (h : data.length = 2 ^ 32) : (Instr.copyIn 0 data).wf = false := by
  simp [Instr.wf, h]

/-- The bounds themselves pass. -/
theorem test_wf_accepts : ∀ i ∈ [
    Instr.registerWrite .debug 0 8 0, .readClear .debug 0 1, .tileScrub 0 false 31 ⟨[], [.clean, .clean]⟩,
    .tileScrub 0 true 7 ⟨[], [.clean, .clean, .clean, .clean]⟩, .channelRequestServed 0 63 [], .stackTraining 0 2 (List.replicate 32 []),
    .sqFetch (List.replicate 64 0), .bar2Read 0 0 4096, .barrierArrive 0 [0, 31] [[0], []], .governorSample 0 0 65535,
    .stewardEventLog 0 0 65535 none, .wake ⟨true, true, true, true, true, 65535999, 255, 65535, 255, 0⟩], i.wf = true := by decide +kernel

/-! ### Numbers: the worked examples of 02_number_formats.md, 03, 06 and 12 -/

/-- R57, R58: 2^-22 rounds to 0x02 and 3·2^-24 to 0x01 in posit8. -/
theorem test_pattern_rounding : penc 8 (.num ⟨1, -22⟩) = 0x02 ∧ penc 8 (.num ⟨3, -24⟩) = 0x01 := by decide +kernel

/-- R69: 0x7F × 0x7F in posit8 is bit 96 of a Q128, 1.0 is bit 48. -/
theorem test_quire_pattern : qof 1 ((pdec 8 0x7F).mul (pdec 8 0x7F)) = .int (2 ^ 96) ∧ qof 1 (.num ⟨1, 0⟩) = .int (2 ^ 48) := by
  decide +kernel

/-- 06, worked example: 6,094 × 2^-5 × 2^-6 rounded once to posit16 is 0x4BE7. -/
theorem test_epilogue_value :
    penc 16 (((Val.num ⟨6094, 0⟩).mul (pdec 32 0x1C000000)).mul (pdec 16 0x1800)) = 0x4BE7 := by decide +kernel

/-- 12, R376: a word whose top 24 bits are 0xC00000 gives 0.75 = 0x3C000000 in UNIFORM_P32. -/
theorem test_draw_uniform : drawElement 1 (0xC00000 <<< 40) = leBytes 4 0x3C000000 := by decide +kernel

/-- The check value of CRC-32C, and SHA-384 of "abc" (published with the algorithms). -/
theorem test_crc32c : crc32c (ascii "123456789") = 0xE3069283 := by decide +kernel
/-- CRC-64/ECMA-182's published check value (R379). -/
theorem test_crc64 : crc64 (ascii "123456789") = 0x6C40DF5F0B497347 := by decide +kernel
/-- The first eight bytes of SHA-384("abc"). -/
theorem test_sha384 : (sha384 (ascii "abc")).take 8 = [0xCB, 0x00, 0x75, 0x3F, 0x45, 0xA3, 0x5E, 0x8B] := by decide +kernel

/-- 01, R35: 14 cores a quadrant, slots 3, 9, 10 and 17 of quadrant 5 not usable: logical core 75 is site 96. -/
theorem test_logical_core :
    let m : DuMap := ⟨(List.range 144).map fun t => (t, if [93, 99, 100, 107].contains t then 2 else if t / 18 = 5 then 0 else
      if t % 18 < 14 then 0 else 1), []⟩
    (m.cores 14 true).get 0 75 = 96 := by decide +kernel

/-- 10, R307: in the arena of the worked example, element 100 of row 5 lies in channel 6 at byte 134,218,056. -/
theorem test_place : (⟨1, 0, 0, 32, 1, 0, 0x400000, 0x200000, 0x8000000⟩ : Arena).place (0x400000 + 10440) = (6, 134218056) := by
  decide +kernel

/-! ### Commands -/

/-- R248, SETT: the largest VALUE enters tally 2, DATA clear. -/
theorem test_sett : after (exec (.sett 0 0x17FFFFF) (up kTally)) (fun t => (t.plane.core 0).tally 2 == ⟨0x7FFFFF, false⟩) = true := by
  decide +kernel

/-- R248, LOOP: tally 1 holds 1; it becomes 0 and the next bundle is TARGET. -/
theorem test_loop : after (exec (.loop 0 0x0800005) (up kTally)) (fun t =>
    (t.plane.core 0).tally 1 == ⟨0, false⟩ && (t.plane.core 0).seq.bundle == 5) = true := by decide +kernel

/-- R250: a LOOP on a tally with DATA set is refused and counted with the fault code DATA_LOOP; the tally stays. -/
theorem test_loop_data : after (exec (.loop 0 0x1000005) (up kTally)) (fun t =>
    (t.plane.core 0).tally 2 == ⟨7, true⟩ && (t.plane.core 0).seq.fault.count == 1) = true := by decide +kernel

/-- 05, worked example: SMCLOSE of M = 3, S = 80 gives r = 0x16666666. -/
theorem test_smclose :
    let k := { running Engine.reset with ve := { VeSt.reset with sm := [(0, { SmCtx.reset with
      st := 1, w := 2, m := some 0x4C000000, q := qof 4 (.num ⟨80, 0⟩), tiles := 2, log := [0x40000000, 0x4C000000] })] } }
    after (exec (.smclose 0 (2 ^ 25)) (up k)) (fun t =>
      ((t.plane.core 0).ve.ctx 0).mFin == 0x4C000000 && ((t.plane.core 0).ve.ctx 0).r == 0x16666666) = true := by decide +kernel

/-- 10, worked example: the embedding bag's element 100 is 2.0, 0x4800, at byte 134,250,504 of channel 6. -/
theorem test_gather_fold :
    let rec_ := leBytes 64 (1 * 2 ^ 58 + 1 * 2 ^ 54 + 1 * 2 ^ 50 + 2 ^ 46 + 0x400000 * 2 ^ 64 + 0x500000 * 2 ^ 128 + 0x600000 * 2 ^ 192 +
      2048 * 2 ^ 256 + 3 * 2 ^ 288 + 2048 * 2 ^ 320)
    let at_ := fun (l : Nat) => memKey 6 l
    let cell := fun (l : Nat) (bs : Bytes) => fun (m : Mem) => m.write (at_ l) bs
    let m := cell (0x8000000 + 10 * 32 + 8) [0x00, 0x44] (cell (0x8000000 + 34 * 32 + 8) [0x00, 0xD0]
      (cell (0x8000000 + 2048 * 32) (leBytes 4 5 ++ leBytes 4 0x40000000 ++ leBytes 4 17 ++ leBytes 4 0x40000000 ++ leBytes 4 5 ++
        leBytes 4 0x38000000) []))
    let s := { idleUp with
      chip := { ChipCfg.reset 0 with arenas := [(2, ⟨1, 0, 0, 32, 1, 0, 0x400000, 0x400000, 0x8000000⟩)] }
      ext := { ExtSt.reset with stackOk := 255, mem := m, chans := [(6, { Chan.reset with queue := [.command rec_] })] } }
    after (exec (.gatherFold 6) s) (fun t => t.ext.peek 6 134250504 2 == [0x00, 0x48] && (t.ext.chan 6).faults == 0) = true := by
  decide +kernel

/-- 14, worked example: entry 0 is COPY_IN number 7 with a token for pail 2000 of core 9; HEAD becomes 1. -/
theorem test_sq_fetch :
    let s := { idleUp with
      plane := { idleUp.plane with enabled := 10, sites := [(9, 9)] }
      host := { HostSt.reset with
        linkUp := true, rings := [(5, { Ring.reset with sqEn := true, cqEn := true, sqLog := 4, cqLog := 4, cq := 5, tail := 1 })] } }
    let e := leBytes 8 0x00070001 ++ leBytes 8 0x800000000 ++ leBytes 8 0x40000000 ++ leBytes 8 0x100000 ++ leBytes 8 0x8000000000004FD0 ++
      fillBytes 24 0
    after (exec (.sqFetch e) s) (fun t => (t.host.ring 5).head == 1 &&
      t.host.cmds.map (fun c => (c.cid, c.op, c.token, c.started)) == [(7, 1, some (9, 2000), true)]) = true := by decide +kernel

/-- 15, worked example: source 300 at PRIORITY 12, core 6 running at 15, core 7 at 3: offered to core 7, which claims it at 12. -/
theorem test_icu_claim :
    let src := { IcuSrc.reset 16 300 with target := 0xC0, prio := 12, pending := true }
    let own := { IcuSrc.reset 16 20 with active := true, owner := 6, grantPri := 15 }
    let k := fun (th : BitVec 5) => { CtlCore.reset with state := 1, meie := true, threshold := th }
    let s := ic [(20, own), (300, src)] [(6, k 0), (7, k 3)]
    after (exec (.icuCoreClaim 7) s) (fun t => t.bus == 300 && (t.icu.src 300).active && (t.icu.src 300).owner == 7 &&
      (t.icu.src 300).grantPri == 12 && !(t.icu.src 300).pending && t.icu.running 7 == 12) = true := by decide +kernel

/-- 17, worked example: GET_NONCE with NONCE_SEQ 41 makes it 42 and holds a nonce for 60 s of the 32,768 Hz count. -/
theorem test_get_nonce :
    let s := { idleUp with
      pwr := { PwrSt.reset with healthy := true, energy := 3500 }
      sec := { SecSt.reset with life := .ownedLocked, nonceSeq := 41 } }
    after (exec (.getNonce 0) s) (fun t => t.sec.nonceSeq == 42 && t.sec.nonce.isSome && t.sec.nonceEnd == 1966080) = true := by
  decide +kernel

/-- R545: IDCODE reads 0x13C51A7B. -/
theorem test_idcode : after (exec .idcode idleUp) (fun t => t.data == [0x7B, 0x1A, 0xC5, 0x13]) = true := by decide +kernel

/-- R465: a BAR2 read outside every arena reads zero and is counted. -/
theorem test_bar2_out : after (exec (.bar2Read 0 (2 ^ 39 - 1) 1) { idleUp with host := HostSt.reset }) (fun t =>
    t.data == [0] && (t.host.err.get HifErr.zero 0).oor == 1) = true := by decide +kernel

/-- R514: below 15 J the bank raises HOLDUP_LOW; 85 % and 150 % are healthy. -/
theorem test_health_check : after (exec (.holdupHealthCheck 14999 85 150) idleUp) (fun t =>
    t.pwr.healthy && t.pwr.ob.events == [(0xA, 4, 0)]) = true := by decide +kernel

/-- An empty queue idles; the command at the front runs and leaves. -/
theorem test_step : after (step State.reset) (fun t => t == State.reset) = true ∧
    after (step { idleUp with pending := [.idcode, .bypass] }) (fun t => t.pending == [.bypass] && t.sec.ir == .idcode) = true := by
  decide +kernel

end Sys2Proof.Tests
end

section
/-! The tallies of a running core: what SETT and LOOP do as commands of their own (R248, R250, R275). -/

namespace Sys2Proof.Machine

/-! ### What a LOOP does, by the tally it names -/

/-- A LOOP on a tally that ATOM data stands in is refused with code 2 and does not branch (R250). -/
theorem Core.seqLoop_data (k : Core) {arg : Nat} (hr : bits arg 22 12 = 0)
    (hd : (k.tally (bits arg 26 23)).data = true) : k.seqLoop arg = (k.seqRefuse 2 4, none) := by
  simp [Core.seqLoop, hr, hd]

/-- A LOOP on a counter that has run out falls through. -/
theorem Core.seqLoop_zero (k : Core) {arg : Nat} (hr : bits arg 22 12 = 0)
    (hd : (k.tally (bits arg 26 23)).data = false) (hv : (k.tally (bits arg 26 23)).val = 0) :
    k.seqLoop arg = (k, none) := by
  simp [Core.seqLoop, hr, hd, hv]

/-- A LOOP on a counter that has not run out counts it down and names its TARGET. -/
theorem Core.seqLoop_taken (k : Core) {arg : Nat} (hr : bits arg 22 12 = 0)
    (hd : (k.tally (bits arg 26 23)).data = false) (hv : (k.tally (bits arg 26 23)).val ≠ 0) :
    k.seqLoop arg =
      (k.setTally (bits arg 26 23) ⟨(k.tally (bits arg 26 23)).val - 1, false⟩, some (bits arg 11 0)) := by
  simpa [Core.seqLoop, hr, hd] using hv

theorem Core.loopSlot_of_not_taken {k l : Core} {arg : Nat} (h : k.seqLoop arg = (l, none)) (r : Nat) :
    k.loopSlot r arg = l := by
  simp [Core.loopSlot, h]

/-- The bundle of a branch is due once GAP, of the bundle the core was at, has passed (R250). -/
theorem Core.loopSlot_taken (k : Core) {arg : Nat} (hr : bits arg 22 12 = 0)
    (hd : (k.tally (bits arg 26 23)).data = false) (hv : (k.tally (bits arg 26 23)).val ≠ 0) (r : Nat) :
    k.loopSlot r arg = { k with seq := { k.seq with
      tallies := k.seq.tallies.set (bits arg 26 23) ⟨(k.tally (bits arg 26 23)).val - 1, false⟩
      bundle := bits arg 11 0
      rep := 0
      nextAt := some (r + 1 + k.gap)
      stalled := false } } := by
  rw [Core.loopSlot, k.seqLoop_taken hr hd hv]
  rfl

/-! ### The two commands on a core that runs -/

theorem exec_sett_runs (s : State) {c : Fin 128} (h : s.coreRuns c) (arg : BitVec 27) :
    exec (.sett c arg) s = .next (s.withCore c ((s.coreNow c).seqSett arg.toNat)) :=
  congrArg Host.Outcome.next (s.slotIn_runs h fun _ k => k.seqSett arg.toNat)

theorem exec_loop_runs (s : State) {c : Fin 128} (h : s.coreRuns c) (arg : BitVec 27) :
    exec (.loop c arg) s = .next (s.withCore c ((s.coreNow c).loopSlot s.plane.now arg.toNat)) :=
  congrArg Host.Outcome.next (s.slotIn_runs h fun r k => k.loopSlot r arg.toNat)

/-- Settles O3: on a core that runs a slot replaces its core and nothing else, and a LOOP has three cases, by the DATA bit
and the value of its tally. -/
theorem tallySlots : Obligations.TallySlots := by
  intro s c arg hruns k i
  refine ⟨exec_sett_runs s hruns arg, fun hres => ?_⟩
  rw [exec_loop_runs s hruns]
  refine ⟨fun hdata hzero => ?fallsThrough, fun hdata hpos => ?taken, fun hdata => ?refused⟩
  case fallsThrough => rw [Core.loopSlot_of_not_taken (k.seqLoop_zero hres hdata hzero)]
  case taken => rw [k.loopSlot_taken hres hdata hpos]
  case refused => rw [Core.loopSlot_of_not_taken (k.seqLoop_data hres hdata)]

end Sys2Proof.Machine
end

section
/-! The flow of host commands: an entry that is fetched, a command that starts and ends, and the record of its completion
(R355, R455 to R458, R461, R464). -/

namespace Sys2Proof.Machine

/-! ### The first element of a list that meets a condition -/

theorem takeFirst_cons_of_pos {α : Type} {p : α → Bool} {x : α} (t : List α) (hx : p x = true) :
    takeFirst p (x :: t) = some (x, t) := by
  simp [takeFirst, hx]

theorem takeFirst_append_singleton {α : Type} {p : α → Bool} {x : α} (hx : p x = true) :
    ∀ {t : List α}, (∀ y ∈ t, p y = false) → takeFirst p (t ++ [x]) = some (x, t)
  | [], _ => takeFirst_cons_of_pos [] hx
  | y :: t, h => by
    have hy : p y = false := h y (by simp)
    have ht := takeFirst_append_singleton hx (t := t) fun z hz => h z (by simp [hz])
    simp [takeFirst, hy, ht]

theorem takeFirst_eq_none {α : Type} {p : α → Bool} : ∀ {t : List α}, (∀ y ∈ t, p y = false) → takeFirst p t = none
  | [], _ => rfl
  | y :: t, h => by
    have hy : p y = false := h y (by simp)
    have ht := takeFirst_eq_none (t := t) fun z hz => h z (by simp [hz])
    simp [takeFirst, hy, ht]

/-! ### A command completes (R456) -/

/-- The records that the end of a command leaves to be written: none of a silent command, of a QUIET one with OK, or of one
whose completion ring its function does not have. -/
def HostSt.endRecords (h : HostSt) (c : HostCmd) (status detail r0 r1 : Nat) : List Record :=
  if c.silent ∨ (c.quiet ∧ status = 0) then []
  else ((h.global (h.owner c.sq) (h.ring c.sq).cq).map fun q =>
    (⟨q, c.cid, h.relative c.sq, some c.sq, status, detail, r0, r1⟩ : Record)).toList

theorem HostSt.endRecords_of_global {h : HostSt} {c : HostCmd} {status q : Nat} (hs : c.silent = false)
    (hq : c.quiet = false ∨ status ≠ 0) (hg : h.global (h.owner c.sq) (h.ring c.sq).cq = some q) (detail r0 r1 : Nat) :
    h.endRecords c status detail r0 r1 = [⟨q, c.cid, h.relative c.sq, some c.sq, status, detail, r0, r1⟩] := by
  have hloud : ¬ (c.silent = true ∨ (c.quiet = true ∧ status = 0)) := by
    rcases hq with hq | hq <;> simp [hs, hq]
  simp [HostSt.endRecords, hloud, hg]

theorem HostSt.endRecords_quiet (h : HostSt) {c : HostCmd} (hq : c.quiet = true) (detail r0 r1 : Nat) :
    h.endRecords c 0 detail r0 r1 = [] := by
  simp [HostSt.endRecords, hq]

/-- The command that ends leaves the commands, and what it owes joins the records that wait. -/
theorem HostSt.complete_of_takeFirst {h : HostSt} {id : Nat} {c : HostCmd} {rest : List HostCmd}
    (ht : takeFirst (fun c => c.id == id) h.cmds = some (c, rest)) (status detail r0 r1 : Nat) :
    h.complete id status detail r0 r1 =
      { h with cmds := rest, records := h.records ++ h.endRecords c status detail r0 r1 } := by
  simp only [HostSt.complete, ht, HostSt.endRecords]
  split
  · simp
  · cases h.global (h.owner c.sq) (h.ring c.sq).cq <;> simp

/-- A command that is alone leaves none behind. -/
theorem HostSt.complete_alone {h : HostSt} {c : HostCmd} (hc : h.cmds = [c]) (status detail r0 r1 : Nat) :
    h.complete c.id status detail r0 r1 =
      { h with cmds := [], records := h.records ++ h.endRecords c status detail r0 r1 } :=
  h.complete_of_takeFirst (by rw [hc]; exact takeFirst_cons_of_pos [] (beq_self_eq_true c.id)) status detail r0 r1

/-! ### The newest command starts (R455, R461)

`ds` are the commands that were fetched before it, all of which have started. -/

theorem HostSt.startOne_of_started (h : HostSt) (env : HostEnv) {c : HostCmd} (hs : c.started = true) :
    h.startOne env c = h := by
  simp [HostSt.startOne, hs]

theorem HostSt.startAll_of_no_cmds {h : HostSt} (hc : h.cmds = []) (env : HostEnv) : h.startAll env = h := by
  simp [HostSt.startAll, hc]

theorem HostSt.foldl_startOne_of_started (h : HostSt) (env : HostEnv) :
    ∀ {ds : List HostCmd}, (∀ d ∈ ds, d.started = true) → ds.foldl (fun (h : HostSt) c => h.startOne env c) h = h
  | [], _ => rfl
  | d :: ds, hds => by
    rw [List.foldl_cons, h.startOne_of_started env (hds d (by simp))]
    exact h.foldl_startOne_of_started env fun e he => hds e (by simp [he])

/-- The command, started. -/
def HostCmd.begun (c : HostCmd) : HostCmd := { c with started := true }

/-- The host interface with the commands as given. -/
def HostSt.withCmds (h : HostSt) (cmds : List HostCmd) : HostSt := { h with cmds := cmds }

/-- RESULT0 of an image command refused with BUSY: the code and no section for a load, 0 for the others (R355, R459). -/
def busyResult (op : Nat) : Nat := if op = 0x10 ∨ op = 0x11 then fld 0x16 8 56 + fld 0xFFF 12 44 else 0

section Newest

variable {h : HostSt} {ds : List HostCmd} {c : HostCmd}

theorem HostSt.startAll_newest (hc : h.cmds = ds ++ [c]) (hds : ∀ d ∈ ds, d.started = true) (env : HostEnv) :
    h.startAll env = h.startOne env c := by
  rw [HostSt.startAll, hc, List.foldl_append, h.foldl_startOne_of_started env hds]
  rfl

theorem HostSt.mayStart_newest (hc : h.cmds = ds ++ [c]) (hds : ∀ d ∈ ds, d.started = true)
    (ho : c.order = false ∨ ds = []) : h.mayStart c = true := by
  rcases ho with ho | rfl
  · simp only [HostSt.mayStart, hc, List.all_append, Bool.and_eq_true, List.all_eq_true]
    exact ⟨fun d hd => by simp [hds d hd, ho], by simp⟩
  · simp [HostSt.mayStart, hc]

theorem map_begun_newest (hid : ∀ d ∈ ds, d.id ≠ c.id) :
    ((ds ++ [c]).map fun d => if d.id = c.id then d.begun else d) = ds ++ [c.begun] := by
  have hds : (ds.map fun d => if d.id = c.id then d.begun else d) = ds :=
    (List.map_congr_left fun d hd => if_neg (hid d hd)).trans ds.map_id
  simp [hds]

/-- What a start makes of the newest command: refused by a check, refused with BUSY, or begun. -/
theorem HostSt.startOne_newest (hc : h.cmds = ds ++ [c]) (hid : ∀ d ∈ ds, d.id ≠ c.id) (hs : c.started = false)
    (hm : h.mayStart c = true) (env : HostEnv) :
    h.startOne env c =
      if h.judge env c ≠ 0 then (h.withCmds (ds ++ [c.begun])).complete c.id (h.judge env c) 0 0 0
      else if h.meetsImage c then
        { (h.withCmds (ds ++ [c.begun])).complete c.id 1 0x16 (busyResult c.op) 0 with
          busyNote := h.busyNote || loadStatOp c.op }
      else h.withCmds (ds ++ [c.begun]) := by
  have hgo : ¬ (c.started = true ∨ (!h.mayStart c) = true) := by simp [hs, hm]
  rw [← map_begun_newest hid, ← hc]
  exact if_neg hgo

/-- A command that passes its checks and meets no image command has started. -/
theorem HostSt.startOne_passes (hc : h.cmds = ds ++ [c]) (hid : ∀ d ∈ ds, d.id ≠ c.id) (hs : c.started = false)
    (hm : h.mayStart c = true) {env : HostEnv} (hj : h.judge env c = 0) (hi : h.meetsImage c = false) :
    h.startOne env c = h.withCmds (ds ++ [c.begun]) := by
  simp [h.startOne_newest hc hid hs hm, hj, hi]

/-- An image command that meets another which executes ends with BUSY, and the note for IMG_LOAD_STAT is made. -/
theorem HostSt.startOne_meets (hc : h.cmds = ds ++ [c]) (hid : ∀ d ∈ ds, d.id ≠ c.id) (hs : c.started = false)
    (hm : h.mayStart c = true) {env : HostEnv} (hj : h.judge env c = 0) (hi : h.meetsImage c = true) :
    h.startOne env c =
      { h with cmds := ds, records := h.records ++ h.endRecords c 1 0x16 (busyResult c.op) 0,
               busyNote := h.busyNote || loadStatOp c.op } := by
  have ht : takeFirst (fun d => d.id == c.id) (ds ++ [c.begun]) = some (c.begun, ds) :=
    takeFirst_append_singleton (p := fun d => d.id == c.id) (x := c.begun) (beq_self_eq_true c.id) fun d hd =>
      beq_false_of_ne (hid d hd)
  rw [h.startOne_newest hc hid hs hm, if_neg (not_not.mpr hj), if_pos hi,
    HostSt.complete_of_takeFirst (h := h.withCmds (ds ++ [c.begun])) ht]
  rfl

end Newest

theorem HostSt.meetsImage_alone {h : HostSt} {c : HostCmd} (hc : h.cmds = [c]) : h.meetsImage c = false := by
  simp [HostSt.meetsImage, hc]

theorem HostSt.meetsImage_of_mem {h : HostSt} {c d : HostCmd} (hd : d ∈ h.cmds) (hid : d.id ≠ c.id)
    (hs : d.started = true) (hdo : imageOp d.op = true) (hco : imageOp c.op = true) : h.meetsImage c = true := by
  simp only [HostSt.meetsImage, hco, Bool.true_and, List.any_eq_true]
  exact ⟨d, hd, by simp [hid, hs, hdo]⟩

/-! ### Fields of an entry -/

theorem bits_eq_zero_iff (x hi lo : Nat) : bits x hi lo = 0 ↔ ∀ i, lo ≤ i → i ≤ hi → bit x i = false := by
  rw [bits, Nat.eq_iff_testBit_eq]
  simp only [Nat.testBit_mod_two_pow, Nat.testBit_shiftRight, Nat.zero_testBit, Bool.and_eq_false_iff,
    decide_eq_false_iff_not, bit]
  constructor
  · intro h i hlo hhi
    have hi' := h (i - lo)
    rw [Nat.add_sub_cancel' hlo] at hi'
    exact hi'.resolve_left (by omega)
  · intro h i
    by_cases hi' : i < hi + 1 - lo
    · exact .inr (h (lo + i) (by omega) (by omega))
    · exact .inl hi'

/-! ### An entry is fetched (R455, R457, R458) -/

/-- The ring fetched from is one that the device may fetch from. -/
theorem HostSt.fetchable_of_nextSq {h : HostSt} {g : Nat} (hg : h.nextSq = some g) : h.fetchable g = true := by
  unfold HostSt.nextSq at hg
  dsimp only at hg
  have live : ∀ {p : Nat → Bool}, g ∈ ((h.rings.map (·.1)).filter h.fetchable).filter p → h.fetchable g = true :=
    fun hm => (List.mem_filter.mp (List.mem_filter.mp hm).1).2
  split at hg
  · next hf =>
    split at hg
    · exact live (List.mem_of_mem_head? hg)
    · exact live (Option.some.inj hg ▸ List.mem_of_find?_eq_some hf)
  · exact live (List.mem_of_mem_head? hg)

/-- No record waits for the completion ring of a ring that may be fetched from, while that ring is full. -/
theorem HostSt.not_full_of_fetchable {h : HostSt} {g k : Nat} (hf : h.fetchable g = true)
    (hk : h.global (h.owner g) (h.ring g).cq = some k) {x : Record} (hx : x ∈ h.records) (hxk : x.cq = k) :
    ¬ ((h.ring k).cqEn = true ∧ (h.ring k).cqFull = true) := by
  subst hxk
  simp only [HostSt.fetchable, Bool.and_eq_true, Bool.not_eq_true', List.any_eq_false] at hf
  obtain ⟨-, hnone⟩ := hf
  rintro ⟨hen, hfull⟩
  exact hnone x hx (by simp [hk, hen, hfull])

/-- An entry has a reserved bit of W0 set (R458). -/
def reservedSet (entry : Bytes) : Prop := bits (leAt entry 0 8) 63 32 ≠ 0 ∨ bits (leAt entry 0 8) 15 10 ≠ 0

theorem not_reservedSet {entry : Bytes} (hhigh : bits (leAt entry 0 8) 63 32 = 0) (hlow : bits (leAt entry 0 8) 15 10 = 0) :
    ¬ reservedSet entry := by
  simp [reservedSet, hhigh, hlow]

/-- The command that an entry of ring `g` holds. -/
def HostSt.entryCmd (h : HostSt) (g : Nat) (entry : Bytes) : HostCmd :=
  let w0 := leAt entry 0 8
  { id := h.nextId, fn := h.owner g, sq := g, cid := bits w0 31 16, quiet := bit w0 9, order := bit w0 8, op := bits w0 7 0,
    w := (List.range 7).map fun i => leAt entry (8 + 8 * i) 8, started := false, waits := false, silent := false }

/-- The host interface once an entry of ring `g` has been taken: HEAD has moved on by one, and the commands are as given. -/
def HostSt.taken (h : HostSt) (g : Nat) (cmds : List HostCmd) : HostSt :=
  { h.onRing g fun r => { r with head := (r.head + 1) % ringSize r.sqLog } with
    nextId := h.nextId + 1
    rr := h.rr.set (h.ring g).cls g
    cmds := cmds }

@[simp] theorem HostSt.taken_cmds (h : HostSt) (g : Nat) (cmds : List HostCmd) : (h.taken g cmds).cmds = cmds := rfl
@[simp] theorem HostSt.taken_ring_self (h : HostSt) (g : Nat) (cmds : List HostCmd) :
    (h.taken g cmds).ring g = { h.ring g with head := ((h.ring g).head + 1) % ringSize (h.ring g).sqLog } :=
  h.ring_onRing_self g fun r => { r with head := (r.head + 1) % ringSize r.sqLog }

/-- The checks see neither rings nor commands. -/
theorem HostSt.judge_taken (h : HostSt) (g : Nat) (cmds : List HostCmd) (env : HostEnv) (c : HostCmd) :
    (h.taken g cmds).judge env c = h.judge env c := rfl

/-- What an entry's command owes at its end is the same before and after the entry has been taken. -/
theorem HostSt.endRecords_taken (h : HostSt) (g : Nat) (cmds : List HostCmd) (entry : Bytes) (status detail r0 r1 : Nat) :
    (h.taken g cmds).endRecords (h.entryCmd g entry) status detail r0 r1 =
      h.endRecords (h.entryCmd g entry) status detail r0 r1 := by
  have hcq : ((h.taken g cmds).ring (h.entryCmd g entry).sq).cq = (h.ring (h.entryCmd g entry).sq).cq :=
    (congrArg Ring.cq (h.taken_ring_self g cmds) :)
  simp only [HostSt.endRecords, hcq]
  rfl

section Fetch

variable {h : HostSt} {g : Nat} {entry : Bytes}

/-- An entry with reserved bits set ends with status 2. -/
theorem HostSt.fetch_reserved (hg : h.nextSq = some g) (hr : reservedSet entry) (env : HostEnv) :
    h.fetch env entry = (h.taken g (h.cmds ++ [h.entryCmd g entry])).complete (h.entryCmd g entry).id 2 0 0 0 := by
  simp only [HostSt.fetch, hg]
  exact if_pos hr

/-- An entry without reserved bits starts when it may. -/
theorem HostSt.fetch_valid (hg : h.nextSq = some g) (hr : ¬ reservedSet entry) (env : HostEnv) :
    h.fetch env entry = (h.taken g (h.cmds ++ [h.entryCmd g entry])).startAll env := by
  simp only [HostSt.fetch, hg]
  exact if_neg hr

/-- An entry that passes its checks, alone, has started. -/
theorem HostSt.fetch_alone_passes (hg : h.nextSq = some g) (hc : h.cmds = []) (hr : ¬ reservedSet entry)
    {env : HostEnv} (hj : h.judge env (h.entryCmd g entry) = 0) :
    h.fetch env entry = h.taken g [(h.entryCmd g entry).begun] := by
  have hcmds : (h.taken g (h.cmds ++ [h.entryCmd g entry])).cmds = [] ++ [h.entryCmd g entry] := by rw [hc]; rfl
  rw [HostSt.fetch_valid hg hr, HostSt.startAll_newest hcmds (by simp),
    HostSt.startOne_passes hcmds (by simp) rfl (HostSt.mayStart_newest hcmds (by simp) (.inr rfl))
      ((h.judge_taken ..).trans hj) (HostSt.meetsImage_alone hcmds)]
  rfl

/-- An entry with reserved bits, alone, leaves its record and no command. -/
theorem HostSt.fetch_alone_reserved (hg : h.nextSq = some g) (hc : h.cmds = []) (hr : reservedSet entry)
    (env : HostEnv) :
    h.fetch env entry =
      { h.taken g [] with records := h.records ++ h.endRecords (h.entryCmd g entry) 2 0 0 0 } := by
  rw [HostSt.fetch_reserved hg hr, hc, List.nil_append, HostSt.complete_alone rfl,
    HostSt.endRecords_taken]
  rfl

/-- An image command that is fetched while another one executes ends with BUSY. -/
theorem HostSt.fetch_busy {d : HostCmd} (hg : h.nextSq = some g) (hc : h.cmds = [d]) (hs : d.started = true)
    (hd : imageOp d.op = true) (hid : d.id ≠ h.nextId) (hr : ¬ reservedSet entry)
    (ho : (h.entryCmd g entry).order = false) (hi : imageOp (h.entryCmd g entry).op = true) {env : HostEnv}
    (hj : h.judge env (h.entryCmd g entry) = 0) :
    h.fetch env entry =
      { h.taken g [d] with
        records := h.records ++ h.endRecords (h.entryCmd g entry) 1 0x16 (busyResult (h.entryCmd g entry).op) 0
        busyNote := h.busyNote || loadStatOp (h.entryCmd g entry).op } := by
  have hcmds : (h.taken g (h.cmds ++ [h.entryCmd g entry])).cmds = [d] ++ [h.entryCmd g entry] := by rw [hc]; rfl
  have hstarted : ∀ e ∈ [d], e.started = true := List.forall_mem_singleton.mpr hs
  have hids : ∀ e ∈ [d], e.id ≠ (h.entryCmd g entry).id := List.forall_mem_singleton.mpr hid
  have hmeet : (h.taken g (h.cmds ++ [h.entryCmd g entry])).meetsImage (h.entryCmd g entry) = true :=
    HostSt.meetsImage_of_mem (by simp [hc]) hid hs hd hi
  rw [HostSt.fetch_valid hg hr, HostSt.startAll_newest hcmds hstarted,
    HostSt.startOne_meets hcmds hids rfl (HostSt.mayStart_newest hcmds hstarted (.inl ho))
      ((h.judge_taken ..).trans hj) hmeet, HostSt.endRecords_taken]
  rfl

end Fetch

/-! ### A record is written (R456, R457, R463) -/

/-- A completion ring once a record has been written at its TAIL: PHASE turns round where TAIL comes back to 0. -/
def Ring.recorded (r : Ring) : Ring :=
  let t := (r.cqTail + 1) % ringSize r.cqLog
  { r with cqTail := t, phase := if t = 0 then !r.phase else r.phase, unsignalled := r.unsignalled + 1 }

section Records

variable {h : HostSt} {x : Record} {rest : List Record}

theorem HostSt.writeRecord_of_room (hr : h.records = x :: rest) (hen : (h.ring x.cq).cqEn = true)
    (hroom : (h.ring x.cq).cqFull = false) : h.writeRecord = ({ h with records := rest } : HostSt).put x := by
  simp [HostSt.writeRecord, hr, takeFirst, hen, hroom]

/-- A record for a ring that is not enabled is dropped and counted. -/
theorem HostSt.writeRecord_of_disabled (hr : h.records = x :: rest) (hen : (h.ring x.cq).cqEn = false) :
    h.writeRecord =
      ({ h with records := rest } : HostSt).onErr (h.owner x.cq) fun e => { e with cqDrop := satAdd 16 e.cqDrop 1 } := by
  simp [HostSt.writeRecord, hr, takeFirst, hen]

/-- Records whose rings are full wait. -/
theorem HostSt.writeRecord_of_full
    (hr : ∀ x ∈ h.records, (h.ring x.cq).cqEn = true ∧ (h.ring x.cq).cqFull = true) : h.writeRecord = h := by
  have hn : takeFirst (fun (x : Record) => !(h.ring x.cq).cqEn || !(h.ring x.cq).cqFull) h.records = none :=
    takeFirst_eq_none fun x hx => by simp [hr x hx]
  simp only [HostSt.writeRecord, hn]

theorem HostSt.put_of_no_irq (hirq : (h.ring x.cq).irqEn = false) :
    h.put x = ({ h with out := h.out ++ [.write (h.owner x.cq)
      ((h.ring x.cq).cqBase.toNat * 64 + 32 * (h.ring x.cq).cqTail) (h.recordBytes x (h.ring x.cq).phase)] } : HostSt).onRing
        x.cq Ring.recorded := by
  simp only [HostSt.put, hirq, Bool.false_eq_true, false_and, if_false]
  rfl

end Records

/-! ### The commands of the module -/

theorem State.noteBusy_eq (s : State) :
    s.noteBusy = { s with
      host := { s.host with busyNote := false }
      img := if s.host.busyNote then { s.img with code := 0x16, section_ := 0xFFF, detail := 0 } else s.img } := by
  unfold State.noteBusy
  split
  · rfl
  · next hb => simp [← Bool.eq_false_iff.mpr hb]

theorem State.noteBusy_of_false {s : State} (h : s.host.busyNote = false) : s.noteBusy = s := by
  simp [State.noteBusy, h]

theorem exec_sqFetch_of_on {s : State} {entry : Bytes} {h : HostSt} (hon : s.on = true)
    (hf : s.host.fetch s.hostEnv entry = h) :
    exec (.sqFetch entry) s = .next ({ s with host := h } : State).noteBusy :=
  congrArg Host.Outcome.next ((if_pos hon).trans (by rw [hf]))

theorem exec_sqFetch_of_no_busy {s : State} {entry : Bytes} {h : HostSt} (hon : s.on = true)
    (hf : s.host.fetch s.hostEnv entry = h) (hb : h.busyNote = false) :
    exec (.sqFetch entry) s = .next { s with host := h } := by
  rw [exec_sqFetch_of_on hon hf, State.noteBusy_of_false hb]

theorem exec_completionRecordWrite_of_on {s : State} (hon : s.on = true) :
    exec .completionRecordWrite s = .next { s with host := s.host.writeRecord } :=
  congrArg Host.Outcome.next (if_pos hon)

/-- A command that is alone leaves the commands, and nothing else starts. -/
theorem State.answer_alone {s : State} {c : HostCmd} (hc : s.host.cmds = [c]) (hb : s.host.busyNote = false)
    (status detail r0 r1 : Nat) :
    s.answer c.id status detail r0 r1 = { s with host := { s.host with
      cmds := [], records := s.host.records ++ s.host.endRecords c status detail r0 r1 } } := by
  rw [State.answer, HostSt.complete_alone hc, State.startAll, HostSt.startAll_of_no_cmds rfl]
  exact State.noteBusy_of_false hb

/-- COMPLETION_TIMEOUT of the one command, which reads host memory. -/
theorem exec_completionTimeout_alone {s : State} {c : HostCmd} (hc : s.host.cmds = [c]) (hs : c.started = true)
    (hw : c.waits = false) (hop : c.op ∈ [1, 4, 0x10, 0x17]) :
    exec (.completionTimeout c.id) s = .next (s.answer c.id 5 0 0 0) := by
  have hfind : s.host.cmds.find? (fun d => d.id == c.id && d.started && !d.waits && [1, 4, 0x10, 0x17].contains d.op) =
      some c := by
    rw [hc, List.find?_cons_of_pos]
    simpa [hs, hw] using hop
  simp only [exec, execCompletionTimeout, hfind]

/-- Settles O32: the cases of a fetched entry, of a command that ends and of a record that waits, each with its lemma on the
host interface. -/
theorem commandFlow : Obligations.CommandFlow := by
  intro s
  refine ⟨fun entry g hon hg hc hb => ⟨fun h1 h2 => ?passes, fun hres => ?reserved⟩,
    fun entry g d hon hg hc hs hb hd hid => ?busy,
    fun id c hc hid hs hw hop => ?timeout, fun c hc hb => ⟨?ends, ?endsQuiet, ?written⟩,
    fun x hon hx => ⟨fun hen hfull => ?waits, fun hen => ?dropped⟩, fun g k hg hk x hx hxk => ?notFetched⟩
  case passes =>
    intro host hj
    exact exec_sqFetch_of_no_busy hon (HostSt.fetch_alone_passes hg hc (not_reservedSet h1 h2) hj) hb
  case reserved =>
    refine ⟨_, exec_sqFetch_of_no_busy hon (HostSt.fetch_alone_reserved hg hc hres _) hb, rfl, rfl, ?_, fun k hk => ?_⟩
    · exact congrArg Ring.head (s.host.taken_ring_self g [])
    · exact congrArg (s.host.records ++ ·) (HostSt.endRecords_of_global rfl (.inr (by decide)) hk 0 0 0)
  case busy =>
    intro w0 c h1 h2 hi hj
    have hlow := (bits_eq_zero_iff _ _ _).mp h2
    have hres : bits w0 15 10 = 0 := (bits_eq_zero_iff _ _ _).mpr fun i hlo => hlow i (by omega)
    have hop : (s.host.entryCmd g entry).op = c.op := rfl
    have hfetch := HostSt.fetch_busy hg hc hs hd hid (not_reservedSet h1 hres)
      (hlow 8 (by omega) (by omega)) hi hj
    rw [exec_sqFetch_of_on hon hfetch, State.noteBusy_eq, hb, hop, Bool.false_or]
    refine ⟨_, rfl, rfl, fun k hk => ?_, rfl⟩
    exact congrArg (s.host.records ++ ·) (HostSt.endRecords_of_global rfl (.inr (by decide)) hk _ _ _)
  case timeout => exact hid ▸ exec_completionTimeout_alone hc hs hw (by simpa using hop)
  case ends =>
    intro status detail r0 r1 q hsil hq hk
    rw [State.answer_alone hc hb, HostSt.endRecords_of_global hsil hq hk]
  case endsQuiet =>
    intro detail r0 r1 hq
    rw [State.answer_alone hc hb, s.host.endRecords_quiet hq, List.append_nil]
  case written =>
    intro x hon hx hen hroom hirq
    rw [exec_completionRecordWrite_of_on hon, HostSt.writeRecord_of_room hx hen hroom,
      HostSt.put_of_no_irq (h := { s.host with records := [] }) hirq]
    exact ⟨_, rfl, rfl, rfl, hc, rfl, HostSt.ring_onRing_self _ _ _, fun g hg => HostSt.ring_onRing_ne _ _ hg⟩
  case waits =>
    rw [exec_completionRecordWrite_of_on hon, HostSt.writeRecord_of_full]
    simpa [hx, Ring.cqFull] using ⟨hen, hfull⟩
  case dropped => rw [exec_completionRecordWrite_of_on hon, HostSt.writeRecord_of_disabled hx hen]
  case notFetched =>
    simpa [Ring.cqFull] using HostSt.not_full_of_fetchable (HostSt.fetchable_of_nextSq hg) hk hx hxk

end Sys2Proof.Machine
end

section
/-! Interrupts: the running priority of a control core, the core a source is offered to and the source offered to a core,
and what a take, a claim and a completion make of it (R484, R488 to R493). -/

namespace Sys2Proof.Machine

/-! ### The lockstep pair (R473) -/

@[simp] theorem pairCore_pairCore (c : Nat) : pairCore (pairCore c) = pairCore c := by
  unfold pairCore
  split <;> simp [*]

@[simp] theorem IcuSt.core_pairCore (i : IcuSt) (c : Nat) : i.core (pairCore c) = i.core c := by
  simp [IcuSt.core]

@[simp] theorem IcuSt.onCore_pairCore (i : IcuSt) (c : Nat) (f : CtlCore → CtlCore) : i.onCore (pairCore c) f = i.onCore c f := by
  simp [IcuSt.onCore]

/-! ### The running priority (R488) -/

/-- The priorities that a core holds: GRANT_PRI of the sources active on it. -/
def IcuSt.heldPris (i : IcuSt) (c : Nat) : List Nat :=
  (i.srcs.filter fun p => p.2.active && p.2.owner == c).map (·.2.grantPri)

theorem IcuSt.mem_heldPris {i : IcuSt} {c p : Nat} :
    p ∈ i.heldPris c ↔ ∃ x ∈ i.srcs, x.2.active = true ∧ x.2.owner = c ∧ x.2.grantPri = p := by
  simp [IcuSt.heldPris, and_assoc]

/-- The running priority is the largest of the threshold and of the priorities the core holds. -/
theorem IcuSt.running_eq_max (i : IcuSt) (c : Nat) :
    ((i.core c).threshold.toNat :: i.heldPris c).max? = some (i.running c) := by
  rw [List.max?_cons', IcuSt.heldPris, List.foldl_map]
  rfl

theorem IcuSt.running_mem (i : IcuSt) (c : Nat) :
    i.running c = (i.core c).threshold.toNat ∨ i.running c ∈ i.heldPris c :=
  List.mem_cons.mp (List.max?_eq_some_iff.mp (i.running_eq_max c)).1

theorem IcuSt.threshold_le_running (i : IcuSt) (c : Nat) : (i.core c).threshold.toNat ≤ i.running c :=
  (List.max?_eq_some_iff.mp (i.running_eq_max c)).2 _ List.mem_cons_self

theorem IcuSt.le_running_of_held {i : IcuSt} {c p : Nat} (h : p ∈ i.heldPris c) : p ≤ i.running c :=
  (List.max?_eq_some_iff.mp (i.running_eq_max c)).2 _ (List.mem_cons_of_mem _ h)

/-! ### The core a source is offered to (R484, R489) -/

theorem mem_maskCores {m : BitVec 20} {d : Nat} : d ∈ maskCores m ↔ d < 20 ∧ d ≠ 1 ∧ m.getLsbD d = true := by
  simp [maskCores]

theorem IcuSt.eligible_iff {i : IcuSt} {d p : Nat} : i.eligible d p = true ↔ i.running d < p ∧
    (if (i.core d).machine then (i.core d).meie else (i.core d).seie) = true ∧ d ∉ i.lostCores := by
  simp only [IcuSt.eligible, Bool.and_eq_true, decide_eq_true_eq, Bool.not_eq_true', List.contains_eq_mem,
    decide_eq_false_iff_not, and_assoc]
  exact ⟨fun ⟨hr, _, he, hl⟩ => ⟨hr, he, hl⟩, fun ⟨hr, he, hl⟩ => ⟨hr, by omega, he, hl⟩⟩

/-- The cores of a source's mask that are eligible for its priority, in the order of their numbers. -/
def IcuSt.candidates (i : IcuSt) (n : Nat) : List Nat :=
  (maskCores (i.src n).target).filter fun d => i.eligible d (i.src n).prio.toNat

theorem IcuSt.mem_candidates {i : IcuSt} {n d : Nat} : d ∈ i.candidates n ↔
    (d < 20 ∧ d ≠ 1 ∧ (i.src n).target.getLsbD d = true) ∧ i.running d < (i.src n).prio.toNat ∧
      (if (i.core d).machine then (i.core d).meie else (i.core d).seie) = true ∧ d ∉ i.lostCores := by
  rw [IcuSt.candidates, List.mem_filter, mem_maskCores, IcuSt.eligible_iff]

theorem IcuSt.sortedLT_candidates (i : IcuSt) (n : Nat) : (i.candidates n).SortedLT :=
  (((List.sortedLT_range 20).pairwise.filter _).filter _).sortedLT

/-- A pending source that is not active is offered to the first of its candidates with the lowest running priority. -/
theorem IcuSt.offeredTo_eq_argmin {i : IcuSt} {n : Nat} (hp : (i.src n).pending = true) (ha : (i.src n).active = false) :
    i.offeredTo n = (i.candidates n).argmin i.running := by
  simp only [IcuSt.offeredTo, hp, ha, Bool.not_true, Bool.or_false, Bool.false_eq_true, if_false]
  refine congrArg (fun f => List.foldl f none (i.candidates n)) (funext₂ fun b c => ?_)
  cases b <;> rfl

theorem IcuSt.pending_of_offeredTo {i : IcuSt} {n c : Nat} (h : i.offeredTo n = some c) :
    (i.src n).pending = true ∧ (i.src n).active = false := by
  simp only [IcuSt.offeredTo] at h
  split at h
  · cases h
  · next hin => simpa using hin

theorem IcuSt.offeredTo_mem {i : IcuSt} {n c : Nat} (h : i.offeredTo n = some c) : c ∈ i.candidates n := by
  obtain ⟨hp, ha⟩ := IcuSt.pending_of_offeredTo h
  exact List.argmin_mem ((IcuSt.offeredTo_eq_argmin hp ha).symm.trans h)

theorem IcuSt.offeredTo_of_no_candidates {i : IcuSt} {n : Nat} (h : ∀ d, d ∉ i.candidates n) : i.offeredTo n = none :=
  Option.eq_none_iff_forall_ne_some.mpr fun c hc => h c (IcuSt.offeredTo_mem hc)

/-- In a rising list the earlier of two elements is the smaller. -/
theorem le_of_idxOf_le {l : List Nat} (hl : l.SortedLT) {a b : Nat} (ha : a ∈ l) (hb : b ∈ l)
    (h : l.idxOf a ≤ l.idxOf b) : a ≤ b := by
  have hle := hl.getElem_le_getElem_iff (hi := List.idxOf_lt_length_iff.mpr ha) (hj := List.idxOf_lt_length_iff.mpr hb)
  rw [List.getElem_idxOf, List.getElem_idxOf] at hle
  exact hle.mpr h

/-- With a candidate the source is offered, to the candidate that no other precedes by running priority and number. -/
theorem IcuSt.offeredTo_best {i : IcuSt} {n d : Nat} (hp : (i.src n).pending = true) (ha : (i.src n).active = false)
    (hd : d ∈ i.candidates n) : ∃ e, i.offeredTo n = some e ∧ e ∈ i.candidates n ∧
      (i.running e < i.running d ∨ (i.running e = i.running d ∧ e ≤ d)) := by
  have hne : (i.candidates n).argmin i.running ≠ none := fun h =>
    List.ne_nil_of_mem hd (List.argmin_eq_none.mp h)
  obtain ⟨e, he⟩ := Option.ne_none_iff_exists'.mp hne
  obtain ⟨hmem, hmin, hfirst⟩ := List.argmin_eq_some_iff.mp he
  refine ⟨e, (IcuSt.offeredTo_eq_argmin hp ha).trans he, hmem, ?_⟩
  rcases (hmin d hd).lt_or_eq with hlt | heq
  · exact .inl hlt
  · exact .inr ⟨heq, le_of_idxOf_le (i.sortedLT_candidates n) hmem hd (hfirst d hd heq.ge)⟩

/-! ### The source offered to a core (R489) -/

/-- A source that is pending is listed: at reset no source is. -/
theorem IcuSt.listed_of_pending {i : IcuSt} {n : Nat} (h : (i.src n).pending = true) : n ∈ i.srcs.map (·.1) := by
  rcases Tab.get_mem (IcuSrc.reset i.cpq n) i.srcs n with hmem | hreset
  · exact List.mem_map_of_mem (f := (·.1)) hmem
  · rw [IcuSt.src, hreset] at h
    cases h

/-- A core's offer is the first listed, of the sources offered to it, with the highest PRIORITY. -/
theorem IcuSt.offer_eq_argmax (i : IcuSt) (c : Nat) : i.offer c =
    ((i.srcs.map (·.1)).filter fun n => i.offeredTo n = some c).argmax fun n => (i.src n).prio.toNat := by
  rw [List.argmax, List.foldl_filter]
  refine congrArg (fun f => List.foldl f none (i.srcs.map (·.1))) (funext₂ fun b n => ?_)
  simp only [decide_eq_true_eq]
  cases b <;> rfl

theorem IcuSt.offeredTo_of_offer {i : IcuSt} {c n : Nat} (h : i.offer c = some n) : i.offeredTo n = some c := by
  rw [IcuSt.offer_eq_argmax] at h
  simpa using (List.mem_filter.mp (List.argmax_mem h)).2

theorem IcuSt.prio_le_of_offer {i : IcuSt} {c n m : Nat} (h : i.offer c = some n) (hm : i.offeredTo m = some c) :
    (i.src m).prio.toNat ≤ (i.src n).prio.toNat := by
  rw [IcuSt.offer_eq_argmax] at h
  have hlisted := IcuSt.listed_of_pending (IcuSt.pending_of_offeredTo hm).1
  exact List.le_of_mem_argmax (f := fun n => (i.src n).prio.toNat)
    (List.mem_filter.mpr ⟨hlisted, decide_eq_true hm⟩) h

/-! ### The trap of an external interrupt (R490; the cause values and the mode are those of log entry 9) -/

@[simp] theorem CtlCore.trapTo_pc (k : CtlCore) (at_ : BitVec 64) : (k.trapTo at_).pc = at_ := by
  unfold CtlCore.trapTo
  split <;> rfl

@[simp] theorem CtlCore.trapTo_state (k : CtlCore) (at_ : BitVec 64) : (k.trapTo at_).state = 1 := by
  unfold CtlCore.trapTo
  split <;> rfl

theorem CtlCore.trapTo_supervisor {k : CtlCore} (hd : k.deleg = true) (hm : k.machine = false) (at_ : BitVec 64) :
    k.trapTo at_ = { k with
      sepc := k.pc, scause := BitVec.ofNat 64 (2 ^ 63 + 9), sppS := true, pc := at_, state := 1 } := by
  simp [CtlCore.trapTo, hd, hm]

theorem CtlCore.trapTo_machine {k : CtlCore} (h : ¬ (k.deleg = true ∧ k.machine = false)) (at_ : BitVec 64) :
    k.trapTo at_ = { k with mepc := k.pc, mcause := BitVec.ofNat 64 (2 ^ 63 + 11), mppM := k.machine, machine := true,
                            pc := at_, state := 1 } :=
  if_neg (by simpa using h)

/-! ### Takes (R490) -/

/-- A source as it becomes ACTIVE on a core. -/
def IcuSrc.activeOn (x : IcuSrc) (c : Nat) : IcuSrc :=
  { x with active := true, pending := false, owner := c, grantPri := x.prio.toNat }

@[simp] theorem IcuSt.src_activate_self (i : IcuSt) (c n : Nat) : (i.activate c n).src n = (i.src n).activeOn c :=
  IcuSt.src_setSrc_self _ _ _

theorem IcuSt.src_activate_ne (i : IcuSt) (c : Nat) {n m : Nat} (h : m ≠ n) : (i.activate c n).src m = i.src m :=
  IcuSt.src_setSrc_ne _ _ h

@[simp] theorem IcuSt.activate_cores (i : IcuSt) (c n : Nat) : (i.activate c n).cores = i.cores := rfl
@[simp] theorem IcuSt.core_activate (i : IcuSt) (c n k : Nat) : (i.activate c n).core k = i.core k := rfl

section Take
variable {i : IcuSt} {c n : Nat}

theorem IcuSt.take_of_no_offer (ho : i.offer (pairCore c) = none) : i.take c = i := by
  simp [IcuSt.take, ho]

variable (hs : (i.core c).state = 1 ∨ (i.core c).state = 2) (ho : i.offer (pairCore c) = some n)
include hs ho

theorem IcuSt.take_vectored (hv : (i.core c).vectored.getLsbD (i.src n).prio.toNat = true) :
    i.take c = (i.activate (pairCore c) n).onCore c fun k =>
      { k.trapTo (BitVec.ofNat 64 (k.vbase.toNat + 8 * (i.src n).prio.toNat)) with jicuSrc := BitVec.ofNat 10 n } := by
  have hruns : ¬ ((i.core c).state ≠ 1 ∧ (i.core c).state ≠ 2) := by omega
  simp [IcuSt.take, hruns, ho, hv]

theorem IcuSt.take_shared (hv : (i.core c).vectored.getLsbD (i.src n).prio.toNat = false) :
    i.take c = i.onCore c fun k => k.trapTo (BitVec.ofNat 64 k.vbase.toNat) := by
  have hruns : ¬ ((i.core c).state ≠ 1 ∧ (i.core c).state ≠ 2) := by omega
  simp [IcuSt.take, hruns, ho, hv]

/-- On either kind of level the core takes the trap; only the address and JICU_SRC depend on the level. -/
theorem IcuSt.core_take_of_offer :
    ∃ at_ j, (i.take c).core c = { (i.core c).trapTo at_ with jicuSrc := j } := by
  cases hv : (i.core c).vectored.getLsbD (i.src n).prio.toNat with
  | true => exact ⟨_, _, by rw [IcuSt.take_vectored hs ho hv, IcuSt.core_onCore_self, IcuSt.core_activate]⟩
  | false => exact ⟨_, _, by rw [IcuSt.take_shared hs ho hv, IcuSt.core_onCore_self]⟩

end Take

/-! ### Claims and completions (R491, R492) -/

theorem IcuSt.claim_of_offer {i : IcuSt} {c n : Nat} (ho : i.offer (pairCore c) = some n) :
    i.claim c = (i.activate (pairCore c) n, n) := by
  simp [IcuSt.claim, ho]

theorem IcuSt.claim_of_no_offer {i : IcuSt} {c : Nat} (ho : i.offer (pairCore c) = none) :
    i.claim c = ({ i with spurious := satAdd 16 i.spurious 1 }, 0) := by
  simp [IcuSt.claim, ho]

/-- A management source that becomes pending counts nothing; one that newly is signals its vector (R485, R493). -/
theorem IcuSt.pend_of_mgmt {i : IcuSt} {n : Nat} (hd : srcData n = false) :
    i.pend n = { i.setSrc n { i.src n with pending := true } with
      msi := i.msi ++ if !(i.src n).pending && (i.src n).hostEn then [(i.src n).hostVec.toNat] else [] } := by
  cases hp : (i.src n).pending with
  | true => simp [IcuSt.pend, hp, hd, IcuSt.setSrc]
  | false => cases he : (i.src n).hostEn <;> simp [IcuSt.pend, hp, he, IcuSt.setSrc]

theorem IcuSt.src_pend_self {i : IcuSt} {n : Nat} (hd : srcData n = false) :
    (i.pend n).src n = { i.src n with pending := true } :=
  (congrArg (·.src n) (IcuSt.pend_of_mgmt hd)).trans (i.src_setSrc_self n _)

theorem IcuSt.src_pend_ne {i : IcuSt} {n m : Nat} (hd : srcData n = false) (h : m ≠ n) : (i.pend n).src m = i.src m :=
  (congrArg (·.src m) (IcuSt.pend_of_mgmt hd)).trans (i.src_setSrc_ne _ h)

/-- A source as its completion leaves it, before a management source samples its value. -/
def IcuSrc.ended (x : IcuSrc) : IcuSrc := { x with active := false, grantPri := 0, owner := 0 }

section Complete
variable {i : IcuSt} {c n : Nat}

theorem IcuSt.complete_by_owner (hm : (i.src n).active = true ∧ (i.src n).owner = pairCore c)
    (hq : srcData n = true ∨ (i.src n).sensed = false) : i.complete c n = i.setSrc n (i.src n).ended := by
  have hquiet : ¬ ((!srcData n) = true ∧ (i.src n).sensed = true) := by
    rcases hq with hd | hl <;> simp [*]
  rw [IcuSt.complete, if_pos hm, if_neg hquiet]
  rfl

theorem IcuSt.complete_by_owner_high (hm : (i.src n).active = true ∧ (i.src n).owner = pairCore c)
    (hd : srcData n = false) (hh : (i.src n).sensed = true) : i.complete c n = (i.setSrc n (i.src n).ended).pend n := by
  rw [IcuSt.complete, if_pos hm, if_pos (by simp [hd, hh])]
  rfl

theorem IcuSt.complete_by_other (hm : ¬ ((i.src n).active = true ∧ (i.src n).owner = pairCore c)) :
    i.complete c n = { i with badComplete := satAdd 16 i.badComplete 1 } :=
  if_neg hm

end Complete

/-! ### The commands of the module -/

@[simp] theorem State.onIcu_src (s : State) (f : IcuSt → IcuSt) (n : Nat) : (s.onIcu f).icu.src n = (f s.icu).src n := rfl
@[simp] theorem State.onIcu_core (s : State) (f : IcuSt → IcuSt) (c : Nat) : (s.onIcu f).icu.core c = (f s.icu).core c := rfl
@[simp] theorem State.onIcu_srcs (s : State) (f : IcuSt → IcuSt) : (s.onIcu f).icu.srcs = (f s.icu).srcs := rfl
@[simp] theorem State.onIcu_cores (s : State) (f : IcuSt → IcuSt) : (s.onIcu f).icu.cores = (f s.icu).cores := rfl

section Commands
variable {s : State} (hon : s.on = true) (k : Fin 20)
include hon

theorem exec_interruptTake_of_on : exec (.interruptTake k) s = .next (s.onIcu fun i => i.take k) :=
  congrArg Host.Outcome.next (if_pos hon)

theorem exec_icuCoreClaim_of_on {i : IcuSt} {n : Nat} (h : s.icu.claim k = (i, n)) :
    exec (.icuCoreClaim k) s = .next { s.onIcu (fun _ => i) with bus := n } :=
  congrArg Host.Outcome.next ((if_pos hon).trans (by rw [State.claim, h]))

theorem exec_icuCoreComplete_of_on (n : Fin 1024) :
    exec (.icuCoreComplete k n) s = .next (s.onIcu fun i => i.complete k n) :=
  congrArg Host.Outcome.next (if_pos hon)

end Commands

/-- Settles O51: the running priority is a maximum and the two offers are a least and a greatest element; a take, a claim and
a completion have one case each by the offer, the level and the owner. -/
theorem interrupts : Obligations.Interrupts := by
  intro s k hon h c eligible usable
  have hcore : s.icu.core h = c := s.icu.core_pairCore k
  refine ⟨hcore ▸ s.icu.threshold_le_running h, fun x hx ha hw => ?held, ?running, fun n h0 => ?prioZero,
    fun n hnone => ?noCandidate, fun n d hp ha hu he => ?offered, ?rest⟩
  case held => exact IcuSt.le_running_of_held (IcuSt.mem_heldPris.mpr ⟨x, hx, ha, hw, rfl⟩)
  case running => exact hcore ▸ (s.icu.running_mem h).imp_right IcuSt.mem_heldPris.mp
  case prioZero =>
    refine IcuSt.offeredTo_of_no_candidates fun d hd => ?_
    obtain ⟨-, hlt, -⟩ := IcuSt.mem_candidates.mp hd
    simp [h0] at hlt
  case noCandidate =>
    refine IcuSt.offeredTo_of_no_candidates fun d hd => ?_
    obtain ⟨hu, he⟩ := IcuSt.mem_candidates.mp hd
    exact hnone d hu he
  case offered =>
    obtain ⟨e, hoff, hmem, hbest⟩ := IcuSt.offeredTo_best hp ha (IcuSt.mem_candidates.mpr ⟨hu, he⟩)
    obtain ⟨hue, hee⟩ := IcuSt.mem_candidates.mp hmem
    exact ⟨e, hoff, hue, hee, hbest⟩
  intro taken rest
  refine ⟨fun n ho => ?offer, fun hs => ⟨fun ho => ?takeNone, fun n ho => ⟨fun hv => ?vectored, fun hv => ?shared, ?trap⟩⟩,
    fun n ho => ?claim, fun ho => ?spurious,
    fun n => ⟨fun hm hd hh => ?completeHigh, fun hm hq => ?complete, fun hm => ?badComplete⟩⟩
  case offer =>
    have hoff := IcuSt.offeredTo_of_offer ho
    obtain ⟨hp, ha⟩ := IcuSt.pending_of_offeredTo hoff
    obtain ⟨⟨-, -, ht⟩, hlt, -⟩ := IcuSt.mem_candidates.mp (IcuSt.offeredTo_mem hoff)
    exact ⟨hp, ha, ht, hlt, fun m hm => IcuSt.prio_le_of_offer ho hm⟩
  case takeNone =>
    refine ⟨_, exec_interruptTake_of_on hon k, ?_, ?_⟩ <;> simp [IcuSt.take_of_no_offer ho]
  case vectored =>
    refine ⟨_, exec_interruptTake_of_on hon k, ?_, fun m hm => ?_, ?_, ?_⟩
    all_goals simp only [State.onIcu_src, State.onIcu_core, IcuSt.take_vectored hs ho hv, IcuSt.src_onCore,
      IcuSt.core_onCore_self, IcuSt.core_activate]
    · exact IcuSt.src_activate_self _ _ _
    · exact IcuSt.src_activate_ne _ _ hm
    · exact CtlCore.trapTo_pc _ _
  case shared =>
    refine ⟨_, exec_interruptTake_of_on hon k, ?_, ?_⟩ <;> simp [IcuSt.take_shared hs ho hv, c]
  case trap =>
    obtain ⟨at_, j, hk⟩ := IcuSt.core_take_of_offer hs ho
    refine ⟨_, exec_interruptTake_of_on hon k, ?_, fun hd hm => ?_, fun hnot => ?_⟩
    all_goals rw [State.onIcu_core, hk]
    · exact CtlCore.trapTo_state _ _
    · rw [CtlCore.trapTo_supervisor hd hm]
      exact ⟨rfl, rfl, hm⟩
    · rw [CtlCore.trapTo_machine hnot]
      exact ⟨rfl, rfl, rfl⟩
  case claim =>
    exact ⟨_, exec_icuCoreClaim_of_on hon k (IcuSt.claim_of_offer ho), rfl, s.icu.src_activate_self h n,
      fun m hm => s.icu.src_activate_ne h hm, rfl⟩
  case spurious => exact ⟨_, exec_icuCoreClaim_of_on hon k (IcuSt.claim_of_no_offer ho), rfl, rfl, rfl, rfl⟩
  case completeHigh =>
    refine ⟨_, exec_icuCoreComplete_of_on hon k n, ?_, fun m hne => ?_⟩
    all_goals rw [State.onIcu_src, IcuSt.complete_by_owner_high hm hd hh]
    · rw [IcuSt.src_pend_self hd, IcuSt.src_setSrc_self]
      rfl
    · rw [IcuSt.src_pend_ne hd hne, IcuSt.src_setSrc_ne _ _ hne]
  case complete =>
    refine ⟨_, exec_icuCoreComplete_of_on hon k n, ?_, fun m hne => ?_⟩
    all_goals rw [State.onIcu_src, IcuSt.complete_by_owner hm hq]
    · exact IcuSt.src_setSrc_self _ _ _
    · exact IcuSt.src_setSrc_ne _ _ hne
  case badComplete =>
    refine ⟨_, exec_icuCoreComplete_of_on hon k n, ?_, ?_⟩
    · rw [State.onIcu_srcs, IcuSt.complete_by_other hm]
    · exact congrArg IcuSt.badComplete (IcuSt.complete_by_other hm)

end Sys2Proof.Machine
end

section
/-! Register accesses: the form of an access, what a read by the host leaves and clears, and the writes that the power and
the security block take (R13 to R15, R482, R525, R546, R552). -/

namespace Sys2Proof.Machine

/-! ### The form of an access (R13) -/

theorem accessBits_whole {off : Nat} (h : off % 8 = 0) : accessBits off 8 = some (off, 2 ^ 64 - 1) := by
  simp [accessBits, h]

/-- The low half of the register at `off`. -/
theorem accessBits_low {off : Nat} (h : off % 8 = 0) : accessBits off 4 = some (off, 2 ^ 32 - 1) := by
  have h4 : off % 4 = 0 := by omega
  have ho : off / 8 * 8 = off := by omega
  simp [accessBits, h, h4, ho]

/-- The high half of the register at `off`. -/
theorem accessBits_high {off : Nat} (h : off % 8 = 0) : accessBits (off + 4) 4 = some (off, 2 ^ 64 - 2 ^ 32) := by
  have h4 : (off + 4) % 4 = 0 := by omega
  have h8 : (off + 4) % 8 ≠ 0 := by omega
  have ho : (off + 4) / 8 * 8 = off := by omega
  simp [accessBits, h4, h8, ho]

theorem accessBits_bad {off size : Nat} (h8 : ¬ (size = 8 ∧ off % 8 = 0)) (h4 : ¬ (size = 4 ∧ off % 4 = 0)) :
    accessBits off size = none := by
  simp [accessBits, h8, h4]

theorem readShape_whole (off w : Nat) : readShape off 8 w = w % 2 ^ 64 := rfl

theorem readShape_low {off : Nat} (h : off % 8 = 0) (w : Nat) : readShape off 4 w = w % 2 ^ 32 := by
  simp [readShape, h]

theorem readShape_high {off : Nat} (h : off % 8 = 0) (w : Nat) : readShape (off + 4) 4 w = w / 2 ^ 32 % 2 ^ 32 := by
  have h8 : (off + 4) % 8 ≠ 0 := by omega
  simp [readShape, h8]

/-- A write of a whole register leaves none of its old bits. -/
theorem mergeBits_whole (old : Nat) {v : Nat} (h : v < 2 ^ 64) : mergeBits old (2 ^ 64 - 1) v = v := by
  rw [mergeBits, Nat.sub_self, Nat.and_zero, Nat.zero_or, Nat.and_two_pow_sub_one_of_lt_two_pow h]

/-! ### Numbers that bytes spell -/

theorem leNat_lt (bs : Bytes) : leNat bs < 256 ^ bs.length := by
  induction bs with
  | nil => simp [leNat]
  | cons b t ih =>
    have hb : b.toNat < 256 := b.isLt
    rw [leNat, List.length_cons, pow_succ]
    omega

theorem leAt_lt (bs : Bytes) (off n : Nat) : leAt bs off n < 256 ^ n :=
  (leNat_lt _).trans_le (Nat.pow_le_pow_right (by decide) (List.length_take_le n _))

theorem leAt_nil (off n : Nat) : leAt [] off n = 0 := by
  simp [leAt, leNat]

/-! ### Fields that a read clears, block by block (R14) -/

theorem State.regClear_power (s : State) (ctl : Bool) {off : Nat} (h : off < 0x10000) (m : Nat) :
    s.regClear ctl (0x300000 + off) m = { s with pwr := s.pwr.regClear off m } := by
  rw [State.regClear, if_neg (by omega), if_neg (by omega), if_neg (by omega), if_pos (by omega), Nat.add_sub_cancel_left]

/-- No read clears anything of the SEC_ and DBG_ blocks. -/
theorem State.regClear_security (s : State) (ctl : Bool) {a : Nat} (hlo : 0x310000 ≤ a) (hhi : a < 0x330000) (m : Nat) :
    s.regClear ctl a m = s := by
  rw [State.regClear, if_neg (by omega), if_neg (by omega), if_neg (by omega), if_neg (by omega), if_neg (by omega),
    if_pos (by omega)]

theorem State.regClear_core {s : State} (ctl : Bool) {c : Fin 128} (hc : s.snap.coreThere c = true) {off : Nat}
    (h : off < 0x20000) (m : Nat) :
    s.regClear ctl (0x2800000 + 0x20000 * c.val + off) m =
      { s with plane := s.plane.onCore c fun k => k.regClear off m } := by
  have hlt := c.isLt
  have hcore : (0x2800000 + 0x20000 * c.val + off - 0x2800000) / 0x20000 = c.val := by omega
  have hoff : (0x2800000 + 0x20000 * c.val + off - 0x2800000) % 0x20000 = off := by omega
  rw [State.regClear]
  iterate 10 rw [if_neg (by omega)]
  rw [if_pos (by omega)]
  simp only [hcore, hoff, hc, if_true]

/-- PWR_INPUT: the peak stands in the low half. -/
theorem PwrSt.regClear_input_low (p : PwrSt) {m : Nat} (h : reachLow m = true) : p.regClear 0x08 m = { p with peakW := 0 } := by
  simp [PwrSt.regClear, h, clearIf]

theorem PwrSt.regClear_input_high (p : PwrSt) {m : Nat} (h : reachLow m = false) : p.regClear 0x08 m = p := by
  simp [PwrSt.regClear, h, clearIf]

/-- COR_SEQ_FAULT: COUNT stands in the high half. -/
theorem Core.regClear_seqFault_high (k : Core) {m : Nat} (h : reachHigh m = true) :
    k.regClear 0x20 m = { k with seq := { k.seq with fault := { k.seq.fault with count := 0 } } } := by
  simp [Core.regClear, FaultReg.clear, h]

theorem Core.regClear_seqFault_low (k : Core) {m : Nat} (h : reachHigh m = false) : k.regClear 0x20 m = k := by
  simp [Core.regClear, FaultReg.clear, h]

/-- A core replaced by itself: every core reads as before. -/
theorem PlaneSt.core_onCore_id (p : PlaneSt) (c d : Nat) {f : Core → Core} (h : f (p.core c) = p.core c) :
    (p.onCore c f).core d = p.core d := by
  rw [PlaneSt.onCore, h]
  by_cases hd : d = c
  · rw [hd, PlaneSt.core_setCore_self]
  · exact PlaneSt.core_setCore_ne p _ hd

/-! ### Registers of the nonce (R552) -/

theorem State.reg_nonce (s : State) (i : Fin 4) : s.reg (0x310040 + 8 * i.val) =
    leAt (s.sec.nonce.getD []) (8 * i.val) 8 := by
  fin_cases i <;> rfl

theorem State.reg_nonceSeq (s : State) : s.reg 0x310060 = s.sec.nonceSeq.toNat := rfl

/-! ### Accesses in P4, and accesses of the wrong form -/

section Accesses

variable {s : State} {off size : Nat}

theorem exec_readClear_of_off (h : s.on = false) (who : Agent) (off size : Nat) :
    exec (.readClear who off size) s = .next { s with bus := 0 } :=
  congrArg Host.Outcome.next (by simp [State.read, h])

theorem exec_registerWrite_of_off (h : s.on = false) (who : Agent) (off size : Nat) (val : BitVec 64) :
    exec (.registerWrite who off size val) s = .next s :=
  congrArg Host.Outcome.next (by simp [State.write, h])

theorem exec_readClear_host_bad (hon : s.on = true) (h : accessBits off size = none) :
    exec (.readClear (.host 0) off size) s = .next { s with bus := 0, host := s.host.badAccess 0 } :=
  congrArg Host.Outcome.next (by simp [State.read, State.readHost, hon, h])

theorem exec_registerWrite_host_bad (hon : s.on = true) (h : accessBits off size = none) (val : BitVec 64) :
    exec (.registerWrite (.host 0) off size val) s = .next { s with host := s.host.badAccess 0 } :=
  congrArg Host.Outcome.next (by simp [State.write, hon, h])

/-! ### A read by the host of the physical function (R449) -/

/-- Past SUP_CC_FETCH no read meets a count that has run on. -/
theorem State.fetchPass_of_ge (s : State) {a : Nat} (h : 0x41A0 ≤ a) : s.fetchPass a = s := by
  rw [State.fetchPass, if_neg (by omega)]

theorem exec_readClear_host (hon : s.on = true) {a m : Nat} (h : accessBits off size = some (a, m)) (ha : 0x41A0 ≤ a) :
    exec (.readClear (.host 0) off size) s = .next { s.regClear false a m with bus := readShape off size (s.reg a) } :=
  congrArg Host.Outcome.next (by simp [State.read, State.readHost, hon, h, s.fetchPass_of_ge ha])

/-- A read of a whole register of the security block leaves its value and nothing else. -/
theorem exec_readClear_host_security (hon : s.on = true) (hlo : 0x310000 ≤ off) (hhi : off < 0x330000)
    (h8 : off % 8 = 0) (hw : s.reg off < 2 ^ 64) :
    exec (.readClear (.host 0) off 8) s = .next { s with bus := s.reg off } := by
  rw [exec_readClear_host hon (accessBits_whole h8) (by omega), s.regClear_security false hlo hhi, readShape_whole,
    Nat.mod_eq_of_lt hw]

/-! ### A write of a whole register -/

theorem exec_registerWrite_host (hon : s.on = true) (h8 : off % 8 = 0) (val : BitVec 64) :
    exec (.registerWrite (.host 0) off 8 val) s = .next (s.writeBar0 none false off (2 ^ 64 - 1) val.toNat) :=
  congrArg Host.Outcome.next (by simp [State.write, hon, accessBits_whole h8])

theorem exec_registerWrite_ctl (hon : s.on = true) (h8 : off % 8 = 0) (k : Fin 20) (val : BitVec 64) :
    exec (.registerWrite (.ctl k) off 8 val) s = .next (s.writeBar0 (some k.val) true off (2 ^ 64 - 1) val.toNat) :=
  congrArg Host.Outcome.next (by simp [State.write, hon, accessBits_whole h8])

theorem exec_registerWrite_debug (hon : s.on = true) (h8 : off % 8 = 0) (val : BitVec 64) :
    exec (.registerWrite .debug off 8 val) s = .next (s.writeDebug off (2 ^ 64 - 1) val.toNat) :=
  congrArg Host.Outcome.next (by simp [State.write, hon, accessBits_whole h8])

end Accesses

/-! ### Writes, block by block -/

theorem State.writeBar0_power (s : State) (ctl : Option Nat) (icu : Bool) {off : Nat} (h : off < 0x10000) (m v : Nat) :
    s.writeBar0 ctl icu (0x300000 + off) m v = s.writePwr off m v := by
  rw [State.writeBar0, if_neg (by omega), if_neg (by omega), if_neg (by omega), if_pos (by omega), Nat.add_sub_cancel_left]

/-- Nothing of the SEC_, DBG_ and IMG_ blocks is written as a register of BAR0 (R482, R546). -/
theorem State.writeBar0_security (s : State) (ctl : Option Nat) (icu : Bool) {a : Nat} (hlo : 0x310000 ≤ a)
    (hhi : a < 0x400000) (m v : Nat) : s.writeBar0 ctl icu a m v = s := by
  rw [State.writeBar0, if_neg (by omega), if_neg (by omega), if_neg (by omega), if_neg (by omega), if_pos (by omega)]

/-- Below the DBG_ block the debug access port writes what a Full session lets it write (R546). -/
theorem State.writeDebug_of_lt (s : State) {a : Nat} (h : a < 0x320000) (m v : Nat) :
    s.writeDebug a m v = if s.sec.dap && s.fullDebug then s.writeBar0 none true a m v else s := by
  rw [State.writeDebug, if_neg (by omega : ¬ a = 0x320008), if_neg (by omega : ¬ (0x321000 ≤ a ∧ a < 0x323000))]
  cases s.sec.dap <;> simp

/-- PWR_GOV_CFG is not written once LOCK is set (R525). -/
theorem State.writePwr_govCfg_locked {s : State} (h : s.pwr.lock = true) (m v : Nat) : s.writePwr 0x10 m v = s := by
  simp [State.writePwr, h]

theorem State.writePwr_govCfg {s : State} (h : s.pwr.lock = false) {v : Nat} (hv : v < 2 ^ 64) :
    s.writePwr 0x10 (2 ^ 64 - 1) v = { s with pwr := { s.pwr with
      lock := bit v 63, cap := if 1000 ≤ bits v 11 0 ∧ bits v 11 0 ≤ 2800 then bits v 11 0 else s.pwr.cap } } := by
  simp only [State.writePwr, mergeBits_whole _ hv, h]
  rfl

/-! ### The obligation -/

/-- Settles O31: an access of the right form is a read, or a write, of one register, and each block says what its registers
clear and take. -/
theorem registerAccess : Obligations.RegisterAccess := by
  intro s
  refine ⟨fun hoff who off size val => ?off, fun hon => ⟨fun off size h8 h4 => ?bad, ?input, ?inputHigh,
    fun c hc => ⟨?countHigh, ?countLow⟩, fun val => ⟨fun hl => ?cap, fun hl => ?locked⟩,
    fun off val k hlo hhi h8 => ?security, fun off val hhi h8 hfull => ?notFull, fun i => ?nonce, ?nonceSeq,
    fun off val hlo hhi h8 => ?nonceWrite⟩, rfl, rfl⟩
  case off => exact ⟨exec_registerWrite_of_off hoff who off size val, exec_readClear_of_off hoff who off size⟩
  case bad =>
    have hnone := accessBits_bad h8 h4
    exact ⟨exec_readClear_host_bad hon hnone, exec_registerWrite_host_bad hon hnone⟩
  case input =>
    rw [exec_readClear_host hon (accessBits_whole rfl) (by decide),
      s.regClear_power false (off := 0x08) (by decide), s.pwr.regClear_input_low (by decide), readShape_whole]
  case inputHigh =>
    rw [exec_readClear_host hon (accessBits_high (off := 0x300008) rfl) (by decide),
      s.regClear_power false (off := 0x08) (by decide), s.pwr.regClear_input_high (by decide),
      readShape_high (off := 0x300008) rfl]
  case countHigh =>
    have h8 : (0x2800000 + 0x20000 * c.val + 0x20) % 8 = 0 := by omega
    rw [exec_readClear_host hon (accessBits_high h8) (by omega), State.regClear_core false hc (by decide),
      readShape_high h8, PlaneSt.onCore, Core.regClear_seqFault_high _ (by decide)]
  case countLow =>
    have h8 : (0x2800000 + 0x20000 * c.val + 0x20) % 8 = 0 := by omega
    refine ⟨_, exec_readClear_host hon (accessBits_low h8) (by omega), readShape_low h8 _, fun d => ?_⟩
    rw [State.regClear_core false hc (by decide)]
    exact s.plane.core_onCore_id c d (Core.regClear_seqFault_low _ (by decide))
  case cap =>
    rw [exec_registerWrite_host hon rfl, s.writeBar0_power none false (off := 0x10) (by decide),
      State.writePwr_govCfg hl val.isLt]
  case locked =>
    rw [exec_registerWrite_host hon rfl, s.writeBar0_power none false (off := 0x10) (by decide),
      State.writePwr_govCfg_locked hl]
  case security =>
    rw [exec_registerWrite_host hon h8, exec_registerWrite_ctl hon h8, s.writeBar0_security none false hlo (by omega),
      s.writeBar0_security (some k.val) true hlo (by omega)]
    exact ⟨rfl, rfl⟩
  case notFull =>
    rw [exec_registerWrite_debug hon h8, s.writeDebug_of_lt hhi, hfull, Bool.and_false]
    rfl
  case nonce =>
    have hlt : s.reg (0x310040 + 8 * i.val) < 2 ^ 64 := (s.reg_nonce i).symm ▸ leAt_lt _ _ 8
    rw [exec_readClear_host_security hon (by omega) (by omega) (by omega) hlt, s.reg_nonce i]
    cases s.sec.nonce with
    | none => rw [Option.getD_none, leAt_nil]
    | some b => rfl
  case nonceSeq =>
    rw [exec_readClear_host_security hon (by decide) (by decide) rfl (s.reg_nonceSeq ▸ s.sec.nonceSeq.isLt),
      s.reg_nonceSeq]
  case nonceWrite =>
    rw [exec_registerWrite_debug hon h8, s.writeDebug_of_lt (by omega),
      s.writeBar0_security none true (by omega) (by omega), ite_self]

end Sys2Proof.Machine
end

section
/-! Start-up and the resets that lead to it (R541, R564 to R569, R573): what start-up keeps, where it holds, and what it
starts from. -/

namespace Sys2Proof.Machine

/-! ### What the parts of start-up keep -/

/-- The power state and PWR_FAULT. -/
def PwrSt.shown (p : PwrSt) : Nat × Bool × Nat := (p.state, p.faultValid, p.faultCause)

theorem PwrSt.note_shown (p : PwrSt) (kind arg : Nat) : (p.note kind arg).shown = p.shown := by
  unfold PwrSt.note
  dsimp only
  split <;> rfl

/-- A commit of the security block, done or refused, leaves the power state and PWR_FAULT. -/
theorem PwrSt.counter_shown (p : PwrSt) (target : Nat) (content : Bytes) : (p.counter target content).1.shown = p.shown := by
  unfold PwrSt.counter
  split
  · exact PwrSt.note_shown _ _ _
  · rfl

theorem PwrSt.measured_shown (p : PwrSt) (energy : Nat) : (p.measured energy).shown = p.shown := by
  unfold PwrSt.measured
  dsimp only
  split <;> rfl

/-- The check of the bank reports what it finds and leaves the power state and PWR_FAULT. -/
theorem PwrSt.healthCheck_shown (p : PwrSt) (rtc energy cap esr : Nat) : (p.healthCheck rtc energy cap esr).shown = p.shown := by
  unfold PwrSt.healthCheck
  dsimp only
  split
  · exact PwrSt.measured_shown _ _
  · exact PwrSt.measured_shown _ _

theorem SecSt.erased_eq (x : SecSt) (p : PwrSt) : (x.erased p).1 =
    { x with erasePending := (x.erased p).1.erasePending, keysOff := (x.erased p).1.keysOff } := by
  unfold SecSt.erased
  dsimp only
  split <;> rfl

theorem SecSt.erased_shown (x : SecSt) (p : PwrSt) : (x.erased p).2.shown = p.shown := by
  have h := p.counter_shown 2 []
  unfold SecSt.erased
  dsimp only
  split <;> exact h

/-- Secure boot chooses a slot and nothing else. -/
theorem SecSt.boot_eq (x : SecSt) (fuseOk : Bool) : x.boot fuseOk =
    { x with slot := (x.boot fuseOk).slot, svn := (x.boot fuseOk).svn, version := (x.boot fuseOk).version
             fallback := (x.boot fuseOk).fallback, recovery := (x.boot fuseOk).recovery } := by
  unfold SecSt.boot
  dsimp only
  split
  · rfl
  · split
    · rfl
    · split <;> rfl

theorem PlaneSt.each_launched (p : PlaneSt) (f : Nat → Core → Core) : (p.each f).launched = p.launched :=
  foldl_keeps PlaneSt.launched _ (by intros; rfl) _ _

theorem PlaneSt.build_launched (p : PlaneSt) (m : DuMap) (enabled : Nat) (sites : Tab Nat) :
    (p.build m enabled sites).launched = p.launched :=
  foldl_keeps PlaneSt.launched _ (by intros; rfl) _ _

theorem PlaneSt.build_cadence (p : PlaneSt) (m : DuMap) (enabled : Nat) (sites : Tab Nat) :
    (p.build m enabled sites).cadence = p.cadence :=
  foldl_keeps PlaneSt.cadence _ (by intros; rfl) _ _

theorem HostSt.train_cmds (h : HostSt) (free : Nat) : (h.train free).cmds = h.cmds := by
  unfold HostSt.train
  split <;> rfl

theorem IcuSt.startCores_src (i : IcuSt) (lo hi n : Nat) : (i.startCores lo hi).src n = i.src n :=
  foldl_keeps (fun i : IcuSt => i.src n) _ (by intros; rfl) _ _

/-- A source that goes back to its reset setting keeps its wake latch. -/
theorem IcuSt.unset_latched (i : IcuSt) (m n : Nat) : ((i.unset m).src n).latched = (i.src n).latched := by
  by_cases h : n = m
  · rw [h, IcuSt.unset, IcuSt.src_setSrc_self]
  · rw [IcuSt.unset, IcuSt.src_setSrc_ne _ _ h]

theorem IcuSt.useEvents_nil_latched (i : IcuSt) (n : Nat) : ((i.useEvents []).src n).latched = (i.src n).latched :=
  foldl_keeps (fun i : IcuSt => (i.src n).latched) _ (fun (i : IcuSt) m => i.unset_latched m n) _ _

/-! ### What the whole of start-up keeps -/

/-- What start-up keeps on its way from `s` to `t`: the counts and records that outlast it, and that there is no run, no
command and no external memory where there was none. -/
structure State.StartKeeps (s t : State) : Prop where
  cause : t.sup.cause = s.sup.cause
  moduleResets : t.sup.moduleResets = s.sup.moduleResets
  rtc : t.sup.rtc = s.sup.rtc
  zeroing : t.sup.zeroing = s.sup.zeroing
  shown : t.pwr.shown = s.pwr.shown
  level : t.sec.level = s.sec.level
  record : t.sec.record = s.sec.record
  latched : ∀ n, (t.icu.src n).latched = (s.icu.src n).latched
  launched : t.plane.launched = s.plane.launched
  active : s.img.active = 0 → t.img.active = 0
  mem : s.ext.mem = [] → t.ext.mem = []
  cmds : s.host.cmds = [] → t.host.cmds = []
  erase : s.sec.erasePending = false → t.sec.erasePending = false
  library : s.sec.erasePending = false → t.img.library = s.img.library

theorem State.startKeeps_refl (s : State) : s.StartKeeps s :=
  ⟨rfl, rfl, rfl, rfl, rfl, rfl, rfl, fun _ => rfl, rfl, id, id, id, id, fun _ => rfl⟩

theorem State.StartKeeps.trans {s t u : State} (h : s.StartKeeps t) (g : t.StartKeeps u) : s.StartKeeps u where
  cause := g.cause.trans h.cause
  moduleResets := g.moduleResets.trans h.moduleResets
  rtc := g.rtc.trans h.rtc
  zeroing := g.zeroing.trans h.zeroing
  shown := g.shown.trans h.shown
  level := g.level.trans h.level
  record := g.record.trans h.record
  latched n := (g.latched n).trans (h.latched n)
  launched := g.launched.trans h.launched
  active := g.active ∘ h.active
  mem := g.mem ∘ h.mem
  cmds := g.cmds ∘ h.cmds
  erase := g.erase ∘ h.erase
  library e := (g.library (h.erase e)).trans (h.library e)

/-! ### An erasure that was pending (R532) -/

theorem State.noteBusy_startKeeps (s : State) : s.StartKeeps s.noteBusy := by
  unfold State.noteBusy
  split
  · exact { s.startKeeps_refl with }
  · exact s.startKeeps_refl

theorem State.startAll_startKeeps (s : State) : s.StartKeeps s.startAll := by
  have hhost : s.StartKeeps { s with host := s.host.startAll s.hostEnv } :=
    { s.startKeeps_refl with cmds := fun h => (congrArg HostSt.cmds (HostSt.startAll_of_no_cmds h _)).trans h }
  exact hhost.trans (State.noteBusy_startKeeps _)

/-- The end of a command changes what waits for the host, and makes no command of none. -/
theorem State.answer_startKeeps (s : State) (id status detail r0 r1 : Nat) :
    s.StartKeeps (s.answer id status detail r0 r1) := by
  have hhost : s.StartKeeps { s with host := s.host.complete id status detail r0 r1 } :=
    { s.startKeeps_refl with cmds := fun h => by simp [HostSt.complete, h, takeFirst] }
  exact hhost.trans (State.startAll_startKeeps _)

theorem State.imgCode_startKeeps (s : State) (id code r0 : Nat) : s.StartKeeps (s.imgCode id code r0) := by
  have hcode : s.StartKeeps { s with img := { s.img with code := code, section_ := 0xFFF, detail := 0 } } :=
    { s.startKeeps_refl with }
  exact hcode.trans (State.answer_startKeeps _ _ _ _ _ _)

/-- The launch that waits ends with the run. -/
def State.endLaunch (s : State) : State :=
  match s.img.launch with
  | some l => s.imgCode l.cmd 0x16 0
  | none => s

/-- The stop that waits for the run's end is answered. -/
def State.endStop (s : State) : State :=
  match s.host.waiting 0x16 with
  | some c => s.answer c.id 0 0 s.plane.count.toNat 0
  | none => s

/-- A load in its second pass ends with the run. -/
def State.endLoad (s : State) : State := if s.img.second then s.imgCode s.img.loadCmd 0x16 0 else s

/-- No image is active, and the plane is as after a reset. -/
def State.noImage (s : State) : State :=
  { s with
    plane := { s.plane.clear with launched := s.plane.launched }
    chip := ChipCfg.reset s.ext.okAtReset
    icu := s.icu.useEvents []
    herd := { s.herd with bar := none, arrives := [], early := [] }
    link := s.link.newRun
    img := { s.img with active := 0, activeHash := [], shadow := 0, image := none, second := false, loading := [],
                        sampled := none, launch := none } }

theorem State.endRun_eq (s : State) : s.endRun = s.endLaunch.endStop.endLoad.runOver.noImage := rfl

theorem State.endLaunch_startKeeps (s : State) : s.StartKeeps s.endLaunch := by
  unfold State.endLaunch
  split
  · exact s.imgCode_startKeeps _ _ _
  · exact s.startKeeps_refl

theorem State.endStop_startKeeps (s : State) : s.StartKeeps s.endStop := by
  unfold State.endStop
  split
  · exact s.answer_startKeeps _ _ _ _ _
  · exact s.startKeeps_refl

theorem State.endLoad_startKeeps (s : State) : s.StartKeeps s.endLoad := by
  unfold State.endLoad
  split
  · exact s.imgCode_startKeeps _ _ _
  · exact s.startKeeps_refl

theorem State.noImage_startKeeps (s : State) : s.StartKeeps s.noImage :=
  { s.startKeeps_refl with latched := s.icu.useEvents_nil_latched, active := fun _ => rfl }

theorem State.endRun_startKeeps (s : State) : s.StartKeeps s.endRun := by
  have hover : ∀ u : State, u.StartKeeps u.runOver := fun u => { u.startKeeps_refl with }
  rw [s.endRun_eq]
  exact s.endLaunch_startKeeps.trans <| (State.endStop_startKeeps _).trans <| (State.endLoad_startKeeps _).trans <|
    (hover _).trans (State.noImage_startKeeps _)

theorem State.eraseAll_of_none {s : State} (h : s.sec.erasePending = false) : s.eraseAll = s := by
  simp [State.eraseAll, h]

theorem State.eraseAll_of_pending {s : State} (h : s.sec.erasePending = true) : s.eraseAll =
    { s.erase with sec := (s.sec.erased s.erase.pwr).1, pwr := (s.sec.erased s.erase.pwr).2 } := by
  simp only [State.eraseAll, h, if_true, State.erase_sec]

/-- A pending erasure ends commands and clears stores; only there the library goes. -/
theorem State.eraseAll_startKeeps (s : State) : s.StartKeeps s.eraseAll := by
  by_cases h : s.sec.erasePending = true
  · rw [State.eraseAll_of_pending h]
    have hsec := s.sec.erased_eq s.erase.pwr
    have hrun := s.endRun_startKeeps
    exact { hrun with
      shown := (SecSt.erased_shown _ _).trans hrun.shown
      level := (congrArg SecSt.level hsec).trans rfl
      record := (congrArg SecSt.record hsec).trans rfl
      launched := (PlaneSt.each_launched _ _).trans hrun.launched
      mem := fun _ => rfl
      erase := fun e => absurd (h.symm.trans e) (by decide)
      library := fun e => absurd (h.symm.trans e) (by decide) }
  · rw [State.eraseAll_of_none (Bool.eq_false_iff.mpr h)]
    exact s.startKeeps_refl

@[simp] theorem State.noteBusy_sup (s : State) : s.noteBusy.sup = s.sup := by
  simp [State.noteBusy, apply_ite State.sup]

@[simp] theorem State.startAll_sup (s : State) : s.startAll.sup = s.sup := by
  simp [State.startAll]

@[simp] theorem State.answer_sup (s : State) (id status detail r0 r1 : Nat) :
    (s.answer id status detail r0 r1).sup = s.sup := by
  simp [State.answer]

@[simp] theorem State.imgCode_sup (s : State) (id code r0 : Nat) : (s.imgCode id code r0).sup = s.sup := by
  simp [State.imgCode]

@[simp] theorem State.endRun_sup (s : State) : s.endRun.sup = s.sup := by
  have hlaunch : ∀ u : State, u.endLaunch.sup = u.sup := fun u => by
    unfold State.endLaunch
    split <;> simp
  have hstop : ∀ u : State, u.endStop.sup = u.sup := fun u => by
    unfold State.endStop
    split <;> simp
  have hload : ∀ u : State, u.endLoad.sup = u.sup := fun u => by simp [State.endLoad, apply_ite State.sup]
  calc s.endRun.sup = s.endLaunch.endStop.endLoad.sup := rfl
    _ = s.sup := by rw [hload, hstop, hlaunch]

@[simp] theorem State.eraseAll_sup (s : State) : s.eraseAll.sup = s.sup := by
  simp [State.eraseAll, State.erase, apply_ite State.sup]

/-- Of the security block a pending erasure changes the mark that it is pending and the loss of the keys. -/
theorem State.eraseAll_sec (s : State) : s.eraseAll.sec =
    { s.sec with erasePending := s.eraseAll.sec.erasePending, keysOff := s.eraseAll.sec.keysOff } := by
  by_cases h : s.sec.erasePending = true
  · rw [State.eraseAll_of_pending h]
    exact s.sec.erased_eq _
  · rw [State.eraseAll_of_none (Bool.eq_false_iff.mpr h)]

/-! ### The steps of start-up (R564, R565) -/

/-- Start-up holds at its present step for a reason. -/
def State.heldFor (s : State) (reason : Nat) : State := { s with sup := { s.sup with held := reason } }

/-- Start-up has done its present step. -/
def State.nextStep (s : State) : State := { s with sup := { s.sup with step := s.sup.step + 1, held := 0 } }

/-- Step 3: secure boot has chosen a slot. -/
def State.booted (s : State) (c : StartCond) : State := { s with sec := s.sec.boot c.fuseOk }

/-- Step 3 with a slot that runs: the supervisor's control cores have started. -/
def State.supervised (s : State) (c : StartCond) : State := { s.booted c with icu := s.icu.startCores 0 4 }

/-- Step 4: the bank has been measured and a pending erasure done. -/
def State.bankMeasured (s : State) (c : StartCond) : State :=
  { s with pwr := s.pwr.healthCheck s.sup.rtc.toNat c.energy c.cap c.esr }.eraseAll

section Steps

variable {s : State} {c : StartCond} {n : Nat}

theorem State.startUp_held (h : s.sup.holdAt c ≠ 0) : s.startUp c (n + 1) = s.heldFor (s.sup.holdAt c) := if_pos h

theorem State.startUp_step1 (h : s.sup.step = 1) : s.startUp c (n + 1) = s.nextStep.startUp c n := by
  simp [State.startUp, SupSt.holdAt, h, State.nextStep]

theorem State.startUp_step2 (h : s.sup.step = 2) (hh : s.sup.holdAt c = 0) :
    s.startUp c (n + 1) = s.nextStep.startUp c n := by
  simp [State.startUp, hh, h, State.nextStep]

theorem State.startUp_step3_recovery (h : s.sup.step = 3) (hb : (s.sec.boot c.fuseOk).recovery = true) :
    s.startUp c (n + 1) = (s.booted c).heldFor 0 := by
  simp [State.startUp, SupSt.holdAt, h, hb, State.booted, State.heldFor]

theorem State.startUp_step3 (h : s.sup.step = 3) (hb : (s.sec.boot c.fuseOk).recovery = false) :
    s.startUp c (n + 1) = (s.supervised c).nextStep.startUp c n := by
  simp [State.startUp, SupSt.holdAt, h, hb, State.supervised, State.booted, State.nextStep]

theorem State.startUp_step4 (h : s.sup.step = 4) (hh : s.sup.holdAt c = 0) :
    s.startUp c (n + 1) = (s.bankMeasured c).nextStep.startUp c n := by
  simp [State.startUp, hh, h, State.bankMeasured, State.nextStep]

theorem State.startUp_step5 (h : s.sup.step = 5) (hh : s.sup.holdAt c = 0) :
    s.startUp c (n + 1) = s.nextStep.startUp c n := by
  simp [State.startUp, hh, h, State.nextStep]

theorem State.startUp_step6 (h : s.sup.step = 6) : s.startUp c (n + 1) = s.startDies c.eastOk := by
  simp [State.startUp, SupSt.holdAt, h]

end Steps

/-! ### What every step keeps -/

theorem State.heldFor_startKeeps (s : State) (reason : Nat) : s.StartKeeps (s.heldFor reason) := { s.startKeeps_refl with }

theorem State.nextStep_startKeeps (s : State) : s.StartKeeps s.nextStep := { s.startKeeps_refl with }

theorem State.booted_startKeeps (s : State) (c : StartCond) : s.StartKeeps (s.booted c) :=
  have hsec := s.sec.boot_eq c.fuseOk
  { s.startKeeps_refl with
    level := (congrArg SecSt.level hsec).trans rfl
    record := (congrArg SecSt.record hsec).trans rfl
    erase := (congrArg SecSt.erasePending hsec).trans }

theorem State.supervised_startKeeps (s : State) (c : StartCond) : s.StartKeeps (s.supervised c) :=
  { s.booted_startKeeps c with latched := fun n => congrArg IcuSrc.latched (s.icu.startCores_src 0 4 n) }

theorem State.bankMeasured_startKeeps (s : State) (c : StartCond) : s.StartKeeps (s.bankMeasured c) := by
  have hbank : s.StartKeeps { s with pwr := s.pwr.healthCheck s.sup.rtc.toNat c.energy c.cap c.esr } :=
    { s.startKeeps_refl with shown := s.pwr.healthCheck_shown _ _ _ _ }
  exact hbank.trans (State.eraseAll_startKeeps _)

theorem State.noEast_startKeeps (s : State) : s.StartKeeps s.noEast := { s.startKeeps_refl with }

/-- Step 6 over `n` quadrants, before what is missing of East is marked. -/
def State.diesUp (s : State) (eastOk : Bool) (n : Nat) : State :=
  { s with
    sup := { s.sup with step := 7, westOk := true, eastOk := eastOk, quadrantOk := 2 ^ n - 1, stacksLeft := 2 ^ n - 1 }
    host := s.host.train s.free
    free := s.free + 4
    plane := { s.plane with cadence := 0 }.build s.sup.map s.sup.enabled (s.sup.map.cores s.sup.cpq eastOk)
    ext := (List.range (32 * n)).foldl (fun (x : ExtSt) c => x.onChan c fun k => { k with state := 1 }) s.ext
    icu := (List.range n).foldl (fun (i : IcuSt) q => i.onSteward q fun w => { w with ready := true })
      (s.icu.startCores 4 (4 + 2 * n)) }

theorem State.startDies_both (s : State) : s.startDies true = s.diesUp true 8 := rfl

theorem State.startDies_west (s : State) : s.startDies false = (s.diesUp false 4).noEast := rfl

theorem State.diesUp_startKeeps (s : State) (eastOk : Bool) (n : Nat) : s.StartKeeps (s.diesUp eastOk n) :=
  { s.startKeeps_refl with
    latched := fun m => congrArg IcuSrc.latched <|
      (foldl_keeps (fun i : IcuSt => i.src m) _ (by intros; rfl) _ _).trans (s.icu.startCores_src _ _ m)
    launched := PlaneSt.build_launched _ _ _ _
    mem := (foldl_keeps ExtSt.mem _ (by intros; rfl) _ _).trans
    cmds := (s.host.train_cmds _).trans }

/-- The dies start: the map's cores, the stewards and their control cores, the channels of the stacks, the PCIe link. -/
theorem State.startDies_startKeeps (s : State) (eastOk : Bool) : s.StartKeeps (s.startDies eastOk) := by
  cases eastOk with
  | false =>
    rw [s.startDies_west]
    exact (s.diesUp_startKeeps _ _).trans (State.noEast_startKeeps _)
  | true =>
    rw [s.startDies_both]
    exact s.diesUp_startKeeps _ _

theorem State.startUp_startKeeps (s : State) (c : StartCond) (n : Nat) : s.StartKeeps (s.startUp c n) := by
  induction n generalizing s with
  | zero => exact s.startKeeps_refl
  | succ n ih =>
    unfold State.startUp
    dsimp only
    split
    · exact s.heldFor_startKeeps _
    · split
      · exact s.nextStep_startKeeps.trans (ih _)
      · exact s.nextStep_startKeeps.trans (ih _)
      · exact s.nextStep_startKeeps.trans (ih _)
      · split
        · exact (s.booted_startKeeps c).trans (State.heldFor_startKeeps _ 0)
        · exact (s.supervised_startKeeps c).trans ((State.nextStep_startKeeps _).trans (ih _))
      · exact (s.bankMeasured_startKeeps c).trans ((State.nextStep_startKeeps _).trans (ih _))
      · exact s.startDies_startKeeps _
      · exact s.startKeeps_refl

/-! ### Secure boot (R541) -/

/-- Slot `k` passes its checks, and its steward firmware verifies. -/
def SecSt.passes (x : SecSt) (k : Nat) : Bool :=
  x.slotOk (x.slots.get FwSlot.factory k) && (x.slots.get FwSlot.factory k).stewardOk

/-- Secure boot: the active slot, then the other, then RECOVERY. -/
theorem SecSt.boot_of_fuseOk (x : SecSt) : x.boot true =
    if x.passes x.activeSlot then x.runs x.activeSlot false
    else if x.passes (1 - x.activeSlot) then x.runs (1 - x.activeSlot) true
    else { x with fallback := true, recovery := true } := rfl

theorem SecSt.boot_recovers {x : SecSt} {fuseOk : Bool}
    (h : fuseOk = false ∨ (x.passes x.activeSlot = false ∧ x.passes (1 - x.activeSlot) = false)) :
    (x.boot fuseOk).recovery = true := by
  cases fuseOk with
  | false => rfl
  | true =>
    obtain ⟨ha, hb⟩ := h.resolve_left (by decide)
    simp [x.boot_of_fuseOk, ha, hb]

theorem SecSt.boot_runs {x : SecSt} {fuseOk : Bool} (hf : fuseOk = true)
    (h : x.passes x.activeSlot = true ∨ x.passes (1 - x.activeSlot) = true) :
    (x.boot fuseOk).recovery = false ∧ (x.boot fuseOk).fallback = !x.passes x.activeSlot ∧
      (x.boot fuseOk).slot = if x.passes x.activeSlot then x.activeSlot else 1 - x.activeSlot := by
  rw [hf, x.boot_of_fuseOk]
  cases ha : x.passes x.activeSlot with
  | true => exact ⟨rfl, rfl, rfl⟩
  | false =>
    have hb : x.passes (1 - x.activeSlot) = true := h.resolve_left (by simp [ha])
    rw [hb]
    exact ⟨rfl, rfl, rfl⟩

/-! ### Step 6 (R35, R564) -/

/-- Channels that are set training one by one are training, each of them. -/
theorem ExtSt.chan_training (x : ExtSt) {m ch : Nat} (h : ch < m) :
    (((List.range m).foldl (fun (x : ExtSt) c => x.onChan c fun k => { k with state := 1 }) x).chan ch).state = 1 := by
  induction m with
  | zero => omega
  | succ m ih =>
    rw [List.range_succ, List.foldl_append, List.foldl_cons, List.foldl_nil]
    by_cases hm : ch = m
    · rw [hm, ExtSt.chan_onChan_self]
    · rw [ExtSt.chan_onChan_ne _ _ hm]
      exact ih (by omega)

theorem State.diesUp_chan (s : State) (eastOk : Bool) {n ch : Nat} (h : ch < 32 * n) :
    ((s.diesUp eastOk n).ext.chan ch).state = 1 := s.ext.chan_training h

theorem State.noEast_chan (s : State) (ch : Nat) : s.noEast.ext.chan ch = s.ext.chan ch := rfl

/-- What step 6 leaves of the steps, the clock and the stacks of the dies that are there. -/
theorem State.startDies_spec (s : State) (eastOk : Bool) :
    (s.startDies eastOk).sup.step = 7 ∧ (s.startDies eastOk).sup.held = s.sup.held ∧
      (s.startDies eastOk).plane.cadence = 0 ∧ (s.startDies eastOk).sup.eastOk = eastOk ∧
      ∀ ch, ch < (if eastOk then 256 else 128) → ((s.startDies eastOk).ext.chan ch).state = 1 := by
  cases eastOk with
  | false =>
    rw [s.startDies_west]
    exact ⟨rfl, rfl, PlaneSt.build_cadence _ _ _ _, rfl, fun ch h => by rw [State.noEast_chan, s.diesUp_chan false h]⟩
  | true =>
    rw [s.startDies_both]
    exact ⟨rfl, rfl, PlaneSt.build_cadence _ _ _ _, rfl, fun ch h => s.diesUp_chan true h⟩

/-! ### Where a start from step 2 ends -/

/-- Step 4 of a start from step 2 that secure boot has let go on. -/
def State.atInput (s : State) (c : StartCond) : State := (s.nextStep.supervised c).nextStep

/-- Step 5 of that start. -/
def State.atThermal (s : State) (c : StartCond) : State := ((s.atInput c).bankMeasured c).nextStep

section Start

variable {s : State} {c : StartCond} {n : Nat}

theorem State.startUp_no_reference (h : s.sup.step = 2) (hr : c.refclk = false) : s.startUp c (n + 1) = s.heldFor 1 := by
  have hh : s.sup.holdAt c = 1 := by simp [SupSt.holdAt, h, hr]
  rw [s.startUp_held (by simp [hh]), hh]

theorem State.startUp_reset_low (h : s.sup.step = 2) (hr : c.refclk = true) (hl : s.sup.sysRst = true) :
    s.startUp c (n + 1) = s.heldFor 4 := by
  have hh : s.sup.holdAt c = 4 := by simp [SupSt.holdAt, h, hr, hl]
  rw [s.startUp_held (by simp [hh]), hh]

theorem State.startUp_no_input (h : s.sup.step = 4) (hi : c.inputOk = false) : s.startUp c (n + 1) = s.heldFor 2 := by
  have hh : s.sup.holdAt c = 2 := by simp [SupSt.holdAt, h, hi]
  rw [s.startUp_held (by simp [hh]), hh]

theorem State.startUp_hot (h : s.sup.step = 5) (hc : c.cool = false) : s.startUp c (n + 1) = s.heldFor 3 := by
  have hh : s.sup.holdAt c = 3 := by simp [SupSt.holdAt, h, hc]
  rw [s.startUp_held (by simp [hh]), hh]

/-- A cool module at step 5 starts its dies. -/
theorem State.startUp_cool (h : s.sup.step = 5) (hc : c.cool = true) :
    s.startUp c (n + 2) = s.nextStep.startDies c.eastOk := by
  rw [s.startUp_step5 h (by simp [SupSt.holdAt, h, hc]), State.startUp_step6 (by simp [State.nextStep, h])]

theorem State.startUp_from_input (h : s.sup.step = 4) (hi : c.inputOk = true) :
    s.startUp c (n + 1) = (s.bankMeasured c).nextStep.startUp c n :=
  s.startUp_step4 h (by simp [SupSt.holdAt, h, hi])

section Released

variable (h : s.sup.step = 2) (hr : c.refclk = true) (hl : s.sup.sysRst = false)
include h hr hl

/-- With the reference there and SYS_RST_N high step 2 does not hold. -/
theorem State.startUp_released : s.startUp c (n + 1) = s.nextStep.startUp c n :=
  s.startUp_step2 h (by simp [SupSt.holdAt, h, hr, hl])

/-- Where no slot runs, start-up stays at step 3. -/
theorem State.startUp_recovers (hb : (s.sec.boot c.fuseOk).recovery = true) :
    s.startUp c (n + 2) = (s.nextStep.booted c).heldFor 0 := by
  exact (State.startUp_released h hr hl).trans (State.startUp_step3_recovery (congrArg Nat.succ h) hb)

theorem State.startUp_boots (hb : (s.sec.boot c.fuseOk).recovery = false) :
    s.startUp c (n + 2) = (s.atInput c).startUp c n := by
  exact (State.startUp_released h hr hl).trans (State.startUp_step3 (congrArg Nat.succ h) hb)

end Released

theorem State.atInput_step (h : s.sup.step = 2) : (s.atInput c).sup.step = 4 := by
  change s.sup.step + 1 + 1 = 4
  omega

theorem State.atThermal_step (h : s.sup.step = 2) : (s.atThermal c).sup.step = 5 := by
  have hbank : ((s.atInput c).bankMeasured c).sup = (s.atInput c).sup := State.eraseAll_sup _
  change ((s.atInput c).bankMeasured c).sup.step + 1 = 5
  rw [hbank, State.atInput_step h]

/-- The slot that secure boot has chosen still stands at step 5. -/
theorem State.atThermal_slot (s : State) (c : StartCond) : (s.atThermal c).sec.recovery = (s.sec.boot c.fuseOk).recovery ∧
    (s.atThermal c).sec.slot = (s.sec.boot c.fuseOk).slot ∧ (s.atThermal c).sec.fallback = (s.sec.boot c.fuseOk).fallback := by
  have hsec := State.eraseAll_sec { s.atInput c with
    pwr := (s.atInput c).pwr.healthCheck (s.atInput c).sup.rtc.toNat c.energy c.cap c.esr }
  exact ⟨(congrArg SecSt.recovery hsec).trans rfl, (congrArg SecSt.slot hsec).trans rfl, (congrArg SecSt.fallback hsec).trans rfl⟩

end Start

/-! ### A start after a reset, as the obligation says it -/

/-- The module ready for step 2 of a start-up for a cause: every block as a reset leaves it, with the nonvolatile store,
the security block's fuses and slots and the SYS_RST_N pin of `s`. -/
structure State.ReadyFor (s b : State) (cause : Nat) (low : Bool) : Prop where
  step : b.sup.step = 2
  cause : b.sup.cause = cause
  zeroing : b.sup.zeroing = false
  sysRst : b.sup.sysRst = low
  power : b.pwr.state = 0
  active : b.img.active = 0
  launched : b.plane.launched = false
  mem : b.ext.mem = []
  cmds : b.host.cmds = []
  level : b.sec.level = 0
  record : b.sec.record = s.sec.record
  erase : b.sec.erasePending = s.sec.erasePending
  library : b.img.library = s.img.library
  activeSlot : b.sec.activeSlot = s.sec.activeSlot
  passes : b.sec.passes = s.sec.passes

/-- `t` is how a start-up of `s` for a cause ends, by the conditions it meets; `low` says that SYS_RST_N is. -/
def State.StartsAs (s t : State) (c : StartCond) (cause : Nat) (low : Bool) : Prop :=
  let a := s.sec.activeSlot
  t.sup.cause = cause ∧ t.pwr.state = 0 ∧ t.img.active = 0 ∧ t.plane.launched = false ∧ t.ext.mem = [] ∧
    t.host.cmds = [] ∧ t.sec.level = 0 ∧ t.sec.record = s.sec.record ∧
    (s.sec.erasePending = false → t.img.library = s.img.library) ∧
    (c.refclk = false → t.sup.step = 2 ∧ t.sup.held = 1) ∧
    (c.refclk = true → low = true → t.sup.step = 2 ∧ t.sup.held = 4) ∧
    (c.refclk = true → low = false →
      (c.fuseOk = false ∨ (s.sec.passes a = false ∧ s.sec.passes (1 - a) = false) →
        t.sup.step = 3 ∧ t.sec.recovery = true) ∧
      (c.fuseOk = true → s.sec.passes a = true ∨ s.sec.passes (1 - a) = true →
        t.sec.recovery = false ∧ t.sec.slot = (if s.sec.passes a then a else 1 - a) ∧
        t.sec.fallback = !s.sec.passes a ∧
        (c.inputOk = false → t.sup.step = 4 ∧ t.sup.held = 2) ∧
        (c.inputOk = true → c.cool = false → t.sup.step = 5 ∧ t.sup.held = 3) ∧
        (c.inputOk = true → c.cool = true → t.sup.step = 7 ∧ t.sup.held = 0 ∧ t.plane.cadence = 0 ∧ t.clockOn = true ∧
          t.sup.eastOk = c.eastOk ∧ ∀ ch, ch < (if c.eastOk then 256 else 128) → (t.ext.chan ch).state = 1)))

/-- A start that secure boot has let go on ends at step 4, 5 or 7, with the chosen slot in each. -/
theorem State.atInput_startUp {s : State} (c : StartCond) (n : Nat) (h : s.sup.step = 2) :
    let t := (s.atInput c).startUp c (n + 3)
    (t.sec.recovery = (s.sec.boot c.fuseOk).recovery ∧ t.sec.slot = (s.sec.boot c.fuseOk).slot ∧
      t.sec.fallback = (s.sec.boot c.fuseOk).fallback) ∧
    (c.inputOk = false → t.sup.step = 4 ∧ t.sup.held = 2) ∧
    (c.inputOk = true → c.cool = false → t.sup.step = 5 ∧ t.sup.held = 3) ∧
    (c.inputOk = true → c.cool = true → t.sup.step = 7 ∧ t.sup.held = 0 ∧ t.plane.cadence = 0 ∧
      t.sup.eastOk = c.eastOk ∧ ∀ ch, ch < (if c.eastOk then 256 else 128) → (t.ext.chan ch).state = 1) := by
  intro t
  have h4 : (s.atInput c).sup.step = 4 := State.atInput_step h
  have h5 : (s.atThermal c).sup.step = 5 := State.atThermal_step h
  have hslot := s.atThermal_slot c
  cases hi : c.inputOk with
  | false =>
    have ht : t = (s.atInput c).heldFor 2 := State.startUp_no_input h4 hi
    rw [ht]
    exact ⟨⟨rfl, rfl, rfl⟩, fun _ => ⟨h4, rfl⟩, nofun, nofun⟩
  | true =>
    have hinput : t = (s.atThermal c).startUp c (n + 2) := State.startUp_from_input h4 hi
    cases hc : c.cool with
    | false =>
      have ht : t = (s.atThermal c).heldFor 3 := hinput.trans (State.startUp_hot h5 hc)
      rw [ht]
      exact ⟨hslot, nofun, fun _ _ => ⟨h5, rfl⟩, nofun⟩
    | true =>
      have ht : t = (s.atThermal c).nextStep.startDies c.eastOk := hinput.trans (State.startUp_cool h5 hc)
      rw [ht, State.startDies_sec]
      exact ⟨hslot, nofun, nofun, fun _ _ => State.startDies_spec _ _⟩

/-- Every start from step 2 of a module that is ready for it. -/
theorem State.ReadyFor.startsAs {s b : State} {cause : Nat} {low : Bool} (h : s.ReadyFor b cause low) (c : StartCond)
    (n : Nat) : s.StartsAs (b.startUp c (n + 5)) c cause low := by
  have hk := b.startUp_startKeeps c (n + 5)
  have hslots : b.sec.passes b.sec.activeSlot = s.sec.passes s.sec.activeSlot ∧
      b.sec.passes (1 - b.sec.activeSlot) = s.sec.passes (1 - s.sec.activeSlot) := by
    rw [h.passes, h.activeSlot]
    exact ⟨rfl, rfl⟩
  obtain ⟨hpa, hpb⟩ := hslots
  have hpower : (b.startUp c (n + 5)).pwr.state = 0 := (congrArg Prod.fst hk.shown).trans h.power
  refine ⟨hk.cause.trans h.cause, hpower, hk.active h.active, hk.launched.trans h.launched, hk.mem h.mem, hk.cmds h.cmds,
    hk.level.trans h.level, hk.record.trans h.record, fun he => (hk.library (h.erase.trans he)).trans h.library,
    fun hr => ?reference, fun hr hl => ?low, fun hr hl => ⟨fun hf => ?recovery, fun hf hp => ?boots⟩⟩
  case reference =>
    rw [State.startUp_no_reference h.step hr]
    exact ⟨h.step, rfl⟩
  case low =>
    rw [State.startUp_reset_low h.step hr (h.sysRst.trans hl)]
    exact ⟨h.step, rfl⟩
  case recovery =>
    have hb : (b.sec.boot c.fuseOk).recovery = true := SecSt.boot_recovers (by rwa [hpa, hpb])
    rw [State.startUp_recovers h.step hr (h.sysRst.trans hl) hb]
    exact ⟨congrArg Nat.succ h.step, hb⟩
  case boots =>
    obtain ⟨hb, hfallback, hslot⟩ := SecSt.boot_runs (x := b.sec) hf (by rwa [hpa, hpb])
    rw [hpa] at hfallback hslot
    rw [h.activeSlot] at hslot
    have ht : b.startUp c (n + 5) = (b.atInput c).startUp c (n + 3) := State.startUp_boots h.step hr (h.sysRst.trans hl) hb
    obtain ⟨⟨hrec, hs, hfb⟩, hinput, hhot, hcool⟩ := State.atInput_startUp c n h.step
    rw [← ht] at hrec hs hfb hinput hhot hcool
    refine ⟨hrec.trans hb, hs.trans hslot, hfb.trans hfallback, hinput, hhot, fun hi hc => ?_⟩
    obtain ⟨hstep, hheld, hcadence, heast, hchan⟩ := hcool hi hc
    refine ⟨hstep, hheld, hcadence, ?_, heast, hchan⟩
    simp [State.clockOn, hpower, hstep, hk.zeroing.trans h.zeroing]

/-! ### What the resets start from (R566, R568) -/

/-- A latched source is still latched once the others are gone and it is at its reset values. -/
theorem IcuSrc.get_latched_blank (cpq n : Nat) {d d' : IcuSrc} (hd : d.latched = false) {srcs : Tab IcuSrc}
    (h : (srcs.get d n).latched = true) :
    (Tab.get d' ((srcs.filter (·.2.latched)).map fun p => (p.1, { IcuSrc.reset cpq p.1 with latched := true })) n).latched =
      true := by
  induction srcs with
  | nil => exact absurd (hd.symm.trans h) (by decide)
  | cons p t ih =>
    obtain ⟨m, x⟩ := p
    by_cases hm : m = n
    · have hx : x.latched = true := by simpa [Tab.get, hm] using h
      simp [hx, Tab.get, hm]
    · have ht := ih (by simpa [Tab.get, hm] using h)
      cases hx : x.latched with
      | true => simpa [hx, Tab.get, hm] using ht
      | false => simpa [hx] using ht

theorem IcuSt.blank_latched (i : IcuSt) (cpq : Nat) {n : Nat} (h : (i.src n).latched = true) :
    ((i.blank cpq).src n).latched = true :=
  IcuSrc.get_latched_blank cpq n rfl h

/-- The module as a restart leaves it before start-up: blank, with the cause and one module reset more. -/
def State.restarted (s : State) (cause : Nat) (c : StartCond) : State :=
  let b := s.blank
  State.startStore { b with sup := { b.sup with
    cause := cause, moduleResets := b.sup.moduleResets + 1, step := 2, startMs := c.ms.toNat, cables := c.cables.toNat } }

theorem State.restart_eq (s : State) (cause : Nat) (c : StartCond) : s.restart cause c = (s.restarted cause c).startUp c 9 :=
  rfl

theorem State.restarted_readyFor (s : State) (cause : Nat) (c : StartCond) :
    s.ReadyFor (s.restarted cause c) cause s.sup.sysRst :=
  ⟨rfl, rfl, rfl, rfl, rfl, rfl, rfl, rfl, rfl, rfl, rfl, rfl, rfl, rfl, rfl⟩

/-- The module as an auxiliary power-up leaves it before step 1, with the real-time domain started afresh. -/
def State.powered (s : State) (c : StartCond) : State :=
  let b := { s with sec := s.sec.rebase s.sup.rtc.toNat }.blank
  State.startStore { b with
    sup := { b.sup with cause := 1, moduleResets := 0, computeResets := 0, rtc := 0, step := 1, startMs := c.ms.toNat
                        cables := c.cables.toNat }
    pwr := { b.pwr with checked := 0, faultCause := 0, crashRec := false, faultValid := false, faultRtc := 0 }
    icu := IcuSt.reset b.sup.cpq }

/-- Step 1 has no hold. -/
theorem State.auxPowerUp_eq (s : State) (c : StartCond) : s.auxPowerUp c = (s.powered c).nextStep.startUp c 8 :=
  State.startUp_step1 (s := s.powered c) (n := 8) rfl

theorem State.powered_readyFor (s : State) (c : StartCond) : s.ReadyFor (s.powered c).nextStep 1 s.sup.sysRst :=
  ⟨rfl, rfl, rfl, rfl, rfl, rfl, rfl, rfl, rfl, rfl, rfl, rfl, rfl, rfl, rfl⟩

/-- What a module reset and WAKE keep, and that they are counted. -/
def State.KeptBy (s t : State) : Prop :=
  t.sup.rtc = s.sup.rtc ∧ t.pwr.faultValid = s.pwr.faultValid ∧ t.pwr.faultCause = s.pwr.faultCause ∧
    t.sup.moduleResets = s.sup.moduleResets + 1 ∧ ∀ n, (s.icu.src n).latched = true → (t.icu.src n).latched = true

theorem State.restart_startsAs (s : State) (cause : Nat) (c : StartCond) :
    s.StartsAs (s.restart cause c) c cause s.sup.sysRst :=
  (s.restarted_readyFor cause c).startsAs c 4

theorem State.restart_keptBy (s : State) (cause : Nat) (c : StartCond) : s.KeptBy (s.restart cause c) := by
  have hk := (s.restarted cause c).startUp_startKeeps c 9
  have hfault := congrArg Prod.snd hk.shown
  exact ⟨hk.rtc, congrArg Prod.fst hfault, congrArg Prod.snd hfault, hk.moduleResets,
    fun n h => (hk.latched n).trans (s.icu.blank_latched _ h)⟩

theorem State.auxPowerUp_startsAs (s : State) (c : StartCond) : s.StartsAs (s.auxPowerUp c) c 1 s.sup.sysRst := by
  rw [s.auxPowerUp_eq]
  exact (s.powered_readyFor c).startsAs c 3

theorem State.auxPowerUp_fresh (s : State) (c : StartCond) : (s.auxPowerUp c).sup.rtc = 0 ∧
    (s.auxPowerUp c).pwr.faultValid = false ∧ (s.auxPowerUp c).sup.moduleResets = 0 := by
  have hk := (s.powered c).nextStep.startUp_startKeeps c 8
  rw [s.auxPowerUp_eq]
  exact ⟨hk.rtc, congrArg (fun x => x.2.1) hk.shown, hk.moduleResets⟩

/-- A start-up that goes on from step 5 leaves the security block. -/
theorem State.startUp_from_thermal {s : State} (c : StartCond) (n : Nat) (h : s.sup.step = 5) :
    (s.startUp c (n + 2)).sup.step = (if c.cool then 7 else 5) ∧ (s.startUp c (n + 2)).sup.held = (if c.cool then 0 else 3) ∧
      (s.startUp c (n + 2)).sec = s.sec := by
  cases hc : c.cool with
  | false =>
    rw [State.startUp_hot h hc]
    exact ⟨h, rfl, rfl⟩
  | true =>
    obtain ⟨hstep, hheld, -⟩ := s.nextStep.startDies_spec c.eastOk
    rw [State.startUp_cool h hc]
    exact ⟨hstep, hheld, State.startDies_sec _ _⟩

/-! ### The commands -/

/-- The answer to a sideband command changes the answer's bytes at most. -/
theorem State.sideband_eq (s : State) (code : Nat) (answer : Bytes) : ∃ d, s.sideband code answer = { s with data := d } := by
  unfold State.sideband
  split
  · exact ⟨_, rfl⟩
  · exact ⟨_, rfl⟩

section Commands

variable {s : State} {c : StartCond}

theorem exec_wake_of_off (hoff : s.on = false) (hr : s.pwr.railsFailing = false) :
    ∃ d, exec (.wake c) s = .next { s.restart 6 c with data := d } := by
  obtain ⟨d, hd⟩ := (s.restart 6 c).sideband_eq 0 []
  exact ⟨d, congrArg Host.Outcome.next (by simp [hoff, hr, hd])⟩

theorem exec_wake_of_on (hon : s.on = true) (hr : s.pwr.railsFailing = false) :
    exec (.wake c) s = .next { s with data := [2] } :=
  congrArg Host.Outcome.next (by simp [hon, hr, State.sideband])

theorem State.moduleReset_of_on (hon : s.on = true) (cause : Nat) : s.moduleReset cause c = s.restart cause c := if_pos hon

theorem State.moduleReset_of_off (hoff : s.on = false) (cause : Nat) : s.moduleReset cause c = s :=
  if_neg (by simp [hoff])

theorem exec_reset_of_running (hon : s.on = true) (hrec : s.sec.recovery = false) :
    ∃ d, exec (.reset c) s = .next { s.restart 3 c with data := d } := by
  obtain ⟨d, hd⟩ := (s.restart 3 c).sideband_eq 0 []
  exact ⟨d, congrArg Host.Outcome.next (by simp [hon, hrec, State.moduleReset_of_on hon, hd])⟩

theorem exec_reset_of_recovery (hrec : s.sec.recovery = true) (hr : s.pwr.railsFailing = false) :
    exec (.reset c) s = .next { s with data := [2] } :=
  congrArg Host.Outcome.next (by simp [hrec, hr, State.sideband])

/-- SYS_RST_N as the pin stands. -/
def State.withSysRst (s : State) (low : Bool) : State := { s with sup := { s.sup with sysRst := low } }

theorem exec_sysRstN_low (hon : s.on = true) : exec (.sysRstN true c) s = .next ((s.withSysRst true).restart 2 c) :=
  congrArg Host.Outcome.next (State.moduleReset_of_on (s := s.withSysRst true) hon 2)

theorem exec_sysRstN_low_of_off (hoff : s.on = false) : exec (.sysRstN true c) s = .next (s.withSysRst true) :=
  congrArg Host.Outcome.next (State.moduleReset_of_off (s := s.withSysRst true) hoff 2)

theorem exec_sysRstN_high (h : s.sup.held ≠ 4) : exec (.sysRstN false c) s = .next (s.withSysRst false) :=
  congrArg Host.Outcome.next (if_neg h)

theorem exec_startHoldRelease_of_none (h : s.sup.held = 0) : exec (.startHoldRelease c) s = .next s :=
  congrArg Host.Outcome.next (by simp [State.goOn, h])

theorem exec_startHoldRelease_of_held (hon : s.on = true) (h : s.sup.held ≠ 0) : exec (.startHoldRelease c) s =
    .next (State.startUp { s with sup := { s.sup with startMs := c.ms.toNat, cables := c.cables.toNat } } c 9) :=
  congrArg Host.Outcome.next (by simp [State.goOn, hon, h])

theorem exec_moduleReset_of_wanted (hon : s.on = true) {cause : Nat} (h : s.sup.moduleWanted = some cause) :
    exec (.moduleReset c) s = .next (s.restart cause c) :=
  congrArg Host.Outcome.next (by rw [h]; exact State.moduleReset_of_on hon cause)

theorem exec_moduleReset_of_none (h : s.sup.moduleWanted = none) : exec (.moduleReset c) s = .next s :=
  congrArg Host.Outcome.next (by rw [h])

/-! ### The requests of SUP_RESET_CTRL (R569, R573) -/

theorem State.resetCtrl_bad {key : Nat} (h : key ≠ 0x5AFE) (m k : Bool) : s.resetCtrl key m k = s :=
  if_pos (.inr h)

theorem State.resetCtrl_module (hon : s.on = true) (k : Bool) :
    s.resetCtrl 0x5AFE true k = { s with sup := { s.sup with moduleWanted := some 4 } } := by
  simp [State.resetCtrl, hon]

theorem State.resetCtrl_compute (hon : s.on = true) : s.resetCtrl 0x5AFE false true = s.computeReset := by
  simp [State.resetCtrl, hon]

theorem State.resetCtrl_none (key : Nat) : s.resetCtrl key false false = s := by
  simp [State.resetCtrl]

theorem exec_moduleRequest (key : BitVec 16) : exec (.moduleRequest key) s = .next (s.resetCtrl key.toNat true false) := rfl

theorem exec_computeRequest (key : BitVec 16) : exec (.computeRequest key) s = .next (s.resetCtrl key.toNat false true) := rfl

/-- A write of SUP_RESET_CTRL is a request by the register's KEY, MODULE and COMPUTE (R573). -/
theorem exec_registerWrite_resetCtrl (hon : s.on = true) (val : BitVec 64) : exec (.registerWrite (.host 0) 0x6008 8 val) s =
    .next (s.resetCtrl (bits val.toNat 63 48) (bit val.toNat 1) (bit val.toNat 0)) := by
  rw [exec_registerWrite_host hon (by decide), State.writeBar0, if_pos (by decide), State.writeSup,
    mergeBits_whole _ val.isLt]

/-- SUP_RESET_CTRL reads as 0, and a read clears nothing. -/
theorem exec_readClear_resetCtrl (hon : s.on = true) : exec (.readClear (.host 0) 0x6008 8) s = .next { s with bus := 0 } := by
  have hclear : s.regClear false 0x6008 (2 ^ 64 - 1) = s := rfl
  have hreg : s.reg 0x6008 = 0 := rfl
  rw [exec_readClear_host hon (accessBits_whole rfl) (by decide), hclear, hreg, readShape_whole, Nat.zero_mod]

end Commands

/-! ### The obligation -/

/-- Settles O57: every start goes from step 2 over a module that a reset has made ready, and each request of SUP_RESET_CTRL
is the command with its KEY. -/
theorem startsAndResets : Obligations.StartsAndResets := by
  intro s c
  refine ⟨⟨_, rfl, s.auxPowerUp_startsAs c⟩, ⟨_, rfl, s.auxPowerUp_fresh c⟩, fun hoff hr => ?wakes,
    fun hon hr => ⟨exec_wake_of_on hon hr, fun hrec => ?resets, fun hrec => exec_reset_of_recovery hrec hr⟩, fun hon => ?low,
    exec_sysRstN_low_of_off, exec_sysRstN_high, exec_startHoldRelease_of_none, fun hon hheld hstep => ?thermal,
    fun key hon => ⟨?module, ?waits, ?compute, ?badKey⟩, fun val hon => ⟨?noKey, ?moduleBit, ?computeBit, ?neither, ?read⟩,
    fun cause hon hw => ?wanted, exec_moduleReset_of_none, fun hz => ?zeroed, fun hz => ?quiet, ?rail⟩
  case wakes =>
    obtain ⟨d, hd⟩ := exec_wake_of_off (c := c) hoff hr
    exact ⟨⟨_, hd, s.restart_startsAs 6 c⟩, ⟨_, hd, s.restart_keptBy 6 c⟩⟩
  case resets =>
    obtain ⟨d, hd⟩ := exec_reset_of_running (c := c) hon hrec
    exact ⟨⟨_, hd, s.restart_startsAs 3 c⟩, ⟨_, hd, s.restart_keptBy 3 c⟩⟩
  case low =>
    have he := exec_sysRstN_low (c := c) hon
    exact ⟨⟨_, he, (s.withSysRst true).restart_startsAs 2 c⟩, ⟨_, he, (s.withSysRst true).restart_keptBy 2 c⟩⟩
  case thermal => exact ⟨_, exec_startHoldRelease_of_held hon hheld, State.startUp_from_thermal c 7 hstep⟩
  case module =>
    rintro rfl
    exact congrArg Host.Outcome.next (State.resetCtrl_module hon false)
  case waits =>
    rintro rfl hsecond
    exact congrArg Host.Outcome.next ((State.resetCtrl_compute hon).trans (if_pos hsecond))
  case compute =>
    rintro rfl hsecond
    refine ⟨s.computeBegin, congrArg Host.Outcome.next ((State.resetCtrl_compute hon).trans (if_neg (by simp [hsecond]))),
      rfl, rfl, rfl, ?_, rfl, rfl, rfl, rfl, rfl, rfl, rfl, rfl⟩
    exact Bool.and_false _
  case badKey =>
    intro hkey
    have hne : key.toNat ≠ 0x5AFE := fun h => hkey (BitVec.eq_of_toNat_eq h)
    exact ⟨congrArg Host.Outcome.next (State.resetCtrl_bad hne _ _), congrArg Host.Outcome.next (State.resetCtrl_bad hne _ _)⟩
  case noKey =>
    intro hkey
    rw [exec_registerWrite_resetCtrl hon, State.resetCtrl_bad hkey]
  case moduleBit =>
    intro hkey hm
    rw [exec_registerWrite_resetCtrl hon, hkey, hm, State.resetCtrl_module hon, exec_moduleRequest]
    exact congrArg Host.Outcome.next (State.resetCtrl_module hon false).symm
  case computeBit =>
    intro hkey hm hk
    rw [exec_registerWrite_resetCtrl hon, hkey, hm, hk]
    rfl
  case neither =>
    intro hm hk
    rw [exec_registerWrite_resetCtrl hon, hm, hk, State.resetCtrl_none]
  case read => exact exec_readClear_resetCtrl hon
  case wanted =>
    have he := exec_moduleReset_of_wanted (c := c) hon hw
    exact ⟨⟨_, he, s.restart_startsAs cause c⟩, ⟨_, he, s.restart_keptBy cause c⟩⟩
  case zeroed => exact congrArg Host.Outcome.next (if_pos hz)
  case quiet => exact congrArg Host.Outcome.next (if_neg (by simp [hz]))
  case rail => exact ⟨_, rfl, rfl, rfl, rfl, rfl, rfl, rfl⟩

end Sys2Proof.Machine
end

section
/-! What every command keeps: the queue it was taken from (log entry 1), and the debug level within the reach of the
lifecycle state (R530, R547, R548). -/

namespace Sys2Proof.Machine

/-! ### The debug level within reach -/

/-- A session is at a level that the lifecycle state lets it reach. -/
def SecSt.Within (x : SecSt) : Prop := x.level ≤ x.reach

/-- What the level and its reach are read from. -/
def SecSt.access (x : SecSt) : Nat × Life × Nat × Bytes := (x.level, x.life, x.granted, x.record)

theorem SecSt.Within.of_access {x y : SecSt} (hx : x.Within) (h : y.access = x.access) : y.Within := by
  simp only [SecSt.access, Prod.mk.injEq] at h
  obtain ⟨hlevel, hlife, hgranted, hrecord⟩ := h
  simpa only [SecSt.Within, SecSt.reach, hlevel, hlife, hgranted, hrecord] using hx

theorem SecSt.within_of_level_zero {x : SecSt} (h : x.level = 0) : x.Within := by
  simp [SecSt.Within, h]

theorem SecSt.lowered_within (x : SecSt) : x.lowered.Within := by
  unfold SecSt.lowered
  split
  · exact SecSt.within_of_level_zero rfl
  · next h => exact Nat.le_of_not_lt h

/-- A session that is granted is within reach (R548). -/
theorem SecSt.le_reach_of_granted {x : SecSt} {pstate level : Nat} (h : x.sessionResult pstate level = 0) :
    level ≤ x.reach := by
  unfold SecSt.sessionResult at h
  split at h
  · cases h
  · split at h
    · cases h
    · omega

/-! ### Operations on the security block -/

@[simp] theorem SecSt.erased_access (x : SecSt) (p : PwrSt) : (x.erased p).1.access = x.access := by
  rw [x.erased_eq p]
  rfl

@[simp] theorem SecSt.boot_access (x : SecSt) (fuseOk : Bool) : (x.boot fuseOk).access = x.access := by
  rw [x.boot_eq fuseOk]
  rfl

theorem SecSt.counted_access (x : SecSt) (op : Nat) : (x.counted op).access = x.access := by
  unfold SecSt.counted
  split
  · rfl
  · split <;> rfl

theorem SecSt.failed_access (x : SecSt) (op code rtc : Nat) : (x.failed op code rtc).access = x.access := by
  unfold SecSt.failed
  dsimp only
  split
  · rfl
  · split <;> rfl

theorem SecSt.submitSecond_access (x : SecSt) (moduleId rtc : Nat) (a : Bytes) :
    (x.submitSecond moduleId rtc a).access = x.access := by
  unfold SecSt.submitSecond
  dsimp only
  split
  · exact x.void.failed_access _ _ _
  · split
    · exact x.void.failed_access _ _ _
    · rfl

/-- Steps 1 to 6 of R537 change no lifecycle state and no level. -/
theorem SecSt.submit_access (x : SecSt) (p : PwrSt) (moduleId rtc : Nat) : (x.submit p moduleId rtc).1.access = x.access := by
  unfold SecSt.submit
  split
  · rfl
  · dsimp only
    split
    · rfl
    · generalize (if leAt (x.mbox.read 0 8192) 40 1 ≤ 5 then _ else (p, true)) = r
      split
      · rfl
      · exact (SecSt.submitSecond_access _ _ _ _).trans (x.counted_access _)

theorem SecSt.authorise_within {x : SecSt} (h : x.Within) (p : PwrSt) (op rtc : Nat) : (x.authorise p op rtc).1.Within := by
  unfold SecSt.authorise
  split
  · exact h
  · dsimp only
    split
    · exact SecSt.lowered_within _
    · exact h.of_access rfl

theorem SecSt.relock_within {x : SecSt} (h : x.Within) (p : PwrSt) : (x.relock p).1.Within := by
  unfold SecSt.relock
  split
  · exact h.of_access rfl
  · dsimp only
    split
    · exact SecSt.within_of_level_zero rfl
    · exact h.of_access rfl

theorem SecSt.leaseExpiry_within {x : SecSt} (h : x.Within) (p : PwrSt) (rtc : Nat) : (x.leaseExpiry p rtc).1.Within := by
  unfold SecSt.leaseExpiry
  split
  · exact (SecSt.relock_within (SecSt.within_of_level_zero (x := { x with level := 0 }) rfl) p).of_access rfl
  · exact h

theorem SecSt.nonceExpiry_access (x : SecSt) (rtc : Nat) : (x.nonceExpiry rtc).access = x.access := by
  unfold SecSt.nonceExpiry
  split <;> rfl

theorem SecSt.update_access (x : SecSt) (f : FwSlot) : (x.update f).access = x.access := by
  unfold SecSt.update
  split <;> rfl

/-! ### What a command keeps -/

/-- From `s` to `t` the queue is as it was, and a debug level within reach stays within reach. -/
structure State.Keeps (s t : State) : Prop where
  pending : t.pending = s.pending
  within : s.sec.Within → t.sec.Within

theorem State.keeps_refl (s : State) : s.Keeps s := ⟨rfl, id⟩

theorem State.Keeps.trans {s t u : State} (h : s.Keeps t) (g : t.Keeps u) : s.Keeps u :=
  ⟨g.pending.trans h.pending, g.within ∘ h.within⟩

/-- What touches neither the queue nor the security block keeps both. -/
theorem State.keeps_of_eq {s t : State} (hp : t.pending = s.pending) (hs : t.sec = s.sec) : s.Keeps t := ⟨hp, fun h => hs ▸ h⟩

theorem State.keeps_of_access {s t : State} (hp : t.pending = s.pending) (hs : t.sec.access = s.sec.access) : s.Keeps t :=
  ⟨hp, fun h => h.of_access hs⟩

theorem State.keeps_ite {s t u : State} {p : Prop} [Decidable p] (h : s.Keeps t) (g : s.Keeps u) :
    s.Keeps (if p then t else u) := by
  split
  · exact h
  · exact g

theorem State.keeps_foldl {α : Type} {f : State → α → State} (h : ∀ (s : State) a, s.Keeps (f s a)) (l : List α) (s : State) :
    s.Keeps (l.foldl f s) := by
  induction l generalizing s with
  | nil => exact s.keeps_refl
  | cons a t ih => exact (h s a).trans (ih _)

theorem State.answer_keeps (s : State) (id status detail r0 r1 : Nat) : s.Keeps (s.answer id status detail r0 r1) :=
  State.keeps_of_eq (s.answer_pending ..) (s.answer_sec ..)

theorem State.refuse_keeps (s : State) (id detail : Nat) : s.Keeps (s.refuse id detail) := s.answer_keeps ..

theorem State.imgCode_keeps (s : State) (id code r0 : Nat) : s.Keeps (s.imgCode id code r0) :=
  State.keeps_of_eq (s.imgCode_pending ..) (s.imgCode_sec ..)

theorem State.loadRefused_keeps (s : State) (id code : Nat) : s.Keeps (s.loadRefused id code) :=
  State.keeps_of_eq (s.loadRefused_pending ..) (s.loadRefused_sec ..)

theorem State.endRun_keeps (s : State) : s.Keeps s.endRun := State.keeps_of_eq s.endRun_pending s.endRun_sec

theorem State.deviceWrite_keeps (s : State) (a : Nat) (bs : Bytes) : s.Keeps (s.deviceWrite a bs).1 := State.keeps_of_eq rfl rfl

theorem State.deviceRead_keeps (s : State) (a n : Nat) : s.Keeps (s.deviceRead a n).1 := State.keeps_of_eq rfl rfl

/-! ### Power, resets and start-up -/

theorem State.endSession_keeps (s : State) : s.Keeps s.endSession :=
  ⟨s.endSession_pending, fun _ => SecSt.within_of_level_zero rfl⟩

theorem State.off_keeps (s : State) : s.Keeps s.off := ⟨rfl, fun _ => SecSt.within_of_level_zero rfl⟩

theorem State.eraseAll_keeps (s : State) : s.Keeps s.eraseAll := by
  refine State.keeps_of_access s.eraseAll_pending ?_
  unfold State.eraseAll
  split
  · exact (SecSt.erased_access _ _).trans (congrArg SecSt.access s.erase_sec)
  · rfl

theorem State.startUp_keeps (s : State) (c : StartCond) (n : Nat) : s.Keeps (s.startUp c n) := by
  induction n generalizing s with
  | zero => exact s.keeps_refl
  | succ n ih =>
    unfold State.startUp
    dsimp only
    split
    · exact State.keeps_of_eq rfl rfl
    · split
      · exact (State.keeps_of_eq (s := s) (by rfl) (by rfl)).trans (ih _)
      · exact (State.keeps_of_eq (s := s) (by rfl) (by rfl)).trans (ih _)
      · exact (State.keeps_of_eq (s := s) (by rfl) (by rfl)).trans (ih _)
      · split
        · exact State.keeps_of_access rfl (s.sec.boot_access _)
        · exact (State.keeps_of_access (s := s) (by rfl) (s.sec.boot_access c.fuseOk)).trans (ih _)
      · refine State.Keeps.trans ?_ (ih _)
        exact ((State.keeps_of_eq (s := s) (by rfl) (by rfl)).trans (State.eraseAll_keeps _)).trans (State.keeps_of_eq rfl rfl)
      · exact State.keeps_of_eq (s.startDies_pending _) (s.startDies_sec _)
      · exact s.keeps_refl

theorem State.restart_keeps (s : State) (cause : Nat) (c : StartCond) : s.Keeps (s.restart cause c) := by
  have hblank : s.Keeps (s.restarted cause c) := ⟨rfl, fun _ => SecSt.within_of_level_zero rfl⟩
  exact s.restart_eq cause c ▸ hblank.trans (State.startUp_keeps _ _ _)

theorem State.moduleReset_keeps (s : State) (cause : Nat) (c : StartCond) : s.Keeps (s.moduleReset cause c) :=
  State.keeps_ite (s.restart_keeps cause c) s.keeps_refl

theorem State.auxPowerUp_keeps (s : State) (c : StartCond) : s.Keeps (s.auxPowerUp c) := by
  have hblank : s.Keeps (s.powered c).nextStep := ⟨rfl, fun _ => SecSt.within_of_level_zero rfl⟩
  exact s.auxPowerUp_eq c ▸ hblank.trans (State.startUp_keeps _ _ _)

theorem State.goOn_keeps (s : State) (c : StartCond) : s.Keeps (s.goOn c) :=
  State.keeps_ite ((State.keeps_of_eq (s := s) (by rfl) (by rfl)).trans (State.startUp_keeps _ _ _)) s.keeps_refl

theorem State.sideband_keeps (s : State) (code : Nat) (answer : Bytes) : s.Keeps (s.sideband code answer) :=
  State.keeps_of_eq (s.sideband_pending ..) (s.sideband_sec ..)

theorem State.powerStart_keeps (s : State) (id t : Nat) : s.Keeps (s.powerStart id t) :=
  State.Keeps.trans (State.keeps_ite s.endSession_keeps s.keeps_refl) (State.keeps_of_eq (by rfl) (by rfl))

theorem State.enter_keeps (s : State) (t : Nat) : s.Keeps (s.enter t) := by
  refine ⟨s.enter_pending t, fun h => ?_⟩
  unfold State.enter
  dsimp only
  split
  · exact SecSt.within_of_level_zero rfl
  · simp only [apply_ite State.sec, State.endRun_sec, ite_self]
    exact h

/-! ### The security block's own commands -/

theorem State.dbgResult_keeps (s : State) (code : Nat) : s.Keeps (s.dbgResult code) := State.keeps_of_access rfl rfl

theorem State.onSec_keeps {s : State} {r : SecSt × PwrSt} (h : s.sec.Within → r.1.Within) : s.Keeps (s.onSec r) := ⟨rfl, h⟩

theorem State.dbgRequest_keeps (s : State) {f : State → State} (h : s.Keeps (f s)) : s.Keeps (s.dbgRequest f) :=
  State.keeps_ite s.keeps_refl (State.keeps_ite (s.dbgResult_keeps 1) (State.keeps_ite (s.dbgResult_keeps 7) h))

theorem State.newNonce_keeps (s : State) : s.Keeps s.newNonce :=
  State.keeps_ite (State.keeps_of_access rfl rfl) (State.keeps_of_access rfl rfl)

theorem State.submit_keeps (s : State) : s.Keeps s.submit :=
  State.keeps_ite (State.onSec_keeps fun h => h.of_access (s.sec.submit_access ..)) s.keeps_refl

theorem State.authorise_keeps (s : State) (op : Nat) (rtc : BitVec 48) : s.Keeps (s.authorise op rtc) := by
  have hr : s.Keeps (s.atRtc rtc) := State.keeps_of_eq rfl rfl
  refine State.keeps_ite hr (hr.trans (State.Keeps.trans ?_ (State.eraseAll_keeps _)))
  have he : (s.atRtc rtc).Keeps (if opErases op then (s.atRtc rtc).endRun else s.atRtc rtc) :=
    State.keeps_ite (State.endRun_keeps _) (State.keeps_refl _)
  exact he.trans (State.onSec_keeps fun h => SecSt.authorise_within h _ op rtc.toNat)

theorem State.session_keeps (s : State) (level : Nat) : s.Keeps (s.session level) := by
  refine ⟨s.session_pending level, fun hw => ?_⟩
  unfold State.session
  dsimp only
  split
  · exact hw.of_access rfl
  · next hgranted =>
    split
    · exact SecSt.within_of_level_zero rfl
    · simp only [apply_ite State.sec, State.endRun_sec, ite_self]
      exact SecSt.le_reach_of_granted (Decidable.not_not.mp hgranted)

theorem State.sessionEnd_keeps (s : State) : s.Keeps (s.endSession.dbgResult 0) :=
  s.endSession_keeps.trans (State.dbgResult_keeps _ _)

theorem State.relock_keeps (s : State) : s.Keeps s.relock :=
  State.keeps_ite (State.onSec_keeps fun h => SecSt.relock_within h _) s.keeps_refl

theorem State.jtag_keeps (s : State) (ir : JtagIr) (allowed : Bool) : s.Keeps (s.jtag ir allowed) :=
  State.keeps_of_access (s.jtag_pending ..) (by unfold State.jtag; split <;> rfl)

theorem State.spdm_keeps (s : State) (answer : SecSt → Bytes) : s.Keeps (s.spdm answer) :=
  State.keeps_of_eq (s.spdm_pending _) (s.spdm_sec _)

/-! ### Registers, control cores and commits -/

theorem State.read_keeps (s : State) (who : Agent) (off size : Nat) : s.Keeps (s.read who off size) :=
  State.keeps_of_eq (s.read_pending ..) (s.read_sec ..)

theorem State.dbgCtrl_keeps (s : State) (w : Nat) : s.Keeps (s.dbgCtrl w) := by
  unfold State.dbgCtrl
  split
  · exact s.dbgRequest_keeps s.newNonce_keeps
  · exact s.submit_keeps
  · exact s.dbgRequest_keeps (s.session_keeps _)
  · exact s.dbgRequest_keeps (f := fun s => s.endSession.dbgResult 0) s.sessionEnd_keeps
  · exact s.relock_keeps
  · exact s.keeps_refl

theorem State.writeBar0_keeps (s : State) (ctl : Option Nat) (icu : Bool) (a m v : Nat) : s.Keeps (s.writeBar0 ctl icu a m v) :=
  State.keeps_of_eq (s.writeBar0_pending ..) (s.writeBar0_sec ..)

theorem State.writeDebug_keeps (s : State) (a m v : Nat) : s.Keeps (s.writeDebug a m v) := by
  refine State.keeps_ite s.keeps_refl (State.keeps_ite (State.keeps_ite (s.dbgCtrl_keeps _) s.keeps_refl) (State.keeps_ite ?_ ?_))
  · exact State.keeps_ite s.keeps_refl (State.keeps_of_access rfl rfl)
  · exact State.keeps_ite (s.writeBar0_keeps ..) s.keeps_refl

theorem State.write_keeps (s : State) (who : Agent) (off size : Nat) (val : BitVec 64) : s.Keeps (s.write who off size val) := by
  unfold State.write
  refine State.keeps_ite s.keeps_refl ?_
  dsimp only
  split
  · exact State.keeps_ite s.keeps_refl (State.keeps_of_eq rfl rfl)
  · exact s.keeps_refl
  · exact State.keeps_ite (s.writeBar0_keeps ..) (State.keeps_ite (State.keeps_of_eq rfl rfl) s.keeps_refl)
  · exact s.writeBar0_keeps ..
  · exact s.writeDebug_keeps ..
  · refine State.keeps_ite ?_ s.keeps_refl
    split
    · exact State.keeps_of_eq (s.coreWrite_pending ..) (s.coreWrite_sec ..)
    · exact s.keeps_refl

theorem State.reservedRead_keeps (s : State) (ch off n : Nat) : s.Keeps (s.reservedRead ch off n).1 := by
  unfold State.reservedRead
  split
  · exact State.keeps_of_eq rfl rfl
  · dsimp only
    split <;> exact State.keeps_of_eq rfl rfl

theorem State.ctlLoad_keeps (s : State) (k a n : Nat) : s.Keeps (s.ctlLoad k a n).1 := by
  unfold State.ctlLoad
  split
  · exact s.keeps_refl
  · exact s.keeps_refl
  · exact s.keeps_refl
  · exact State.keeps_of_eq (s.readCtl_pending ..) (s.readCtl_sec ..)
  · exact s.deviceRead_keeps ..
  · exact s.reservedRead_keeps ..
  · exact s.keeps_refl

theorem State.ctlStore_keeps {s t : State} {k a : Nat} {bs : Bytes} (h : s.ctlStore k a bs = some t) : s.Keeps t := by
  unfold State.ctlStore at h
  split at h <;> cases h
  · exact State.keeps_of_eq rfl rfl
  · exact State.keeps_of_eq rfl rfl
  · exact s.write_keeps ..
  · exact s.deviceWrite_keeps ..
  · exact State.keeps_of_eq (s.reservedWrite_pending ..) (s.reservedWrite_sec ..)

theorem State.ctlTrap_keeps (s : State) (k cause tval : Nat) : s.Keeps (s.ctlTrap k cause tval) := State.keeps_of_eq rfl rfl

theorem State.onIcu_keeps (s : State) (f : IcuSt → IcuSt) : s.Keeps (s.onIcu f) := State.keeps_of_eq rfl rfl

theorem State.ladle_keeps (s : State) (k src dst size n : Nat) : s.Keeps (s.ladle k src dst size n) := by
  induction n generalizing s with
  | zero => exact State.keeps_ite s.keeps_refl (State.keeps_of_eq rfl rfl)
  | succ n ih =>
    unfold State.ladle
    refine State.keeps_ite ?_ (State.keeps_of_eq rfl rfl)
    have hload := s.ctlLoad_keeps k (src + (s.icu.core k).ladleDone.toNat * size) size
    dsimp only
    split
    · next heq => exact (heq ▸ hload).trans (State.ctlTrap_keeps _ _ _ _)
    · next s1 bs heq =>
      have h1 : s.Keeps s1 := by rwa [heq] at hload
      split
      · exact h1.trans (State.ctlTrap_keeps _ _ _ _)
      · next s2 hstore =>
        have h2 := h1.trans (State.ctlStore_keeps hstore)
        refine State.keeps_ite (h2.trans (State.keeps_of_eq rfl rfl)) (State.Keeps.trans ?_ (ih _))
        exact h2.trans (State.keeps_of_eq rfl rfl)

theorem State.takeLine_keeps {s t : State} {n : Nat} (h : s.takeLine n = some t) : s.Keeps t := by
  unfold State.takeLine at h
  repeat' split at h
  all_goals cases h
  all_goals exact State.keeps_of_eq rfl rfl

theorem State.takeEvent_keeps (s : State) (src : Part) : s.Keeps (s.takeEvent src).2 := by
  cases src <;> exact State.keeps_of_eq rfl rfl

theorem State.answerCommit_keeps (s : State) (cmd : Option Nat) (status detail r0 : Nat) :
    s.Keeps (s.answerCommit cmd status detail r0) :=
  State.keeps_of_eq (s.answerCommit_pending ..) (s.answerCommit_sec ..)

theorem State.commitDone_keeps (s : State) (a : CommitAct) : s.Keeps (s.commitDone a).1 := by
  cases a with
  | audit => exact State.keeps_of_eq rfl rfl
  | mapExt e => exact State.keeps_of_eq rfl rfl
  | store slot img => exact State.keeps_of_eq rfl rfl
  | delete slot => exact State.keeps_of_eq rfl rfl
  | firmware slot svn => exact State.keeps_of_access rfl rfl

/-! ### Host commands -/

theorem State.tokensEnd_keeps (s : State) (c : HostCmd) (core pail result : Nat) : s.Keeps (s.tokensEnd c core pail result) :=
  State.keeps_of_eq (s.tokensEnd_pending ..) (s.tokensEnd_sec ..)

theorem State.copyInDone_keeps (s : State) (c : HostCmd) : s.Keeps (s.copyInDone c) :=
  State.keeps_of_eq (s.copyInDone_pending c) (s.copyInDone_sec c)

theorem State.bar2Byte_keeps (s : State) (fn off : Nat) : s.Keeps (s.bar2Byte fn off).1 := by
  unfold State.bar2Byte
  split
  · exact s.keeps_refl
  · exact s.deviceRead_keeps ..

end Sys2Proof.Machine
end

section
/-! Every command is answered, and keeps the queue and the debug level within reach (R530; log entry 1). -/

namespace Sys2Proof.Machine

/-- A command is answered with a next state that keeps the queue and the debug level within reach. -/
def State.Answered (s : State) (r : Result) : Prop := ∃ t, r = .next t ∧ s.Keeps t

theorem State.answered_next {s t : State} (h : s.Keeps t) : s.Answered (.next t) := ⟨t, rfl, h⟩

theorem State.answered_of_eq {s t : State} (hp : t.pending = s.pending) (hs : t.sec = s.sec) : s.Answered (.next t) :=
  State.answered_next (State.keeps_of_eq hp hs)

theorem State.answered_ite_of_eq {s t : State} {p : Prop} [Decidable p] (hp : t.pending = s.pending) (hs : t.sec = s.sec) :
    s.Answered (.next (if p then t else s)) :=
  State.answered_next (State.keeps_ite (State.keeps_of_eq hp hs) s.keeps_refl)

/-! ### By the shape of the command -/

theorem State.answered_slot (s : State) (c : Nat) (f : SeqEnv → Nat → Core → Core × List Transit) : s.Answered (.next (s.slot c f)) :=
  State.answered_of_eq (s.slot_pending c f) (s.slot_sec c f)

theorem State.answered_slotIn (s : State) (c : Nat) (f : Nat → Core → Core) : s.Answered (.next (s.slotIn c f)) :=
  State.answered_of_eq (s.slotIn_pending c f) (s.slotIn_sec c f)

theorem State.answered_coreEvent (s : State) (c : Nat) (f : Nat → Core → Core) : s.Answered (.next (s.coreEvent c f)) :=
  State.answered_of_eq (s.coreEvent_pending c f) (s.coreEvent_sec c f)

theorem State.answered_aloneAt (s : State) (c : Nat) (f : Nat → Core → Core) : s.Answered (.next (s.aloneAt c f)) :=
  State.answered_of_eq (s.aloneAt_pending c f) (s.aloneAt_sec c f)

theorem State.answered_actAt (s : State) (c : Nat) (f : Nat → Core → Core) : s.Answered (.next (s.actAt c f)) :=
  State.answered_of_eq (s.actAt_pending c f) (s.actAt_sec c f)

theorem State.answered_rearEvent (s : State) (c : Nat) (due : Nat → Core → Bool) (f : Nat → Core → Core) :
    s.Answered (.next (s.rearEvent c due f)) :=
  State.answered_of_eq (s.rearEvent_pending c due f) (s.rearEvent_sec c due f)

theorem State.coreWrite_keeps (s : State) (c : Nat) (f : Core → Core) : s.Keeps (s.coreWrite c f) :=
  State.keeps_of_eq (s.coreWrite_pending c f) (s.coreWrite_sec c f)

theorem State.answered_onCmd (s : State) (op id : Nat) {f : HostCmd → State} (h : ∀ c, s.Keeps (f c)) : s.Answered (s.onCmd op id f) := by
  refine State.answered_next ?_
  split
  · exact h _
  · exact s.keeps_refl

theorem State.deliverDue_keeps (s : State) (f : Transit → Bool) : s.Keeps (s.deliverDue f) :=
  State.keeps_of_eq (s.deliverDue_pending f) (s.deliverDue_sec f)

theorem State.answered_spdm (s : State) (answer : SecSt → Bytes) : s.Answered (.next (s.spdm answer)) :=
  State.answered_next (s.spdm_keeps answer)

theorem State.atRtc_keeps (s : State) (rtc : BitVec 48) : s.Keeps (s.atRtc rtc) := State.keeps_of_eq rfl rfl

/-! ### By the command -/

theorem execAtomBankAccess_keeps (s : State) (c : Fin 128) : s.Answered (execAtomBankAccess c s) := by
  unfold execAtomBankAccess
  extract_lets accs t
  have ht : s.Keeps t := State.keeps_of_eq (s.aloneAt_pending ..) (s.aloneAt_sec ..)
  exact State.answered_next (State.keeps_ite (ht.trans (State.keeps_of_eq rfl rfl)) s.keeps_refl)

theorem execTileScrub_keeps (s : State) (c : Fin 128) (staging : Bool) (bank : Fin 32) (seen : TileScrub) : s.Answered (execTileScrub c staging bank seen s) := by
  have h : s.Keeps (s.upsets seen.faults) := State.keeps_of_eq rfl rfl
  exact State.answered_next (State.keeps_ite (h.trans (State.coreWrite_keeps _ _ _)) h)

theorem execChunkIssue_keeps (s : State) (c : Fin 128) (e : Fin 4) : s.Answered (execChunkIssue c e s) :=
  State.answered_next (State.keeps_ite (State.keeps_ite (s.coreWrite_keeps _ _) s.keeps_refl)
    (State.keeps_of_eq (s.actAt_pending ..) (s.actAt_sec ..)))

theorem execMeshDelivery_keeps (s : State) (c : Fin 128) : s.Answered (execMeshDelivery c s) :=
  State.answered_next (State.keeps_ite (s.deliverDue_keeps _) s.keeps_refl)

theorem execMemoryRequestHandOver_keeps (s : State) (ch : Fin 256) : s.Answered (execMemoryRequestHandOver ch s) := by
  unfold execMemoryRequestHandOver
  split
  · exact State.answered_next (State.keeps_ite (s.deliverDue_keeps _) s.keeps_refl)
  · exact State.answered_next s.keeps_refl

theorem execSegmentHandOver_keeps (s : State) (p : Fin 32) : s.Answered (execSegmentHandOver p s) := by
  unfold execSegmentHandOver
  split
  · exact State.answered_next (State.keeps_ite (s.deliverDue_keeps _) s.keeps_refl)
  · exact State.answered_next s.keeps_refl

theorem execPatrolScrub_keeps (s : State) (ch : Fin 256) (seen : PatrolScrub) : s.Answered (execPatrolScrub ch seen s) :=
  State.answered_next (State.keeps_ite (State.keeps_of_eq rfl rfl) (State.keeps_of_eq rfl rfl))

theorem execNop_keeps (s : State) (id : Nat) : s.Answered (execNop id s) :=
  s.answered_onCmd _ _ fun _ => s.answer_keeps ..

theorem State.onHeld_keeps (s : State) (op id : Nat) {f : HostCmd → State} (h : ∀ c, s.Keeps (f c)) : s.Keeps (s.onHeld op id f) := by
  unfold State.onHeld
  split
  · exact h _
  · exact s.keeps_refl

theorem execCopyIn_keeps (s : State) (id : Nat) (data : Bytes) : s.Answered (execCopyIn id data s) := by
  unfold execCopyIn
  split
  · exact State.answered_next (State.Keeps.trans (State.keeps_of_eq (by rfl) (by rfl))
      (State.keeps_ite (State.answer_keeps ..) (State.copyInDone_keeps ..)))
  · refine State.answered_next (s.onHeld_keeps _ _ fun c => ?_)
    split
    · exact s.tokensEnd_keeps ..
    · exact s.keeps_refl

theorem execCopyOut_keeps (s : State) (id : Nat) : s.Answered (execCopyOut id s) :=
  s.answered_onCmd _ _ fun _ => State.Keeps.trans (State.keeps_of_eq (by rfl) (by rfl)) (State.answer_keeps ..)

theorem execHostSignal_keeps (s : State) (id : Nat) : s.Answered (execHostSignal id s) := by
  unfold execHostSignal
  dsimp only
  split
  · exact State.answered_next (State.Keeps.trans (State.keeps_of_eq (by rfl) (by rfl)) (State.tokensEnd_keeps ..))
  · exact State.answered_next (s.onHeld_keeps _ _ fun _ => s.tokensEnd_keeps ..)

theorem execDescCreate_keeps (s : State) (id : Nat) (words : Bytes) : s.Answered (execDescCreate id words s) := by
  refine s.answered_onCmd _ _ fun _ => State.keeps_ite (s.answer_keeps ..) (State.keeps_ite (s.answer_keeps ..) ?_)
  exact State.Keeps.trans (State.keeps_of_eq (by rfl) (by rfl)) (State.keeps_ite (State.answer_keeps ..) (State.answer_keeps ..))

theorem execDraw_keeps (s : State) (id : Nat) : s.Answered (execDraw id s) :=
  s.answered_onCmd _ _ fun _ => (s.deviceWrite_keeps _ _).trans (State.answer_keeps ..)

theorem execSnapshot_keeps (s : State) (id : Nat) : s.Answered (execSnapshot id s) :=
  s.answered_onCmd _ _ fun _ => State.keeps_of_eq rfl rfl

theorem execImgLoadHost_keeps (s : State) (id : Nat) (img : Bytes) : s.Answered (execImgLoadHost id img s) :=
  s.answered_onCmd _ _ fun _ => State.keeps_ite (s.loadRefused_keeps ..) (State.keeps_ite (s.answer_keeps ..)
    (State.keeps_of_eq (s.load_pending ..) (s.load_sec ..)))

theorem execImgLoadLib_keeps (s : State) (id : Nat) : s.Answered (execImgLoadLib id s) := by
  refine s.answered_onCmd _ _ fun _ => State.keeps_ite (s.loadRefused_keeps ..) ?_
  split
  · exact State.keeps_of_eq (s.load_pending ..) (s.load_sec ..)
  · exact s.loadRefused_keeps ..

theorem execImgStart_keeps (s : State) (id : Nat) : s.Answered (execImgStart id s) := by
  refine s.answered_onCmd _ _ fun c => ?_
  split
  · exact s.imgCode_keeps ..
  · refine State.keeps_ite (s.imgCode_keeps ..) (State.keeps_ite (s.imgCode_keeps ..) ?_)
    split
    · exact State.keeps_of_eq rfl rfl
    · exact State.keeps_ite (s.imgCode_keeps ..) (State.keeps_of_eq rfl rfl)
    · exact State.keeps_of_eq (State.arriveStart_pending ..) (State.arriveStart_sec ..)

theorem execAtCountLaunch_keeps (s : State) : s.Answered (execAtCountLaunch s) := by
  refine State.answered_next ?_
  split
  · exact State.keeps_ite s.keeps_refl (State.keeps_of_eq s.beginCycle_pending s.beginCycle_sec)
  · exact s.keeps_refl

theorem execLaunch_keeps (s : State) : s.Answered (execLaunch s) := by
  refine State.answered_next ?_
  split
  · refine State.keeps_ite s.keeps_refl (State.keeps_ite (State.keeps_ite ?_ ?_) (State.keeps_ite ?_ s.keeps_refl))
    · exact State.keeps_of_eq (s.arriveStart_pending _) (s.arriveStart_sec _)
    · exact State.keeps_of_eq s.beginCycle_pending s.beginCycle_sec
    · exact State.keeps_of_eq (s.launchWith_pending ..) (s.launchWith_sec ..)
  · exact s.keeps_refl

theorem execImgArm_keeps (s : State) (id : Nat) : s.Answered (execImgArm id s) := by
  refine s.answered_onCmd _ _ fun c => ?_
  dsimp only
  split
  · exact s.imgCode_keeps ..
  · refine State.keeps_ite (s.imgCode_keeps ..) (State.keeps_ite (s.imgCode_keeps ..) (State.keeps_ite (s.imgCode_keeps ..)
      (State.keeps_ite (s.imgCode_keeps ..) ?_)))
    exact State.Keeps.trans (State.keeps_of_eq (by rfl) (by rfl)) (State.imgCode_keeps ..)

theorem execImgDisarm_keeps (s : State) (id : Nat) : s.Answered (execImgDisarm id s) := by
  refine s.answered_onCmd _ _ fun _ => State.keeps_ite (s.imgCode_keeps ..) (State.keeps_ite ?_
    (State.keeps_ite (s.imgCode_keeps ..) (s.imgCode_keeps ..)))
  exact State.Keeps.trans (State.keeps_of_eq (by rfl) (by rfl)) (State.imgCode_keeps ..)

theorem execImgDiscard_keeps (s : State) (id : Nat) : s.Answered (execImgDiscard id s) := by
  refine s.answered_onCmd _ _ fun _ => State.keeps_ite ?_ (s.refuse_keeps ..)
  exact State.Keeps.trans (State.keeps_of_eq (by rfl) (by rfl)) (State.answer_keeps ..)

theorem execRunStop_keeps (s : State) (id : Nat) : s.Answered (execRunStop id s) :=
  s.answered_onCmd _ _ fun _ => State.keeps_of_eq rfl rfl

theorem execPlaneQuiescent_keeps (s : State) : s.Answered (execPlaneQuiescent s) := by
  refine State.answered_next (State.keeps_ite ?_ s.keeps_refl)
  have h : s.Keeps s.runOver := State.keeps_of_eq rfl rfl
  split
  · exact h.trans (State.answer_keeps ..)
  · exact h

theorem execLibStore_keeps (s : State) (id : Nat) (img : Bytes) : s.Answered (execLibStore id img s) :=
  s.answered_onCmd _ _ fun _ => State.keeps_ite (s.answer_keeps ..) (State.keeps_ite (s.refuse_keeps ..) (State.keeps_of_eq rfl rfl))

theorem execLibDelete_keeps (s : State) (id : Nat) : s.Answered (execLibDelete id s) :=
  s.answered_onCmd _ _ fun _ => State.keeps_ite (State.keeps_of_eq rfl rfl) (s.refuse_keeps ..)

theorem execPower_keeps (s : State) (id : Nat) : s.Answered (execPower id s) :=
  s.answered_onCmd _ _ fun _ => State.keeps_ite (s.answer_keeps ..) (State.keeps_ite (s.powerStart_keeps ..) (State.keeps_of_eq rfl rfl))

theorem execPowerTransitionEnd_keeps (s : State) : s.Answered (execPowerTransitionEnd s) := by
  refine State.answered_next (State.keeps_ite ?_ s.keeps_refl)
  dsimp only
  split
  · refine State.keeps_ite ?_ ((s.enter_keeps _).trans (State.answer_keeps ..))
    exact ((s.answer_keeps ..).trans (State.keeps_of_eq (by rfl) (by rfl))).trans (State.enter_keeps ..)
  · exact s.enter_keeps _

theorem execMapExtend_keeps (s : State) (id : Nat) : s.Answered (execMapExtend id s) :=
  s.answered_onCmd _ _ fun _ => State.keeps_ite (s.refuse_keeps ..) (State.keeps_of_eq rfl rfl)

theorem execRejoin_keeps (s : State) (id : Nat) : s.Answered (execRejoin id s) :=
  s.answered_onCmd _ _ fun _ => State.keeps_ite (s.refuse_keeps ..) (State.keeps_of_eq rfl rfl)

theorem execEventRecord_keeps (s : State) (src : Part) : s.Answered (execEventRecord src s) := by
  refine State.answered_next (State.keeps_ite s.keeps_refl ?_)
  have h := s.takeEvent_keeps src
  split
  · next e s1 heq =>
    have h1 : s.Keeps s1 := by rwa [heq] at h
    exact h1.trans (State.keeps_of_eq rfl rfl)
  · exact State.keeps_of_eq rfl rfl

/-- A fold that carries a state along keeps what each of its steps keeps. -/
theorem State.foldl_fst_keeps {α β : Type} {f : State × β → α → State × β} (h : ∀ (x : State × β) (a : α), x.1.Keeps (f x a).1) (l : List α)
    (x : State × β) : x.1.Keeps (l.foldl f x).1 := by
  induction l generalizing x with
  | nil => exact x.1.keeps_refl
  | cons a t ih => exact (h x a).trans (ih _)

theorem execBar2Read_keeps (s : State) (fn : Fin 16) (off n : Nat) : s.Answered (execBar2Read fn off n s) := by
  refine State.answered_next (State.keeps_ite s.keeps_refl (State.keeps_ite (State.keeps_of_eq rfl rfl) ?_))
  split
  · exact State.keeps_of_eq rfl rfl
  · refine State.Keeps.trans (State.foldl_fst_keeps (fun x i => ?_) (List.range n) (s, ([], false))) (State.keeps_of_eq rfl rfl)
    exact x.1.bar2Byte_keeps _ _

theorem execBar2Write_keeps (s : State) (fn : Fin 16) (off : Nat) (data : Bytes) : s.Answered (execBar2Write fn off data s) := by
  refine State.answered_next (State.keeps_ite s.keeps_refl ?_)
  split
  · exact State.keeps_of_eq rfl rfl
  · refine State.Keeps.trans (State.foldl_fst_keeps (fun x b => ?_) data.zipIdx (s, false)) (State.keeps_of_eq rfl rfl)
    dsimp only
    split
    · exact x.1.keeps_refl
    · exact x.1.deviceWrite_keeps _ _

theorem execConventionalReset_keeps (s : State) (perst : Bool) : s.Answered (execConventionalReset perst s) :=
  State.answered_next (State.keeps_ite (State.keeps_ite (State.keeps_of_eq rfl rfl) (State.keeps_of_eq rfl rfl)) (State.keeps_of_eq rfl rfl))

theorem execLsrec_keeps (s : State) (p : Fin 32) : s.Answered (execLsrec p s) := by
  refine State.answered_next ?_
  split
  · exact State.keeps_of_eq (State.lsCompare_pending _) (State.lsCompare_sec _)
  · exact s.keeps_refl

theorem execLineRise_keeps (s : State) (n : Fin 1024) : s.Answered (execLineRise n s) := by
  refine State.answered_next ?_
  split
  · next h => exact (State.takeLine_keeps h).trans (State.onIcu_keeps _ _)
  · exact s.keeps_refl

theorem execLadle_keeps (s : State) (k : Fin 20) (word : BitVec 32) (src : BitVec 64) (dst : BitVec 64) (steps : Nat) : s.Answered (execLadle k word src dst steps s) := by
  refine State.answered_next (State.keeps_ite s.keeps_refl ?_)
  split
  · exact s.ctlTrap_keeps _ _ _
  · exact State.keeps_ite (s.ctlTrap_keeps _ _ _) (State.keeps_ite (s.ctlTrap_keeps _ _ _) (s.ladle_keeps ..))

theorem execFaultStop_keeps (s : State) (cause : Fin 256) (rtc : BitVec 48) (stand : Bool) : s.Answered (execFaultStop cause rtc stand s) :=
  State.answered_next (State.keeps_ite ((s.atRtc_keeps rtc).trans (State.Keeps.trans (State.keeps_of_eq (by rfl) (by rfl)) (State.off_keeps _))) (s.atRtc_keeps rtc))

theorem execStewardCoreLost_keeps (s : State) (k : Fin 20) : s.Answered (execStewardCoreLost k s) := by
  refine State.answered_next (State.keeps_ite s.keeps_refl (State.keeps_ite (State.keeps_of_eq rfl rfl) ?_))
  exact State.keeps_ite (State.keeps_of_eq (State.loseQuadrant_pending ..) (State.loseQuadrant_sec ..)) (State.keeps_of_eq rfl rfl)

theorem execDurableCommit_keeps (s : State) (energy : Nat) : s.Answered (execDurableCommit energy s) := by
  refine State.answered_next ?_
  split
  · next c rest _ _ =>
    have h (p : PwrSt) : s.Keeps { s with pwr := p } := State.keeps_of_eq rfl rfl
    dsimp only
    generalize ({ s.pwr with commits := rest } : PwrSt).measured energy = p
    have hdone := (h p).trans (State.commitDone_keeps _ c.act)
    generalize ({ s with pwr := p } : State).commitDone c.act = r at hdone
    obtain ⟨s1, r0⟩ := r
    dsimp only at hdone ⊢
    split
    · exact (h p).trans (State.answerCommit_keeps _ _ _ _ _)
    · split
      · have h1 : s.Keeps { s1 with pwr := s1.pwr.journalled c.act.kind c.act.record.1 c.act.record.2 } := hdone.trans (State.keeps_of_eq rfl rfl)
        exact h1.trans (State.answerCommit_keeps _ _ _ _ _)
      · exact (h p.refuse).trans (State.answerCommit_keeps _ _ _ _ _)
  · exact s.keeps_refl

theorem execSnapshotCaptureEnd_keeps (s : State) : s.Answered (execSnapshotCaptureEnd s) := by
  refine State.answered_next (State.keeps_ite ?_ s.keeps_refl)
  exact State.Keeps.trans (State.keeps_of_eq (by rfl) (by rfl)) (State.keeps_foldl (fun s _ => s.answer_keeps ..) _ _)

theorem execGetNonce_keeps (s : State) (rtc : BitVec 48) : s.Answered (execGetNonce rtc s) :=
  State.answered_next ((s.atRtc_keeps rtc).trans (State.dbgRequest_keeps _ (State.newNonce_keeps _)))

theorem execSubmit_keeps (s : State) (rtc : BitVec 48) : s.Answered (execSubmit rtc s) :=
  State.answered_next ((s.atRtc_keeps rtc).trans (State.submit_keeps _))

theorem execLeaseExpiry_keeps (s : State) (rtc : BitVec 48) : s.Answered (execLeaseExpiry rtc s) := by
  refine State.answered_next ((s.atRtc_keeps rtc).trans (State.keeps_ite (State.onSec_keeps fun h => ?_) (State.keeps_refl _)))
  exact SecSt.leaseExpiry_within h _ _

theorem execIdcode_keeps (s : State) : s.Answered (execIdcode s) :=
  State.answered_next (State.keeps_ite s.keeps_refl ((s.jtag_keeps .idcode true).trans (State.keeps_of_eq rfl rfl)))

theorem execSamplePreload_keeps (s : State) (cells : Bytes) : s.Answered (execSamplePreload cells s) := by
  have h := s.jtag_keeps .sample (s.on && s.sec.life != .scrapped)
  exact State.answered_next (State.keeps_ite (h.trans (State.keeps_of_access rfl rfl)) h)

theorem execExtest_keeps (s : State) : s.Answered (execExtest s) := by
  have h := s.jtag_keeps .extest (s.on && s.sec.level == 2)
  exact State.answered_next (State.keeps_ite (h.trans (State.keeps_of_access rfl rfl)) h)

theorem execGetVersion_keeps (s : State) : s.Answered (execGetVersion s) :=
  State.answered_next (State.keeps_ite ((s.spdm_keeps _).trans (State.keeps_of_access rfl rfl)) (s.spdm_keeps _))

theorem execNegotiateAlgorithms_keeps (s : State) (ecdsaP384 : Bool) (sha384_ : Bool) : s.Answered (execNegotiateAlgorithms ecdsaP384 sha384_ s) :=
  State.answered_next (State.keeps_ite ((s.spdm_keeps _).trans (State.keeps_of_access rfl rfl)) (s.spdm_keeps _))

theorem execFirmwareUpdate_keeps (s : State) (pair : Fin 5) (signed : Bool) (svn : BitVec 16) (version : BitVec 32) (bodyOk : Bool) (stewardOk : Bool) (body : Bytes) : s.Answered (execFirmwareUpdate pair signed svn version bodyOk stewardOk body s) :=
  State.answered_next (State.keeps_ite (State.keeps_of_access rfl (s.sec.update_access _)) (State.keeps_ite s.keeps_refl (State.keeps_of_eq rfl rfl)))

theorem execFirmwareActivation_keeps (s : State) : s.Answered (execFirmwareActivation s) :=
  State.answered_next (State.keeps_ite (State.keeps_ite (State.keeps_of_eq rfl rfl) s.keeps_refl)
    (State.keeps_ite s.keeps_refl (State.keeps_of_eq rfl rfl)))

theorem execWake_keeps (s : State) (cond : StartCond) : s.Answered (execWake cond s) :=
  State.answered_next (State.keeps_ite (s.sideband_keeps ..) (State.keeps_ite s.keeps_refl ((s.restart_keeps ..).trans (State.sideband_keeps ..))))

theorem execReset_keeps (s : State) (cond : StartCond) : s.Answered (execReset cond s) :=
  State.answered_next (State.keeps_ite ((s.moduleReset_keeps ..).trans (State.sideband_keeps ..)) (s.sideband_keeps ..))

theorem execFaultClear_keeps (s : State) : s.Answered (execFaultClear s) :=
  State.answered_next (State.keeps_ite s.keeps_refl (State.Keeps.trans (State.keeps_of_eq (by rfl) (by rfl)) (State.sideband_keeps ..)))

theorem execSysRstN_keeps (s : State) (low : Bool) (cond : StartCond) : s.Answered (execSysRstN low cond s) := by
  have h : s.Keeps { s with sup := { s.sup with sysRst := low } } := State.keeps_of_eq rfl rfl
  exact State.answered_next (State.keeps_ite (h.trans (State.moduleReset_keeps ..)) (State.keeps_ite (h.trans (State.goOn_keeps ..)) h))

theorem execModuleReset_keeps (s : State) (cond : StartCond) : s.Answered (execModuleReset cond s) := by
  refine State.answered_next ?_
  split
  · exact s.moduleReset_keeps ..
  · exact s.keeps_refl

theorem execAuxiliaryRailFail_keeps (s : State) : s.Answered (execAuxiliaryRailFail s) :=
  State.answered_next (s.off_keeps.trans (State.keeps_of_eq rfl rfl))

theorem execPerstNRise_keeps (s : State) : s.Answered (execPerstNRise s) :=
  State.answered_next (State.keeps_ite (State.keeps_of_eq rfl rfl) (State.keeps_of_eq rfl rfl))

theorem execCompletionTimeout_keeps (s : State) (id : Nat) : s.Answered (execCompletionTimeout id s) := by
  refine State.answered_next ?_
  split
  · exact s.answer_keeps ..
  · exact s.keeps_refl

/-! ### Every command -/

/-- Every command is answered, and keeps the queue and the debug level within reach. -/
theorem exec_keeps (s : State) (c : Instr) : s.Answered (exec c s) := by
  cases c with
  | signal | faaI32 | faaP32 | cas64 | bundleIssue | waitRelease | move | gather | scatter | zpcorr => exact s.answered_slot _ _
  | wait | sett | loop | halt | meOpen | meSeal | meDrain | meExport | meRelease | mePreload | meMma | meConv | meWsmv | meFoldin
  | vld | vst | vconst | vmov | vcvt | vadd | vmul | vfma | vmax | vmin | vabs | vcmp | vsel | vqclr | vqdot | vqsum | vqfold
  | vqrd | vrmax | vrmin | vexp2 | vlog2 | vtab | vucall | smopen | smtile | smmerge | smclose | smnorm | smstate =>
    exact s.answered_slotIn _ _
  | seam => exact State.answered_ite_of_eq (s.slot_pending ..) (s.slot_sec ..)
  | seamEffect | atomResultWrite | sealedEffect | preloadDone | pendingStart | chunkLand | foldinRowLand | vucallEnd | moveEnd =>
    exact s.answered_coreEvent _ _
  | signalTokenAdded | bankAdderWriteBack => exact s.answered_rearEvent _ _ _
  | drainRowWrite | exportRowWrite | veResultWrite | streamElementWrite => exact s.answered_aloneAt _ _
  | swap => exact s.answered_actAt _ _
  | wdogCfgWrite | veFlushWrite => exact State.answered_next (s.coreWrite_keeps _ _)
  | watchdogTrip => exact State.answered_ite_of_eq (s.coreWrite_pending ..) (s.coreWrite_sec ..)
  | atomBankAccess c => exact execAtomBankAccess_keeps s c
  | tileScrub c staging bank seen => exact execTileScrub_keeps s c staging bank seen
  | chunkIssue c e => exact execChunkIssue_keeps s c e
  | extReadRelease => exact State.answered_ite_of_eq rfl rfl
  | meshDelivery c => exact execMeshDelivery_keeps s c
  | slip late => exact State.answered_of_eq (s.slipCycle_pending late) (s.slipCycle_sec late)
  | planeCycle => exact State.answered_of_eq s.planeCycle_pending s.planeCycle_sec
  | exchangePoint => exact State.answered_ite_of_eq s.planeCycle_pending s.planeCycle_sec
  | edgeTokenDelivery | stewardTokenDelivery => exact State.answered_of_eq (s.tokenIn_pending _) (s.tokenIn_sec _)
  | memoryRequestHandOver ch => exact execMemoryRequestHandOver_keeps s ch
  | segmentHandOver p => exact execSegmentHandOver_keeps s p
  | channelRequestServed | parityError | stackFence | refreshWindow | foldWrite | gatherFold | reduce | scaleStore | fence
  | creameryComplete => exact State.answered_of_eq rfl rfl
  | patrolScrub ch seen => exact execPatrolScrub_keeps s ch seen
  | stackTempSample => exact State.answered_of_eq (s.stackSample_pending ..) (s.stackSample_sec ..)
  | stackTraining => exact State.answered_ite_of_eq (State.stackTrained_pending ..) (State.stackTrained_sec ..)
  | nop id => exact execNop_keeps s id
  | copyIn id data => exact execCopyIn_keeps s id data
  | copyOut id => exact execCopyOut_keeps s id
  | hostSignal id => exact execHostSignal_keeps s id
  | descCreate id words => exact execDescCreate_keeps s id words
  | draw id => exact execDraw_keeps s id
  | snapshot id => exact execSnapshot_keeps s id
  | imgLoadHost id img => exact execImgLoadHost_keeps s id img
  | imgLoadLib id => exact execImgLoadLib_keeps s id
  | loadSecondPass => exact State.answered_ite_of_eq (s.loadSections_pending ..) (s.loadSections_sec ..)
  | imgStart id => exact execImgStart_keeps s id
  | atCountLaunch => exact execAtCountLaunch_keeps s
  | launch => exact execLaunch_keeps s
  | imgArm id => exact execImgArm_keeps s id
  | imgDisarm id => exact execImgDisarm_keeps s id
  | imgDiscard id => exact execImgDiscard_keeps s id
  | runStop id => exact execRunStop_keeps s id
  | planeQuiescent => exact execPlaneQuiescent_keeps s
  | libStore id img => exact execLibStore_keeps s id img
  | libDelete id => exact execLibDelete_keeps s id
  | power id => exact execPower_keeps s id
  | powerTransitionEnd => exact execPowerTransitionEnd_keeps s
  | mapExtend id => exact execMapExtend_keeps s id
  | rejoin id => exact execRejoin_keeps s id
  | sqTailDoorbell | cqHeadDoorbell | sqEnable | cqEnable | completionRecordWrite | msixCoalesceTimeout | vfEnable
  | functionLevelReset => exact State.answered_ite_of_eq rfl rfl
  | sqFetch => exact State.answered_ite_of_eq (State.noteBusy_pending _) (State.noteBusy_sec _)
  | eventRecord src => exact execEventRecord_keeps s src
  | bar2Read fn off n => exact execBar2Read_keeps s fn off n
  | bar2Write fn off data => exact execBar2Write_keeps s fn off data
  | conventionalReset perst => exact execConventionalReset_keeps s perst
  | barrierArrive | barrierRelease | syncIn | beaconSend | beacon | dataFlitReceive | idleFlit | nak | replayTimeout
  | violation | fenced | epochRequestRepeat | heldFlitTimeout | linkWrite | linkRead | linkFold | close | transferServed | rdata | done
  | tagTimeout | creditStall | laneFailure => exact State.answered_of_eq rfl rfl
  | herdArm | syncOut | trainingRetry | disable | retrain => exact State.answered_ite_of_eq rfl rfl
  | barrierTimeout => exact State.answered_of_eq (s.barrierTimeout_pending _) (s.barrierTimeout_sec _)
  | epoch => exact State.answered_of_eq (s.epochFlit_pending ..) (s.epochFlit_sec ..)
  | lsrec p => exact execLsrec_keeps s p
  | pair => exact State.answered_of_eq (State.lsCompare_pending _) (State.lsCompare_sec _)
  | suspect p => exact State.answered_of_eq (s.suspect_pending p) (s.suspect_sec p)
  | suspectTimeout x => exact State.answered_of_eq (s.suspectTimeout_pending x) (s.suspectTimeout_sec x)
  | join p => exact State.answered_of_eq (s.join_pending p) (s.join_sec p)
  | member p => exact State.answered_of_eq (s.member_pending p) (s.member_sec p)
  | linkTraining => exact State.answered_ite_of_eq (State.portTrained_pending ..) (State.portTrained_sec ..)
  | lineRise n => exact execLineRise_keeps s n
  | filterAccept | wakeLatch | interruptTake | icuCoreComplete | lineFall => exact State.answered_ite_of_eq rfl rfl
  | icuCoreClaim => exact State.answered_ite_of_eq rfl rfl
  | ladle k word src dst steps => exact execLadle_keeps s k word src dst steps
  | stwToken | stewardEventLog | debugHalt | resume => exact State.answered_ite_of_eq rfl rfl
  | governorSample | governorAdjust | dieThermalSample | holdupHealthCheck | nandWearManagement => exact State.answered_ite_of_eq rfl rfl
  | faultStop cause rtc stand => exact execFaultStop_keeps s cause rtc stand
  | eastLost => exact State.answered_ite_of_eq s.loseEast_pending s.loseEast_sec
  | stewardCoreLost k => exact execStewardCoreLost_keeps s k
  | durableCommit energy => exact execDurableCommit_keeps s energy
  | trigger | periodicSnapshot => exact State.answered_ite_of_eq rfl rfl
  | snapshotCaptureEnd => exact execSnapshotCaptureEnd_keeps s
  | getNonce rtc => exact execGetNonce_keeps s rtc
  | submit rtc => exact execSubmit_keeps s rtc
  | takeOwnership | ownerOpen | setPolicy | releaseOwnership | vendorOpen | vendorBlank | scrap =>
    exact State.answered_next (s.authorise_keeps _ _)
  | session level => exact State.answered_next (s.dbgRequest_keeps (s.session_keeps _))
  | endSession => exact State.answered_next (s.dbgRequest_keeps (f := fun s => s.endSession.dbgResult 0) s.sessionEnd_keeps)
  | relock => exact State.answered_next s.relock_keeps
  | leaseExpiry rtc => exact execLeaseExpiry_keeps s rtc
  | nonceExpiry rtc => exact State.answered_next (State.keeps_of_access rfl (s.sec.nonceExpiry_access _))
  | bypass => exact State.answered_next (s.jtag_keeps ..)
  | idcode => exact execIdcode_keeps s
  | samplePreload cells => exact execSamplePreload_keeps s cells
  | extest => exact execExtest_keeps s
  | dapacc => exact State.answered_next (s.jtag_keeps ..)
  | getVersion => exact execGetVersion_keeps s
  | negotiateAlgorithms ecdsaP384 sha384_ => exact execNegotiateAlgorithms_keeps s ecdsaP384 sha384_
  | getCapabilities | getDigests | getCertificate | challenge | getMeasurements => exact s.answered_spdm _
  | firmwareUpdate pair signed svn version bodyOk stewardOk body => exact execFirmwareUpdate_keeps s pair signed svn version bodyOk stewardOk body
  | firmwareActivation => exact execFirmwareActivation_keeps s
  | getId => exact State.answered_next (s.sideband_keeps ..)
  | wake cond => exact execWake_keeps s cond
  | reset cond => exact execReset_keeps s cond
  | faultClear => exact execFaultClear_keeps s
  | auxiliaryPowerUp cond => exact State.answered_next (s.auxPowerUp_keeps cond)
  | startHoldRelease cond => exact State.answered_next (s.goOn_keeps cond)
  | sysRstN low cond => exact execSysRstN_keeps s low cond
  | moduleRequest | computeRequest => exact State.answered_of_eq (s.resetCtrl_pending ..) (s.resetCtrl_sec ..)
  | moduleReset cond => exact execModuleReset_keeps s cond
  | computeResetEnd => exact State.answered_of_eq s.computeEnd_pending s.computeEnd_sec
  | auxiliaryRailFail => exact execAuxiliaryRailFail_keeps s
  | perstNRise => exact execPerstNRise_keeps s
  | completionTimeout id => exact execCompletionTimeout_keeps s id
  | registerWrite who off size val => exact State.answered_next (s.write_keeps ..)
  | readClear who off size => exact State.answered_next (s.read_keeps ..)

/-! ### The obligations -/

/-- The queue's front: a step is its command on the queue's rest. -/
theorem step_of_pending {s : State} {c : Instr} {rest : List Instr} (h : s.pending = c :: rest) :
    step s = exec c { s with pending := rest } := by
  simp only [step, h]

theorem step_of_empty {s : State} (h : s.pending = []) : step s = .next s.idle := by
  simp only [step, h]

/-- Settles O1. -/
theorem stepTakesFront : Obligations.StepTakesFront := fun _ _ _ => step_of_pending

theorem State.serviceOnly_iff (s : State) : s.serviceOnly = true ↔
    s.pwr.state = 2 ∨ s.pwr.state = 3 ∨ (s.pwr.state ≤ 1 ∧ 3 ≤ s.sup.step ∧ s.clockOn = false) := by
  simp [State.serviceOnly, or_assoc, and_assoc]

/-- Settles O2: every command is answered with the queue as it was, and an idle step follows the service clock. -/
theorem queueAndIdle : Obligations.QueueAndIdle := by
  intro s
  refine ⟨fun c => ?answered, fun hempty => ⟨fun hpasses => ?tick, fun hstands => ?still⟩⟩
  case answered =>
    obtain ⟨t, ht, hkeeps⟩ := exec_keeps s c
    exact ⟨t, ht, hkeeps.pending⟩
  case tick =>
    rw [step_of_empty hempty, State.idle, if_pos (s.serviceOnly_iff.mpr hpasses)]
    rfl
  case still => rw [step_of_empty hempty, State.idle, if_neg (hstands ∘ s.serviceOnly_iff.mp)]

/-- Settles O60: a command keeps the level within reach, and an idle step leaves the security block alone. -/
theorem debugWithinReach : Obligations.DebugWithinReach := by
  intro s t hwithin hstep
  cases hqueue : s.pending with
  | nil =>
    rw [step_of_empty hqueue] at hstep
    cases hstep
    have hsec : s.idle.sec = s.sec := by
      unfold State.idle
      split <;> rfl
    exact hsec ▸ hwithin
  | cons c rest =>
    rw [step_of_pending hqueue] at hstep
    obtain ⟨u, hu, hkeeps⟩ := exec_keeps { s with pending := rest } c
    rw [hu] at hstep
    cases hstep
    exact hkeeps.within hwithin

end Sys2Proof.Machine
end

section
/-! The module right after reset. -/

namespace Sys2Proof.Machine

/-- Every core of the module is as its own reset leaves it. -/
theorem State.reset_core (c : Nat) : State.reset.plane.core c = Core.reset := rfl

/-- Settles O59: every value is the one that the part's own reset writes. -/
theorem resetValues : Obligations.ResetValues := by
  refine ⟨rfl, rfl, rfl, rfl, rfl, rfl, rfl, fun g => ⟨rfl, rfl⟩, rfl, rfl, Nat.zero_le _, rfl, rfl, rfl, fun c => ?_, rfl, fun c => rfl⟩
  have htallies : ∀ i : Fin 16, Core.reset.tally i = ⟨0, false⟩ := by decide
  exact ⟨rfl, rfl, rfl, rfl, htallies, fun p => rfl, rfl, rfl⟩

end Sys2Proof.Machine
end

section
/-! The sequencer of a running core as commands of their own: pails, seams, HALT, bundles and ATOMs
(R245, R246, R249 to R255, R268 to R270, R367, R380). -/

namespace Sys2Proof.Machine

/-! ### What replacing one core leaves -/

theorem State.onlyCore_withCore (s : State) (c : Nat) (k : Core) : s.OnlyCore (s.withCore c k) c :=
  ⟨rfl, fun _ hd => s.withCore_core_ne k hd⟩

theorem State.withCore_reports (s : State) (c : Nat) (k : Core) :
    (s.withCore c k).plane.reports = s.plane.reports ++ k.ev.map fun e => (c, e) := by
  simp [State.withCore]

theorem State.mem_reports_withCore (s : State) (c : Nat) {k : Core} {e : CoreEv} (h : e ∈ k.ev) :
    (c, e) ∈ (s.withCore c k).plane.reports := by
  rw [State.withCore_reports]
  exact List.mem_append_right _ (List.mem_map_of_mem h)

/-- A slot that offers nothing to the mesh replaces its core by the one it leaves. -/
theorem State.slot_keeps_mesh (s : State) {c : Nat} (h : s.coreRuns c) (f : SeqEnv → Nat → Core → Core × List Transit)
    {k : Core} (hf : f (s.plane.seqEnv s.chip c) s.plane.now (s.coreNow c) = (k, [])) : s.slot c f = s.withCore c k := by
  rw [s.slot_none h f (congrArg Prod.snd hf), hf]

@[simp] theorem Core.setPail_ev (k : Core) (i : Nat) (p : Pail) : (k.setPail i p).ev = k.ev := rfl
@[simp] theorem Core.pail_withTokens (k : Core) (t : List (Nat × Nat)) (i : Nat) :
    ({ k with seq := { k.seq with tokens := t } } : Core).pail i = k.pail i := rfl

/-! ### SIGNAL (R248, R268) -/

/-- A SIGNAL without reserved bits to a core that is enabled passes its checks. -/
theorem Core.seqSignal_own (k : Core) {env : SeqEnv} {self arg : Nat} (hr : bits arg 7 0 = 0)
    (hp : bit arg 15 = true → (if bit arg 15 then bits arg 14 8 else self) < env.su.enabled)
    (hd : (if bit arg 15 then bits arg 14 8 else self) = self) (hs : env.siteOf self = env.site) (r : Nat) :
    k.seqSignal env self r arg =
      ({ k with seq := { k.seq with tokens := k.seq.tokens ++ [(r, bits arg 26 16)] } }, []) := by
  simp only [Core.seqSignal]
  rw [if_neg, hd, if_pos hs, if_pos rfl]
  rintro (h | ⟨h, h'⟩)
  · exact h hr
  · exact absurd (hp h) (Nat.not_lt.mpr h')

theorem Core.seqSignal_far (k : Core) {env : SeqEnv} {self arg : Nat} (hr : bits arg 7 0 = 0)
    (hp : bit arg 15 = true → (if bit arg 15 then bits arg 14 8 else self) < env.su.enabled)
    (hs : env.siteOf (if bit arg 15 then bits arg 14 8 else self) ≠ env.site) (r : Nat) :
    k.seqSignal env self r arg =
      (k, [transit env.routes 0 env.site (env.siteOf (if bit arg 15 then bits arg 14 8 else self)) 0 r
        (.signal (if bit arg 15 then bits arg 14 8 else self) (bits arg 26 16))]) := by
  simp only [Core.seqSignal]
  rw [if_neg, if_neg hs]
  rintro (h | ⟨h, h'⟩)
  · exact h hr
  · exact absurd (hp h) (Nat.not_lt.mpr h')

/-- A transfer between two sites is due after the latency of its route (R40). -/
theorem transit_due (routes : Tab (Tab Nat)) (g m t : Nat) {src dst : Nat} (h : dst ≠ src) (load : Payload) :
    (transit routes g src dst m t load).due = t + latency routes src dst := by
  rw [latency, if_neg fun hc => h hc.1.symm]
  rfl

/-! ### WAIT (R269) -/

theorem Core.waitSlot_takes (k : Core) (r : Nat) {arg : Nat} (hr : bits arg 15 0 = 0)
    (hl : 0 < (k.pail (bits arg 26 16)).level) : k.waitSlot r arg = k.takeToken (bits arg 26 16) := by
  simp only [Core.waitSlot, Core.seqWait]
  rw [if_neg fun hc => absurd hc.2 (Nat.pos_iff_ne_zero.mp hl), if_neg fun hc => hc hr]

theorem Core.waitSlot_empty_plane (k : Core) (r : Nat) {arg : Nat} (hr : bits arg 15 0 = 0)
    (hl : (k.pail (bits arg 26 16)).level = 0) (he : (k.pail (bits arg 26 16)).edge = false) : k.waitSlot r arg =
      { k with seq := { k.seq with stalled := true, stalls := k.seq.stalls + 1, nextAt := some (r + 1) } } := by
  simp [Core.waitSlot, hr, hl, he]

theorem Core.waitSlot_empty_edge (k : Core) (r : Nat) {arg : Nat} (hr : bits arg 15 0 = 0)
    (hl : (k.pail (bits arg 26 16)).level = 0) (he : (k.pail (bits arg 26 16)).edge = true) : k.waitSlot r arg = k := by
  simp [Core.waitSlot, hr, hl, he]

theorem Core.takeToken_of_no_queue (k : Core) {i : Nat} (hq : (k.pail i).queue = 0) :
    k.takeToken i = k.setPail i { k.pail i with level := (k.pail i).level - 1 } := by
  simp [Core.takeToken, hq]

/-- A token of the crossing queue takes the place of the one taken, so the level stays. -/
theorem Core.takeToken_of_queue (k : Core) {i : Nat} (hl : 0 < (k.pail i).level) (hm : (k.pail i).level ≤ 16)
    (hq : 0 < (k.pail i).queue) (he : (k.pail i).edge = true) :
    k.takeToken i = k.setPail i { k.pail i with queue := (k.pail i).queue - 1 } := by
  simp only [Core.takeToken]
  rw [if_pos ⟨he, hq, by omega⟩, show (k.pail i).level - 1 + 1 = (k.pail i).level by omega]

/-! ### Tokens that are due (R268, R270) -/

theorem Core.addTokensOf_one (k : Core) {r due i : Nat} (ht : k.seq.tokens = [(due, i)]) (hd : due ≤ r) :
    k.addTokensOf r i = ({ k with seq := { k.seq with tokens := [] } } : Core).planeToken i := by
  simp [Core.addTokensOf, ht, hd]

theorem Core.planeToken_room (k : Core) {i : Nat} (he : (k.pail i).edge = false) (hl : (k.pail i).level < 16) :
    k.planeToken i = k.setPail i { k.pail i with level := (k.pail i).level + 1 } := by
  simp [Core.planeToken, he, hl]

theorem Core.planeToken_edge (k : Core) {i : Nat} (he : (k.pail i).edge = true) :
    k.planeToken i = { k with ev := k.ev ++ [.tokenRefused] } := by
  simp [Core.planeToken, he, Core.event]

theorem Core.planeToken_full (k : Core) {i : Nat} (he : (k.pail i).edge = false) (hl : 16 ≤ (k.pail i).level) :
    k.planeToken i = ({ k.setPail i { k.pail i with ovf := true } with
      seq := { (k.setPail i { k.pail i with ovf := true }).seq with
        ovfCount := satAdd 16 k.seq.ovfCount 1, lastOvf := i } } : Core).event .pailDrop := by
  simp only [Core.planeToken, he]
  rw [if_neg (by simp), if_neg (by omega)]
  rfl

/-! ### The pail commands -/

theorem exec_wait_runs (s : State) {c : Fin 128} (h : s.coreRuns c) (arg : BitVec 27) :
    exec (.wait c arg) s = .next (s.withCore c ((s.coreNow c).waitSlot s.plane.now arg.toNat)) :=
  congrArg Host.Outcome.next (s.slotIn_runs h fun r k => k.waitSlot r arg.toNat)

theorem exec_signalTokenAdded_later (s : State) {c : Fin 128} {pail : Fin 2048} {due : Nat}
    (ht : (s.frontNow.plane.core c).seq.tokens = [(due, pail.val)]) (hd : s.frontNow.plane.now < due) :
    exec (.signalTokenAdded c pail) s = .next s :=
  congrArg Host.Outcome.next (s.rearEvent_not c _ _ (by simp [ht, hd]))

theorem exec_signalTokenAdded_due (s : State) {c : Fin 128} (h : s.coreRear c) {pail : Fin 2048} {due : Nat}
    (ht : (s.frontNow.plane.core c).seq.tokens = [(due, pail.val)]) (hd : due ≤ s.frontNow.plane.now) :
    exec (.signalTokenAdded c pail) s = .next (s.frontNow.withCore c
      (({ s.frontNow.plane.core c with seq := { (s.frontNow.plane.core c).seq with tokens := [] } } : Core).planeToken pail)) := by
  rw [← Core.addTokensOf_one _ ht hd]
  exact congrArg Host.Outcome.next (s.rearEvent_rear h _ _ (by simp [ht, hd]))

/-- Settles O4: a SIGNAL by where its destination stands, a WAIT and a token that is due by what the pail holds. -/
theorem pailSlots : Obligations.PailSlots := by
  intro s c
  refine ⟨fun hruns => ?_, fun hrear => ?_⟩
  · intro k
    refine ⟨fun arg hr => ?signal, fun arg hr => ?wait⟩
    case signal =>
      intro dest hp
      refine ⟨fun hd => ?own, fun hs ht => ?far⟩
      case own =>
        have hsig := k.seqSignal_own (env := s.plane.seqEnv s.chip c) (self := c) hr hp hd rfl s.plane.now
        exact congrArg Host.Outcome.next (s.slot_keeps_mesh hruns _ hsig)
      case far =>
        have hsig := k.seqSignal_far (env := s.plane.seqEnv s.chip c) (self := c) hr hp hs s.plane.now
        exact ⟨_, congrArg Host.Outcome.next (s.slot_one hruns _ _ _ hsig ht), rfl, rfl, transit_due _ 0 0 _ hs (.signal dest (bits arg.toNat 26 16))⟩
    case wait =>
      intro i
      rw [exec_wait_runs s hruns]
      refine ⟨fun hl hq => ?_, fun hl hm hq he => ?_, fun hl he => ?_, fun hl he => ?_⟩
      · rw [k.waitSlot_takes _ hr hl, k.takeToken_of_no_queue hq]
      · rw [k.waitSlot_takes _ hr hl, k.takeToken_of_queue hl hm hq he]
      · rw [k.waitSlot_empty_plane _ hr hl he]
      · rw [k.waitSlot_empty_edge _ hr hl he]
  · intro t0 k pail due ht taken
    refine ⟨fun hd => exec_signalTokenAdded_later s ht hd, fun hd => ?_⟩
    rw [exec_signalTokenAdded_due s hrear ht hd]
    refine ⟨fun he hl => ?_, fun he hl => ?_, fun he => ?_⟩
    · rw [taken.planeToken_room he hl]; rfl
    · refine ⟨_, rfl, t0.onlyCore_withCore c _, ?_⟩
      rw [taken.planeToken_full he hl]
      refine ⟨?_, ?_, ?_, t0.mem_reports_withCore c (List.mem_append_right _ (List.mem_singleton_self _))⟩ <;>
        rw [State.withCore_core]
      · exact Core.pail_setPail_self _ _ _
      · rfl
      · rfl
    · rw [taken.planeToken_edge he]

/-! ### SEAM and HALT (R251 to R255) -/

theorem State.seamOpen_iff (s : State) (c : Nat) : s.seamOpen c = true ↔
    s.plane.govDebt = 0 ∧ s.plane.thermDebt = 0 ∧ (s.plane.comparing = true → (s.plane.core c).sig.queue.length < 64) := by
  cases hc : s.plane.comparing <;> simp [State.seamOpen, hc, and_assoc]

/-- A seam whose condition reads no tally leaves the core but for the end of its step. -/
theorem Core.seamSlot_eq (k : Core) (env : SeqEnv) (r : Nat) {arg : Nat} (h1 : bits arg 26 21 = 0) (h2 : bits arg 13 0 = 0)
    {t : Bool} (hc : bit arg 20 = true → k.seamCond (k.cfg.seams.get 0 (bits arg 19 14)).toNat = (t, k)) :
    k.seamSlot env r arg = { k with seq := { k.seq with
      nextAt := none
      wdogCount := 0
      seam := some ⟨r, (if bit arg 20 ∧ t then some (bits (k.cfg.seams.get 0 (bits arg 19 14)).toNat 34 23) else none).getD
        (k.seq.bundle + 1), k.gap, env.point k.seq.bundle⟩ } } := by
  simp only [Core.seamSlot]
  rw [if_neg (by simp [h1, h2])]
  cases hb : bit arg 20 with
  | false => simp [Core.seamStart, hb]
  | true =>
    simp only [Core.seamStart, hc hb, hb]
    simp

theorem Core.seamCond_never (k : Core) {e : Nat} (h : bits e 63 60 = 0) : k.seamCond e = (false, k) := by
  simp [Core.seamCond, h]

theorem Core.seamCond_always (k : Core) {e : Nat} (h : bits e 63 60 = 1) : k.seamCond e = (true, k) := by
  simp [Core.seamCond, h]

theorem exec_seam_closed (s : State) (c : Fin 128) (arg : BitVec 27) (h : s.seamOpen c = false) :
    exec (.seam c arg) s = .next s :=
  congrArg Host.Outcome.next (if_neg (by simp [h]))

theorem exec_seam_open (s : State) {c : Fin 128} (hr : s.coreRuns c) (arg : BitVec 27) (h : s.seamOpen c = true) :
    exec (.seam c arg) s =
      .next (s.withCore c ((s.coreNow c).seamSlot (s.plane.seqEnv s.chip c) s.plane.now arg.toNat)) :=
  congrArg Host.Outcome.next ((if_pos h).trans (s.slot_none hr _ rfl))

theorem exec_halt_runs (s : State) {c : Fin 128} (h : s.coreRuns c) (arg : BitVec 27) :
    exec (.halt c arg) s = .next (s.withCore c ((s.coreNow c).haltSlot arg.toNat)) :=
  congrArg Host.Outcome.next (s.slotIn_runs h fun _ k => k.haltSlot arg.toNat)

theorem exec_seamEffect_there (s : State) {c : Fin 128} (h : s.coreThere c) :
    exec (.seamEffect c) s = .next (s.withCore c ((s.plane.core c).seamDo s.plane.stop s.plane.now)) :=
  congrArg Host.Outcome.next (s.coreEvent_there h fun r k => k.seamDo s.plane.stop r)

theorem Core.haltSlot_zero (k : Core) : k.haltSlot (0 : BitVec 27).toNat = { k with
    seq := { k.seq with state := .halted, nextAt := none, stalled := false, seam := none }
    ev := k.ev ++ [.halted] } := by
  simp [Core.haltSlot, Core.halt, Core.event]

@[simp] theorem Core.setForms_seq (k : Core) (b : Nat) : (k.setForms b).seq = k.seq := rfl
@[simp] theorem Core.setForms_ve (k : Core) (b : Nat) : (k.setForms b).ve = k.ve := rfl
@[simp] theorem Core.setForms_su (k : Core) (b : Nat) : (k.setForms b).su = k.su := rfl
@[simp] theorem Core.setForms_cfg (k : Core) (b : Nat) : (k.setForms b).cfg = k.cfg := rfl

/-- The changes that wait for the seam, and the step number (R253). -/
def Core.stepped (k : Core) (next : Nat) : Core :=
  { k.suSeam.veSeam with seq := { k.seq with step := k.seq.step + 1, seam := none, rep := 0, nextAt := some next } }

theorem Core.seamDo_goes (k : Core) {stop : Bool} {r : Nat} {p : SeamPend} (hp : k.seq.seam = some p) (hn : p.point = none)
    (hr : p.s < r) (hs : stop = false) (hf : (k.cfg.faultHalt && k.seq.faulted) = false) : k.seamDo stop r =
      ({ k.stepped (p.s + 2 + p.gap) with seq := { (k.stepped (p.s + 2 + p.gap)).seq with bundle := p.next } } : Core).setForms p.next := by
  simp only [Core.seamDo, Core.seamEffect, hp]
  rw [if_pos ⟨by simp [hn], hr⟩, if_neg (by simpa [hs] using hf)]
  rfl

theorem Core.seamDo_halts (k : Core) {stop : Bool} {r : Nat} {p : SeamPend} (hp : k.seq.seam = some p) (hn : p.point = none)
    (hr : p.s < r) (hf : (stop || (k.cfg.faultHalt && k.seq.faulted)) = true) :
    k.seamDo stop r = (k.stepped (p.s + 2 + p.gap)).halt := by
  simp only [Core.seamDo, Core.seamEffect, hp]
  rw [if_pos ⟨by simp [hn], hr⟩, if_pos (by simpa using hf)]
  rfl

theorem Core.suSeam_cfg (k : Core) (h : k.su.pendDesc = []) : k.suSeam.cfg = k.cfg := by
  simp [Core.suSeam, h]

/-- Settles O5: a SEAM by whether anything holds it back and by its condition, its effect by whether the core goes on. -/
theorem seamAndHalt : Obligations.SeamAndHalt := by
  intro s c free
  refine ⟨fun hruns => ?_, fun hthere => ?_⟩
  · intro k goes
    refine ⟨fun arg h1 h2 => ?seam, ?halt⟩
    case halt => rw [exec_halt_runs s hruns, Core.haltSlot_zero]
    intro e
    refine ⟨fun hf => ?_, fun hf hb => ?_, fun hf hb hc => ?_, fun hf hb hc => ?_⟩
    · exact exec_seam_closed s c arg (by rwa [← Bool.not_eq_true, s.seamOpen_iff])
    all_goals rw [exec_seam_open s hruns arg ((s.seamOpen_iff c).mpr hf)]
    · rw [k.seamSlot_eq _ _ h1 h2 (t := false) fun h => absurd h (by simp [hb]), if_neg (by simp)]
      rfl
    · rw [k.seamSlot_eq _ _ h1 h2 fun _ => k.seamCond_never hc, if_neg (by simp)]
      rfl
    · rw [k.seamSlot_eq _ _ h1 h2 fun _ => k.seamCond_always hc, if_pos ⟨hb, rfl⟩]
      rfl
  · intro k p hp hn hr
    rw [exec_seamEffect_there s hthere]
    refine ⟨fun hs hf => ⟨_, rfl, s.onlyCore_withCore c _, ?_⟩, fun hf => ⟨_, rfl, s.onlyCore_withCore c _, ?_⟩⟩
    · rw [k.seamDo_goes hp hn hr hs hf, State.withCore_core]
      exact ⟨rfl, rfl, rfl, rfl, k.suSeam_cfg⟩
    · rw [k.seamDo_halts hp hn hr hf]
      refine ⟨?_, ?_, ?_, s.mem_reports_withCore c (List.mem_append_right _ (List.mem_singleton_self _))⟩ <;>
        rw [State.withCore_core] <;> rfl

/-! ### What the slots of a bundle leave of the sequencer (R149, R182, R267) -/

/-- From `k` to `l` the sequencer has changed in nothing but FAULTED. -/
def Core.SeqKept (k l : Core) : Prop := ∃ b, l.seq = { k.seq with faulted := b }

theorem Core.seqKept_of_eq {k l : Core} (h : l.seq = k.seq) : k.SeqKept l := ⟨k.seq.faulted, h⟩

theorem Core.SeqKept.trans {k l m : Core} (h : k.SeqKept l) (g : l.SeqKept m) : k.SeqKept m := by
  obtain ⟨b, hb⟩ := h
  obtain ⟨d, hd⟩ := g
  exact ⟨d, by rw [hd, hb]⟩

theorem Core.seqKept_foldl {α : Type} (f : Core → α → Core) (hf : ∀ (c : Core) (a : α), c.SeqKept (f c a)) (l : List α) (c : Core) :
    c.SeqKept (l.foldl f c) := by
  induction l generalizing c with
  | nil => exact Core.seqKept_of_eq rfl
  | cons a t ih => exact (hf c a).trans (ih (f c a))

theorem Core.foldl_seq {α : Type} (f : Core → α → Core) (hf : ∀ c a, (f c a).seq = c.seq) (l : List α) (c : Core) :
    (l.foldl f c).seq = c.seq := by
  induction l generalizing c with
  | nil => rfl
  | cons a t ih => rw [List.foldl_cons, ih, hf]

theorem Core.vatOpen_seq (k : Core) (t e v gen : Nat) (s : Shape) : (k.vatOpen t e v gen s).seq = k.seq := by
  simp only [Core.vatOpen]
  split
  · rfl
  · split
    · rfl
    · split <;> rfl

theorem Core.vatSeal_seq (k : Core) (t e v gen : Nat) : (k.vatSeal t e v gen).seq = k.seq := by
  simp only [Core.vatSeal]; split <;> rfl

theorem Core.vatRelease_seq (k : Core) (e v gen : Nat) : (k.vatRelease e v gen).seq = k.seq := by
  simp only [Core.vatRelease]; split <;> rfl

theorem Core.meRelease_seq (k : Core) (r e : Nat) (s : MeSlot) : (k.meRelease r e s).seq = k.seq := by
  refine Core.foldl_seq _ (fun c i => ?_) _ k
  dsimp only
  split
  · exact c.vatRelease_seq _ _ _
  · rfl

theorem Core.meEpi_seq (k : Core) (r e : Nat) (x : Bool) (s : MeSlot) : (k.meEpi r e x s).seq = k.seq := by
  refine Core.foldl_seq _ (fun c i => ?_) _ k
  dsimp only
  split <;> rfl

/-- An engine slot whose operation leaves the sequencer touches FAULTED at most. -/
theorem Core.meIssue_seqKept (k : Core) (e op : Nat) (s : MeSlot) {act : Core → Core} (h : (act k).seq = k.seq) :
    k.SeqKept (k.meIssue e op s act) := by
  simp only [Core.meIssue]
  split
  · exact ⟨true, rfl⟩
  · exact Core.seqKept_of_eq h

theorem Core.meSlotRun_seqKept (k : Core) (r e raw : Nat) : k.SeqKept (k.meSlotRun r e raw) := by
  simp only [Core.meSlotRun]
  split
  · split
    · exact Core.seqKept_of_eq rfl
    · exact k.meIssue_seqKept _ _ _ rfl
  · exact k.meIssue_seqKept _ _ _ (Core.foldl_seq _ (fun c i => c.vatOpen_seq _ _ _ _ _) _ k)
  · exact k.meIssue_seqKept _ _ _ (Core.foldl_seq _ (fun c i => c.vatSeal_seq _ _ _ _) _ k)
  · exact k.meIssue_seqKept _ _ _ (k.meEpi_seq _ _ _ _)
  · exact k.meIssue_seqKept _ _ _ (k.meEpi_seq _ _ _ _)
  · exact k.meIssue_seqKept _ _ _ (k.meRelease_seq _ _ _)
  all_goals exact k.meIssue_seqKept _ _ _ rfl

theorem Core.ptrInc_seq (k : Core) (i : Nat) : (k.ptrInc i).seq = k.seq := rfl

theorem Core.veLd_seq (k : Core) (r : Nat) (s : VeSlot) : (k.veLd r s).seq = k.seq := by
  simp only [Core.veLd]; split <;> rfl

theorem Core.veStore_seq (k : Core) (r : Nat) (s : VeSlot) : (k.veStore r s).seq = k.seq := by
  simp only [Core.veStore]; split <;> rfl

theorem Core.veAct_seq (k : Core) (r op : Nat) (s : VeSlot) : (k.veAct r op s).seq = k.seq := by
  simp only [Core.veAct]
  split
  · exact k.veLd_seq r s
  · exact k.veStore_seq r s
  all_goals rfl

theorem Core.veSlotRun_seqKept (k : Core) (r raw : Nat) : k.SeqKept (k.veSlotRun r raw) := by
  simp only [Core.veSlotRun, Core.slotVe, Core.veIssue]
  split
  · exact Core.seqKept_of_eq rfl
  · split
    · exact ⟨true, rfl⟩
    · exact Core.seqKept_of_eq (k.veAct_seq _ _ _)

theorem Core.clipStart_seq (k : Core) (q : Nat) : (k.clipStart q).seq = k.seq := by
  simp only [Core.clipStart]; split <;> rfl

theorem Core.moveStart_seq (k : Core) (env : SuEnv) (r ch : Nat) (s : SuSlot) (sd dd : Desc) :
    (k.moveStart env r ch s sd dd).seq = k.seq := by
  simp only [Core.moveStart]
  split
  · exact k.clipStart_seq _
  · rfl

theorem Core.suIssue_seqKept (k : Core) (env : SuEnv) (r : Nat) (s : SuSlot) : k.SeqKept (k.suIssue env r s) := by
  simp only [Core.suIssue]
  split
  · exact ⟨true, rfl⟩
  · split
    · exact Core.seqKept_of_eq rfl
    · split
      · exact ⟨true, rfl⟩
      · split
        · exact Core.seqKept_of_eq (k.moveStart_seq _ _ _ _ _ _)
        · exact Core.seqKept_of_eq rfl

theorem Core.suSlotRun_seqKept (k : Core) (env : SuEnv) (r raw : Nat) : k.SeqKept (k.suSlotRun env r raw) := by
  simp only [Core.suSlotRun]
  split
  · exact Core.seqKept_of_eq rfl
  · split
    · exact k.suIssue_seqKept _ _ _
    · exact ⟨true, rfl⟩

/-- The core when the slots of its units have issued and its SEQ slot has not. -/
def Core.unitsIssued (k : Core) (env : SeqEnv) (r : Nat) (b : BitVec 256) : Core :=
  ((List.range 4).foldl (fun (c : Core) e => c.meSlotRun r e (slotOf b (3 + e))) (k.suSlotRun env.su r (slotOf b 2))).veSlotRun
    r (slotOf b 7)

theorem Core.unitsIssued_seqKept (k : Core) (env : SeqEnv) (r : Nat) (b : BitVec 256) : k.SeqKept (k.unitsIssued env r b) :=
  ((k.suSlotRun_seqKept _ _ _).trans (Core.seqKept_foldl _ (fun c _ => c.meSlotRun_seqKept _ _ _) _ _)).trans
    (Core.veSlotRun_seqKept _ _ _)

theorem Core.unitsIssued_pail (k : Core) (env : SeqEnv) (r : Nat) (b : BitVec 256) (i : Nat) :
    (k.unitsIssued env r b).pail i = k.pail i := by
  obtain ⟨f, hf⟩ := k.unitsIssued_seqKept env r b
  simp only [Core.pail, hf]

/-! ### Bundles (R245, R246, R269) -/

/-- The core goes to the next repetition of its bundle, or past it. -/
def Core.goesOn (k : Core) (bundle rep at_ : Nat) : Core :=
  { k with seq := { k.seq with bundle := bundle, rep := rep, nextAt := some at_, stalled := false } }

theorem Core.goesOn_seq (k : Core) (bundle rep at_ : Nat) : (k.goesOn bundle rep at_).seq =
    { k.seq with bundle := bundle, rep := rep, nextAt := some at_, stalled := false } := rfl

theorem Core.goesOn_pail (k : Core) (bundle rep at_ i : Nat) : (k.goesOn bundle rep at_).pail i = k.pail i := rfl

/-- A bundle whose SEQ slot lets the next one follow. -/
theorem Core.issue_next (k : Core) {env : SeqEnv} {self r : Nat} {b : BitVec 256} (hb : k.bundle = some b) {l : Core}
    (hs : (k.unitsIssued env r b).seqSlotRun env self r (slotOf b 1) = (l, [], .next)) :
    k.issue env self r = if k.seq.rep < bits (slotOf b 0) 31 24 then (l.goesOn k.seq.bundle (k.seq.rep + 1) (r + 1), [])
      else (l.goesOn (k.seq.bundle + 1) 0 (r + 1 + bits (slotOf b 0) 23 8), []) := by
  simp only [Core.unitsIssued] at hs
  simp only [Core.issue, hb, hs]
  rfl

theorem Core.turn_issues (k : Core) {env : SeqEnv} {self r n : Nat} (hrun : k.seq.state = .run) (hn : k.seq.nextAt = some n)
    (hr : n ≤ r) (hw : ∀ i, k.waitPail = some i → (k.pail i).level ≠ 0) : k.turn env self r = k.issue env self r := by
  have hdue : k.due r = true := by simp [Core.due, hrun, hn, hr]
  simp only [Core.turn, hdue]
  cases h : k.waitPail with
  | none => rfl
  | some i => simp [hw i h]

theorem Core.waitPail_of_wait (k : Core) {b : BitVec 256} (hb : k.bundle = some b) (ho : bits (slotOf b 1) 31 27 = 2)
    (hr : bits (slotOf b 1) 15 0 = 0) : k.waitPail = some (bits (slotOf b 1) 26 16) := by
  simp [Core.waitPail, Core.seqSlot, hb, ho, hr]

theorem Core.waitPail_of_nop (k : Core) {b : BitVec 256} (hb : k.bundle = some b) (h : slotOf b 1 = 0) : k.waitPail = none := by
  simp [Core.waitPail, Core.seqSlot, hb, h, bits]

/-- What stands below the opcode of a slot reads as the slot does. -/
theorem bits_mod_two_pow (x : Nat) {n hi : Nat} (lo : Nat) (h : hi < n) : bits (x % 2 ^ n) hi lo = bits x hi lo := by
  apply Nat.eq_of_testBit_eq
  intro i
  simp only [bits, Nat.testBit_mod_two_pow, Nat.testBit_shiftRight]
  by_cases hi' : i < hi + 1 - lo
  · simp [hi', show lo + i < n by omega]
  · simp [hi']

theorem Core.seqSlotRun_nop (k : Core) (env : SeqEnv) (self r : Nat) : k.seqSlotRun env self r 0 = (k, [], .next) := by
  simp [Core.seqSlotRun, bits]

theorem Core.seqSlotRun_wait (k : Core) (env : SeqEnv) (self r : Nat) {raw : Nat} (ho : bits raw 31 27 = 2)
    (hr : bits raw 15 0 = 0) : k.seqSlotRun env self r raw = (k.takeToken (bits raw 26 16), [], .next) := by
  simp only [Core.seqSlotRun, ho, Core.seqWait]
  rw [bits_mod_two_pow raw 0 (by decide), bits_mod_two_pow raw 16 (by decide), if_neg (not_not_intro hr)]

theorem Core.takeToken_pail_of_plane (k : Core) {i : Nat} (he : (k.pail i).edge = false) :
    ((k.takeToken i).pail i).level = (k.pail i).level - 1 := by
  simp [Core.takeToken, he]

theorem Core.turn_nop (k : Core) {env : SeqEnv} {self r n : Nat} {b : BitVec 256} (hrun : k.seq.state = .run)
    (hb : k.bundle = some b) (hn : k.seq.nextAt = some n) (hr : n ≤ r) (hnop : slotOf b 1 = 0) : k.turn env self r =
      if k.seq.rep < bits (slotOf b 0) 31 24 then
        ((k.unitsIssued env r b).goesOn k.seq.bundle (k.seq.rep + 1) (r + 1), [])
      else ((k.unitsIssued env r b).goesOn (k.seq.bundle + 1) 0 (r + 1 + bits (slotOf b 0) 23 8), []) := by
  rw [k.turn_issues hrun hn hr fun i h => by rw [k.waitPail_of_nop hb hnop] at h; cases h]
  exact k.issue_next hb (by rw [hnop]; exact Core.seqSlotRun_nop _ _ _ _)

/-- A stalled WAIT that finds its token takes it, and its bundle, at the last repetition, is over. -/
theorem Core.waitOver_issues (k : Core) {env : SeqEnv} {self r n : Nat} {b : BitVec 256} (hrun : k.seq.state = .run)
    (hb : k.bundle = some b) (hn : k.seq.nextAt = some n) (hr : n ≤ r) (ho : bits (slotOf b 1) 31 27 = 2)
    (hres : bits (slotOf b 1) 15 0 = 0) (hst : k.seq.stalled = true) (hl : 0 < (k.pail (bits (slotOf b 1) 26 16)).level)
    (hrep : bits (slotOf b 0) 31 24 ≤ k.seq.rep) : k.waitOver env self r =
      (((k.unitsIssued env r b).takeToken (bits (slotOf b 1) 26 16)).goesOn (k.seq.bundle + 1) 0
        (r + 1 + bits (slotOf b 0) 23 8), []) := by
  have hpail := k.waitPail_of_wait hb ho hres
  simp only [Core.waitOver, hpail]
  rw [if_pos ⟨hst, hl⟩, k.turn_issues hrun hn hr fun i h => by rw [hpail] at h; cases h; exact Nat.pos_iff_ne_zero.mp hl,
    k.issue_next hb (Core.seqSlotRun_wait _ _ _ _ ho hres), if_neg (Nat.not_lt.mpr hrep)]

/-- Settles O6: a bundle due issues, and its SEQ slot is a NOP, or a WAIT that finds its token. -/
theorem bundleIssues : Obligations.BundleIssues := by
  intro s c hruns
  dsimp only
  obtain ⟨_, _, hstate⟩ := id hruns
  generalize hk : s.coreNow c = k at hstate ⊢
  intro b n hb hn hr
  refine ⟨fun hnop => ?nop, fun ho hres hst hl hrep => ?wait⟩
  case nop =>
    have hturn := k.turn_nop (env := s.plane.seqEnv s.chip c) (self := c) hstate hb hn hr hnop
    by_cases hlt : k.seq.rep < bits (slotOf b 0) 31 24
    · rw [if_pos hlt] at hturn
      refine ⟨_, congrArg Host.Outcome.next (s.slot_keeps_mesh hruns _ (by rwa [hk])), s.onlyCore_withCore c _, ?_⟩
      rw [State.withCore_core]
      exact ⟨fun _ => ⟨rfl, rfl, rfl⟩, fun h => absurd hlt (Nat.not_lt.mpr h)⟩
    · rw [if_neg hlt] at hturn
      refine ⟨_, congrArg Host.Outcome.next (s.slot_keeps_mesh hruns _ (by rwa [hk])), s.onlyCore_withCore c _, ?_⟩
      rw [State.withCore_core]
      exact ⟨fun h => absurd h hlt, fun _ => ⟨rfl, rfl, rfl⟩⟩
  case wait =>
    have hover := k.waitOver_issues (env := s.plane.seqEnv s.chip c) (self := c) hstate hb hn hr ho hres hst hl hrep
    refine ⟨_, congrArg Host.Outcome.next (s.slot_keeps_mesh hruns _ (by rwa [hk])), s.onlyCore_withCore c _, ?_⟩
    rw [State.withCore_core]
    refine ⟨rfl, rfl, rfl, fun he => ?_⟩
    have hp := k.unitsIssued_pail (s.plane.seqEnv s.chip c) s.plane.now b (bits (slotOf b 1) 26 16)
    exact (Core.takeToken_pail_of_plane _ (by rwa [hp])).trans (by rw [hp])

/-! ### ATOM (R249) -/

theorem atomArg_bits {kind : Nat} (hk : kind < 4) (arg : Nat) :
    bits (atomArg kind arg) 26 23 = bits arg 26 23 ∧ bits (atomArg kind arg) 22 21 = kind ∧
    bits (atomArg kind arg) 19 13 = bits arg 19 13 ∧ bits (atomArg kind arg) 12 0 = bits arg 12 0 ∧
    bit (atomArg kind arg) 20 = bit arg 20 := by
  simp only [bits, bit, atomArg, Nat.shiftRight_eq_div_pow, Nat.testBit_eq_decide_div_mod_eq, decide_eq_decide]
  omega

/-- The checks of R248 on the fields of an ATOM of a kind that exists. -/
theorem atomBad_eq_false {env : SeqEnv} {kind arg word : Nat} (hk : kind < 3) (hr : bits arg 12 0 = 0)
    (hp : bit arg 20 = true → bits arg 19 13 < env.su.enabled)
    (hb : bits arg 26 23 + (if kind = 2 then 4 else 1) ≤ 15) (hw : kind = 2 → word % 2 = 0) :
    atomBad env (atomArg kind arg) word = false := by
  obtain ⟨h1, h2, h3, h4, h5⟩ := atomArg_bits (show kind < 4 by omega) arg
  simp only [atomBad, h1, h2, h3, h4, h5, hr]
  by_cases hk2 : kind = 2
  · subst hk2
    have := hw rfl
    simp only [if_true] at hb
    simpa [this, hb] using hp
  · simp only [if_neg hk2] at hb
    simpa [hk2, show kind ≠ 3 by omega] using And.intro hp (Nat.lt_of_succ_le hb)

/-- The core with an ATOM of its own in flight. -/
def Core.withAtom (k : Core) (kind b dest word : Nat) (ops : List Nat) (bankAt writeAt : Nat) : Core :=
  { k with
    nextId := k.nextId + 1
    seq := { k.seq with atoms := k.seq.atoms ++ [(⟨k.nextId, kind, b, dest, word, ops, bankAt, writeAt, false, none⟩ : AtomOp)] } }

/-- The tallies an ATOM takes as its operands. -/
def Core.atomOps (k : Core) (kind b : Nat) : List Nat :=
  (List.range (if kind = 2 then 4 else 1)).map fun i => (k.tally (b + 1 + i)).val.toNat

theorem Core.seqAtom_accepted (k : Core) {env : SeqEnv} {self r kind arg b word dest : Nat} (hk : kind < 3)
    (hb : b = bits arg 26 23) (hword : word = (k.tally b).val.toNat % 2 ^ 21)
    (hdest : dest = if bit arg 20 then bits arg 19 13 else self)
    (hok : atomBad env (atomArg kind arg) word = false) :
    k.seqAtom env self r (atomArg kind arg) =
      (k.withAtom kind b dest word (k.atomOps kind b) (r + latency env.routes env.site (env.siteOf dest) + 1)
        (r + 2 * latency env.routes env.site (env.siteOf dest) + 4),
       if dest = self then [] else [transit env.routes 0 env.site (env.siteOf dest) 0 r
        (.atom dest self k.nextId kind word (k.atomOps kind b))]) := by
  obtain ⟨h1, h2, h3, h4, h5⟩ := atomArg_bits (show kind < 4 by omega) arg
  simp only [Core.seqAtom, h1, h2, h3, h5]
  rw [← hb, ← hword, ← hdest, hok]
  by_cases hd : dest = self
  · rw [if_neg Bool.false_ne_true, if_pos hd, if_pos hd]
    rfl
  · rw [if_neg Bool.false_ne_true, if_neg hd, if_neg hd]
    rfl

/-- Settles O7: an ATOM that its checks accept captures its target and operands, and asks the mesh for another core's. -/
theorem atomSlots : Obligations.AtomSlots := by
  intro s c arg hruns hres
  dsimp only
  generalize hk : s.coreNow c = k
  generalize hb : bits arg.toNat 26 23 = b
  generalize hword : (k.tally b).val.toNat % 2 ^ 21 = word
  generalize hdest : (if bit arg.toNat 20 = true then bits arg.toNat 19 13 else c.val) = dest
  intro hp
  have hp' : bit arg.toNat 20 = true → bits arg.toNat 19 13 < s.plane.enabled := fun h => by
    have := hp h
    rwa [← hdest, if_pos h] at this
  have issued : ∀ kind, kind < 3 → b + (if kind = 2 then 4 else 1) ≤ 15 → (kind = 2 → word % 2 = 0) →
      (dest = c.val → s.slot c (fun env r k => k.seqAtom env c r (atomArg kind arg.toNat)) =
        s.withCore c (k.withAtom kind b dest word (k.atomOps kind b)
          (s.plane.now + latency s.chip.routes (s.plane.site c) (s.plane.site dest) + 1)
          (s.plane.now + 2 * latency s.chip.routes (s.plane.site c) (s.plane.site dest) + 4))) ∧
      (dest ≠ c.val → s.plane.taken.contains c.val = false → ∃ x : Transit,
        s.slot c (fun env r k => k.seqAtom env c r (atomArg kind arg.toNat)) = (({ s with plane := { s.plane with
          taken := c.val :: s.plane.taken, group := s.plane.group + 1, mesh := s.plane.mesh ++ [x] } } : State).withCore c
          (k.withAtom kind b dest word (k.atomOps kind b)
            (s.plane.now + latency s.chip.routes (s.plane.site c) (s.plane.site dest) + 1)
            (s.plane.now + 2 * latency s.chip.routes (s.plane.site c) (s.plane.site dest) + 4))) ∧
        x.load = .atom dest c k.nextId kind word (k.atomOps kind b) ∧ x.lost = false) := by
    intro kind hkind hfit heven
    have hatom := k.seqAtom_accepted (env := s.plane.seqEnv s.chip c) (self := c) (r := s.plane.now) hkind hb.symm hword.symm hdest.symm
      (atomBad_eq_false hkind hres hp' (by rwa [hb]) heven)
    refine ⟨fun hd => ?_, fun hd ht => ?_⟩
    · rw [if_pos hd] at hatom
      exact s.slot_keeps_mesh hruns _ (by rw [hk]; exact hatom)
    · rw [if_neg hd] at hatom
      exact ⟨_, s.slot_one hruns _ _ _ (by rw [hk]; exact hatom) ht, rfl, rfl⟩
  refine ⟨fun hfit => ⟨?_, ?_⟩, fun hfit heven => ?_⟩
  · obtain ⟨own, far⟩ := issued 0 (by omega) hfit (by simp)
    exact ⟨fun hd => congrArg _ (own hd), fun hd ht => (far hd ht).imp fun x h => ⟨congrArg _ h.1, h.2⟩⟩
  · obtain ⟨own, far⟩ := issued 1 (by omega) hfit (by simp)
    exact ⟨fun hd => congrArg _ (own hd), fun hd ht => (far hd ht).imp fun x h => ⟨congrArg _ h.1, h.2⟩⟩
  · obtain ⟨own, far⟩ := issued 2 (by omega) hfit fun _ => heven
    exact ⟨fun hd => congrArg _ (own hd), fun hd ht => (far hd ht).imp fun x h => ⟨congrArg _ h.1, h.2⟩⟩

end Sys2Proof.Machine
end

section
/-! Accesses of one unit at the banks of its stores, and what the stores read back (R256 to R260, R272, R274, R300). -/

namespace Sys2Proof.Machine

/-! ### Bytes written and read back -/

theorem mergeByte_whole (old val : Byte) : mergeByte old 0xFF val = val := by
  ext i hi
  have : i < 8 := hi
  simp [mergeByte]
  interval_cases i <;> simp

theorem wbytes_cons (off : Nat) (b : Byte) (t : Bytes) : wbytes off (b :: t) = ⟨off, 0xFF, b⟩ :: wbytes (off + 1) t := by
  simp only [wbytes, List.zipIdx_cons, List.map_cons, Nat.add_zero, List.cons.injEq, true_and, List.zipIdx_succ, List.map_map]
  refine List.map_congr_left fun x _ => ?_
  simp only [Function.comp, WByte.mk.injEq, and_true]
  omega

/-- Whole bytes of a line are a byte string written at their address. -/
theorem putBytes_wbytes (m : Mem) (base off : Nat) (bs : Bytes) : putBytes m base (wbytes off bs) = m.write (base + off) bs := by
  induction bs generalizing m off with
  | nil => rfl
  | cons b t ih => rw [wbytes_cons, putBytes, ih, mergeByte_whole, Mem.write, Nat.add_assoc]

theorem StoreSt.tile_writeLine (s : StoreSt) (line off : Nat) (bs : Bytes) :
    (s.writeLine false line (wbytes off bs)).tile = s.tile.write (64 * line + off) bs := by
  rw [Nat.mul_comm, ← putBytes_wbytes]
  rfl

@[simp] theorem StoreSt.stage_writeLine (s : StoreSt) (line : Nat) (ws : List WByte) :
    (s.writeLine false line ws).stage = s.stage := rfl

theorem StoreSt.peek_tile (s : StoreSt) (a n : Nat) : s.peek false a n = s.tile.read a n := rfl

/-! ### Accesses that nothing stands above (R257) -/

/-- An access is not lost where no access of the cycle above its place reaches its bank, and none of its own list. -/
theorem State.not_lost {s : State} {c : Nat} {mine : List Acc} {a : Acc} (h : s.portFree c a.staging a.line a.rank a.sub)
    (hown : ∀ b ∈ mine, b.above a = false) : a.lost (mine ++ s.rivals c) = false := by
  simp only [Acc.lost, List.any_eq_false, List.mem_append]
  rintro b (hb | hb)
  · simp [hown b hb]
  · intro hc
    simp only [Acc.sameBank, Acc.above, Bool.and_eq_true, Bool.or_eq_true, beq_iff_eq, decide_eq_true_eq] at hc
    obtain ⟨⟨hst, hbank⟩, habove⟩ := hc
    exact h b hb hst (by rw [← hst] at hbank ⊢; exact hbank) habove

theorem Acc.not_above_of_same {a b : Acc} (hr : b.rank = a.rank) (hs : b.sub = a.sub) : b.above a = false := by
  simp [Acc.above, hr, hs]

theorem Acc.not_lost_self (s : State) (c : Nat) {a : Acc} (h : s.portFree c a.staging a.line a.rank a.sub) :
    a.lost ([a] ++ s.rivals c) = false :=
  State.not_lost h fun b hb => by rw [List.mem_singleton.mp hb]; exact Acc.not_above_of_same rfl rfl

/-- The core with other counts of collisions and of sectors read, and other events. -/
def Core.noted (k : Core) (collide uncorr corrected : Nat) (ev : List CoreEv) : Core :=
  { k with st := { k.st with collide := collide, uncorr := uncorr, corrected := corrected }, ev := ev }

/-- From `k` to `l` collisions and sectors read have been counted and reported, and nothing else has changed. -/
def Core.Noted (k l : Core) : Prop := ∃ collide uncorr corrected ev, l = k.noted collide uncorr corrected ev

theorem Core.Noted.trans {k l m : Core} (h : k.Noted l) (g : l.Noted m) : k.Noted m := by
  obtain ⟨_, _, _, _, rfl⟩ := h
  obtain ⟨_, _, _, _, rfl⟩ := g
  exact ⟨_, _, _, _, rfl⟩

theorem Core.noteSectors_noted (k : Core) (seen : List (Bool × Nat)) : k.Noted (k.noteSectors seen) := by
  simp only [Core.noteSectors]
  split <;> exact ⟨_, _, _, _, rfl⟩

/-- What a trailer access is: it is served after every other. -/
def Acc.isTrailer (a : Acc) : Bool := match a.kind with | .trailer .. => true | _ => false

/-- Accesses none of which is lost or a trailer are served one after another. -/
theorem Core.perform_served (k : Core) (self r : Nat) (mine all : List Acc) (hl : ∀ a ∈ mine, a.lost all = false)
    (ht : ∀ a ∈ mine, a.isTrailer = false) : ∃ l, k.Noted l ∧ k.perform self r mine all =
      mine.foldl (fun st a => ((st.1.serve self r a).1, st.2 ++ (st.1.serve self r a).2)) (l, []) := by
  have hplain : mine.filter (fun a => !a.isTrailer) = mine := List.filter_eq_self.mpr fun a ha => by simp [ht a ha]
  have hnone : mine.filter Acc.isTrailer = [] := List.filter_eq_nil_iff.mpr fun a ha => by simp [ht a ha]
  simp only [Core.perform]
  generalize ((lostPorts mine all).filter fun p => !(lostPorts k.st.served all).contains p).length = n
  generalize hl' : Core.noteSectors _ _ = l
  refine ⟨l, ?noted, ?served⟩
  case noted =>
    refine hl' ▸ Core.Noted.trans ?_ (Core.noteSectors_noted _ _)
    split <;> exact ⟨_, _, _, _, rfl⟩
  case served =>
    refine (congrArg (List.foldl _ _) ((congrArg₂ (· ++ ·) hplain hnone).trans (List.append_nil mine))).trans ?_
    refine List.foldl_ext _ _ _ fun st a ha => ?_
    rw [hl a ha]
    rfl

/-- What a unit's accesses, all served, make of its core. -/
theorem Core.alone_served (k : Core) (self r : Nat) (others : List Acc) (f : Core → Core) {k1 : Core} {mine : List Acc}
    (hf : f { k with st := { k.st with acc := [] } } = k1) (hm : k1.st.acc = mine)
    (hl : ∀ a ∈ mine, a.lost (mine ++ others) = false) (ht : ∀ a ∈ mine, a.isTrailer = false) :
    ∃ l, k1.Noted l ∧ k.alone self r others f =
      (let x := mine.foldl (fun st a => ((st.1.serve self r a).1, st.2 ++ (st.1.serve self r a).2)) (l, [])
       ({ x.1 with st := { x.1.st with acc := k.st.acc, served := k.st.served ++ mine } }, x.2)) := by
  obtain ⟨l, hn, hp⟩ := k1.perform_served self r mine (mine ++ others) hl ht
  refine ⟨l, hn, ?_⟩
  subst hm
  simp only [Core.alone, hf, hp]

/-- The same for a unit that makes one access. -/
theorem Core.alone_one (k : Core) (self r : Nat) (others : List Acc) (f : Core → Core) {k1 : Core} {a : Acc}
    (hf : f { k with st := { k.st with acc := [] } } = k1) (hm : k1.st.acc = [a])
    (hl : a.lost ([a] ++ others) = false) (ht : a.isTrailer = false) :
    ∃ l, k1.Noted l ∧ k.alone self r others f = ({ (l.serve self r a).1 with st := { (l.serve self r a).1.st with
      acc := k.st.acc, served := k.st.served ++ [a] } }, (l.serve self r a).2) :=
  k.alone_served self r others f hf hm (fun x hx => by rwa [List.mem_singleton.mp hx])
    fun x hx => by rwa [List.mem_singleton.mp hx]

theorem PlaneSt.returns_nil (p : PlaneSt) (cfg : ChipCfg) (self r : Nat) : p.returns cfg self r [] = p := by
  simp [PlaneSt.returns]

/-- A unit whose accesses send nothing to another core replaces its core and nothing else. -/
theorem State.aloneAt_there (s : State) {c : Nat} (h : s.coreThere c) (f : Nat → Core → Core) {k : Core}
    (hk : (s.coreNow c).alone c s.plane.now (s.rivals c) (f s.plane.now) = (k, [])) : s.aloneAt c f = s.withCore c k := by
  rw [State.aloneAt, if_pos (s.there_of h)]
  simp only [hk, PlaneSt.returns_nil]
  rfl

/-- A plain write of whole bytes to the tile store is served. -/
theorem Core.serve_write (k : Core) (self r line rank sub off : Nat) (bs : Bytes) : ∃ st sig,
    k.serve self r ⟨false, line, rank, sub, .write (wbytes off bs)⟩ = ({ k with st := st, sig := sig }, []) ∧
    st.tile = k.st.tile.write (64 * line + off) bs ∧ st.stage = k.st.stage :=
  ⟨_, _, rfl, k.st.tile_writeLine line off bs, rfl⟩

/-! ### ATOMs at their bank (R249, R300) -/

theorem StoreSt.forwarded_of_no_adders (s : StoreSt) (h : s.adders = []) (line off n : Nat) :
    s.forwarded line off n = s.peek false (line * 64 + off) n := by
  have hlen : (s.peek false (line * 64 + off) n).length = n := Mem.length_read _ _ _
  simp only [StoreSt.forwarded, h, List.foldl_nil]
  refine List.ext_getElem (by simp [hlen]) fun i h1 h2 => ?_
  simp [nth, List.getElem?_eq_getElem h2]

theorem leAt_whole (bs : Bytes) : leAt bs 0 bs.length = leNat bs := by simp [leAt]

/-- FAA_I32 on a word of a good sector that no update waits for (R249). -/
theorem StoreSt.atomAccess_faa (s : StoreSt) (ha : s.adders = []) {word : Nat} (hw : word < 2 ^ 21)
    (hg : s.poisoned false (4 * word) = false) (ops : List Nat) :
    s.atomAccess 0 word ops = (s.writeLine false (word / 16) (wbytes (4 * (word % 16))
      (leBytes 4 ((leNat (s.peek false (4 * word) 4) + nth ops 0 0) % 2 ^ 32))), [leNat (s.peek false (4 * word) 4)], true) := by
  have hline : word / 16 % 131072 = word / 16 := Nat.mod_eq_of_lt (by omega)
  have hat : word / 16 * 64 + 4 * (word % 16) = 4 * word := by omega
  have hgood : s.stillBad (word / 16) (4 * (word % 16) / 32) = false := by
    have hsec : 2 * (word / 16) + 4 * (word % 16) / 32 = 4 * word / 32 := by omega
    have hgood : s.badTile.contains (4 * word / 32) = false := hg
    simp only [StoreSt.stillBad, hsec, hgood, Bool.false_and]
  have hv : leAt (s.peek false (4 * word) 4) 0 4 = leNat (s.peek false (4 * word) 4) := by
    have := leAt_whole (s.peek false (4 * word) 4)
    rwa [StoreSt.peek_tile, Mem.length_read] at this
  simp only [StoreSt.atomAccess, hline, hgood, s.forwarded_of_no_adders ha, ha]
  simp [hat, atomResult, hv]

theorem length_leBytes (n x : Nat) : (leBytes n x).length = n := by
  induction n generalizing x with
  | zero => rfl
  | succ n ih => rw [leBytes, List.length_cons, ih]

/-- The oldest cycle's ATOM of a core that has no other asks for its word's bank. -/
theorem Core.atomAccs_one (k : Core) {o : AtomOp} {self r : Nat} (ho : k.seq.atoms = [o]) (ht : o.target = self)
    (hi : o.issued = false) (hb : o.bankAt ≤ r) : k.atomAccs self r = { k with
      seq := { k.seq with atoms := [{ o with issued := true }] }
      st := { k.st with acc := k.st.acc ++ [⟨false, o.word / 16 % 131072, 1, 0, .atom self o.id o.kind o.word o.ops⟩] } } := by
  simp [Core.atomAccs, ho, ht, hi, hb]

/-- The bank adds the operand to the word and keeps the old value for the ATOM (R249). -/
theorem Core.serve_faa (k : Core) (self r id rank sub : Nat) (ha : k.st.adders = []) {word : Nat} (hw : word < 2 ^ 21)
    (hg : k.st.poisoned false (4 * word) = false) (ops : List Nat) : ∃ st sig,
    k.serve self r ⟨false, word / 16, rank, sub, .atom self id 0 word ops⟩ =
      (({ k with st := st, sig := sig } : Core).atomOld id [leNat (k.st.peek false (4 * word) 4)], []) ∧
    st.tile = k.st.tile.write (4 * word) (leBytes 4 ((leNat (k.st.peek false (4 * word) 4) + nth ops 0 0) % 2 ^ 32)) ∧
    st.stage = k.st.stage := by
  simp only [Core.serve, k.st.atomAccess_faa ha hw hg]
  refine ⟨_, _, rfl, ?_, rfl⟩
  rw [StoreSt.tile_writeLine]
  congr 1
  omega

theorem exec_atomBankAccess_alone (s : State) {c : Fin 128} (hthere : s.coreThere c) (h : s.plane.lateOf c = []) {k : Core}
    (hk : (s.coreNow c).alone c s.plane.now (s.rivals c) (fun k => k.atomAccs c s.plane.now) = (k, [])) :
    exec (.atomBankAccess c) s = .next (s.withCore c k) := by
  have hlate : s.plane.late.filter (fun l => !(l.2.1 == c.val && decide (l.1 ≤ s.plane.now))) = s.plane.late := by
    rw [List.filter_eq_self]
    rw [PlaneSt.lateOf, List.map_eq_nil_iff, List.filter_eq_nil_iff] at h
    exact fun l hl => by simpa [imp_iff_not_or] using h l hl
  have halone := s.aloneAt_there hthere (fun r k =>
    { k.atomAccs c r with st := { (k.atomAccs c r).st with acc := (k.atomAccs c r).st.acc ++ s.plane.lateOf c } })
    (by simpa only [h, List.append_nil] using hk)
  have hif := s.there_of hthere
  refine congrArg Host.Outcome.next ?_
  refine (if_pos hif).trans ?_
  rw [halone, hlate]
  rfl

/-- The access of a core's one FAA_I32, nothing above it at its bank. -/
theorem Core.alone_faa (k : Core) (self r : Nat) (others : List Acc) {o : AtomOp} (ho : k.seq.atoms = [o]) (ht : o.target = self)
    (hkind : o.kind = 0) (hi : o.issued = false) (hb : o.bankAt ≤ r) (hold : o.old = none) (hword : o.word < 2 ^ 21)
    (hadd : k.st.adders = []) (hgood : k.st.poisoned false (4 * o.word) = false)
    (hl : ∀ kind, Acc.lost ([⟨false, o.word / 16, 1, 0, kind⟩] ++ others) ⟨false, o.word / 16, 1, 0, kind⟩ = false) :
    ∃ k', k.alone self r others (fun k => k.atomAccs self r) = (k', []) ∧ k.sameBut { k' with ev := [] } ∧
      k'.st.tile = k.st.tile.write (4 * o.word)
        (leBytes 4 ((leNat (k.st.peek false (4 * o.word) 4) + nth o.ops 0 0) % 2 ^ 32)) ∧
      k'.st.stage = k.st.stage ∧
      k'.seq.atoms = [{ o with issued := true, old := some [leNat (k.st.peek false (4 * o.word) 4)] }] := by
  have hline : o.word / 16 % 131072 = o.word / 16 := Nat.mod_eq_of_lt (by omega)
  obtain ⟨l, ⟨n1, n2, n3, ev, hn⟩, hal⟩ := k.alone_one self r others (fun k => k.atomAccs self r)
    (Core.atomAccs_one _ ho ht hi hb) (a := ⟨false, o.word / 16, 1, 0, .atom self o.id 0 o.word o.ops⟩)
    (by simp [hline, hkind]) (hl _) rfl
  obtain ⟨st, sig, hserve, htile, hstage⟩ := l.serve_faa self r o.id 1 0 (by rw [hn]; exact hadd) hword (by rw [hn]; exact hgood) o.ops
  refine ⟨_, by rw [hal, hserve], ?_⟩
  subst hn
  refine ⟨rfl, htile, hstage, ?_⟩
  simp [Core.atomOld, Core.noted, hold]
  rfl

theorem exec_atomResultWrite_there (s : State) {c : Fin 128} (h : s.coreThere c) :
    exec (.atomResultWrite c) s = .next (s.withCore c ((s.plane.core c).atomWrites s.plane.now)) :=
  congrArg Host.Outcome.next (s.coreEvent_there h fun r k => k.atomWrites r)

theorem Core.atomWrites_one (k : Core) {o : AtomOp} {r v : Nat} (ho : k.seq.atoms = [o]) (hw : o.writeAt ≤ r)
    (hv : o.old = some [v]) : k.atomWrites r = { k with seq := { k.seq with
      atoms := [], tallies := k.seq.tallies.set (o.b + 1) ⟨BitVec.ofNat 32 v, true⟩ } } := by
  simp [Core.atomWrites, ho, hw, hv, Core.setTally]

/-- A byte string written to the tile store is there, and every other byte is as before. -/
theorem Mem.reads_after_write {m m' : Mem} {a n : Nat} {bs : Bytes} (h : m.wf = true) (hm : m' = m.write a bs) (hn : bs.length = n) :
    m'.read a n = bs ∧ ∀ b, b < a ∨ a + n ≤ b → m'.read b 1 = m.read b 1 := by
  subst hm hn
  exact ⟨Mem.read_write_self h a bs, fun b hb => Mem.read_write_ne h a b 1 bs (by omega)⟩

/-- Settles O8: the one access of the ATOM is served as nothing stands above it, and its result is written when it is due. -/
theorem atomAccess : Obligations.AtomAccess := by
  intro s c hthere
  refine ⟨?bank, ?result⟩
  case result =>
    intro k o v ho hw hv
    rw [exec_atomResultWrite_there s hthere, k.atomWrites_one ho hw hv]
  case bank =>
    dsimp only
    generalize hk : s.coreNow c = k
    intro o ho ht hwf hkind hi hb hold hword hlate hport hadd hgood
    obtain ⟨k', hal, hsame, htile, hstage, hatoms⟩ := k.alone_faa c s.plane.now (s.rivals c) ho ht hkind hi hb hold hword hadd
      hgood fun kind => Acc.not_lost_self s c hport
    refine ⟨_, exec_atomBankAccess_alone s hthere hlate (by rw [hk]; exact hal), s.onlyCore_withCore c k', ?_⟩
    rw [State.withCore_core]
    obtain ⟨hself, hother⟩ := Mem.reads_after_write hwf htile (length_leBytes 4 _)
    exact ⟨hsame, hself, hother, hstage, hatoms⟩

/-! ### The watchdog (R272, R274) -/

theorem State.powered_of_clockOn (s : State) (h : s.clockOn = true) : s.pwr.state ≤ 2 := by
  simp only [State.clockOn, Bool.and_eq_true, decide_eq_true_eq] at h
  omega

/-- Settles O10: a count at LIMIT trips its core, and the register write replaces LIMIT. -/
theorem watchdog : Obligations.Watchdog := by
  intro s c hlive k
  refine ⟨fun hclock hhalf hrun hlim hcount => ?trip, fun v hp => congrArg Host.Outcome.next (s.coreWrite_on hp hlive _)⟩
  have hover : k.wdogOver = true := by simpa [Core.wdogOver, hrun, hcount] using hlim
  have hp := s.powered_of_clockOn hclock
  refine ⟨s.withCore c (k.trip s.plane.now), ?_, s.onlyCore_withCore c _, ?_⟩
  · refine congrArg Host.Outcome.next ((if_pos (by simp [hclock, hhalf])).trans ((s.coreWrite_on hp hlive _).trans ?_))
    rw [if_pos hover]
  · rw [State.withCore_core]
    exact ⟨rfl, rfl, rfl, rfl, rfl, rfl, s.mem_reports_withCore c (List.mem_append_right _ (List.mem_singleton_self _))⟩

/-! ### Scrub (R258) -/

@[simp] theorem StoreSt.upset_clean (s : StoreSt) (staging : Bool) (sec : Nat) : s.upset staging sec .clean = s := rfl

theorem StoreSt.scrubSector_good (s : StoreSt) {staging : Bool} {sec : Nat} (h : (s.soft staging).contains sec = false) :
    s.scrubSector staging sec false = (s, false) := by
  simp only [StoreSt.scrubSector, h]
  rfl

theorem StoreSt.scrubSector_soft (s : StoreSt) {staging : Bool} {sec : Nat} (h : (s.soft staging).contains sec = true) (fresh : Bool) :
    s.scrubSector staging sec fresh = ({ s.setSoft staging ((s.soft staging).filter (· != sec)) with
      corrected := satAdd 16 s.corrected 1 }, true) :=
  if_pos h

theorem StoreSt.scrubSector_fresh (s : StoreSt) {staging : Bool} {sec : Nat} (h : (s.soft staging).contains sec = false) :
    s.scrubSector staging sec true = ({ s with uncorr := satAdd 16 s.uncorr 1 }, true) := by
  simp only [StoreSt.scrubSector, h]
  rfl

theorem sector_of_line (staging : Bool) (line i : Nat) :
    (line * lineBytes staging + 32 * i) / 32 = lineBytes staging / 32 * line + i := by
  cases staging <;> simp only [lineBytes] <;> simp <;> omega

theorem scrubSectors_cons {staging : Bool} {line i : Nat} {s s1 : StoreSt} {u : Upset} {f : Bool}
    (h : (s.upset staging (lineBytes staging / 32 * line + i) u).scrubSector staging (lineBytes staging / 32 * line + i)
      (u == .uncorrectable) = (s1, f)) (t : List Upset) (n : Nat) :
    scrubSectors staging line (u :: t) i (s, n) = scrubSectors staging line t (i + 1) (s1, if f then n + 1 else n) := by
  rw [← sector_of_line] at h
  simp only [scrubSectors, h]

/-- Sectors without a fault, new or old, are left as they are. -/
theorem scrubSectors_clean (staging : Bool) (line m i n : Nat) (s : StoreSt)
    (h : ∀ j, i ≤ j → j < i + m → (s.soft staging).contains (lineBytes staging / 32 * line + j) = false) :
    scrubSectors staging line (List.replicate m .clean) i (s, n) = (s, n) := by
  induction m generalizing i with
  | zero => rfl
  | succ m ih =>
    rw [List.replicate_succ, scrubSectors_cons (s := s) (u := .clean) (f := false) (s.scrubSector_good (h i le_rfl (by omega)))]
    exact ih _ fun j h1 h2 => h j (by omega) (by omega)

@[simp] theorem StoreSt.soft_setSoft (s : StoreSt) (staging : Bool) (b : List Nat) : (s.setSoft staging b).soft staging = b := by
  cases staging <;> rfl
@[simp] theorem StoreSt.bad_setSoft (s : StoreSt) (staging : Bool) (b : List Nat) :
    (s.setSoft staging b).bad staging = s.bad staging := by
  cases staging <;> rfl
@[simp] theorem StoreSt.bad_setBad (s : StoreSt) (staging : Bool) (b : List Nat) : (s.setBad staging b).bad staging = b := by
  cases staging <;> rfl
@[simp] theorem StoreSt.soft_setBad (s : StoreSt) (staging : Bool) (b : List Nat) :
    (s.setBad staging b).soft staging = s.soft staging := by
  cases staging <;> rfl

/-- `s` and `t` hold the same bytes. -/
def StoreSt.SameBytes (s t : StoreSt) : Prop := t.tile = s.tile ∧ t.stage = s.stage ∧ t.uncorr = s.uncorr ∧ t.corrected = s.corrected

theorem StoreSt.sameBytes_setSoft (s : StoreSt) (staging : Bool) (b : List Nat) : s.SameBytes (s.setSoft staging b) := by
  cases staging <;> exact ⟨rfl, rfl, rfl, rfl⟩

theorem StoreSt.sameBytes_setBad (s : StoreSt) (staging : Bool) (b : List Nat) : s.SameBytes (s.setBad staging b) := by
  cases staging <;> exact ⟨rfl, rfl, rfl, rfl⟩

theorem contains_secIns (n : Nat) (l : List Nat) : (secIns n l).contains n = true := by
  induction l with
  | nil => simp [secIns]
  | cons x t ih =>
    simp only [secIns]
    split
    · simp
    · split
      · simp [*]
      · simpa using Or.inr (by simpa using ih)

theorem not_contains_filter_ne (n : Nat) (l : List Nat) : (l.filter (· != n)).contains n = false := by
  simp

theorem not_contains_filter (p : Nat → Bool) {n : Nat} {l : List Nat} (h : l.contains n = false) : (l.filter p).contains n = false := by
  simp only [List.contains_eq_mem, decide_eq_false_iff_not, List.mem_filter] at h ⊢
  exact fun hc => h hc.1

/-- What a bank's scrub of the row of its slot makes of the core. -/
theorem Core.scrub_slot (k : Core) {staging : Bool} {bank : Nat} (hb : staging = true → bank < 8)
    (hd : k.st.scrubDone.contains (staging, bank) = false) {u : Upset} {st : StoreSt} {m : Nat}
    (h : scrubSectors staging (scrubRow staging k.st.scrubCount bank)
      (u :: List.replicate (lineBytes staging / 32 - 1) .clean) 0 (k.st, 0) = (st, m)) :
    k.scrub staging bank (u :: List.replicate (lineBytes staging / 32 - 1) .clean) =
      if m = 0 then { k with st := { st with scrubDone := st.scrubDone ++ [(staging, bank)] } }
      else ({ k with st := { st with scrubDone := st.scrubDone ++ [(staging, bank)] } } : Core).event .uncorrectable := by
  have htake : (u :: List.replicate (lineBytes staging / 32 - 1) Upset.clean).take (lineBytes staging / 32) =
      u :: List.replicate (lineBytes staging / 32 - 1) .clean := by
    apply List.take_of_length_le
    cases staging <;> simp [lineBytes]
  simp only [Core.scrub, htake, h]
  rw [if_neg]
  rintro (h' | ⟨h1, h2⟩)
  · rw [hd] at h'
    cases h'
  · exact absurd (hb h1) (Nat.not_lt.mpr h2)

theorem Core.scrub_done (k : Core) {staging : Bool} {bank : Nat} (hd : k.st.scrubDone.contains (staging, bank) = true)
    (found : List Upset) : k.scrub staging bank found = k :=
  if_pos (Or.inl hd)

theorem exec_tileScrub_open (s : State) {c : Fin 128} (ho : s.cycleOpen = true) (hc : c.val ∈ s.plane.live) (staging : Bool)
    (bank : Fin 32) (found : List Upset) : exec (.tileScrub c staging bank ⟨[], found⟩) s =
      .next (s.withCore c ((s.plane.core c).scrub staging bank found)) := by
  have hclock : s.clockOn = true := by
    rw [State.cycleOpen, Bool.and_eq_true] at ho
    exact ho.1
  exact congrArg Host.Outcome.next ((if_pos ho).trans (s.coreWrite_on (s.powered_of_clockOn hclock) hc _))

/-- The scrub of a row whose first sector alone needs anything: what is left of that sector. -/
theorem scrubSectors_first {staging : Bool} {line : Nat} {s s1 : StoreSt} {u : Upset} {f : Bool}
    (h : (s.upset staging (lineBytes staging / 32 * line) u).scrubSector staging (lineBytes staging / 32 * line)
      (u == .uncorrectable) = (s1, f))
    (hrest : ∀ i, 0 < i → i < lineBytes staging / 32 → (s1.soft staging).contains (lineBytes staging / 32 * line + i) = false) :
    scrubSectors staging line (u :: List.replicate (lineBytes staging / 32 - 1) .clean) 0 (s, 0) = (s1, if f then 1 else 0) := by
  rw [scrubSectors_cons (s := s) (s1 := s1) (f := f) h, scrubSectors_clean _ _ _ _ _ _ fun j h1 h2 => hrest j (by omega) (by omega)]

theorem StoreSt.bad_withCounts (s : StoreSt) (staging : Bool) (a b : Nat) (d : List (Bool × Nat)) :
    ({ s with corrected := a, uncorr := b, scrubDone := d } : StoreSt).bad staging = s.bad staging := by
  cases staging <;> rfl

theorem StoreSt.soft_withCounts (s : StoreSt) (staging : Bool) (a b : Nat) (d : List (Bool × Nat)) :
    ({ s with corrected := a, uncorr := b, scrubDone := d } : StoreSt).soft staging = s.soft staging := by
  cases staging <;> rfl

/-- A sector that the scrub finds uncorrectable is marked and counted. -/
theorem StoreSt.scrub_uncorrectable (s : StoreSt) (staging : Bool) (sec : Nat) :
    ((s.upset staging sec .uncorrectable).scrubSector staging sec true) =
      ({ (s.setBad staging (secIns sec (s.bad staging))).setSoft staging ((s.soft staging).filter (· != sec)) with
        uncorr := satAdd 16 s.uncorr 1 }, true) := by
  have hu := (s.setBad staging (secIns sec (s.bad staging))).sameBytes_setSoft staging ((s.soft staging).filter (· != sec))
  have hb := s.sameBytes_setBad staging (secIns sec (s.bad staging))
  obtain ⟨-, -, hcount, -⟩ := hu
  obtain ⟨-, -, hcount', -⟩ := hb
  rw [StoreSt.upset, StoreSt.scrubSector_fresh _ (by rw [StoreSt.soft_setSoft]; exact not_contains_filter_ne _ _), hcount, hcount']

/-! ### Bank adders (R260) -/

theorem StoreSt.writeBack_one (s : StoreSt) {r bank : Nat} {o : AdderOp} (ha : s.adders = [o]) (hd : o.due ≤ r)
    (hb : o.line % 32 = bank) : (s.writeBack r (some bank)).adders = [] ∧
      (s.writeBack r (some bank)).tile = s.tile.write (64 * o.line + o.off) o.bytes := by
  have hdue : s.adders.filter (fun o => decide (o.due ≤ r) && (some bank == none || some bank == some (o.line % 32))) = [o] := by
    simp [ha, hd, hb]
  have hrest : s.adders.filter (fun o => !(decide (o.due ≤ r) && (some bank == none || some bank == some (o.line % 32)))) = [] := by
    simp [ha, hd, hb]
  simp only [StoreSt.writeBack, hdue, hrest]
  exact ⟨rfl, StoreSt.tile_writeLine { s with adders := [] } o.line o.off o.bytes⟩

/-- The write-back of the one update that waits stores its bytes at its line. -/
theorem Core.phaseB_one (k : Core) {r bank : Nat} {o : AdderOp} (ha : k.st.adders = [o]) (hd : o.due ≤ r)
    (hb : o.line % 32 = bank) : (k.phaseB r (some bank)).st.adders = [] ∧
      (k.phaseB r (some bank)).st.tile = k.st.tile.write (64 * o.line + o.off) o.bytes := by
  have hdue : k.st.adders.filter (fun o => decide (o.due ≤ r) && (some bank == none || some bank == some (o.line % 32))) = [o] := by
    simp [ha, hd, hb]
  simp only [Core.phaseB, hdue]
  generalize hl : k.noteSectors _ = l
  obtain ⟨n1, n2, n3, ev, hn⟩ := hl ▸ k.noteSectors_noted _
  subst hn
  exact StoreSt.writeBack_one (k.noted n1 n2 n3 ev).st ha hd hb

theorem State.coreRear.bankAdderWriteBack {s : State} {c : Fin 128} (h : s.coreRear c) {bank : Fin 32} {o : AdderOp}
    (ha : (s.frontNow.plane.core c).st.adders = [o]) (hd : o.due ≤ s.frontNow.plane.now) (hb : o.line % 32 = bank.val) :
    exec (.bankAdderWriteBack c bank) s =
      .next (s.frontNow.withCore c ((s.frontNow.plane.core c).phaseB s.frontNow.plane.now (some bank.val))) :=
  congrArg Host.Outcome.next (s.rearEvent_rear h _ _ (by simp [ha, hd, hb]))

/-- Settles O9: a scrub by what stands in the first sector of its row, and a write-back by the update that is due. -/
theorem scrubAndWriteBack : Obligations.ScrubAndWriteBack := by
  intro s c bank
  refine ⟨fun ho hc staging hbank => ?scrub, fun staging faults found => rfl, fun staging sec hc => ?upset, fun hrear => ?writeBack⟩
  case scrub =>
    intro k n first done clean
    refine ⟨fun hd found => ?_, fun hd hrest => ⟨fun hs => ⟨?_, ?_⟩, fun hs => ?_⟩⟩
    · rw [exec_tileScrub_open s ho hc, k.scrub_done hd]
    · have h := scrubSectors_first (s := k.st) (u := .clean) (k.st.scrubSector_good hs) hrest
      rw [exec_tileScrub_open s ho hc, k.scrub_slot hbank hd h]
      rfl
    · have h := scrubSectors_first (s := k.st) (u := .uncorrectable) (k.st.scrub_uncorrectable staging first) fun i h1 h2 => by
        rw [StoreSt.soft_withCounts, StoreSt.soft_setSoft]
        exact not_contains_filter _ (hrest i h1 h2)
      obtain ⟨htile, hstage, -, -⟩ := (k.st.setBad staging (secIns first (k.st.bad staging))).sameBytes_setSoft staging
        ((k.st.soft staging).filter (· != first))
      obtain ⟨htile', hstage', -, -⟩ := k.st.sameBytes_setBad staging (secIns first (k.st.bad staging))
      refine ⟨_, exec_tileScrub_open s ho hc _ _ _, s.onlyCore_withCore c _, ?_⟩
      rw [State.withCore_core, k.scrub_slot hbank hd h]
      refine ⟨?_, fun _ => ⟨rfl, s.mem_reports_withCore c (List.mem_append_right _ (List.mem_singleton_self _))⟩,
        htile.trans htile', hstage.trans hstage'⟩
      refine (congrArg (List.contains · first) ((StoreSt.bad_withCounts _ _ _ _ _).trans (StoreSt.bad_setSoft _ _ _))).trans ?_
      rw [StoreSt.bad_setBad]
      exact contains_secIns _ _
    · have h := scrubSectors_first (s := k.st) (u := .clean) (k.st.scrubSector_soft hs false) fun i h1 h2 => by
        rw [StoreSt.soft_withCounts, StoreSt.soft_setSoft]
        exact not_contains_filter _ (hrest i h1 h2)
      obtain ⟨htile, hstage, -, -⟩ := k.st.sameBytes_setSoft staging ((k.st.soft staging).filter (· != first))
      refine ⟨_, exec_tileScrub_open s ho hc _ _ _, s.onlyCore_withCore c _, ?_⟩
      rw [State.withCore_core, k.scrub_slot hbank hd h]
      refine ⟨?_, rfl, s.mem_reports_withCore c (List.mem_append_right _ (List.mem_singleton_self _)), htile, hstage⟩
      refine (congrArg (List.contains · first) ((StoreSt.soft_withCounts _ _ _ _ _).trans (StoreSt.soft_setSoft _ _ _))).trans ?_
      exact not_contains_filter_ne _ _
  case upset =>
    have hcore : (s.upsets [⟨c, staging, sec, .uncorrectable⟩]).plane.core c =
        { s.plane.core c with st := (s.plane.core c).st.upset staging sec .uncorrectable } := by
      simp [State.upsets, hc, PlaneSt.onCore]
    rw [hcore]
    simp only [StoreSt.upset, StoreSt.bad_setSoft, StoreSt.bad_setBad]
    exact contains_secIns _ _
  case writeBack =>
    intro t0 k o hwf ha hd hb hlen
    have hwrite := hrear.bankAdderWriteBack ha hd hb
    obtain ⟨hadd, htile⟩ := k.phaseB_one (r := t0.plane.now) ha hd hb
    refine ⟨_, hwrite, t0.onlyCore_withCore c _, ?_⟩
    rw [State.withCore_core]
    exact ⟨hadd, Mem.reads_after_write hwf htile rfl⟩

end Sys2Proof.Machine
end

section
/-! The slots of the vector engine as commands of their own (R105, R106, R158 to R185). -/

namespace Sys2Proof.Machine

/-! ### A slot that its checks accept -/

/-- A vector slot that passes every check replaces its core by what its opcode makes of it. -/
theorem State.slotVe_accepted (s : State) {c : Nat} (h : s.coreRuns c) {op arg : Nat}
    (hc : (s.coreNow c).veCheck s.plane.now op (veSlot arg) = 0) :
    s.slotIn c (fun r k => k.slotVe r op arg) = s.withCore c ((s.coreNow c).veAct s.plane.now op (veSlot arg)) := by
  rw [s.slotIn_runs h]
  simp only [Core.slotVe, Core.veIssue, hc]
  rfl

/-! ### Lane operations (R158, R163) -/

/-- A lane operation is what it makes of each lane. -/
theorem Core.veLane_eq (k : Core) (r op : Nat) (v : VeSlot) {f : Nat → Nat}
    (h : ∀ i, laneOp op v.md (wBits v.w) (leAt (k.ve.reg v.va) (i * 2 ^ v.w) (2 ^ v.w)) (leAt (k.ve.reg v.vb) (i * 2 ^ v.w) (2 ^ v.w))
      (leAt (k.ve.reg v.vc) (i * 2 ^ v.w) (2 ^ v.w)) = f i) :
    k.veLane r op v = k.vePut (r + 4) (.reg v.vd (packElems v.w ((List.range (wCount v.w)).map f))) := by
  simp only [Core.veLane, laneReg, h]

theorem laneMax_max (n a b : Nat) : laneMax true n a b =
    if a = narPat n ∨ b = narPat n then narPat n else if sgn n a < sgn n b then b else a := by
  simp [laneMax, plt]

theorem laneMax_min (n a b : Nat) : laneMax false n a b =
    if a = narPat n ∨ b = narPat n then narPat n else if sgn n a < sgn n b then a else b := by
  by_cases h : sgn n a < sgn n b <;> simp [laneMax, plt, h]

theorem laneCmp_eq (md n a b : Nat) : laneCmp md n a b =
    if a = narPat n ∨ b = narPat n then narPat n
    else if (md % 4 = 0 ∧ sgn n b < sgn n a) ∨ (md % 4 = 1 ∧ ¬ sgn n a < sgn n b) ∨
      (md % 4 = 2 ∧ a = b) ∨ (md % 4 = 3 ∧ a ≠ b) then onePat n else 0 := by
  simp only [laneCmp, plt]
  have hm : md % 4 = 0 ∨ md % 4 = 1 ∨ md % 4 = 2 ∨ md % 4 = 3 := by omega
  obtain hm | hm | hm | hm := hm <;> simp [hm]

/-- Settles O17: each lane operation, lane by lane. -/
theorem vectorLanes : Obligations.VectorLanes := by
  intro s c arg hruns k r v n a b d lanes
  have lane : ∀ (op : Nat) (f : Nat → Nat), k.veCheck r op v = 0 → (∀ i, laneOp op v.md n (a i) (b i) (d i) = f i) →
      k.veAct r op v = k.veLane r op v →
      s.slotIn c (fun r k => k.slotVe r op arg.toNat) = lanes f := fun op f hc hf ha => by
    rw [s.slotVe_accepted hruns hc]
    exact congrArg (s.withCore c) (ha.trans (k.veLane_eq r op v hf))
  refine ⟨fun hc hb => ?_, fun hc hb => ?_, fun hc => ?_, fun hc => ?_, fun hc => ?_, fun hc => ?_, fun hc hb => ?_, fun hc hb => ?_,
    fun hc => ?_, fun hc => ?_⟩
  · exact congrArg Host.Outcome.next (lane 0x08 _ hc (fun i => by simp [laneOp, hb]) rfl)
  · exact congrArg Host.Outcome.next (lane 0x08 _ hc (fun i => by simp [laneOp, hb]) rfl)
  · exact congrArg Host.Outcome.next (lane 0x09 _ hc (fun i => rfl) rfl)
  · exact congrArg Host.Outcome.next (lane 0x0A _ hc (fun i => rfl) rfl)
  · exact congrArg Host.Outcome.next (lane 0x0B _ hc (fun i => laneMax_max _ _ _) rfl)
  · exact congrArg Host.Outcome.next (lane 0x0C _ hc (fun i => laneMax_min _ _ _) rfl)
  · exact congrArg Host.Outcome.next (lane 0x0D _ hc (fun i => by simp [laneOp, laneAbs, hb]) rfl)
  · exact congrArg Host.Outcome.next (lane 0x0D _ hc (fun i => by simp [laneOp, laneAbs, hb]) rfl)
  · exact congrArg Host.Outcome.next (lane 0x0E _ hc (fun i => laneCmp_eq _ _ _ _) rfl)
  · exact congrArg Host.Outcome.next (lane 0x0F _ hc (fun i => rfl) rfl)

/-! ### Quires and reductions (R105, R106, R165, R166) -/

/-- Settles O19: each quire operation and reduction is on its way with what R165 and R166 say. -/
theorem vectorQuires : Obligations.VectorQuires := by
  intro s c arg hruns k r v n put record
  have slot : ∀ (op : Nat) (x : VeRes), k.veCheck r op v = 0 → k.veAct r op v = k.vePut (r + 6) x →
      s.slotIn c (fun r k => k.slotVe r op arg.toNat) = put x := fun op x hc ha => by
    rw [s.slotVe_accepted hruns hc]
    exact congrArg (s.withCore c) ha
  refine ⟨fun hc => ?_, fun hc => ?_, fun hc => ?_, fun hc => ?_, fun hc => ?_, fun hc => ?_, fun hc => ?_⟩
  · exact congrArg Host.Outcome.next (slot 0x10 _ hc rfl)
  · exact congrArg Host.Outcome.next (slot 0x11 _ hc rfl)
  · exact congrArg Host.Outcome.next (slot 0x12 _ hc rfl)
  · exact congrArg Host.Outcome.next (slot 0x13 _ hc rfl)
  · exact congrArg Host.Outcome.next (slot 0x14 _ hc rfl)
  · exact congrArg Host.Outcome.next (slot 0x15 _ hc rfl)
  · exact congrArg Host.Outcome.next (slot 0x16 _ hc rfl)

/-! ### The soft maximum (R177 to R179) -/

/-- The largest element of a tile, as a posit32. -/
def tileMax (w : Nat) (es : List Nat) : Nat :=
  match es.map fun e => penc 32 (pdec (wBits w) e) with
  | [] => 0
  | a :: t => t.foldl maxNar a

/-- The first tile of a context sets its maximum (R178). -/
theorem SmCtx.tile_first (x : SmCtx) (hm : x.m = none) (t32 tw : Int) (w : Nat) (es : List Nat) :
    (x.tile t32 tw w es).1.m = some (tileMax w es) ∧ (x.tile t32 tw w es).1.log = x.log ++ [tileMax w es] ∧
    (x.tile t32 tw w es).1.tiles = x.tiles + 1 ∧
    (x.tile t32 tw w es).2 = es.map fun e => exp2Pat (wBits w) tw (pdec (wBits w)
      (penc (wBits w) (((pdec (wBits w) e).sub (pdec 32 (tileMax w es))).mul (pdec 32 x.l)))) := by
  have hraise : ∀ mt, x.raise t32 mt = { x with m := some mt } := fun mt => by simp only [SmCtx.raise, hm]
  simp only [SmCtx.tile, hraise]
  exact ⟨rfl, rfl, trivial, rfl⟩

theorem SmCtx.merge_first (x : SmCtx) (hm : x.m = none) (t32 : Int) (mo so : Nat) {tiles : Nat} (ht : tiles ≠ 0) :
    x.merge t32 mo so tiles = { x with merged := x.merged + tiles, m := some mo, q := qof 4 (pdec 32 so) } := by
  simp only [SmCtx.merge, if_neg ht, hm]
  rfl

/-- Every width has elements in a register. -/
theorem wCount_pos {w : Nat} (h : w < 4) : ∃ m, wCount w = m + 1 := by
  have : w = 0 ∨ w = 1 ∨ w = 2 ∨ w = 3 := by omega
  refine ⟨wCount w - 1, ?_⟩
  obtain rfl | rfl | rfl | rfl := this <;> rfl

theorem bits_lt (x hi lo : Nat) : bits x hi lo < 2 ^ (hi + 1 - lo) := Nat.mod_lt _ (by positivity)

theorem tileMax_elems {w : Nat} (h : w < 4) (bs : Bytes) : tileMax w (elems w bs) =
    (((elems w bs).map fun e => penc 32 (pdec (wBits w) e)).tail).foldl maxNar (penc 32 (pdec (wBits w) (leAt bs 0 (2 ^ w)))) := by
  obtain ⟨m, hm⟩ := wCount_pos h
  simp [tileMax, elems, hm, List.range_succ_eq_map]

/-- The core once a context has become `x` and the elements `p` are on their way. -/
def Core.tileTaken (k : Core) (r : Nat) (v : VeSlot) (x : SmCtx) (p : List Nat) : Core :=
  ((k.setCtx (v.vc % 8) x).vePut (r + 14) (.reg v.vd (packElems v.w p))).veSpecialTake r

theorem Core.smTile_eq (k : Core) (r : Nat) (v : VeSlot) : k.smTile r v = k.tileTaken r v
    ((k.ve.ctx (v.vc % 8)).tile k.ve.flush32 (k.ve.flush v.w) v.w (elems v.w (k.ve.reg v.va))).1
    ((k.ve.ctx (v.vc % 8)).tile k.ve.flush32 (k.ve.flush v.w) v.w (elems v.w (k.ve.reg v.va))).2 := rfl

theorem Core.ctx_tileTaken (k : Core) (r : Nat) (v : VeSlot) (x : SmCtx) (p : List Nat) :
    (k.tileTaken r v x p).ve.ctx (v.vc % 8) = x := Core.ctx_setCtx_self k _ x

theorem Core.tileTaken_flight (k : Core) (r : Nat) (v : VeSlot) (x : SmCtx) (p : List Nat) :
    (k.tileTaken r v x p).ve.flight = k.ve.flight ++ [⟨r + 14, .reg v.vd (packElems v.w p)⟩] := rfl

theorem Core.tileTaken_specialUntil (k : Core) (r : Nat) (v : VeSlot) (x : SmCtx) (p : List Nat) :
    (k.tileTaken r v x p).ve.specialUntil = r + 4 := rfl

theorem Core.smClose_record (k : Core) (r : Nat) {v : VeSlot} (hb : bit v.md 0 = true) : k.smClose r v =
    (k.setCtx (v.vd % 8) { k.ve.ctx (v.vd % 8) with
      st := 2, mFin := leAt (k.ve.reg v.va) 0 4, sFin := leAt (k.ve.reg v.va) 4 4,
      r := recip32 (leAt (k.ve.reg v.va) 4 4) }).veSpecialTake r := by
  simp only [Core.smClose, hb]
  rfl

theorem Core.smClose_own (k : Core) (r : Nat) {v : VeSlot} (hb : bit v.md 0 = false) : k.smClose r v =
    (k.setCtx (v.vd % 8) { k.ve.ctx (v.vd % 8) with
      st := 2, mFin := (k.ve.ctx (v.vd % 8)).m.getD (narPat 32),
      sFin := penc 32 (qval 4 (k.ve.ctx (v.vd % 8)).q), r := recip32 (penc 32 (qval 4 (k.ve.ctx (v.vd % 8)).q)) }).veSpecialTake r := by
  simp only [Core.smClose, hb]
  rfl

/-- Settles O21: each operation on the context as R178 and R179 write it. -/
theorem softMaximum : Obligations.SoftMaximum := by
  intro s c arg hruns k r v va
  have slot : ∀ (op : Nat) (l : Core), k.veCheck r op v = 0 → k.veAct r op v = l →
      s.slotIn c (fun r k => k.slotVe r op arg.toNat) = s.withCore c l := fun op l hc ha => by
    rw [s.slotVe_accepted hruns hc]
    exact congrArg (s.withCore c) ha
  refine ⟨fun hc => ?_, fun hc hm => ?_, fun hc hm ht => ?_, fun hc hb => ?_, fun hc hb => ?_, fun hc => ?_, fun hc => ?_⟩
  · exact congrArg Host.Outcome.next (slot 0x20 _ hc rfl)
  · obtain ⟨h1, h2, h3, h4⟩ := SmCtx.tile_first (k.ve.ctx (v.vc % 8)) hm k.ve.flush32 (k.ve.flush v.w) v.w (elems v.w va)
    rw [tileMax_elems (bits_lt _ _ _)] at h1 h2 h4
    refine ⟨_, packElems v.w ((k.ve.ctx (v.vc % 8)).tile k.ve.flush32 (k.ve.flush v.w) v.w (elems v.w (k.ve.reg v.va))).2,
      congrArg Host.Outcome.next (slot 0x21 _ hc (k.smTile_eq r v)), s.onlyCore_withCore c _, ?_⟩
    rw [State.withCore_core]
    simp only [Core.ctx_tileTaken, Core.tileTaken_flight, Core.tileTaken_specialUntil]
    exact ⟨⟨h1, h2, h3, congrArg (packElems v.w) h4⟩, trivial, trivial⟩
  · have hmerge := SmCtx.merge_first (k.ve.ctx (v.vd % 8)) hm k.ve.flush32 (leAt va 0 4) (leAt va 4 4) ht
    exact congrArg Host.Outcome.next (slot 0x22 _ hc (congrArg (fun x => (k.setCtx (v.vd % 8) x).veSpecialTake r) hmerge))
  · exact congrArg Host.Outcome.next (slot 0x23 _ hc (k.smClose_record r hb))
  · exact congrArg Host.Outcome.next (slot 0x23 _ hc (k.smClose_own r hb))
  · exact congrArg Host.Outcome.next (slot 0x24 _ hc rfl)
  · exact congrArg Host.Outcome.next (slot 0x25 _ hc rfl)

/-! ### Special functions and micro-programs (R61, R168 to R173, R184) -/

/-- The elements of VA, each through a function, are on their way to VD, and the special pipe is taken. -/
def Core.special (k : Core) (r : Nat) (v : VeSlot) (f : Nat → Nat) : Core :=
  (k.vePut (r + 10) (.reg v.vd (packElems v.w ((elems v.w (k.ve.reg v.va)).map f)))).veSpecialTake r

theorem Core.veFunc_exp2 (k : Core) (r : Nat) (v : VeSlot) : k.veFunc r 0x18 v = k.special r v (k.exp2Elem v.w) := rfl
theorem Core.veFunc_log2 (k : Core) (r : Nat) (v : VeSlot) : k.veFunc r 0x19 v = k.special r v (k.log2Elem v.w) := rfl
theorem Core.veFunc_tab (k : Core) (r : Nat) (v : VeSlot) : k.veFunc r 0x1A v = k.special r v (k.tabElemOf v.w v.md) := rfl

/-- A micro-program's run takes the whole engine, and its U0 is on its way to VD (R171, R173). -/
theorem Core.veUcall_eq (k : Core) (r : Nat) (v : VeSlot) : k.veUcall r v = (({ k with
    free := k.free + 256 * (k.uprog v).steps.length
    ve := { k.ve with
      microUntil := r + (k.uprog v).dur
      flight := k.ve.flight ++ [(⟨r + (k.uprog v).dur, .reg v.vd
        (k.urun (k.uprog v).steps k.free [(0, k.ve.reg v.va), (1, k.ve.reg v.vb)] CvtTally.zero).1⟩ : VeFlight)] } } : Core).cvt
    (k.urun (k.uprog v).steps k.free [(0, k.ve.reg v.va), (1, k.ve.reg v.vb)] CvtTally.zero).2) := rfl

theorem UProg.dur_one (p : UProg) {u : BitVec 32} (h : p.steps = [u]) :
    p.dur = if veSpecial (bits u.toNat 31 26) then 10 else 4 := by
  rw [UProg.dur, h]
  exact Nat.add_zero _

theorem Core.exp2Elem_computed (k : Core) {w : Nat} (h : ¬ (k.cfg.compat = true ∧ w = 1)) (x : Nat) :
    k.exp2Elem w x = exp2Pat (wBits w) (if w = 1 then k.ve.flush16 else k.ve.flush32) (pdec (wBits w) x) := if_neg h

theorem Core.exp2Elem_rom (k : Core) {w : Nat} (h : k.cfg.compat = true ∧ w = 1) (x : Nat) :
    k.exp2Elem w x = tabElem 16 false 0 0 (romSeg 0) x := if_pos h

theorem Core.log2Elem_computed (k : Core) {w : Nat} (h : ¬ (k.cfg.compat = true ∧ w = 1)) (x : Nat) :
    k.log2Elem w x = log2Pat (wBits w) (pdec (wBits w) x) := if_neg h

theorem Core.log2Elem_rom (k : Core) {w : Nat} (h : k.cfg.compat = true ∧ w = 1) (x : Nat) :
    k.log2Elem w x = match pdec 16 x with
      | .nar => narPat 16
      | .num y => if y.m ≤ 0 then narPat 16 else tabElem 16 false 0 0 (romSeg 1) x := if_pos h

theorem Core.tabElemOf_rom (k : Core) (w : Nat) {md : Nat} (h : bit md 2 = true) (x : Nat) :
    k.tabElemOf w md x = tabElem 16 false 0 0 (romSeg (md % 4)) x := if_pos h

theorem Core.tabElemOf_loaded (k : Core) (w : Nat) {md : Nat} (h : bit md 2 = false) (x : Nat) :
    k.tabElemOf w md x = tabElem (wBits w) (k.ftab (md % 4)).linear (k.ftab (md % 4)).x0 (k.ftab (md % 4)).invW
      (fun i => (k.ftab (md % 4)).seg.get (0, 0, 0) i) x := if_neg (by simp [h])

/-- A micro-program of one VADD of U0 and U1 into U0 gives the sums of their lanes. -/
theorem Core.urun_vadd (k : Core) {steps : List (BitVec 32)} {u : BitVec 32} (free : Nat) (va vb : Bytes) (hs : steps = [u]) (hop : bits u.toNat 31 26 = 0x08)
    (hd : bits u.toNat 23 20 = 0) (ha : bits u.toNat 19 16 = 0) (hb : bits u.toNat 15 12 = 1) (hm : bit u.toNat 4 = false) :
    k.urun steps free [(0, va), (1, vb)] CvtTally.zero =
      (packElems (bits u.toNat 25 24) ((List.range (wCount (bits u.toNat 25 24))).map fun i => penc (wBits (bits u.toNat 25 24))
        ((pdec (wBits (bits u.toNat 25 24)) (leAt va (i * 2 ^ bits u.toNat 25 24) (2 ^ bits u.toNat 25 24))).add
          (pdec (wBits (bits u.toNat 25 24)) (leAt vb (i * 2 ^ bits u.toNat 25 24) (2 ^ bits u.toNat 25 24))))), CvtTally.zero) := by
  have hmd : bit (bits u.toNat 7 4) 0 = false := by
    simpa [bit, bits, Nat.testBit_mod_two_pow, Nat.testBit_shiftRight] using hm
  rw [hs]
  simp only [Core.urun, Core.ustep, ustepOp, hop, hd, ha, hb]
  simp only [laneReg, laneOp, hmd]
  rfl

theorem exec_vucallEnd_there (s : State) {c : Fin 128} (h : s.coreThere c) : exec (.vucallEnd c) s = .next (s.withCore c
    (if 0 < (s.plane.core c).ve.microUntil ∧ (s.plane.core c).ve.microUntil ≤ s.plane.now then
      { s.plane.core c with ve := (s.plane.core c).ve.settle s.plane.now } else s.plane.core c)) :=
  congrArg Host.Outcome.next (s.coreEvent_there h fun r k =>
    if 0 < k.ve.microUntil ∧ k.ve.microUntil ≤ r then { k with ve := k.ve.settle r } else k)

/-- A register result that is due is written. -/
theorem VeSt.settle_reg (v : VeSt) {r vd due : Nat} {bs : Bytes} (hf : v.flight = [⟨due, .reg vd bs⟩]) (hd : due ≤ r) :
    v.settle r = { v with regs := v.regs.set vd bs, flight := [] } := by
  simp [VeSt.settle, hf, hd, VeRes.isStore, VeSt.apply]

/-- Settles O20: each special function by the source of its values, a micro-program by its steps, and a threshold write. -/
theorem vectorFunctions : Obligations.VectorFunctions := by
  intro s c
  refine ⟨fun arg hruns => ?slots, fun hthere => ?ends, fun val hp hc => congrArg Host.Outcome.next (s.coreWrite_on hp hc _)⟩
  case slots =>
    intro k r v special rom
    have func : ∀ (op : Nat) {g f : Nat → Nat}, k.veCheck r op v = 0 → k.veAct r op v = k.special r v g → (∀ x, g x = f x) →
        s.slotIn c (fun r k => k.slotVe r op arg.toNat) = special f := fun op g f hc ha hf => by
      rw [s.slotVe_accepted hruns hc, ← funext hf]
      exact congrArg (s.withCore c) ha
    refine ⟨fun hc h => ?_, fun hc h => ?_, fun hc h => ?_, fun hc h => ?_, fun hc h => ?_, fun hc h => ?_, fun hc => ?_⟩
    · exact congrArg Host.Outcome.next (func 0x18 hc (k.veFunc_exp2 r v) (k.exp2Elem_computed h))
    · exact congrArg Host.Outcome.next (func 0x18 hc (k.veFunc_exp2 r v) (k.exp2Elem_rom h))
    · exact congrArg Host.Outcome.next (func 0x19 hc (k.veFunc_log2 r v) (k.log2Elem_computed h))
    · exact congrArg Host.Outcome.next (func 0x19 hc (k.veFunc_log2 r v) (k.log2Elem_rom h))
    · exact congrArg Host.Outcome.next (func 0x1A hc (k.veFunc_tab r v) (k.tabElemOf_rom _ h))
    · exact congrArg Host.Outcome.next (func 0x1A hc (k.veFunc_tab r v) (k.tabElemOf_loaded _ h))
    · intro p u
      refine ⟨?_, fun step hsteps => ?_⟩
      · exact congrArg Host.Outcome.next ((s.slotVe_accepted hruns hc).trans (congrArg (s.withCore c) (k.veUcall_eq r v)))
      · refine ⟨(k.uprog v).dur_one hsteps, fun hop hd ha hb hm => ?_⟩
        exact k.urun_vadd k.free (k.ve.reg v.va) (k.ve.reg v.vb) hsteps hop hd ha hb hm
  case ends =>
    intro k
    rw [exec_vucallEnd_there s hthere]
    refine ⟨fun vd bs due hf hd h1 h2 => ?_, fun h => ?_⟩
    · rw [if_pos ⟨h1, h2⟩, k.ve.settle_reg hf hd]
    · rw [if_neg fun hc => absurd hc.2 (Nat.not_le.mpr h)]

/-! ### What a core does by itself at the start of a cycle (R84, R113, R121, R138) -/

/-- From `k` to `l` nothing has changed but the engines and the events. -/
def Core.EnginesOnly (k l : Core) : Prop := ∃ eng ev, l = { k with eng := eng, ev := ev }

theorem Core.EnginesOnly.refl (k : Core) : k.EnginesOnly k := ⟨_, _, rfl⟩

theorem Core.EnginesOnly.trans {k l m : Core} (h : k.EnginesOnly l) (g : l.EnginesOnly m) : k.EnginesOnly m := by
  obtain ⟨_, _, rfl⟩ := h
  obtain ⟨_, _, rfl⟩ := g
  exact ⟨_, _, rfl⟩

theorem Core.enginesOnly_foldl {α : Type} (f : Core → α → Core) (hf : ∀ (c : Core) (a : α), c.EnginesOnly (f c a)) (l : List α)
    (c : Core) : c.EnginesOnly (l.foldl f c) := by
  induction l generalizing c with
  | nil => exact .refl c
  | cons a t ih => exact (hf c a).trans (ih (f c a))

theorem Core.setMe_enginesOnly (k : Core) (e : Nat) (g : Engine) : k.EnginesOnly (k.setMe e g) := ⟨_, _, rfl⟩

theorem Core.staleDrop_enginesOnly (k : Core) (e v : Nat) : k.EnginesOnly (k.staleDrop e v) := ⟨_, _, rfl⟩

theorem Core.staleOnce_enginesOnly (k : Core) (e v id : Nat) : k.EnginesOnly (k.staleOnce e v id) := by
  simp only [Core.staleOnce]
  split <;> exact ⟨_, _, rfl⟩

theorem Core.landChunk_enginesOnly (k : Core) (e : Nat) (ch : Chunk) (q : Option (List Quire)) :
    k.EnginesOnly (k.landChunk e ch q) := by
  simp only [Core.landChunk]
  split
  · exact .refl k
  split
  · exact k.staleOnce_enginesOnly _ _ _
  split
  · exact .refl k
  split
  · exact k.setMe_enginesOnly _ _
  split <;> exact k.setMe_enginesOnly _ _

theorem Core.landFold_enginesOnly (k : Core) (e : Nat) (fr : FoldRow) : k.EnginesOnly (k.landFold e fr) := by
  simp only [Core.landFold]
  split
  · exact .refl k
  split
  · exact k.staleOnce_enginesOnly _ _ _
  split
  · exact .refl k
  split <;> exact k.setMe_enginesOnly _ _

theorem Core.landDue_enginesOnly (k : Core) (r e : Nat) : k.EnginesOnly (k.landDue r e) := by
  simp only [Core.landDue]
  exact ((k.setMe_enginesOnly _ _).trans (Core.enginesOnly_foldl _ (fun c ch => c.landChunk_enginesOnly _ _ _) _ _)).trans
    (Core.enginesOnly_foldl _ (fun c fr => c.landFold_enginesOnly _ _) _ _)

theorem Core.vatRelease_enginesOnly (k : Core) (e v gen : Nat) : k.EnginesOnly (k.vatRelease e v gen) := by
  simp only [Core.vatRelease]
  split
  · exact k.setMe_enginesOnly _ _
  · exact k.staleDrop_enginesOnly _ _

theorem Core.settleVats_enginesOnly (k : Core) (r e : Nat) : k.EnginesOnly (k.settleVats r e) :=
  (k.setMe_enginesOnly _ _).trans (Core.enginesOnly_foldl _ (fun c _ => c.vatRelease_enginesOnly _ _ _) _ _)

theorem Core.settleEpi_enginesOnly (k : Core) (r e : Nat) : k.EnginesOnly (k.settleEpi r e) := by
  simp only [Core.settleEpi]
  split
  · exact k.setMe_enginesOnly _ _
  split
  · exact .refl k
  split
  · exact k.setMe_enginesOnly _ _
  · exact .refl k

theorem Core.engSettle_enginesOnly (k : Core) (r e : Nat) : k.EnginesOnly (k.engSettle r e) :=
  (((k.landDue_enginesOnly _ _).trans (Core.settleVats_enginesOnly _ _ _)).trans (Core.settleEpi_enginesOnly _ _ _)).trans
    (Core.setMe_enginesOnly _ _ _)

theorem Core.startCol_enginesOnly (k : Core) (r e : Nat) : k.EnginesOnly (k.startCol r e) := by
  simp only [Core.startCol]
  split
  · exact .refl k
  split
  · exact .refl k
  split
  · exact (k.setMe_enginesOnly _ _).trans (Core.enginesOnly_foldl _ (fun c _ => c.setMe_enginesOnly _ _) _ _)
  · exact k.setMe_enginesOnly _ _

/-- From `k` to `l` nothing has changed but the ATOMs in flight, the tallies and the count of free values. -/
def Core.AtomsOnly (k l : Core) : Prop :=
  ∃ atoms tallies free, l = { k with seq := { k.seq with atoms := atoms, tallies := tallies }, free := free }

theorem Core.AtomsOnly.trans {k l m : Core} (h : k.AtomsOnly l) (g : l.AtomsOnly m) : k.AtomsOnly m := by
  obtain ⟨_, _, _, rfl⟩ := h
  obtain ⟨_, _, _, rfl⟩ := g
  exact ⟨_, _, _, rfl⟩

theorem Core.atomsOnly_foldl {α : Type} (f : Core → α → Core) (hf : ∀ (c : Core) (a : α), c.AtomsOnly (f c a)) (l : List α)
    (c : Core) : c.AtomsOnly (l.foldl f c) := by
  induction l generalizing c with
  | nil => exact ⟨_, _, _, rfl⟩
  | cons a t ih => exact (hf c a).trans (ih (f c a))

theorem Core.atomWrites_atomsOnly (k : Core) (r : Nat) : k.AtomsOnly (k.atomWrites r) := by
  refine Core.AtomsOnly.trans ⟨_, _, _, rfl⟩ (Core.atomsOnly_foldl _ (fun c o => ?_) _ _)
  refine Core.AtomsOnly.trans ⟨_, _, _, rfl⟩ (Core.atomsOnly_foldl _ (fun c v => ⟨_, _, _, rfl⟩) _ _)

/-- At the start of a cycle what is due is written to the vector engine's registers; the stores stay as they were. -/
theorem Core.settle_ve_st (k : Core) (stop : Bool) (r : Nat) (hs : k.seq.seam = none) :
    (k.settle stop r).ve = k.ve.settle r ∧ (k.settle stop r).st = k.st := by
  obtain ⟨_, _, h1⟩ := Core.enginesOnly_foldl (fun c e => c.engSettle r e) (fun c e => c.engSettle_enginesOnly r e) (List.range 4) k
  obtain ⟨_, _, h2⟩ := Core.enginesOnly_foldl (fun c e => c.startCol r e) (fun c e => c.startCol_enginesOnly r e) (List.range 4)
    ((List.range 4).foldl (fun c e => c.engSettle r e) k)
  rw [h1] at h2
  simp only [Core.settle, Core.startCols, h1, h2]
  generalize hm : Core.atomWrites _ r = m
  obtain ⟨_, _, _, h3⟩ := hm ▸ Core.atomWrites_atomsOnly _ r
  have hseam : m.seamDo stop r = m := by simp only [Core.seamDo, h3, hs]
  rw [hseam]
  have hboth : m.ve = k.ve.settle r ∧ m.st = k.st := by rw [h3]; exact ⟨rfl, rfl⟩
  split <;> exact hboth

/-! ### Conversions (R164) -/

theorem cvtReg_same {w md : Nat} (h : md % 4 = w) (a : Bytes) : cvtReg w md a = (0, packElems w ((List.range (wCount w)).map fun i =>
    leAt a ((md / 4 * wCount w + i) * 2 ^ w) (2 ^ w)), CvtTally.zero) := by
  simp [cvtReg, h, Function.comp_def]

theorem cvtReg_wider {w md : Nat} (h : w < md % 4) (a : Bytes) : cvtReg w md a =
    (0, packElems (md % 4) ((List.range (wCount (md % 4))).map fun i => penc (wBits (md % 4)) (pdec (wBits w)
      (leAt a ((md / 4 * wCount (md % 4) + i) * 2 ^ w) (2 ^ w)))), CvtTally.zero) := by
  simp [cvtReg, h.le, h.ne, Function.comp_def]

theorem cvtReg_narrower {w md : Nat} (h : md % 4 < w) (a : Bytes) : ∃ t, cvtReg w md a =
    (md / 4 * wCount w * 2 ^ (md % 4), packElems (md % 4) ((elems w a).map fun x => penc (wBits (md % 4)) (pdec (wBits w) x)), t) := by
  simp only [cvtReg]
  rw [if_neg (Nat.not_le.mpr h)]
  simp only [if_neg (Nat.ne_of_gt h), List.map_map]
  exact ⟨_, rfl⟩

theorem Core.veCvt_eq (k : Core) (r : Nat) (v : VeSlot) {off : Nat} {bs : Bytes} {t : CvtTally}
    (h : cvtReg v.w v.md (k.ve.reg v.va) = (off, bs, t)) : k.veCvt r v = (k.vePut (r + 4) (.part v.vd off bs)).cvt t := by
  simp only [Core.veCvt, h]

/-! ### Loads and stores of registers (R160, R167) -/

theorem Core.veLd_acc (k : Core) (r : Nat) (v : VeSlot) : (k.veLd r v).st.acc = k.st.acc ++ (List.range 4).map (fun i =>
    (⟨false, (k.ve.cur.get 0 (v.va % 16) + i) % 131072, 6, 0, .read (.vld v.vd v.w (64 * i) (r + 3))⟩ : Acc)) := by
  simp only [Core.veLd]
  split <;> rfl

theorem Core.veLd_ve (k : Core) (r : Nat) (v : VeSlot) :
    (bit v.md 0 = false → (k.veLd r v).ve = k.ve) ∧ (bit v.md 0 = true → (k.veLd r v).ve = (k.ptrInc (v.va % 16)).ve) := by
  simp only [Core.veLd]
  refine ⟨fun h => ?_, fun h => ?_⟩ <;> rw [h] <;> rfl

/-! ### What a VST writes -/

theorem length_of_mem_chunksOf {n fuel : Nat} {bs : Bytes} (h : bs.length = n * fuel) :
    ∀ q ∈ chunksOf n fuel bs, q.length = n := by
  induction fuel generalizing bs with
  | zero => simp [chunksOf]
  | succ m ih =>
    intro q hq
    rw [chunksOf] at hq
    split at hq
    · cases hq
    · rw [Nat.mul_succ] at h
      rcases List.mem_cons.mp hq with rfl | hq
      · rw [List.length_take]; omega
      · exact ih (by rw [List.length_drop]; omega) q hq

theorem flatten_chunksOf {n fuel : Nat} {bs : Bytes} (h : bs.length = n * fuel) : (chunksOf n fuel bs).flatten = bs := by
  induction fuel generalizing bs with
  | zero => rw [Nat.mul_zero, List.length_eq_zero_iff] at h; rw [h]; rfl
  | succ m ih =>
    rw [chunksOf]
    rw [Nat.mul_succ] at h
    split
    · rw [List.isEmpty_iff] at *; simp [*]
    · rw [List.flatten_cons, ih (by rw [List.length_drop]; omega), List.take_append_drop]

theorem Mem.write_append (m : Mem) (a : Nat) (x y : Bytes) : m.write a (x ++ y) = (m.write a x).write (a + x.length) y := by
  induction x generalizing m a with
  | nil => rfl
  | cons b t ih =>
    rw [List.cons_append, Mem.write, Mem.write, ih, List.length_cons]
    congr 1
    omega

theorem length_chunksOf_le {n fuel : Nat} {bs : Bytes} : (chunksOf n fuel bs).length ≤ fuel := by
  induction fuel generalizing bs with
  | zero => exact Nat.le_refl 0
  | succ m ih =>
    rw [chunksOf]
    split
    · exact Nat.zero_le _
    · rw [List.length_cons]
      exact Nat.succ_le_succ ih

/-- Whole lines of the tile store written one after another. -/
theorem Core.serve_lines (k : Core) (self r line rank sub : Nat) (qs : List Bytes) (i : Nat) (h : ∀ q ∈ qs, q.length = 64) :
    ∃ st sig, ((qs.zipIdx i).map fun q => (⟨false, line + q.2, rank, sub, .write (wbytes 0 q.1)⟩ : Acc)).foldl
      (fun st a => ((st.1.serve self r a).1, st.2 ++ (st.1.serve self r a).2)) (k, []) = ({ k with st := st, sig := sig }, []) ∧
    st.tile = k.st.tile.write (64 * (line + i)) qs.flatten := by
  induction qs generalizing k i with
  | nil => exact ⟨_, _, rfl, rfl⟩
  | cons q t ih =>
    obtain ⟨st, sig, hs, ht, -⟩ := k.serve_write self r (line + i) rank sub 0 q
    obtain ⟨st', sig', hs', ht'⟩ := ih { k with st := st, sig := sig } (i + 1) fun x hx => h x (List.mem_cons_of_mem _ hx)
    refine ⟨st', sig', ?_, ?_⟩
    · rw [List.zipIdx_cons, List.map_cons, List.foldl_cons]
      simp only [hs]
      exact hs'
    · rw [ht', ht, List.flatten_cons, Mem.write_append, h q List.mem_cons_self]
      rfl

/-- The stores of a VST that is due. -/
theorem Core.veStores_one (k : Core) {r line due : Nat} {bs : Bytes} (hf : k.ve.flight = [⟨due, .store line bs⟩]) (hd : due ≤ r) :
    k.veStores r = { k with
      ve := { k.ve with flight := [] }
      st := { k.st with acc := k.st.acc ++ ((chunksOf 64 4 bs).zipIdx).map fun q =>
        (⟨false, (line + q.2) % 131072, 4, 0, .write (wbytes 0 q.1)⟩ : Acc) } } := by
  simp [Core.veStores, hf, hd, VeRes.isStore]

theorem Core.veStores_none (k : Core) (r : Nat) (h : ∀ f ∈ k.ve.flight, f.res.isStore = false) : k.veStores r = k := by
  have h1 : k.ve.flight.filter (fun f => decide (f.due ≤ r) && f.res.isStore) = [] :=
    List.filter_eq_nil_iff.mpr fun f hf => by simp [h f hf]
  have h2 : k.ve.flight.filter (fun f => !(decide (f.due ≤ r) && f.res.isStore)) = k.ve.flight :=
    List.filter_eq_self.mpr fun f hf => by simp [h f hf]
  simp only [Core.veStores, h1, h2, List.flatMap_nil, List.append_nil]

theorem exec_veResultWrite_alone (s : State) {c : Fin 128} (hthere : s.coreThere c) {k : Core}
    (hk : (s.coreNow c).alone c s.plane.now (s.rivals c) (fun k => k.veStores s.plane.now) = (k, [])) :
    exec (.veResultWrite c) s = .next (s.withCore c k) :=
  congrArg Host.Outcome.next (s.aloneAt_there hthere (fun r k => k.veStores r) hk)

/-- The four lines of a VST, nothing above them at their banks. -/
theorem Core.alone_vst (k : Core) (self r : Nat) (others : List Acc) {line due : Nat} {bs : Bytes}
    (hf : k.ve.flight = [⟨due, .store line bs⟩]) (hd : due ≤ r) (hbs : bs.length = 256) (hline : line + 4 ≤ 131072)
    (hl : ∀ mine : List Acc, (∀ b ∈ mine, b.rank = 4 ∧ b.sub = 0) → ∀ i kind, i < 4 →
      Acc.lost (mine ++ others) ⟨false, line + i, 4, 0, kind⟩ = false) :
    ∃ k', k.alone self r others (fun k => k.veStores r) = (k', []) ∧ k'.ve = { k.ve with flight := [] } ∧
      k'.st.tile = k.st.tile.write (64 * line) bs := by
  have hlen : (chunksOf 64 4 bs).length ≤ 4 := length_chunksOf_le
  have hi : ∀ q ∈ (chunksOf 64 4 bs).zipIdx, q.2 < 4 := fun q hq => lt_of_lt_of_le (by
    have := List.snd_lt_of_mem_zipIdx hq; omega) hlen
  obtain ⟨mine, hmine⟩ : ∃ mine : List Acc, ((chunksOf 64 4 bs).zipIdx).map
    (fun q => (⟨false, line + q.2, 4, 0, .write (wbytes 0 q.1)⟩ : Acc)) = mine := ⟨_, rfl⟩
  have hacc : [] ++ ((chunksOf 64 4 bs).zipIdx).map (fun q => (⟨false, (line + q.2) % 131072, 4, 0, .write (wbytes 0 q.1)⟩ : Acc)) = mine := by
    rw [List.nil_append, ← hmine]
    exact List.map_congr_left fun q hq => by rw [Nat.mod_eq_of_lt (by have := hi q hq; omega)]
  have hform : ∀ a ∈ mine, ∃ i kind, i < 4 ∧ a = ⟨false, line + i, 4, 0, kind⟩ ∧ a.isTrailer = false := by
    intro a ha
    rw [← hmine] at ha
    obtain ⟨q, hq, rfl⟩ := List.mem_map.mp ha
    exact ⟨_, _, hi q hq, rfl, rfl⟩
  have hsame : ∀ b ∈ mine, b.rank = 4 ∧ b.sub = 0 := by
    intro b hb
    obtain ⟨_, _, _, rfl, _⟩ := hform b hb
    exact ⟨rfl, rfl⟩
  obtain ⟨l, ⟨n1, n2, n3, ev, hn⟩, hal⟩ := k.alone_served self r others (fun k => k.veStores r)
    (Core.veStores_one _ hf hd) hacc
    (fun a ha => by obtain ⟨i, kind, hlt, rfl, _⟩ := hform a ha; exact hl mine hsame i kind hlt)
    (fun a ha => by obtain ⟨_, _, _, _, ht⟩ := hform a ha; exact ht)
  obtain ⟨st, sig, hs, ht⟩ := l.serve_lines self r line 4 0 (chunksOf 64 4 bs) 0 (length_of_mem_chunksOf hbs)
  rw [hmine] at hs
  rw [hal, hs]
  refine ⟨_, rfl, by rw [hn]; rfl, ?_⟩
  rw [flatten_chunksOf hbs] at ht
  exact ht.trans (by rw [hn]; rfl)

/-- Without a VST in flight nothing is stored. -/
theorem Core.alone_noStores (k : Core) (self r : Nat) (others : List Acc) (hf : k.ve.flight = []) :
    ∃ k', k.alone self r others (fun k => k.veStores r) = (k', []) ∧ k'.ve = k.ve ∧ k'.st.tile = k.st.tile := by
  obtain ⟨l, ⟨n1, n2, n3, ev, hn⟩, hal⟩ := k.alone_served self r others (fun k => k.veStores r)
    (Core.veStores_none _ r (by simp [hf])) (mine := []) rfl (by simp) (by simp)
  exact ⟨_, hal, by rw [hn]; rfl, by rw [hn]; rfl⟩

theorem State.coreNow_ve_st (s : State) {c : Nat} (h : (s.plane.core c).seq.seam = none) :
    (s.coreNow c).ve = (s.plane.core c).ve.settle s.plane.now ∧ (s.coreNow c).st = (s.plane.core c).st :=
  Core.settle_ve_st _ _ _ h

/-- Settles O18: what each command sends to its register or memory, then the two kinds of due result. -/
theorem vectorMoves : Obligations.VectorMoves := by
  intro s c
  refine ⟨fun arg hruns => ?slots, fun hthere => ⟨?reg, ?store⟩⟩
  case slots =>
    have acc : ∀ {op}, (s.coreNow c).veCheck s.plane.now op (veSlot arg.toNat) = 0 →
      (s.slotIn c fun r k => k.slotVe r op arg.toNat) = s.withCore c ((s.coreNow c).veAct s.plane.now op (veSlot arg.toNat)) :=
      fun h => s.slotVe_accepted hruns h
    have cvt : ∀ {off bs t}, (s.coreNow c).veCheck s.plane.now 0x05 (veSlot arg.toNat) = 0 →
      cvtReg (veSlot arg.toNat).w (veSlot arg.toNat).md ((s.coreNow c).ve.reg (veSlot arg.toNat).va) = (off, bs, t) →
      (s.slotIn c fun r k => k.slotVe r 0x05 arg.toNat) = s.withCore c
        (((s.coreNow c).vePut (s.plane.now + 4) (.part (veSlot arg.toNat).vd off bs)).cvt t) :=
      fun h hc => (acc h).trans (congrArg (s.withCore c) (Core.veCvt_eq _ _ _ hc))
    refine ⟨fun h => congrArg _ (acc h), fun h => congrArg _ (acc h), fun h hw => congrArg _ (cvt h (cvtReg_same hw _)),
      fun h hw => congrArg _ (cvt h (cvtReg_wider hw _)), fun h hw => ?narrow, fun h => congrArg _ (acc h), fun h => ?load⟩
    case narrow =>
      obtain ⟨t, ht⟩ := cvtReg_narrower hw ((s.coreNow c).ve.reg (veSlot arg.toNat).va)
      exact ⟨t, congrArg _ (cvt h ht)⟩
    case load =>
      refine ⟨_, congrArg Host.Outcome.next (acc h), s.onlyCore_withCore c _, ?_⟩
      rw [State.withCore_core]
      obtain ⟨hkeep, hstep⟩ := (s.coreNow c).veLd_ve s.plane.now (veSlot arg.toNat)
      exact ⟨Core.veLd_acc _ _ _, hkeep, hstep⟩
  case reg =>
    dsimp only
    intro vd bs due hf hd hseam
    obtain ⟨hve, hst⟩ := s.coreNow_ve_st hseam
    rw [VeSt.settle_reg _ hf hd] at hve
    have hnone : (s.coreNow c).ve.flight = [] := by rw [hve]
    generalize hk : s.coreNow c = k at hve hst hnone
    obtain ⟨k', hal, hve', htile⟩ := k.alone_noStores c s.plane.now (s.rivals c) hnone
    refine ⟨_, exec_veResultWrite_alone s hthere (hk ▸ hal), s.onlyCore_withCore c k', ?_⟩
    rw [State.withCore_core]
    exact ⟨hve'.trans hve, htile.trans (congrArg StoreSt.tile hst)⟩
  case store =>
    dsimp only
    generalize hk : s.coreNow c = k
    intro line bs due hf hd hlen hline hwf hport
    obtain ⟨k', hal, hve, htile⟩ := k.alone_vst c s.plane.now (s.rivals c) hf hd hlen hline fun mine hm i kind hi =>
      State.not_lost (hport i hi) fun b hb => Acc.not_above_of_same (hm b hb).1 (hm b hb).2
    refine ⟨_, exec_veResultWrite_alone s hthere (hk ▸ hal), s.onlyCore_withCore c k', ?_⟩
    rw [State.withCore_core]
    exact ⟨hve, Mem.reads_after_write hwf htile hlen⟩

end Sys2Proof.Machine
end

section
/-! The slots of the matrix engines and the column pipe as commands of their own (R84, R116, R119 to R121, R138). -/

namespace Sys2Proof.Machine

/-! ### A slot that its checks accept -/

theorem State.slotMe_accepted (s : State) {c e op arg : Nat} (h : s.coreRuns c) (act : Nat → Core → Core)
    (hc : (s.coreNow c).meCheck e op (meSlot arg) = 0) :
    s.slotIn c (fun r k => k.meIssue e op (meSlot arg) (act r)) = s.withCore c (act s.plane.now (s.coreNow c)) := by
  rw [s.slotIn_runs h]
  simp only [Core.meIssue, hc]
  rfl

/-! ### Contributions (R120, R121, R138) -/

/-- Settles O12: each accepted slot is its operation, and FOLDIN and PRELOAD split on what their pipe holds. -/
theorem contributionSlots : Obligations.ContributionSlots := by
  intro s c e arg hruns
  dsimp only
  have go : ∀ {op} (act : Nat → Core → Core) {k : Core}, (s.coreNow c).meCheck e op (meSlot arg.toNat) = 0 →
      act s.plane.now (s.coreNow c) = k →
      s.slotIn c (fun r k => k.meIssue e op (meSlot arg.toNat) (act r)) = s.withCore c k :=
    fun act _ hc hk => (s.slotMe_accepted hruns act hc).trans (congrArg (s.withCore c) hk)
  refine ⟨fun hc => congrArg _ (go (fun _ k => k.meCol e .mma _) hc rfl), fun hc => congrArg _ (go (fun _ k => k.meCol e .conv _) hc rfl),
    fun hc => congrArg _ (go (fun _ k => k.meCol e .wsmv _) hc rfl), fun hc => ⟨fun hf => ?_, fun hf => ?_⟩, fun hc => ?_⟩
  · refine congrArg _ (go (fun _ k => k.meFoldin e _) hc ?_)
    simp only [Core.meFoldin, hf]
    rfl
  · refine congrArg _ (go (fun _ k => k.meFoldin e _) hc ?_)
    simp only [Core.meFoldin, Option.isNone_iff_eq_none, if_neg hf]
    rfl
  · refine congrArg _ (go (fun r k => k.mePreload r e _) hc ?_)
    simp only [Core.mePreload]
    cases ((s.coreNow c).me e).loading <;> rfl

/-! ### The column pipe by itself (R116, R119 to R121) -/

theorem State.coreEvent_core (s : State) {c : Nat} (h : s.coreThere c) (f : Nat → Core → Core) {k : Core}
    (hk : f s.plane.now (s.plane.core c) = k) : s.coreEvent c f = s.withCore c k :=
  (s.coreEvent_there h f).trans (congrArg (s.withCore c) hk)

theorem State.withCore_setMe_me (s : State) (c : Nat) (k : Core) (e : Nat) (g : Engine) :
    ((s.withCore c (k.setMe e g)).plane.core c).me e = g := by
  rw [State.withCore_core]
  exact k.me_setMe_self e g

theorem Core.startEpi_none (k : Core) (r : Nat) {e : Nat} (h : (k.me e).epi = none) : k.startEpi r e = k := by
  simp only [Core.startEpi, h]

/-- An MMA without a PRELOAD begins its own load as it starts. -/
theorem Core.startCol_mma (k : Core) (r : Nat) {e : Nat} {op : ColOp} (hp : (k.me e).pend = some op) (hk : op.kind = .mma)
    (hrun : (k.me e).run = none) (h0 : e = 0 ∨ (k.me 0).run = none) (hpre : (k.me e).preload = none) :
    ∃ (g : Engine) (o : ColOp), k.startCol r e = k.setMe e g ∧ g.pend = none ∧ g.run = some o ∧ o.id = op.id ∧ o.t0 = r ∧
      o.swapAt = r + loadTime op.ent.toNat ∧ g.vats = (k.me e).vats ∧ g.epi = (k.me e).epi := by
  have hfree : k.pipesFree e .mma = true := by
    rcases h0 with rfl | h0
    · simp [Core.pipesFree, hrun]
    · simp [Core.pipesFree, hrun, h0]
  simp only [Core.startCol, hp, hk, hfree, hpre]
  exact ⟨_, _, rfl, rfl, rfl, rfl, rfl, rfl, rfl, rfl⟩

/-- The swap of an MMA's first block exchanges the sets and begins the block. -/
theorem Core.swapAct_first (k : Core) {r e : Nat} {op : ColOp} (h : (k.me e).run = some op) (hk : op.kind = .mma)
    (hs : op.swapAt = r) (hb : op.blk = 0) :
    ∃ o : ColOp, k.swapAct r e = k.setMe e { (k.me e).swap with run := some o } ∧ o.blk = 1 ∧ o.lastSwap = r := by
  have hne : ¬ (op.swapAt ≠ r ∨ (op.blk ≠ 0 ∧ op.lastSwap = r)) := by simp [hs, hb]
  have htotal : ¬ (mmaDims op.ent.toNat).1 ≤ op.blk := by rw [hb]; exact Nat.not_le.mpr (Nat.succ_pos _)
  simp only [Core.swapAct, h, hk, reduceCtorEq, if_false, if_true, if_neg hne, if_neg htotal]
  split <;> exact ⟨_, rfl, by simp [hb], rfl⟩

/-- Settles O13: the start and the swap of an MMA, and the end of a PRELOAD's load. -/
theorem columnPipe : Obligations.ColumnPipe := by
  intro s c e hthere
  refine ⟨?own, ?swap⟩
  case own =>
    refine ⟨fun op hp hk hrun h0 hpre hepi => ?_, fun p hp hd => ?_⟩
    · obtain ⟨g, o, hg, hpend, hrun', hid, ht0, hswap, hvats, hepi'⟩ := Core.startCol_mma _ s.plane.now hp hk hrun h0 hpre
      have hstart : ((s.plane.core c).setMe e g).startEpi s.plane.now e = (s.plane.core c).setMe e g :=
        Core.startEpi_none _ _ (by rw [Core.me_setMe_self, hepi', hepi])
      refine ⟨_, o, congrArg Host.Outcome.next (s.coreEvent_core hthere _ ((congrArg (·.startEpi s.plane.now e) hg).trans hstart)),
        s.onlyCore_withCore c _, ?_⟩
      rw [s.withCore_setMe_me]
      exact ⟨hpend, hrun', hid, ht0, hswap, hvats⟩
    · refine congrArg Host.Outcome.next (s.coreEvent_core hthere _ ?_)
      simp only [Engine.settleLoad, hp, if_pos hd]
  case swap =>
    dsimp only
    generalize hc : s.coreNow c = k
    intro op h hk hs hb hat
    obtain ⟨o, ho, hblk, hlast⟩ := k.swapAct_first h hk hs hb
    refine ⟨_, o, congrArg Host.Outcome.next (s.actAt_there hthere _), s.onlyCore_withCore c _, ?_⟩
    rw [hc, if_neg (Nat.not_lt.mpr hat), ho, s.withCore_setMe_me]
    exact ⟨rfl, rfl, rfl, rfl, hblk, hlast⟩

/-! ### The engines that a slot acts on (R125) -/

theorem Core.gang_nodup (k : Core) (e : Nat) : (k.gang e).Nodup := by
  simp only [Core.gang]
  split
  · decide
  · exact List.nodup_singleton e

/-- An operation that replaces each engine it acts on by itself: every one of them, and no other, is what it makes of it. -/
theorem Core.foldl_setMe (f : Core → Nat → Core) (F : Engine → Engine) (I : Core → Prop) (P : Engine → Prop)
    (hf : ∀ c i, I c → P (c.me i) → f c i = c.setMe i (F (c.me i))) (hI : ∀ c i, I c → P (c.me i) → I (c.setMe i (F (c.me i))))
    {l : List Nat} (hl : l.Nodup) {k : Core} (hk : I k) (hp : ∀ i ∈ l, P (k.me i)) :
    (∀ i ∈ l, (l.foldl f k).me i = F (k.me i)) ∧ ∀ i ∉ l, (l.foldl f k).me i = k.me i := by
  induction l generalizing k with
  | nil => exact ⟨by simp, fun _ _ => rfl⟩
  | cons a t ih =>
    obtain ⟨hat, ht⟩ := List.nodup_cons.mp hl
    have hPa := hp a List.mem_cons_self
    have hrest : ∀ i ∈ t, (k.setMe a (F (k.me a))).me i = k.me i := fun i hi =>
      k.me_setMe_ne _ fun h => hat (h ▸ hi)
    obtain ⟨hin, hout⟩ := ih ht (k := k.setMe a (F (k.me a))) (hI k a hk hPa) fun i hi => by
      rw [hrest i hi]
      exact hp i (List.mem_cons_of_mem _ hi)
    rw [List.foldl_cons, hf k a hk hPa]
    refine ⟨fun i hi => ?_, fun i hi => ?_⟩
    · rcases List.mem_cons.mp hi with rfl | hi
      · rw [hout i hat, Core.me_setMe_self]
      · rw [hin i hi, hrest i hi]
    · obtain ⟨hia, hit⟩ := not_or.mp (List.mem_cons.not.mp hi)
      rw [hout i hit, k.me_setMe_ne _ hia]

/-! ### The life of a vat (R84, R86) -/

/-- Reading a table of which the entries with some indices are left. -/
theorem Tab.get_filter {α : Type} (d : α) (p : Nat → Bool) (t : Tab α) (i : Nat) :
    Tab.get d (t.filter fun x => p x.1) i = if p i then t.get d i else d := by
  induction t with
  | nil => simp [Tab.get]
  | cons x t ih =>
    obtain ⟨j, y⟩ := x
    by_cases hj : p j = true
    · rw [List.filter_cons_of_pos (by simpa using hj)]
      simp only [Tab.get, ih]
      split
      · next h => rw [h] at hj; rw [if_pos hj]
      · rfl
    · rw [List.filter_cons_of_neg (by simpa using hj), ih]
      simp only [Tab.get]
      split
      · split
        · next hi h => exact absurd (h ▸ hi) hj
        · rfl
      · rfl

/-- Reading a table whose entry at one index has been replaced by a function that keeps the default. -/
theorem Tab.get_map_at {α : Type} {d : α} {f : α → α} (hd : f d = d) (t : Tab α) (v i : Nat) :
    Tab.get d (t.map fun p => if p.1 = v then (p.1, f p.2) else p) i = if i = v then f (t.get d i) else t.get d i := by
  induction t with
  | nil => simp [Tab.get, hd]
  | cons x t ih =>
    obtain ⟨j, y⟩ := x
    rw [List.map_cons]
    by_cases hj : j = v
    · subst hj
      simp only [if_true, Tab.get, ih]
      by_cases h : j = i
      · simp [h]
      · simp [h, Ne.symm h]
    · simp only [if_neg hj, Tab.get, ih]
      by_cases h : j = i
      · subst h; simp [hj]
      · simp [h]

theorem Engine.zeroSlots_get (g : Engine) (base n col : Nat) {slot : Nat} (h : slot < 1024) :
    (g.zeroSlots base n).slots.get 0 (1024 * col + slot) =
      if base ≤ slot ∧ slot < base + n then 0 else g.slots.get 0 (1024 * col + slot) := by
  rw [Engine.zeroSlots, Tab.get_filter (p := fun i => decide (i % 1024 < base) || decide (base + n ≤ i % 1024)),
    Nat.mul_add_mod, Nat.mod_eq_of_lt h]
  by_cases hr : base ≤ slot ∧ slot < base + n
  · rw [if_pos hr, if_neg (by simp; omega)]
  · rw [if_neg hr, if_pos (by simp; omega)]

/-- The engine after an OPEN that nothing refuses. -/
def Engine.opened (t v gen : Nat) (s : Shape) (g : Engine) : Engine :=
  (g.zeroSlots s.rowBase s.slots).setVat v { Vat.reset with
    gen := BitVec.ofNat 4 gen, state := .vopen, mode := s.mode, fmt := s.fmt, rowBase := s.rowBase,
    rowsM1 := s.rowsM1, depth := s.depth, stale := (g.vat v).stale, openAt := t + 1 }

theorem Core.vatOpen_good (c : Core) (t : Nat) {e v gen : Nat} {s : Shape} (hgen : BitVec.ofNat 4 gen = ((c.me e).vat v).gen + 1)
    (hidle : ((c.me e).vat v).state = .idle) (hcheck : openCheck (c.me e) v s = 0) :
    c.vatOpen t e v gen s = c.setMe e ((c.me e).opened t v gen s) := by
  simp only [Core.vatOpen, hgen, hidle, hcheck, Engine.opened, ne_eq, not_true_eq_false, if_false]

/-- The engine after a SEAL of its OPEN vat. -/
def Engine.cut (t v : Nat) (g : Engine) : Engine := g.setVat v { g.vat v with sealAt := some t }

theorem Core.vatSeal_good (c : Core) (t : Nat) {e v gen : Nat} (hgen : BitVec.ofNat 4 gen = ((c.me e).vat v).gen)
    (hopen : ((c.me e).vat v).state = .vopen) (hcut : ((c.me e).vat v).sealAt = none) :
    c.vatSeal t e v gen = c.setMe e ((c.me e).cut t v) := by
  simp only [Core.vatSeal, hgen, hopen, hcut, and_self, if_true, Engine.cut]

/-- The engine after a RELEASE of its SEALED vat. -/
def Engine.released (v : Nat) (g : Engine) : Engine := g.setVat v { g.vat v with state := .idle }

theorem Core.vatRelease_good (c : Core) {e v gen : Nat} (hgen : BitVec.ofNat 4 gen = ((c.me e).vat v).gen)
    (hsealed : ((c.me e).vat v).state = .vsealed) : c.vatRelease e v gen = c.setMe e ((c.me e).released v) := by
  simp only [Core.vatRelease, hgen, hsealed, and_self, if_true, Engine.released]

theorem Core.meOpen_me (k : Core) (r e : Nat) (m : MeSlot) (h : ∀ i ∈ k.gang e, BitVec.ofNat 4 m.gen = ((k.me i).vat m.vat).gen + 1 ∧
      ((k.me i).vat m.vat).state = .idle ∧ openCheck (k.me i) m.vat (shapeOf (k.meEnt e m.entry).toNat) = 0) :
    ∀ i ∈ k.gang e, (k.meOpen r e m).me i = (k.me i).opened r m.vat m.gen (shapeOf (k.meEnt e m.entry).toNat) :=
  (Core.foldl_setMe _ _ (fun c => c.cfg = k.cfg)
    (fun g => BitVec.ofNat 4 m.gen = (g.vat m.vat).gen + 1 ∧ (g.vat m.vat).state = .idle ∧
      openCheck g m.vat (shapeOf (k.meEnt e m.entry).toNat) = 0)
    (fun c _ hc ⟨hgen, hidle, hcheck⟩ => by
      have hent : c.meEnt e m.entry = k.meEnt e m.entry := by simp only [Core.meEnt, hc]
      rw [hent]
      exact c.vatOpen_good r hgen hidle hcheck)
    (fun _ _ hc _ => hc) (k.gang_nodup e) rfl h).1

theorem Core.meSeal_me (k : Core) (r e : Nat) (m : MeSlot) (h : ∀ i ∈ k.gang e, BitVec.ofNat 4 m.gen = ((k.me i).vat m.vat).gen ∧
      ((k.me i).vat m.vat).state = .vopen ∧ ((k.me i).vat m.vat).sealAt = none) :
    ∀ i ∈ k.gang e, (k.meSeal r e m).me i = (k.me i).cut r m.vat :=
  (Core.foldl_setMe _ _ (fun _ => True)
    (fun g => BitVec.ofNat 4 m.gen = (g.vat m.vat).gen ∧ (g.vat m.vat).state = .vopen ∧ (g.vat m.vat).sealAt = none)
    (fun c _ _ ⟨hgen, hopen, hcut⟩ => c.vatSeal_good r hgen hopen hcut) (fun _ _ _ _ => trivial) (k.gang_nodup e) trivial h).1

theorem Core.meRelease_me (k : Core) (r e : Nat) (m : MeSlot) (h : ∀ i ∈ k.gang e, BitVec.ofNat 4 m.gen = ((k.me i).vat m.vat).gen ∧
      ((k.me i).vat m.vat).state = .vsealed ∧ ((k.me i).vat m.vat).earliest r m.gen ≤ r) :
    ∀ i ∈ k.gang e, (k.meRelease r e m).me i = (k.me i).released m.vat :=
  (Core.foldl_setMe _ _ (fun _ => True)
    (fun g => BitVec.ofNat 4 m.gen = (g.vat m.vat).gen ∧ (g.vat m.vat).state = .vsealed ∧ (g.vat m.vat).earliest r m.gen ≤ r)
    (fun c _ _ ⟨hgen, hsealed, hdue⟩ => by
      rw [if_pos hdue]
      exact c.vatRelease_good hgen hsealed) (fun _ _ _ _ => trivial) (k.gang_nodup e) trivial h).1

theorem Core.sealed_vat (k : Core) (r e v w : Nat) :
    ((k.sealed r e v).me e).vat w = if w = v then ((k.me e).vat w).settle r else (k.me e).vat w := by
  rw [Core.sealed, Core.me_setMe_self]
  exact Tab.get_map_at rfl _ v w

/-- Settles O11: OPEN, SEAL and RELEASE engine by engine, and the effect of the SEAL six cycles later. -/
theorem vatLife : Obligations.VatLife := by
  intro s c e
  refine ⟨fun arg hruns => ?slots, fun v t0 hthere => ?effect⟩
  case slots =>
    dsimp only
    have acc := fun {op : Nat} (act : Nat → Core → Core) => s.slotMe_accepted (e := e) (op := op) (arg := arg.toNat) hruns act
    have core : ∀ (k : Core) (i : Nat), ((s.withCore c k).plane.core c).me i = k.me i := fun k i => by
      rw [State.withCore_core]; rfl
    revert acc
    generalize s.coreNow c = k
    intro acc
    refine ⟨fun hc h => ?_, fun hc h => ?_, fun hc h => ?_⟩
    · refine ⟨_, congrArg Host.Outcome.next (acc (fun r k => k.meOpen r e _) hc), s.onlyCore_withCore c _, fun i hi => ?_⟩
      rw [core, k.meOpen_me s.plane.now e _ h i hi]
      exact ⟨Engine.vat_setVat_self _ _ _, fun v hv => Engine.vat_setVat_ne _ _ hv, fun col slot hs => Engine.zeroSlots_get _ _ _ _ hs⟩
    · refine ⟨_, congrArg Host.Outcome.next (acc (fun r k => k.meSeal r e _) hc), s.onlyCore_withCore c _, fun i hi => ?_⟩
      rw [core, k.meSeal_me s.plane.now e _ h i hi]
      exact ⟨Engine.vat_setVat_self _ _ _, rfl⟩
    · refine ⟨_, congrArg Host.Outcome.next (acc (fun r k => k.meRelease r e _) hc), s.onlyCore_withCore c _, fun i hi => ?_⟩
      rw [core, k.meRelease_me s.plane.now e _ h i hi]
      exact ⟨Engine.vat_setVat_self _ _ _, rfl⟩
  case effect =>
    intro g hopen hcut hdue
    refine ⟨_, congrArg Host.Outcome.next (s.coreEvent_there hthere _), s.onlyCore_withCore c _, ?_⟩
    rw [State.withCore_core]
    have hvat := fun w => (s.plane.core c).sealed_vat s.plane.now e v w
    refine ⟨(hvat v).trans ?_, fun w hw => (hvat w).trans (if_neg hw)⟩
    rw [if_pos rfl]
    simp only [Vat.settle, g] at *
    simp only [hopen, hcut, if_pos hdue]

end Sys2Proof.Machine
end

section
/-! The slots that the checks of a unit refuse (R149, R182, R248, R255, R267, R275). -/

namespace Sys2Proof.Machine

/-! ### SEQ slots (R248) -/

theorem Core.seqSignal_refused (k : Core) {env : SeqEnv} {self r arg : Nat}
    (h : bits arg 7 0 ≠ 0 ∨ (bit arg 15 = true ∧ env.su.enabled ≤ bits arg 14 8)) :
    k.seqSignal env self r arg = (k.seqRefuse 1 1, []) := by
  refine if_pos (h.imp_right fun ⟨h1, h2⟩ => ⟨h1, ?_⟩)
  rwa [if_pos h1]

theorem Core.waitSlot_refused (k : Core) (r : Nat) {arg : Nat} (h : bits arg 15 0 ≠ 0) : k.waitSlot r arg = k.seqRefuse 1 2 := by
  simp only [Core.waitSlot, h, false_and, if_false, Core.seqWait, ne_eq, not_false_eq_true, if_true]

theorem Core.loopSlot_refused (k : Core) (r : Nat) {arg : Nat} (h : bits arg 22 12 ≠ 0) : k.loopSlot r arg = k.seqRefuse 1 4 := by
  simp only [Core.loopSlot, Core.seqLoop, if_pos h]

theorem Core.loopSlot_data (k : Core) (r : Nat) {arg : Nat} (h : bits arg 22 12 = 0) (hd : (k.tally (bits arg 26 23)).data = true) :
    k.loopSlot r arg = k.seqRefuse 2 4 := by
  simp only [Core.loopSlot, Core.seqLoop, h, ne_eq, not_true_eq_false, if_false, hd, if_true]

theorem Core.haltSlot_refused (k : Core) {arg : BitVec 27} (h : arg ≠ 0) : k.haltSlot arg.toNat = k.seqRefuse 1 6 :=
  if_pos fun h0 => h (BitVec.eq_of_toNat_eq h0)

/-- Every field of an ATOM that a check of R248 refuses. -/
theorem atomBad_eq_true {env : SeqEnv} {kind arg word : Nat} (hk : kind < 3)
    (h : bits arg 12 0 ≠ 0 ∨ (bit arg 20 = true ∧ env.su.enabled ≤ bits arg 19 13) ∨
      15 < bits arg 26 23 + (if kind = 2 then 4 else 1) ∨ (kind = 2 ∧ word % 2 = 1)) :
    atomBad env (atomArg kind arg) word = true := by
  obtain ⟨h1, h2, h3, h4, h5⟩ := atomArg_bits (show kind < 4 by omega) arg
  simp only [atomBad, h1, h2, h3, h4, h5, Bool.or_eq_true, Bool.and_eq_true, beq_iff_eq, bne_iff_ne, decide_eq_true_eq]
  rcases h with h | h | h | ⟨hk2, hw⟩
  · exact .inl (.inl (.inl (.inr h)))
  · exact .inl (.inl (.inr h))
  · split at h
    · next hk2 => exact .inl (.inr ⟨hk2, .inl h⟩)
    · next hk2 => exact .inr ⟨hk2, h⟩
  · exact .inl (.inr ⟨hk2, .inr hw⟩)

theorem Core.seqAtom_refused (k : Core) {env : SeqEnv} (self r : Nat) {kind arg : Nat} (hk : kind < 3)
    (h : bits arg 12 0 ≠ 0 ∨ (bit arg 20 = true ∧ env.su.enabled ≤ bits arg 19 13) ∨
      15 < bits arg 26 23 + (if kind = 2 then 4 else 1) ∨ (kind = 2 ∧ (k.tally (bits arg 26 23)).val.toNat % 2 = 1)) :
    k.seqAtom env self r (atomArg kind arg) = (k.seqRefuse 1 7, []) := by
  refine if_pos ?_
  rw [(atomArg_bits (show kind < 4 by omega) arg).1]
  exact atomBad_eq_true hk (h.imp_right (Or.imp_right (Or.imp_right fun ⟨h1, h2⟩ => ⟨h1, by omega⟩)))

/-! ### ME, VE and SU slots (R149, R182, R234, R267) -/

theorem Core.meIssue_refused (k : Core) {e op : Nat} {m : MeSlot} (act : Core → Core) (h : k.meCheck e op m ≠ 0) :
    k.meIssue e op m act = k.meRefuse e (k.meCheck e op m) op :=
  if_pos h

theorem Core.slotVe_refused (k : Core) {r op arg : Nat} (h : k.veCheck r op (veSlot arg) ≠ 0) :
    k.slotVe r op arg = k.veRefuse (k.veCheck r op (veSlot arg)) op :=
  if_pos h

theorem Core.suIssue_refused (k : Core) (env : SuEnv) (r : Nat) {m : SuSlot} (h : k.suCheck m ≠ 0) :
    k.suIssue env r m = k.suRefuse (k.suCheck m) m.entry :=
  if_pos h

theorem Core.suIssue_faulted (k : Core) (env : SuEnv) (r : Nat) {m : SuSlot} (h : k.suCheck m = 0)
    (ht : bits (k.cfg.moves.get 0 m.entry).toNat 127 124 ≠ 4) (hf : (k.moveCheck m).1 ≠ 0) :
    k.suIssue env r m = k.moveFault (k.moveCheck m).1 (k.moveCheck m).2 := by
  simp only [Core.suIssue, h, ne_eq, not_true_eq_false, if_false, if_neg ht]
  exact if_pos hf

theorem Core.moveSlot_of_type (k : Core) (env : SeqEnv) {types : List Nat} (r : Nat) {arg : Nat}
    (h : types.contains (k.moveType arg) = true) : k.moveSlot env types r arg = k.suIssue env.su r (suSlot arg) :=
  if_pos h

/-- Settles O24: for each unit, the check that fails decides the slot. -/
theorem refusedSlots : Obligations.RefusedSlots := by
  intro s c hruns
  have sent : ∀ {f : SeqEnv → Nat → Core → Core × List Transit} {k : Core},
      f (s.plane.seqEnv s.chip c) s.plane.now (s.coreNow c) = (k, []) → s.slot c f = s.withCore c k :=
    fun h => s.slot_keeps_mesh hruns _ h
  have kept : ∀ {f : Nat → Core → Core} {k : Core}, f s.plane.now (s.coreNow c) = k → s.slotIn c f = s.withCore c k :=
    fun h => (s.slotIn_runs hruns _).trans (congrArg _ h)
  dsimp only
  revert sent kept
  generalize s.coreNow c = k
  intro sent kept
  refine ⟨fun arg => ?seq, fun e arg => ?me, fun arg => ?ve, fun arg => ?su⟩
  case seq =>
    refine ⟨fun h => congrArg _ (sent (k.seqSignal_refused h)), fun h => congrArg _ (kept (k.waitSlot_refused _ h)),
      fun h => congrArg _ (kept (k.loopSlot_refused _ h)), fun h hd => congrArg _ (kept (k.loopSlot_data _ h hd)),
      fun ho h => congrArg _ ((if_pos ho).trans (sent (congrArg (·, []) (if_pos h)))),
      fun h => congrArg _ (kept (k.haltSlot_refused h)), fun h => ?_, fun h => ?_⟩
    · have hbad : ∀ kind, kind < 2 → bits arg.toNat 12 0 ≠ 0 ∨ (bit arg.toNat 20 = true ∧ s.plane.enabled ≤ bits arg.toNat 19 13) ∨
          15 < bits arg.toNat 26 23 + (if kind = 2 then 4 else 1) ∨ (kind = 2 ∧ (k.tally (bits arg.toNat 26 23)).val.toNat % 2 = 1) := by
        intro kind hk
        rw [if_neg (by omega)]
        rcases h with (h | h) | h
        · exact .inl h
        · exact .inr (.inl h)
        · exact .inr (.inr (.inl (by omega)))
      exact ⟨congrArg _ (sent (k.seqAtom_refused _ _ (by omega) (hbad 0 (by omega)))),
        congrArg _ (sent (k.seqAtom_refused _ _ (by omega) (hbad 1 (by omega))))⟩
    · refine congrArg _ (sent (k.seqAtom_refused _ _ (by omega) ?_))
      rcases h with (h | h) | h | h
      · exact .inl h
      · exact .inr (.inl h)
      · exact .inr (.inr (.inl (by rw [if_pos rfl]; omega)))
      · exact .inr (.inr (.inr ⟨rfl, h⟩))
  case me =>
    intro p hp h
    have hrow : ∃ act : Nat → Core → Core, exec p.1 s = .next (s.slotIn c fun r k => k.meIssue e p.2 (meSlot arg.toNat) (act r)) := by
      fin_cases hp <;> exact ⟨_, rfl⟩
    obtain ⟨act, hact⟩ := hrow
    exact hact.trans (congrArg _ (kept (k.meIssue_refused _ h)))
  case ve =>
    intro p hp h
    have hrow : exec p.1 s = .next (s.slotIn c fun r k => k.slotVe r p.2 arg.toNat) := by
      fin_cases hp <;> rfl
    exact hrow.trans (congrArg _ (kept (k.slotVe_refused h)))
  case su =>
    intro p hp ht
    have hrow : ∃ types : List Nat, types.contains p.2 = true ∧
        exec p.1 s = .next (s.slot c fun env r k => (k.moveSlot env types r arg.toNat, [])) := by
      fin_cases hp <;> exact ⟨_, rfl, rfl⟩
    obtain ⟨types, hin, hexec⟩ := hrow
    have hissue := k.moveSlot_of_type (s.plane.seqEnv s.chip c) s.plane.now (arg := arg.toNat) (ht ▸ hin)
    refine ⟨fun h => ?_, fun h h4 hf => ?_⟩
    · exact hexec.trans (congrArg _ (sent (congrArg (·, []) (hissue.trans (k.suIssue_refused _ _ h)))))
    · exact hexec.trans (congrArg _ (sent (congrArg (·, []) (hissue.trans (k.suIssue_faulted _ _ h (fun h' => h4 (ht ▸ h')) hf)))))

end Sys2Proof.Machine
end

section
/-! Tokens on their way to the pails (R40, R268, R270, R328, R481). -/

namespace Sys2Proof.Machine

/-! ### A token at its pail -/

/-- What an EDGE token makes of the core of its pail (R268, R270). -/
def Core.tokened (k : Core) (pail : Nat) : Core :=
  if (k.pail pail).edge then k.setPail pail
    (if (k.pail pail).level < 16 then { k.pail pail with level := (k.pail pail).level + 1 }
      else { k.pail pail with queue := (k.pail pail).queue + 1 })
  else { k with ev := k.ev ++ [.tokenRefused] }

theorem Core.edgeToken_eq (k : Core) (pail : Nat) : k.edgeToken pail = k.tokened pail := by
  simp only [Core.edgeToken, Core.tokened]
  cases (k.pail pail).edge
  · rfl
  · simp only [Bool.not_true, Bool.false_eq_true, if_false, if_true]
    split <;> rfl

theorem PlaneSt.edgeToken_live (p : PlaneSt) {c : Nat} (h : c ∈ p.live) (pail : Nat) :
    p.edgeToken c pail = (p.setCore c ((p.core c).tokened pail)).collect c := by
  rw [PlaneSt.edgeToken, if_pos (by simpa using h), PlaneSt.onCore, Core.edgeToken_eq]

theorem PlaneSt.unitToken_live (p : PlaneSt) (unit : Nat) {c : Nat} (h : c ∈ p.live) (pail : Nat) :
    p.unitToken unit c pail = if ((p.core c).pail pail).edge then (p.setCore c ((p.core c).tokened pail)).collect c
      else { p with ob := p.ob.line (256 + unit) } := by
  rw [PlaneSt.unitToken, p.edgeToken_live h]
  simp [PlaneSt.planePail, h]

theorem State.clockOn_of_mayAct (s : State) (h : s.mayAct = true) : s.clockOn = true := by
  simp only [State.mayAct, Bool.and_eq_true] at h
  exact h.1.1

/-! ### What leaves its source -/

theorem State.tokenIn_stopped (s : State) (src : TokenSrc) (h : s.clockOn = false) : s.tokenIn src = s := by
  simp [State.tokenIn, h]

theorem State.tokenIn_creamery (s : State) {c pail : Nat} {t : State} (h : s.clockOn = true)
    (ht : s.takeToken .creamery = (some (c, pail), t)) :
    s.tokenIn .creamery = { t with plane := t.plane.unitToken (s.ext.units.headD 0) c pail } := by
  simp only [State.tokenIn, h, ht]
  rfl

theorem State.tokenIn_edge (s : State) {src : TokenSrc} {c pail : Nat} {t : State} (h : s.clockOn = true) (ht : s.takeToken src = (some (c, pail), t))
    (hs : src ≠ .creamery) : s.tokenIn src = { t with plane := t.plane.edgeToken c pail } := by
  simp only [State.tokenIn, h, ht]
  cases src
  case creamery => exact absurd rfl hs
  all_goals rfl

/-- One transfer that is due is delivered. -/
theorem State.deliverDue_one (s : State) {f : Transit → Bool} {x : Transit} {p : PlaneSt} (hm : s.plane.mesh = [x])
    (hd : x.due ≤ s.plane.now) (hf : f x = true) (hp : ({ s.plane with mesh := [] } : PlaneSt).deliver s.plane.now x = (p, [])) :
    s.deliverDue f = { s with plane := p } := by
  have hdue : (decide (x.due ≤ s.plane.now) && f x) = true := by simp [hd, hf]
  simp only [State.deliverDue, hm, List.filter_cons, hdue, Bool.not_true, Bool.false_eq_true, if_true, if_false, List.filter_nil,
    List.foldl_cons, List.foldl_nil, hp, List.append_nil]

/-- A SIGNAL that no collision has lost leaves its token due in its core. -/
theorem PlaneSt.deliver_signal (p : PlaneSt) (r : Nat) {x : Transit} {c pail : Nat} (hl : x.lost = false)
    (hx : x.load = .signal c pail) : p.deliver r x = (p.onCore c fun k =>
      { k with seq := { k.seq with tokens := k.seq.tokens ++ [(r, pail)] } }, []) := by
  simp [PlaneSt.deliver, hx, hl]

/-- Settles O25: the delivery of a SIGNAL, then the oldest token of each of the three sources. -/
theorem tokensArrive : Obligations.TokensArrive := by
  intro s c hthere
  have hclock := s.clockOn_of_mayAct hthere.1
  refine ⟨fun x pail hm hd hl hx => ?mesh, fun pail => ⟨?creamery, ?link, ?steward⟩, fun t ht src qd => ⟨?_, ?_, ?_⟩⟩
  case mesh =>
    have hhome : (x.load.home == some c.val) = true := by simp [hx, Payload.home]
    exact congrArg Host.Outcome.next ((if_pos hthere.1).trans (s.deliverDue_one hm hd hhome (PlaneSt.deliver_signal _ _ hl hx)))
  case creamery =>
    intro rest unit units ht hu
    have htake : s.takeToken .creamery = (some (c.val, pail),
        { s with ext := { s.ext with units := units, ob := { s.ext.ob with tokens := rest } } }) := by
      simp [State.takeToken, ht, hu]
    refine congrArg Host.Outcome.next ((s.tokenIn_creamery hclock htake).trans ?_)
    simp only [hu, List.headD_cons]
    rw [PlaneSt.unitToken_live _ unit hthere.2 pail]
    cases hedge : ((s.plane.core c).pail pail).edge
    · simp
    · simp only [if_true, Core.tokened, hedge]
      rfl
  case link =>
    intro rest ht
    have htake : s.takeToken .link = (some (c.val, pail), { s with link := { s.link with ob := { s.link.ob with tokens := rest } } }) := by
      simp [State.takeToken, ht]
    refine congrArg Host.Outcome.next ((s.tokenIn_edge hclock htake nofun).trans ?_)
    simp only [PlaneSt.edgeToken_live _ hthere.2 pail]
    rfl
  case steward =>
    intro qd rest ht
    have htake : s.takeToken (.steward qd) = (some (c.val, pail),
        { s with icu := s.icu.onSteward qd fun w => { w with tokens := w.tokens.tail } }) := by
      simp [State.takeToken, ht]
    have h : s.tokenIn (.steward qd) = _ := (s.tokenIn_edge hclock htake nofun)
    simp only [PlaneSt.edgeToken_live _ hthere.2 pail] at h
    exact ⟨congrArg Host.Outcome.next h, congrArg Host.Outcome.next h⟩
  · exact congrArg Host.Outcome.next (if_neg (by simp [State.mayAct, ht]))
  · exact congrArg Host.Outcome.next (t.tokenIn_stopped src ht)
  · exact congrArg Host.Outcome.next (t.tokenIn_stopped (.steward qd) ht)

end Sys2Proof.Machine
end

section
/-! Channels that fail, fences and upkeep of external memory (R310 to R316, R318, R513). -/

namespace Sys2Proof.Machine

/-! ### What is done to the channels of a stack one after another -/

/-- Steps over a range, each of which changes what is observed at one place: at every place of the range there is what its own step
has made of it, and elsewhere what there was. -/
theorem foldl_range_at {σ β : Type} (obs : σ → Nat → β) (f : σ → Nat → σ) (b : Nat) (R : Nat → β → β → Prop) (I : σ → Prop) {n : Nat}
    (hstep : ∀ x h, h < n → I x → I (f x h) ∧ R h (obs x (b + h)) (obs (f x h) (b + h)) ∧ ∀ d, d ≠ b + h → obs (f x h) d = obs x d)
    {x : σ} (hx : I x) :
    I ((List.range n).foldl f x) ∧ (∀ h, h < n → R h (obs x (b + h)) (obs ((List.range n).foldl f x) (b + h))) ∧
      ∀ d, (∀ h, h < n → d ≠ b + h) → obs ((List.range n).foldl f x) d = obs x d := by
  induction n with
  | zero => exact ⟨hx, fun h hh => absurd hh (Nat.not_lt_zero h), fun _ _ => rfl⟩
  | succ m ih =>
    obtain ⟨hI, hin, hout⟩ := ih fun x h hh => hstep x h (by omega)
    rw [List.range_succ, List.foldl_append, List.foldl_cons, List.foldl_nil]
    obtain ⟨hI', hR, hsame⟩ := hstep _ m (Nat.lt_succ_self m) hI
    refine ⟨hI', fun h hh => ?_, fun d hd => ?_⟩
    · by_cases hm : h = m
      · subst hm
        rwa [hout (b + h) fun j hj => by omega] at hR
      · rw [hsame _ (by omega)]
        exact hin h (by omega)
    · rw [hsame d (hd m (Nat.lt_succ_self m)), hout d fun h hh => hd h (by omega)]

/-! ### The fence of a stack (R318) -/

@[simp] theorem ExtSt.chan_line (x : ExtSt) (n d : Nat) : (x.line n).chan d = x.chan d := rfl

theorem ExtSt.onChan_onChan (x : ExtSt) (c : Nat) (f g : Chan → Chan) : (x.onChan c f).onChan c g = x.onChan c (g ∘ f) := by
  simp [ExtSt.onChan, ExtSt.chan]

/-- A request served on a fenced stack: it is answered and counted, and starts the next with no failed attempt. -/
theorem ExtSt.serve_fenced (x : ExtSt) (c : Nat) (r : ReqKind) (us : List Upset) (h : x.isFenced c = true) :
    ∃ resp hits, x.serve c r us = { x.onChan c (fun k => { k with attempts := 0 }) with resp := resp, fenceHits := hits } := by
  have h0 : (x.onChan c fun k => { k with attempts := 0 }).isFenced c = true := h
  cases r <;> simp only [ExtSt.serve, h0, if_true] <;> exact ⟨_, _, rfl⟩

/-- The requests that wait in a fenced channel, served one after another. -/
theorem ExtSt.serve_all_fenced (c : Nat) (rs : List ReqKind) (x : ExtSt) (f : Chan → Chan) (h : x.isFenced c = true) :
    ∃ n resp hits, rs.foldl (fun (x : ExtSt) r => x.serve c r []) (x.onChan c f) =
      { x.onChan c (fun k => { f k with attempts := n }) with resp := resp, fenceHits := hits } := by
  induction rs generalizing x f with
  | nil => exact ⟨(f (x.chan c)).attempts, x.resp, x.fenceHits, rfl⟩
  | cons r t ih =>
    obtain ⟨resp, hits, hr⟩ := (x.onChan c f).serve_fenced c r [] h
    obtain ⟨n, resp', hits', ht⟩ := ih { x with resp := resp, fenceHits := hits } (fun k => { f k with attempts := 0 }) h
    refine ⟨n, resp', hits', ?_⟩
    rw [List.foldl_cons, hr, ExtSt.onChan_onChan]
    exact ht

theorem bit_or_shift (n s : Nat) : bit (n ||| 1 <<< s) s = true := by
  simp [bit]

theorem bit_and_mask (n : Nat) {s : Nat} (h : s < 8) : bit (n &&& (255 - 1 <<< s)) s = false := by
  have hmask : Nat.testBit (255 - 1 <<< s) s = false := by
    interval_cases s <;> decide
  simp [bit, Nat.testBit_and, hmask]

/-- The fence of a stack that is not fenced. -/
theorem ExtSt.fence_spec (x : ExtSt) {s : Nat} (hs : s < 8) (h : bit x.fenced s = false) :
    (bit (x.fence s).fenced s = true ∧ bit (x.fence s).stackOk s = false ∧ (x.fence s).mem = x.mem) ∧
    (∀ i, i < 32 → ((x.fence s).chan (32 * s + i)).state = 0 ∧
      ∀ r ∈ ((x.fence s).chan (32 * s + i)).queue, r.isCmd = true) ∧
    ∀ d, d / 32 ≠ s → (x.fence s).chan d = x.chan d := by
  rw [ExtSt.fence, if_neg (by simp [h])]
  obtain ⟨hI, hin, hout⟩ := foldl_range_at ExtSt.chan
    (fun (x : ExtSt) i => (((x.chan (32 * s + i)).queue).filter (!·.isCmd)).foldl (fun (x : ExtSt) r => x.serve (32 * s + i) r [])
      (x.onChan (32 * s + i) fun k => { k with queue := ((x.chan (32 * s + i)).queue).filter ReqKind.isCmd, state := 0 }))
    (32 * s) (fun _ _ k => k.state = 0 ∧ ∀ r ∈ k.queue, r.isCmd = true)
    (fun y => bit y.fenced s = true ∧ bit y.stackOk s = false ∧ y.mem = x.mem) (n := 32)
    (fun y i hi ⟨hf, hok, hm⟩ => by
      have hfen : y.isFenced (32 * s + i) = true := by rwa [ExtSt.isFenced, show (32 * s + i) / 32 = s by omega]
      obtain ⟨n, resp, hits, heq⟩ := y.serve_all_fenced (32 * s + i) ((y.chan (32 * s + i)).queue.filter (!·.isCmd))
        (fun k => { k with queue := (y.chan (32 * s + i)).queue.filter ReqKind.isCmd, state := 0 }) hfen
      rw [heq]
      refine ⟨⟨hf, hok, hm⟩, ?_, fun d hd => Tab.get_set_ne _ _ _ hd⟩
      have hc := y.chan_onChan_self (32 * s + i) fun k =>
        { k with queue := (y.chan (32 * s + i)).queue.filter ReqKind.isCmd, state := 0, attempts := n }
      exact ⟨congrArg Chan.state hc, fun r hr => List.of_mem_filter ((congrArg Chan.queue hc) ▸ hr)⟩)
    (x := { x with fenced := x.fenced ||| 1 <<< s, stackOk := x.stackOk &&& (255 - 1 <<< s),
                   ob := (x.ob.line (512 + 32 * s)).event 5 s 0 })
    ⟨bit_or_shift _ _, bit_and_mask _ hs, rfl⟩
  exact ⟨hI, hin, fun d hd => hout d fun i hi => by omega⟩

/-! ### Parity errors (R312) -/

theorem ExtSt.parity_retry (x : ExtSt) {c kind : Nat} (h : (x.chan c).attempts < 8) : x.parity c kind =
    (x.onChan c fun k => { k with
      attempts := (x.chan c).attempts + 1
      retryCa := if kind = 0 then satAdd 16 k.retryCa 1 else k.retryCa
      retryWr := if kind = 1 then satAdd 16 k.retryWr 1 else k.retryWr
      retryRd := if kind = 2 then satAdd 16 k.retryRd 1 else k.retryRd }).line (512 + c) :=
  if_pos (Nat.succ_le_of_lt h)

theorem ExtSt.parity_fails (x : ExtSt) {c kind : Nat} (h : 8 ≤ (x.chan c).attempts) :
    x.parity c kind = (x.onChan c fun k => { k with attempts := 0 }).fence (c / 32) :=
  if_neg (by omega)

/-- Settles O28: a parity error that is retried, and the fence, to which the ninth leads. -/
theorem memoryErrors : Obligations.MemoryErrors := by
  intro s
  refine ⟨fun ch kind h => ?_, fun st hst => ?_⟩
  · refine ⟨_, rfl, rfl, ?_⟩
    simp only [s.ext.parity_retry h]
    exact ⟨by rw [ExtSt.chan_line, ExtSt.chan_onChan_self], fun d hd => by rw [ExtSt.chan_line, ExtSt.chan_onChan_ne _ _ hd], rfl, rfl,
      List.mem_append_right _ (List.mem_singleton_self _)⟩
  · dsimp only
    refine ⟨?_, fun ch kind hch h => ?_⟩
    · obtain ⟨⟨hf, hok, hm⟩, hin, hout⟩ := s.ext.fence_spec st.isLt hst
      exact ⟨_, rfl, rfl, hf, hok, hm, hin, hout⟩
    · have hparity : s.ext.parity ch kind = (s.ext.onChan ch fun k => { k with attempts := 0 }).fence st :=
        (s.ext.parity_fails h).trans (by rw [hch])
      obtain ⟨⟨hf, hok, hm⟩, hin, hout⟩ := (s.ext.onChan ch fun k => { k with attempts := 0 }).fence_spec st.isLt hst
      rw [← hparity] at hf hok hm hin hout
      refine ⟨_, rfl, rfl, hf, hok, hm, hin, fun d hd => (hout d hd).trans (s.ext.chan_onChan_ne _ fun h => hd (h ▸ hch))⟩

/-! ### Patrol scrub (R310, R311, R315) -/

theorem filter_ne_secIns (n : Nat) (l : List Nat) : (secIns n l).filter (· != n) = l.filter (· != n) := by
  induction l with
  | nil => simp [secIns]
  | cons x t ih =>
    simp only [secIns]
    split
    · simp
    · split
      · rfl
      · rw [List.filter_cons, List.filter_cons, ih]

/-- The channel after a scrub slot at its position: the walk has moved on. -/
def Chan.walked (k : Chan) (sec : Nat) : Chan :=
  { k with
    attempts := 0
    position := (sec + 1) % 46875000
    passes := if sec + 1 = 46875000 then k.passes + 1 else k.passes }

theorem ExtSt.poisoned_upset (x : ExtSt) (c sec : Nat) : (x.upset c sec .uncorrectable).poisoned c (32 * sec) = true :=
  contains_secIns _ _

theorem ExtSt.noteRead_clean (x : ExtSt) {c sec : Nat} (hp : x.poisoned c (32 * sec) = false)
    (hs : x.soft.contains (memKey c (32 * sec) / 32) = false) : x.noteRead c sec = x := by
  simp only [ExtSt.noteRead, hp, hs, Bool.false_eq_true, if_false]

/-- A clean sector, with no write-back queued. -/
theorem ExtSt.patrol_idle (x : ExtSt) {c : Nat} (hp : x.poisoned c (32 * (x.chan c).position) = false)
    (hs : x.soft.contains (memKey c (32 * (x.chan c).position) / 32) = false) (hw : (x.chan c).wbPend = []) :
    x.patrol c .clean = x.onChan c fun k => k.walked (x.chan c).position := by
  simp only [ExtSt.patrol, ExtSt.upset, x.noteRead_clean hp hs, hs, hw, Bool.false_eq_true, if_false]
  rfl

/-- A clean sector leaves the slot to the oldest queued write-back. -/
theorem ExtSt.patrol_writeBack (x : ExtSt) {c sec : Nat} {rest : List Nat} (hp : x.poisoned c (32 * (x.chan c).position) = false)
    (hs : x.soft.contains (memKey c (32 * (x.chan c).position) / 32) = false) (hw : (x.chan c).wbPend = sec :: rest) :
    x.patrol c .clean = (x.writeBack c sec).onChan c fun k => k.walked (x.chan c).position := by
  simp only [ExtSt.patrol, ExtSt.upset, x.noteRead_clean hp hs, hs, hw, Bool.false_eq_true, if_false]
  rfl

/-- A sector with one symbol in error is counted and written back. -/
theorem ExtSt.patrol_correctable (x : ExtSt) {c : Nat} (hp : x.poisoned c (32 * (x.chan c).position) = false) :
    ∃ w, x.patrol c .correctable =
      (({ x with soft := secIns (memKey c (32 * (x.chan c).position) / 32) x.soft }.onChan c fun k => { k with
        corrected := satAdd 16 k.corrected 1, lastUncorr := false, lastSector := (x.chan c).position, wbPend := w }).writeBack c
          (x.chan c).position).onChan c (fun k => k.walked (x.chan c).position) ∧
      w.filter (· != (x.chan c).position) = (x.chan c).wbPend.filter (· != (x.chan c).position) := by
  have hbad : x.bad.contains (memKey c (32 * (x.chan c).position) / 32) = false := hp
  have hup : x.upset c (x.chan c).position .correctable = { x with soft := secIns (memKey c (32 * (x.chan c).position) / 32) x.soft } := by
    simp only [ExtSt.upset, hbad, Bool.false_eq_true, if_false]
  refine ⟨if (x.chan c).wbPend.contains (x.chan c).position then (x.chan c).wbPend else (x.chan c).wbPend ++ [(x.chan c).position], ?_, ?_⟩
  · have hp' : ({ x with soft := secIns (memKey c (32 * (x.chan c).position) / 32) x.soft } : ExtSt).poisoned c (32 * (x.chan c).position)
        = false := hp
    simp only [ExtSt.patrol, hup, ExtSt.noteRead, hp', contains_secIns, Bool.false_eq_true, if_false, if_true]
    rfl
  · split
    · rfl
    · rw [List.filter_append]
      simp

/-- An uncorrectable sector is marked and counted; what else the slot does is a write-back. -/
theorem ExtSt.patrol_uncorrectable (x : ExtSt) (c : Nat) :
    ∃ soft w, x.patrol c .uncorrectable = (({ x with bad := secIns (memKey c (32 * (x.chan c).position) / 32) x.bad, soft := soft }.onChan c
      fun k => { k with uncorr := satAdd 16 k.uncorr 1, lastUncorr := true, lastSector := (x.chan c).position, wbPend := w }).line
        (512 + c)).onChan c fun k => k.walked (x.chan c).position := by
  have hp := x.poisoned_upset c (x.chan c).position
  simp only [ExtSt.upset] at hp
  simp only [ExtSt.patrol, ExtSt.upset, ExtSt.noteRead, hp, not_contains_filter_ne, Bool.false_eq_true, if_false, if_true]
  split
  · simp only [ExtSt.writeBack, ExtSt.onChan, ExtSt.chan, ExtSt.line, Tab.get_set_self, Tab.set_set]
    exact ⟨_, _, rfl⟩
  · exact ⟨_, (x.chan c).wbPend, rfl⟩

theorem ExtSt.chan_writeBack_ne (x : ExtSt) {c d : Nat} (sec : Nat) (h : d ≠ c) : (x.writeBack c sec).chan d = x.chan d :=
  Tab.get_set_ne _ _ _ h

/-! ### Temperature and training of a stack (R313, R316) -/

theorem ExtSt.sample_spec (x : ExtSt) (s t : Nat) :
    ((x.sample s t).mem = x.mem ∧ (x.sample s t).fenced = x.fenced) ∧
    (∀ h, h < 32 → (x.sample s t).chan (32 * s + h) = { x.chan (32 * s + h) with
      temp := t % 256, wanted := throttle (x.chan (32 * s)).wanted t (x.chan (32 * s)).t1 (x.chan (32 * s)).t2 }) ∧
    ∀ d, d / 32 ≠ s → (x.sample s t).chan d = x.chan d := by
  obtain ⟨hI, hin, hout⟩ := foldl_range_at ExtSt.chan
    (fun (y : ExtSt) h => y.onChan (32 * s + h) fun k => { k with
      temp := t % 256, wanted := throttle (x.chan (32 * s)).wanted t (x.chan (32 * s)).t1 (x.chan (32 * s)).t2 })
    (32 * s) (fun _ k l => l = { k with
      temp := t % 256, wanted := throttle (x.chan (32 * s)).wanted t (x.chan (32 * s)).t1 (x.chan (32 * s)).t2 })
    (fun y => y.mem = x.mem ∧ y.fenced = x.fenced) (n := 32)
    (fun y h _ hy => ⟨hy, y.chan_onChan_self _ _, fun d hd => y.chan_onChan_ne _ hd⟩) (x := x) ⟨rfl, rfl⟩
  exact ⟨hI, hin, fun d hd => hout d fun h hh => by omega⟩

/-- One channel of a stack after its training: its failed lanes repaired as far as there are spares. -/
def ExtSt.laned (x : ExtSt) (c : Nat) (good : Bool) (fixed : List Nat) : ExtSt :=
  { x with repairs := x.repairs.set c fixed }.onChan c fun k => { k with
    state := if good then 2 else 0
    lanes := fixed.length % 256
    newRepair := Tab.get [] x.repairs c != fixed }

/-- What training says of a channel: its state, and the lanes repaired beside those of the training before. -/
def Trained (good : Bool) (fixed : List Nat) (old new : Chan × List Nat) : Prop :=
  new.1.state = (if good then 2 else 0) ∧ new.1.lanes = fixed.length % 256 ∧ new.1.newRepair = (old.2 != fixed) ∧ new.2 = fixed

theorem ExtSt.laned_trained (x : ExtSt) (c : Nat) (good : Bool) (fixed : List Nat) :
    Trained good fixed (x.chan c, Tab.get [] x.repairs c) ((x.laned c good fixed).chan c, Tab.get [] (x.laned c good fixed).repairs c) := by
  have hc : (x.laned c good fixed).chan c = _ := Tab.get_set_self _ _ _ _
  rw [Trained, hc]
  exact ⟨rfl, rfl, rfl, Tab.get_set_self _ _ _ _⟩

/-- The channels of a stack after its training. -/
def ExtSt.lanedAll (x : ExtSt) (s spares : Nat) (failed : List (List Nat)) (good : Bool) : ExtSt :=
  (List.range 32).foldl (fun (x : ExtSt) h => x.laned (32 * s + h) good ((failedLanes failed h).take spares)) x

theorem ExtSt.lanedAll_spec (x : ExtSt) (s spares : Nat) (failed : List (List Nat)) (good : Bool) :
    (x.lanedAll s spares failed good).mem = x.mem ∧
    (∀ h, h < 32 → Trained good ((failedLanes failed h).take spares) (x.chan (32 * s + h), Tab.get [] x.repairs (32 * s + h))
      ((x.lanedAll s spares failed good).chan (32 * s + h), Tab.get [] (x.lanedAll s spares failed good).repairs (32 * s + h))) ∧
    ∀ d, d / 32 ≠ s → (x.lanedAll s spares failed good).chan d = x.chan d := by
  rw [ExtSt.lanedAll]
  obtain ⟨hI, hin, hout⟩ := foldl_range_at (fun (y : ExtSt) d => (y.chan d, Tab.get [] y.repairs d))
    (fun (y : ExtSt) h => y.laned (32 * s + h) good ((failedLanes failed h).take spares)) (32 * s)
    (fun h => Trained good ((failedLanes failed h).take spares)) (fun y => y.mem = x.mem) (n := 32)
    (fun y h _ hy => ⟨hy, y.laned_trained _ _ _, fun d hd => Prod.ext (Tab.get_set_ne _ _ _ hd) (Tab.get_set_ne _ _ _ hd)⟩)
    (x := x) rfl
  exact ⟨hI, hin, fun d hd => (Prod.mk.inj (hout d fun h hh => by omega)).1⟩

theorem ExtSt.train_eq (x : ExtSt) (s spares : Nat) (failed : List (List Nat)) {good : Bool}
    (hg : ((List.range 32).all fun h => decide ((failedLanes failed h).length ≤ spares)) = good) :
    ∃ ok fen, x.train s spares failed = { x.lanedAll s spares failed good with stackOk := ok, fenced := fen } ∧
      (s < 8 → bit ok s = good ∧ (good = true → bit fen s = false)) := by
  simp only [ExtSt.train, ExtSt.lanedAll, ExtSt.laned, hg]
  generalize List.foldl _ x (List.range 32) = y
  cases good
  · exact ⟨_, _, rfl, fun hs => ⟨bit_and_mask _ hs, nofun⟩⟩
  · exact ⟨_, _, rfl, fun hs => ⟨bit_or_shift _ _, fun _ => bit_and_mask _ hs⟩⟩

/-- What the end of a stack's training makes of start-up (R564): external memory keeps all but what was good at reset. -/
theorem State.stackTrained_spec (s : State) (k : Nat) : ∃ ok, (s.stackTrained k).ext = { s.ext with okAtReset := ok } ∧
    (s.stackTrained k).plane = s.plane ∧ (¬ (s.sup.step = 7 ∧ bit s.sup.stacksLeft k = true) → s.stackTrained k = s) ∧
    (s.sup.step = 7 → bit s.sup.stacksLeft k = true → (s.stackTrained k).sup.stacksLeft = s.sup.stacksLeft - 2 ^ k) := by
  simp only [State.stackTrained]
  split
  · next h =>
    split
    · simp only [State.startLinks]
      split <;> exact ⟨_, rfl, rfl, fun hn => absurd h hn, fun _ _ => rfl⟩
    · exact ⟨_, rfl, rfl, fun hn => absurd h hn, fun _ _ => rfl⟩
  · next h => exact ⟨_, rfl, rfl, fun _ => rfl, fun h1 h2 => absurd ⟨h1, h2⟩ h⟩

/-- Settles O29: the refresh window, the scrub slot by what the sector holds, the temperature sample and the training. -/
theorem memoryUpkeep : Obligations.MemoryUpkeep := by
  intro s
  refine ⟨fun ch => ⟨?refresh, ?down, fun faults u => rfl, fun sec => s.ext.poisoned_upset ch sec, ?scrub⟩,
    fun st temp => ?temp, fun st spares failed => ?train⟩
  case refresh =>
    have hob : ∃ ob, s.ext.refresh ch =
        { s.ext.onChan ch (fun k => { k with refresh2x := decide (85 ≤ k.temp), level := k.wanted }) with ob := ob } := by
      simp only [ExtSt.refresh]
      split
      · exact ⟨s.ext.ob, rfl⟩
      · exact ⟨_, rfl⟩
    obtain ⟨ob, h⟩ := hob
    refine ⟨_, rfl, rfl, ?_⟩
    dsimp only
    rw [h]
    exact ⟨rfl, Tab.get_set_self _ _ _ _, fun d hd => Tab.get_set_ne _ _ _ hd⟩
  case down =>
    intro u h
    exact congrArg Host.Outcome.next (if_neg h)
  case scrub =>
    intro hup hpow
    have hexec : ∀ u, exec (.patrolScrub ch ⟨[], u⟩) s = .next { s with ext := s.ext.patrol ch u } :=
      fun u => congrArg Host.Outcome.next (if_pos ⟨hup, hpow⟩)
    dsimp only
    refine ⟨fun hp => ⟨fun hs hw => ?idle, fun sec rest hs hw => ?back, ?corrected⟩, ?uncorrectable⟩
    case idle =>
      refine ⟨_, hexec .clean, rfl, ?_⟩
      dsimp only
      rw [s.ext.patrol_idle hp (by simpa using hs) hw]
      exact ⟨rfl, rfl, rfl, fun d hd => s.ext.chan_onChan_ne _ hd, s.ext.chan_onChan_self ch _⟩
    case back =>
      refine ⟨_, hexec .clean, rfl, ?_⟩
      dsimp only
      rw [s.ext.patrol_writeBack hp (by simpa using hs) hw]
      refine ⟨rfl, rfl, rfl, fun d hd => (ExtSt.chan_onChan_ne _ _ hd).trans (ExtSt.chan_writeBack_ne _ _ hd), ?_⟩
      rw [ExtSt.chan_onChan_self, ExtSt.writeBack, ExtSt.chan_onChan_self]
      have hk : ({ s.ext with soft := s.ext.soft.filter (· != memKey ch (32 * sec) / 32) } : ExtSt).chan ch = s.ext.chan ch := rfl
      rw [hk]
      simp [Chan.walked, hw]
    case corrected =>
      obtain ⟨w, hw, hfilter⟩ := s.ext.patrol_correctable hp
      refine ⟨_, hexec .correctable, rfl, ?_⟩
      dsimp only
      rw [hw]
      refine ⟨rfl, rfl, filter_ne_secIns _ _, fun d hd => ?_, ?_⟩
      · exact (ExtSt.chan_onChan_ne _ _ hd).trans ((ExtSt.chan_writeBack_ne _ _ hd).trans (ExtSt.chan_onChan_ne _ _ hd))
      · rw [ExtSt.chan_onChan_self, ExtSt.writeBack, ExtSt.chan_onChan_self, ← hfilter]
        simp only [ExtSt.chan, ExtSt.onChan, Tab.get_set_self]
        rfl
    case uncorrectable =>
      obtain ⟨soft, w, h⟩ := s.ext.patrol_uncorrectable ch
      refine ⟨_, hexec .uncorrectable, rfl, ?_⟩
      dsimp only
      rw [h]
      refine ⟨rfl, contains_secIns _ _, List.mem_append_right _ (List.mem_singleton_self _), ?_⟩
      rw [ExtSt.chan_onChan_self, ExtSt.chan_line, ExtSt.chan_onChan_self]
      exact ⟨rfl, rfl, rfl, rfl⟩
  case temp =>
    dsimp only
    have hsample := s.ext.sample_spec st temp
    refine ⟨fun h => ?_, fun h hf => ?_⟩
    · obtain ⟨hmem, hin, hout⟩ := hsample
      have hexec : exec (.stackTempSample st temp) s = .next { s with ext := s.ext.sample st temp } :=
        congrArg Host.Outcome.next (if_neg fun hc => absurd hc.1 (by omega))
      exact ⟨_, hexec, rfl, hmem.1, fun i hi => (hin i hi).trans (by rw [Nat.mod_eq_of_lt temp.isLt]), fun d hd => hout d hd⟩
    · obtain ⟨⟨hmem, hfen⟩, -⟩ := hsample
      have hf' : bit (s.ext.sample st temp).fenced st = false := by rw [hfen, hf]
      obtain ⟨⟨hfenced, -, hmem'⟩, -⟩ := (s.ext.sample st temp).fence_spec st.isLt hf'
      have hexec : exec (.stackTempSample st temp) s = .next { s with
          ext := ((s.ext.sample st temp).fence st).line (9 + st), pwr := s.pwr.event 6 st } :=
        congrArg Host.Outcome.next (if_pos ⟨h, by simp [hf']⟩)
      exact ⟨_, hexec, hfenced, hmem'.trans hmem, rfl⟩
  case train =>
    intro lanes
    refine ⟨fun h => congrArg Host.Outcome.next (if_neg h), fun h => ?_⟩
    intro trained
    have both : ∀ good, ((List.range 32).all fun h => decide ((lanes h).length ≤ spares)) = good → trained good := by
      intro good hg
      obtain ⟨ok, fen, htrain, hbits⟩ := s.ext.train_eq st spares _ hg
      obtain ⟨hok, hfen⟩ := hbits st.isLt
      obtain ⟨hmem, hin, hout⟩ := s.ext.lanedAll_spec st spares
        (failed.map fun (l : List (Fin 1024)) => l.map fun (x : Fin 1024) => x.val) good
      obtain ⟨ok', hext, hplane, hrest, hleft⟩ := ({ s with
        ext := s.ext.train st spares (failed.map fun (l : List (Fin 1024)) => l.map fun (x : Fin 1024) => x.val) } : State).stackTrained_spec st
      generalize s.ext.lanedAll st spares _ good = y at htrain hmem hin hout
      refine ⟨_, congrArg Host.Outcome.next (if_pos h), hplane, fun hn => by rw [hrest hn], hleft, ?_⟩
      rw [hext]
      dsimp only
      rw [htrain]
      exact ⟨hok, hfen, hmem, hin, hout⟩
    refine ⟨fun hall => both true (by simpa using hall), fun i hi hmore => both false ?_⟩
    rw [← Bool.not_eq_true, List.all_eq_true]
    intro hall
    have hle := hall i (List.mem_range.mpr hi)
    rw [decide_eq_true_eq] at hle
    exact absurd hle (Nat.not_le.mpr hmore)

end Sys2Proof.Machine
end

section
/-! Requests on their way through a channel of external memory (R283 to R288, R310, R318, R325). -/

namespace Sys2Proof.Machine

/-! ### Hand-over (R46, R283) -/

/-- One transfer that is due leaves the plane with what it carries. -/
theorem State.deliverDue_leaves (s : State) {f : Transit → Bool} {x : Transit} {p : PlaneSt} {y : Payload} (hm : s.plane.mesh = [x])
    (hd : x.due ≤ s.plane.now) (hf : f x = true) (hp : ({ s.plane with mesh := [] } : PlaneSt).deliver s.plane.now x = (p, [y])) :
    s.deliverDue f = ({ s with plane := p } : State).handOver y := by
  have hdue : (decide (x.due ≤ s.plane.now) && f x) = true := by simp [hd, hf]
  simp only [State.deliverDue, hm, List.filter_cons, hdue, Bool.not_true, Bool.false_eq_true, if_true, if_false, List.filter_nil,
    List.foldl_cons, List.foldl_nil, hp, List.nil_append]

theorem ExtSt.handIn_queued (x : ExtSt) {c : Nat} (r : ReqKind) (h : x.isFenced c = false) :
    x.handIn c r = x.onChan c fun k => { k with queue := k.queue ++ [r] } := by
  simp [ExtSt.handIn, h]

/-- A read of one element in a MEMORY arena is queued at the channel it lies in. -/
theorem ExtSt.handOver_read (x : ExtSt) {cfg : ChipCfg} {core m ch rel idx a code c l : Nat} (ha : cfg.whereIs a = .memory c l)
    (h : x.isFenced c = false) : x.handOver cfg (.extRead core m ch rel [(idx, a, code)]) =
      x.onChan c fun k => { k with queue := k.queue ++ [.read core m rel [(idx, l, code)]] } := by
  rw [← x.handIn_queued _ h]
  simp [ExtSt.handOver, ha, List.eraseDups_cons]

theorem State.handOver_read (s : State) {core m ch rel idx a code c l : Nat} (ha : s.chip.whereIs a = .memory c l)
    (h : s.ext.isFenced c = false) : s.handOver (.extRead core m ch rel [(idx, a, code)]) = { s with
      ext := s.ext.onChan c fun k => { k with queue := k.queue ++ [.read core m rel [(idx, l, code)]] } } := by
  have hcell : s.chip.cell a = some (c, l / s.chip.granAt a) := by simp only [ChipCfg.cell, ha]
  simp [State.handOver, Payload.written, s.ext.handOver_read ha h, hcell, PlaneSt.missed]

theorem exec_memoryRequestHandOver_one (s : State) {ch : Fin 256} {x : Transit} (hm : s.plane.mesh = [x]) (hd : x.due ≤ s.plane.now)
    (hl : x.load.chan = some ch.val) : exec (.memoryRequestHandOver ch) s =
      .next (if s.ext.room ch && s.mayAct then s.deliverDue fun y => y == x else s) := by
  have hfind : (s.plane.mesh.find? fun y => decide (y.due ≤ s.plane.now) && y.load.chan == some ch.val) = some x := by
    simp [hm, hd, hl]
  show execMemoryRequestHandOver ch s = _
  simp only [execMemoryRequestHandOver, hfind]

/-! ### What the sectors of a request are found to hold (R310) -/

/-- From `x` to `y` sectors of channel `c` have been read: what is known of sectors and reported may be new, and no queue, other
channel or other part has changed. -/
def ExtSt.ReadIn (x : ExtSt) (c : Nat) (y : ExtSt) : Prop :=
  (∃ bad soft chans ob, y = { x with bad := bad, soft := soft, chans := chans, ob := ob }) ∧
  (y.chan c).queue = (x.chan c).queue ∧ ∀ d, d ≠ c → y.chan d = x.chan d

theorem ExtSt.ReadIn.refl (x : ExtSt) (c : Nat) : x.ReadIn c x := ⟨⟨_, _, _, _, rfl⟩, rfl, fun _ _ => rfl⟩

theorem ExtSt.ReadIn.trans {x y z : ExtSt} {c : Nat} (h : x.ReadIn c y) (g : y.ReadIn c z) : x.ReadIn c z := by
  obtain ⟨⟨_, _, _, _, rfl⟩, h3, h4⟩ := h
  obtain ⟨⟨_, _, _, _, rfl⟩, g3, g4⟩ := g
  exact ⟨⟨_, _, _, _, rfl⟩, g3.trans h3, fun d hd => (g4 d hd).trans (h4 d hd)⟩

theorem ExtSt.ReadIn.mem {x y : ExtSt} {c : Nat} (h : x.ReadIn c y) : y.mem = x.mem := by
  obtain ⟨⟨_, _, _, _, rfl⟩, -⟩ := h
  rfl

theorem ExtSt.ReadIn.resp {x y : ExtSt} {c : Nat} (h : x.ReadIn c y) : y.resp = x.resp := by
  obtain ⟨⟨_, _, _, _, rfl⟩, -⟩ := h
  rfl

theorem ExtSt.ReadIn.isFenced {x y : ExtSt} {c : Nat} (h : x.ReadIn c y) (d : Nat) : y.isFenced d = x.isFenced d := by
  obtain ⟨⟨_, _, _, _, rfl⟩, -⟩ := h
  rfl

theorem ExtSt.readIn_upset (x : ExtSt) (c sec : Nat) (u : Upset) : x.ReadIn c (x.upset c sec u) := by
  cases u
  · exact .refl x c
  · simp only [ExtSt.upset]
    split <;> exact ⟨⟨_, _, _, _, rfl⟩, rfl, fun _ _ => rfl⟩
  · exact ⟨⟨_, _, _, _, rfl⟩, rfl, fun _ _ => rfl⟩

theorem ExtSt.readIn_onChan (x : ExtSt) (c : Nat) {f : Chan → Chan} (h : ∀ k, (f k).queue = k.queue) : x.ReadIn c (x.onChan c f) :=
  ⟨⟨_, _, _, _, rfl⟩, by rw [ExtSt.chan_onChan_self, h], fun _ hd => x.chan_onChan_ne f hd⟩

theorem ExtSt.readIn_noteRead (x : ExtSt) (c sec : Nat) : x.ReadIn c (x.noteRead c sec) := by
  simp only [ExtSt.noteRead]
  split
  · exact (x.readIn_onChan c (f := fun k => { k with uncorr := satAdd 16 k.uncorr 1, lastUncorr := true, lastSector := sec })
      fun _ => rfl).trans ⟨⟨_, _, _, _, rfl⟩, rfl, fun _ _ => rfl⟩
  · split
    · exact x.readIn_onChan c fun _ => rfl
    · exact .refl x c

theorem ExtSt.readIn_readSectors (x : ExtSt) (c : Nat) (secs : List Nat) (us : List Upset) : x.ReadIn c (x.readSectors c secs us) := by
  induction secs generalizing x us with
  | nil => exact .refl x c
  | cons sec t ih => exact ((x.readIn_upset c sec _).trans (ExtSt.readIn_noteRead _ c sec)).trans (ih _ _)

theorem ExtSt.noteRead_bad (x : ExtSt) (c sec : Nat) : (x.noteRead c sec).bad = x.bad := by
  simp only [ExtSt.noteRead]
  split
  · rfl
  · split <;> rfl

/-- Without new faults, reading sectors leaves what is known of every one. -/
theorem ExtSt.readSectors_bad (x : ExtSt) (c : Nat) (secs : List Nat) : (x.readSectors c secs []).bad = x.bad := by
  induction secs generalizing x with
  | nil => rfl
  | cons sec t ih => exact (ih (x.noteRead c sec)).trans (x.noteRead_bad c sec)

theorem ExtSt.element_congr {x y : ExtSt} (hm : y.mem = x.mem) (hb : y.bad = x.bad) (c l code : Nat) :
    y.element c l code = x.element c l code := by
  obtain ⟨_, _, _, _, _, _, _, _, _, _, _, _⟩ := x
  obtain ⟨_, _, _, _, _, _, _, _, _, _, _, _⟩ := y
  subst hm hb
  rfl

/-! ### The bytes of a write (R288) -/

theorem plainBytes_cons (l : Nat) (b : Byte) (t : Bytes) : plainBytes l (b :: t) = (l, 0xFF, b) :: plainBytes (l + 1) t := by
  simp only [plainBytes, List.zipIdx_cons, List.map_cons, List.zipIdx_succ, List.map_map]
  congr 1
  exact List.map_congr_left fun p _ => by simp; omega

theorem ExtSt.writeBytes_plain (x : ExtSt) (c l : Nat) (bs : Bytes) :
    (x.writeBytes c (plainBytes l bs)).mem = x.mem.write (memKey c l) bs := by
  have fold : ∀ (bs : Bytes) (l : Nat) (m : Mem), (plainBytes l bs).foldl (fun (m : Mem) b =>
      m.put (memKey c b.1) (mergeByte (m.get (memKey c b.1)) b.2.1 b.2.2)) m = m.write (memKey c l) bs := by
    intro bs
    induction bs with
    | nil => exact fun _ _ => rfl
    | cons b t ih =>
      intro l m
      rw [plainBytes_cons, List.foldl_cons, ih, mergeByte_whole, Mem.write]
      rfl
  exact fold bs l x.mem

theorem ExtSt.chan_writeBytes_queue (x : ExtSt) (c : Nat) (bs : List (Nat × Byte × Byte)) :
    ((x.writeBytes c bs).chan c).queue = (x.chan c).queue := by
  have h : (x.writeBytes c bs).chan c = _ := Tab.get_set_self _ _ _ _
  rw [h]
  rfl

/-! ### Requests served (R284, R286, R310, R318) -/

theorem ExtSt.serveAt_waits (x : ExtSt) {c i : Nat} (us : List Upset) {r : ReqKind} (hr : (x.chan c).queue[i]? = some r)
    (h : mayServe (x.chan c).running (x.chan c).queue i = false) : x.serveAt c i us = x := by
  simp [ExtSt.serveAt, hr, h]

theorem ExtSt.serveAt_served (x : ExtSt) {c i : Nat} (us : List Upset) {r : ReqKind} (hr : (x.chan c).queue[i]? = some r)
    (h : mayServe (x.chan c).running (x.chan c).queue i = true) (hc : r.isCmd = false) :
    x.serveAt c i us = (x.unqueue c i).serve c r us := by
  simp [ExtSt.serveAt, hr, h, hc]

/-- Before a request is served it has left the queue, with no failed attempt. -/
theorem ExtSt.readIn_unqueue (x : ExtSt) (c i : Nat) : ((x.unqueue c i).chan c).queue = (x.chan c).queue.eraseIdx i ∧
    ∀ d, d ≠ c → (x.unqueue c i).chan d = x.chan d :=
  ⟨congrArg Chan.queue (x.chan_onChan_self c _), fun _ hd => x.chan_onChan_ne _ hd⟩

/-- The channel without failed attempts, which is how a request finds it. -/
def ExtSt.fresh (x : ExtSt) (c : Nat) : ExtSt := x.onChan c fun k => { k with attempts := 0 }

theorem ExtSt.serve_read_fenced (x : ExtSt) {c : Nat} (core m rel : Nat) (els : List (Nat × Nat × Nat)) (us : List Upset)
    (h : x.isFenced c = true) : x.serve c (.read core m rel els) us = { (x.fresh c).fenceHit c with
      resp := x.resp ++ [⟨core, m, 144 + c, rel, els.map fun e => (elName e.1 e.2.2, none)⟩] } := by
  have h0 : (x.fresh c).isFenced c = true := h
  have h1 : ((x.fresh c).fenceHit c).isFenced c = true := h
  simp only [ExtSt.fresh] at h0 h1
  simp only [ExtSt.serve, h0, if_true, h1]
  rfl

theorem ExtSt.serve_write_fenced (x : ExtSt) {c : Nat} (bs : List (Nat × Byte × Byte)) (us : List Upset) (h : x.isFenced c = true) :
    x.serve c (.write bs) us = (x.fresh c).fenceHit c :=
  if_pos h

theorem ExtSt.serve_write (x : ExtSt) {c : Nat} (bs : List (Nat × Byte × Byte)) (us : List Upset) (h : x.isFenced c = false) :
    x.serve c (.write bs) us = ((x.fresh c).readSectors c (partSectors bs) us).writeBytes c bs :=
  if_neg (by rw [Bool.not_eq_true]; exact h)

/-- A read of a sound stack answers with the elements as they stand. -/
theorem ExtSt.serve_read (x : ExtSt) {c : Nat} (core m rel : Nat) (els : List (Nat × Nat × Nat)) (h : x.isFenced c = false) :
    ∃ y : ExtSt, (x.fresh c).ReadIn c y ∧ y.bad = x.bad ∧ x.serve c (.read core m rel els) [] = { y with
      resp := x.resp ++ [⟨core, m, 144 + c, rel, els.map fun e => (elName e.1 e.2.2, x.element c e.2.1 e.2.2)⟩] } := by
  have hread := (x.fresh c).readIn_readSectors c (ReqKind.read core m rel els).sectors []
  have hbad : ((x.fresh c).readSectors c (ReqKind.read core m rel els).sectors []).bad = x.bad := ExtSt.readSectors_bad _ _ _
  have h0 : (x.fresh c).isFenced c = false := h
  have h1 : ((x.fresh c).readSectors c (ReqKind.read core m rel els).sectors []).isFenced c = false :=
    (hread.isFenced c).trans h
  refine ⟨_, hread, hbad, ?_⟩
  have hm := hread.mem
  have hr := hread.resp
  have hel : ∀ e : Nat × Nat × Nat, ((x.fresh c).readSectors c (ReqKind.read core m rel els).sectors []).element c e.2.1 e.2.2 =
      x.element c e.2.1 e.2.2 := fun e => ExtSt.element_congr hm hbad _ _ _
  generalize hy : (x.fresh c).readSectors c (ReqKind.read core m rel els).sectors [] = y at *
  simp only [ExtSt.fresh] at h0 hy
  simp only [ExtSt.serve, h0, Bool.false_eq_true, if_false, hy, h1, hr, hel]
  rfl

/-- Settles O27: the hand-over, then a request that waits, a read and a write, on a sound stack and on a fenced one. -/
theorem channelRequests : Obligations.ChannelRequests := by
  intro s ch
  refine ⟨fun x core m rel idx a code c l hm hd hl hx ha hf => ⟨fun hroom hact => ?enter, fun hroom => ?full⟩,
    fun i r found hr => ⟨fun hmay => ?waits, fun core m rel els hmay hread hf hgood => ?read, fun core m rel els hmay hread hf => ?readFenced,
      fun bs hmay hwrite hf => ?writeFenced, fun l bs hmay hwf hwrite hf => ?write⟩⟩
  case enter =>
    have hexec := exec_memoryRequestHandOver_one s (ch := ch) hm hd (by simp [hx, Payload.chan])
    have hdel : ({ s.plane with mesh := [] } : PlaneSt).deliver s.plane.now x =
        ({ s.plane with mesh := [] }, [.extRead core m ch rel [(idx, a, code)]]) := by
      simp [PlaneSt.deliver, hx, hl]
    rw [hexec, if_pos (by simp [hroom, hact]), s.deliverDue_leaves hm hd (by simp) hdel]
    exact congrArg Host.Outcome.next (({ s with plane := { s.plane with mesh := [] } } : State).handOver_read ha hf)
  case full =>
    rw [exec_memoryRequestHandOver_one s (ch := ch) hm hd (by simp [hx, Payload.chan]), if_neg (by simp [hroom])]
  case waits =>
    refine congrArg Host.Outcome.next ?_
    rw [s.ext.serveAt_waits found hr hmay]
  case read =>
    subst hread
    obtain ⟨hqueue, hother⟩ := s.ext.readIn_unqueue ch i
    refine ⟨_, rfl, rfl, ?_⟩
    dsimp only
    rw [s.ext.serveAt_served [] hr hmay rfl]
    obtain ⟨y, hread, hbad, hserve⟩ := (s.ext.unqueue ch i).serve_read core m rel els hf
    rw [hserve]
    have hfresh := (s.ext.unqueue ch i).readIn_onChan ch (f := fun k => { k with attempts := 0 }) fun _ => rfl
    obtain ⟨hpart, hq, ho⟩ := hfresh.trans hread
    exact ⟨(hfresh.trans hread).mem, hbad, hq.trans hqueue, fun d hd => (ho d hd).trans (hother d hd), rfl⟩
  case readFenced =>
    subst hread
    refine ⟨_, rfl, rfl, ?_⟩
    dsimp only
    rw [s.ext.serveAt_served found hr hmay rfl, (s.ext.unqueue ch i).serve_read_fenced core m rel els found hf]
    exact ⟨rfl, rfl, rfl⟩
  case writeFenced =>
    subst hwrite
    refine ⟨_, rfl, rfl, ?_⟩
    dsimp only
    rw [s.ext.serveAt_served found hr hmay rfl, (s.ext.unqueue ch i).serve_write_fenced bs found hf]
    exact ⟨rfl, rfl, rfl⟩
  case write =>
    subst hwrite
    obtain ⟨hqueue, hother⟩ := s.ext.readIn_unqueue ch i
    refine ⟨_, rfl, rfl, ?_⟩
    dsimp only
    rw [s.ext.serveAt_served found hr hmay rfl, (s.ext.unqueue ch i).serve_write (plainBytes l bs) found hf]
    have hread := ((s.ext.unqueue ch i).readIn_onChan ch (f := fun k => { k with attempts := 0 }) fun _ => rfl).trans
      (ExtSt.readIn_readSectors _ ch (partSectors (plainBytes l bs)) found)
    have hm := hread.mem
    have hresp := hread.resp
    obtain ⟨-, hq, ho⟩ := hread
    have hwf' : s.ext.mem.wf = true := hwf
    refine ⟨?_, hresp, fun a ha => ?_, (ExtSt.chan_writeBytes_queue _ _ _).trans (hq.trans hqueue),
      fun d hd => (ExtSt.chan_writeBytes_ne _ _ hd).trans ((ho d hd).trans (hother d hd))⟩
    · rw [ExtSt.peek, ExtSt.writeBytes_plain, ExtSt.fresh, hm]
      exact Mem.read_write_self hwf' _ bs
    · rw [ExtSt.writeBytes_plain, ExtSt.fresh, hm]
      exact (Mem.get_write hwf' _ a bs).trans (if_neg (by omega))

end Sys2Proof.Machine
end

section
/-! Creamery commands: their refusal, their operation and their completion (R322 to R328). -/

namespace Sys2Proof.Machine

/-! ### What an operation leaves of the channels (R324, R326) -/

/-- From `x` to `y` sectors have been read and written: of every channel only the counts of the sectors it read and the write-backs
that wait may be new, and the responses stand. -/
def ExtSt.Stored (x y : ExtSt) : Prop :=
  y.resp = x.resp ∧ ∀ c, ∃ n m b l w, y.chan c =
    { x.chan c with corrected := n, uncorr := m, lastUncorr := b, lastSector := l, wbPend := w }

theorem ExtSt.Stored.refl (x : ExtSt) : x.Stored x := ⟨rfl, fun _ => ⟨_, _, _, _, _, rfl⟩⟩

theorem ExtSt.Stored.trans {x y z : ExtSt} (h : x.Stored y) (g : y.Stored z) : x.Stored z := by
  obtain ⟨h1, h2⟩ := h
  obtain ⟨g1, g2⟩ := g
  refine ⟨g1.trans h1, fun c => ?_⟩
  obtain ⟨_, _, _, _, _, hc⟩ := h2 c
  obtain ⟨_, _, _, _, _, gc⟩ := g2 c
  rw [gc, hc]
  exact ⟨_, _, _, _, _, rfl⟩

theorem ExtSt.stored_of_chans {x y : ExtSt} (hc : y.chans = x.chans) (hr : y.resp = x.resp) : x.Stored y :=
  ⟨hr, fun c => ⟨_, _, _, _, _, by rw [ExtSt.chan, hc]; rfl⟩⟩

theorem ExtSt.stored_foldl_on {σ α : Type} (p : σ → ExtSt) (f : σ → α → σ) (hf : ∀ st a, (p st).Stored (p (f st a))) (l : List α)
    (st : σ) : (p st).Stored (p (l.foldl f st)) := by
  induction l generalizing st with
  | nil => exact .refl _
  | cons a t ih => exact (hf st a).trans (ih (f st a))

theorem ExtSt.stored_foldl {α : Type} (f : ExtSt → α → ExtSt) (hf : ∀ (x : ExtSt) a, x.Stored (f x a)) (l : List α) (x : ExtSt) :
    x.Stored (l.foldl f x) :=
  ExtSt.stored_foldl_on id f hf l x

theorem ExtSt.stored_onChan (x : ExtSt) (c : Nat) {f : Chan → Chan} (hf : ∀ k, ∃ n m b l w, f k =
    { k with corrected := n, uncorr := m, lastUncorr := b, lastSector := l, wbPend := w }) : x.Stored (x.onChan c f) := by
  refine ⟨rfl, fun d => ?_⟩
  by_cases hd : d = c
  · rw [hd, ExtSt.chan_onChan_self]
    exact hf _
  · rw [ExtSt.chan_onChan_ne _ _ hd]
    exact ⟨_, _, _, _, _, rfl⟩

theorem ExtSt.stored_noteRead (x : ExtSt) (c sec : Nat) : x.Stored (x.noteRead c sec) := by
  simp only [ExtSt.noteRead]
  split
  · exact (x.stored_onChan c (f := fun k => { k with uncorr := satAdd 16 k.uncorr 1, lastUncorr := true, lastSector := sec })
      fun _ => ⟨_, _, _, _, _, rfl⟩).trans (ExtSt.stored_of_chans rfl rfl)
  · split
    · exact x.stored_onChan c fun _ => ⟨_, _, _, _, _, rfl⟩
    · exact .refl x

theorem ExtSt.stored_noteReads (x : ExtSt) (secs : List (Nat × Nat)) : x.Stored (x.noteReads secs) := by
  rw [ExtSt.noteReads]
  exact ExtSt.stored_foldl _ (fun x _ => x.stored_noteRead _ _) _ x

theorem ExtSt.stored_writeBytes (x : ExtSt) (c : Nat) (bs : List (Nat × Byte × Byte)) : x.Stored (x.writeBytes c bs) := by
  rw [ExtSt.writeBytes]
  exact (ExtSt.stored_of_chans (y := ExtSt.freshen _ c (wholeSectors bs)) rfl rfl).trans
    (ExtSt.stored_onChan _ c fun _ => ⟨_, _, _, _, _, rfl⟩)

theorem ExtSt.stored_putAll (x : ExtSt) (cfg : ChipCfg) (ws : List (Nat × Bytes)) : x.Stored (x.putAll cfg ws) :=
  ExtSt.stored_foldl _ (fun x _ => (x.stored_noteReads _).trans (ExtSt.stored_writeBytes _ _ _)) _ x

theorem Cmd.stored_gather (c : Cmd) (x : ExtSt) (cfg : ChipCfg) (ar : Arena) (j : Nat) : x.Stored (c.gather x cfg ar j).1 :=
  (x.stored_noteReads _).trans (ExtSt.stored_putAll _ _ _)

theorem Cmd.stored_reduce (c : Cmd) (x : ExtSt) (cfg : ChipCfg) (ar : Arena) (j : Nat) : x.Stored (c.reduce x cfg ar j).1 :=
  (x.stored_noteReads _).trans (ExtSt.stored_putAll _ _ _)

theorem Cmd.stored_scaleStore (c : Cmd) (x : ExtSt) (cfg : ChipCfg) (ar : Arena) (j : Nat) : x.Stored (c.scaleStore x cfg ar j).1 := by
  rw [Cmd.scaleStore]
  exact ExtSt.stored_foldl_on Prod.fst _ (fun st _ => (st.1.stored_noteReads _).trans (ExtSt.stored_putAll _ _ _)) _ (x, 0, [])

/-! ### Commands at their unit (R324 to R328) -/

/-- A command of an accepted record does not meet a fenced stack. -/
theorem Cmd.not_fenced_of_check {c : Cmd} {cfg : ChipCfg} {fenced : Bool} {u : Nat} (h : c.check cfg fenced u = 0) : fenced = false := by
  cases fenced
  · rfl
  · simp only [Cmd.check] at h
    repeat' split at h
    all_goals simp_all

/-- A record of an OP that does not exist is refused. -/
theorem Cmd.check_reserved {c : Cmd} (cfg : ChipCfg) (fenced : Bool) (u : Nat) (h : c.op = 0 ∨ 4 < c.op) : c.check cfg fenced u ≠ 0 := by
  have hbad : c.badOp = true := by
    simp only [Cmd.badOp, Bool.or_eq_true]
    right
    split <;> simp_all
  simp [Cmd.check, hbad]

/-- The unit after a command that its checks refuse. -/
theorem ExtSt.runCmd_refused (x : ExtSt) {cfg : ChipCfg} {u : Nat} {r : Bytes} {rest : List ReqKind} {code : Nat}
    (hq : (x.chan u).queue = .command r :: rest)
    (hcode : (Cmd.of r).check cfg (x.isFenced u) u = code) (h : code ≠ 0) :
    (x.runCmd cfg u r).mem = x.mem ∧ (256 + u) ∈ (x.runCmd cfg u r).ob.rise ∧
    (x.runCmd cfg u r).fenceHits = (if x.isFenced u then x.fenceHits.upd 0 (u / 32) (· + 1) else x.fenceHits) ∧
    (x.runCmd cfg u r).chan u = { x.chan u with
      queue := rest, attempts := 0, faults := satAdd 16 (x.chan u).faults 1, faultCode := code
      faultOp := (Cmd.of r).op, faultLabel := (Cmd.of r).label
      running := (x.chan u).running ++ [⟨((Cmd.of r).statusAt cfg u).map fun l => (l, statusBytes code 0 0 (Cmd.of r).label),
        if (Cmd.of r).token then some ((Cmd.of r).core, (Cmd.of r).pail) else none⟩] } := by
  have hun : (x.unqueue u 0).chan u = { x.chan u with queue := rest, attempts := 0 } :=
    (x.chan_onChan_self u _).trans (by rw [hq]; rfl)
  simp only [ExtSt.runCmd, hcode, if_pos h]
  cases x.isFenced u
  · refine ⟨rfl, List.mem_append_right _ (List.mem_singleton_self _), rfl, ?_⟩
    simp only [Bool.false_eq_true, if_false, ExtSt.chan_line, ExtSt.chan_onChan_self, hun]
  · refine ⟨rfl, List.mem_append_right _ (List.mem_singleton_self _), rfl, ?_⟩
    have hun' : ((x.unqueue u 0).fenceHit u).chan u = { x.chan u with queue := rest, attempts := 0 } := hun
    simp only [if_true, ExtSt.chan_line, ExtSt.chan_onChan_self, hun']

/-- What the operation of a command makes of external memory: the rows it skipped and the poisoned sectors come with it. -/
def Cmd.done (c : Cmd) (x : ExtSt) (cfg : ChipCfg) (ar : Arena) (j : Nat) : ExtSt × Nat × List (Nat × Nat) :=
  if c.op = 1 then c.gather x cfg ar j else if c.op = 2 then c.reduce x cfg ar j
  else if c.op = 3 then c.scaleStore x cfg ar j else (x, 0, [])

theorem Cmd.done_gather {c : Cmd} (h : c.op = 1) (x : ExtSt) (cfg : ChipCfg) (ar : Arena) (j : Nat) :
    c.done x cfg ar j = c.gather x cfg ar j := by
  simp only [Cmd.done, if_pos h]

theorem Cmd.done_reduce {c : Cmd} (h : c.op = 2) (x : ExtSt) (cfg : ChipCfg) (ar : Arena) (j : Nat) :
    c.done x cfg ar j = c.reduce x cfg ar j := by
  simp [Cmd.done, h]

theorem Cmd.done_scaleStore {c : Cmd} (h : c.op = 3) (x : ExtSt) (cfg : ChipCfg) (ar : Arena) (j : Nat) :
    c.done x cfg ar j = c.scaleStore x cfg ar j := by
  simp [Cmd.done, h]

theorem Cmd.done_fence {c : Cmd} (h : c.op = 4) (x : ExtSt) (cfg : ChipCfg) (ar : Arena) (j : Nat) : c.done x cfg ar j = (x, 0, []) := by
  simp [Cmd.done, h]

theorem Cmd.stored_done (c : Cmd) (x : ExtSt) (cfg : ChipCfg) (ar : Arena) (j : Nat) : x.Stored (c.done x cfg ar j).1 := by
  simp only [Cmd.done]
  split
  · exact c.stored_gather x cfg ar j
  split
  · exact c.stored_reduce x cfg ar j
  split
  · exact c.stored_scaleStore x cfg ar j
  · exact .refl x

/-- The unit after a command that its checks accept: the memory as its operation leaves it, and its completion to come. -/
theorem ExtSt.runCmd_accepted (x : ExtSt) {cfg : ChipCfg} {u : Nat} {r : Bytes} {ar : Arena} {q : ExtSt × Nat × List (Nat × Nat)}
    (hcode : (Cmd.of r).check cfg (x.isFenced u) u = 0) (har : ((cfg.arenaOf (Cmd.of r).src).map (·.2)).getD Arena.absent = ar)
    (hq : (Cmd.of r).done (x.unqueue u 0) cfg ar ((ar.setIndex u).getD 0) = q) :
    ∃ d : CmdDone, x.runCmd cfg u r = q.1.onChan u (fun k => { k with
        fenceTally := if (Cmd.of r).op = 4 then 0 else k.fenceTally, running := k.running ++ [d] }) ∧
      d.token = (if (Cmd.of r).token then some ((Cmd.of r).core, (Cmd.of r).pail) else none) ∧
      d.status = ((Cmd.of r).statusAt cfg u).map fun l => (l, statusBytes 0 (min q.2.1 65535)
        (if (Cmd.of r).op = 4 then (q.1.chan u).fenceTally else q.2.2.eraseDups.length) (Cmd.of r).label) := by
  subst har hq
  have hf := Cmd.not_fenced_of_check hcode
  simp only [ExtSt.runCmd, hf] at hcode ⊢
  simp only [hcode, Bool.false_eq_true, if_false, ne_eq, not_true_eq_false, Cmd.done]
  generalize hop : (Cmd.of r).op = op
  match op with
  | 0 | 1 | 2 | 3 | 4 => exact ⟨_, rfl, rfl, rfl⟩
  | n + 5 => exact ⟨_, rfl, rfl, rfl⟩

theorem ExtSt.runOp_front (x : ExtSt) {cfg : ChipCfg} {u op : Nat} {r : Bytes} (hfront : x.frontCmd cfg u = some r)
    (h : (Cmd.of r).op = op ∨ (op = 4 ∧ ((Cmd.of r).op = 0 ∨ 4 < (Cmd.of r).op))) : x.runOp cfg u op = x.runCmd cfg u r := by
  simp only [ExtSt.runOp, hfront, if_pos h]

theorem ExtSt.partialPort_of_command (x : ExtSt) {u : Nat} {r : Bytes} {rest : List ReqKind}
    (hq : (x.chan u).queue = .command r :: rest) : x.partialPort u = x := by
  simp only [ExtSt.partialPort, hq]

/-- A partial write of a command port is refused, and leaves the unit without a command to run. -/
theorem ExtSt.fence_partial (x : ExtSt) (cfg : ChipCfg) {u : Nat} (hq : (x.chan u).queue = [.badPort]) :
    (x.partialPort u).runOp cfg u 4 = ((x.unqueue u 0).onChan u fun k => { k with
      faults := satAdd 16 k.faults 1, faultCode := 7, faultOp := 0, faultLabel := 0, cmds := k.cmds + 1 }).line (256 + u) := by
  simp only [ExtSt.partialPort, hq]
  simp only [ExtSt.runOp, ExtSt.frontCmd, ExtSt.chan_line, ExtSt.chan_onChan_self, ExtSt.unqueue, hq]
  rfl

/-- The oldest command that has run, completed on a sound stack. -/
theorem ExtSt.complete_oldest (x : ExtSt) {u : Nat} {d : CmdDone} {rest : List CmdDone} (hr : (x.chan u).running = d :: rest)
    (hf : x.isFenced u = false) : ∃ y ob units, x.complete u = { y with ob := ob, units := units } ∧
      ob.tokens = x.ob.tokens ++ d.token.toList ∧ units = x.units ++ d.token.toList.map (fun _ => u) ∧
      ((d.status = none ∧ y = x.onChan u fun k => { k with running := rest, cmds := k.cmds + 1 }) ∨
        ∃ l bs, d.status = some (l, bs) ∧
          y = (x.onChan u fun k => { k with running := rest, cmds := k.cmds + 1 }).writeBytes u (plainBytes l bs)) := by
  have hf' : (x.onChan u fun k => { k with running := rest, cmds := k.cmds + 1 }).isFenced u = false := hf
  obtain ⟨status, token⟩ := d
  simp only [ExtSt.complete, hr]
  rcases status with _ | ⟨l, bs⟩ <;> rcases token with _ | ⟨c, p⟩ <;> simp only [hf', Bool.false_eq_true, if_false]
  · exact ⟨_, _, _, rfl, (List.append_nil _).symm, (List.append_nil _).symm, .inl ⟨trivial, rfl⟩⟩
  · exact ⟨_, _, _, rfl, rfl, rfl, .inl ⟨trivial, rfl⟩⟩
  · exact ⟨_, _, _, rfl, (List.append_nil _).symm, (List.append_nil _).symm, .inr ⟨l, bs, rfl, rfl⟩⟩
  · exact ⟨_, _, _, rfl, rfl, rfl, .inr ⟨l, bs, rfl, rfl⟩⟩

/-! ### Fold requests (R319) -/

theorem ExtSt.stored_readSectors (x : ExtSt) (c : Nat) (secs : List Nat) (us : List Upset) : x.Stored (x.readSectors c secs us) := by
  induction secs generalizing x us with
  | nil => exact .refl x
  | cons sec t ih =>
    have hup : ∀ u, x.Stored (x.upset c sec u) := fun u => by
      cases u
      · exact .refl x
      · simp only [ExtSt.upset]
        split <;> exact ExtSt.stored_of_chans rfl rfl
      · exact ExtSt.stored_of_chans rfl rfl
    exact ((hup _).trans (ExtSt.stored_noteRead _ c sec)).trans (ih _ _)

theorem poisoned_sector (x : ExtSt) (c a : Nat) : x.poisoned c (32 * (a / 32)) = x.poisoned c a := by
  have h : memKey c (32 * (a / 32)) / 32 = memKey c a / 32 := by simp only [memKey]; omega
  rw [ExtSt.poisoned, ExtSt.poisoned, h]

theorem mem_plainBytes {l : Nat} {bs : Bytes} {p : Nat × Byte × Byte} (h : p ∈ plainBytes l bs) : ∃ i, i < bs.length ∧ p.1 = l + i := by
  obtain ⟨q, hq, rfl⟩ := List.mem_map.mp h
  exact ⟨q.2, by have := List.snd_lt_of_mem_zipIdx hq; omega, rfl⟩

theorem mem_sectorsOf_plain {l : Nat} {bs : Bytes} {sec : Nat} (h : sec ∈ sectorsOf (plainBytes l bs)) :
    ∃ i, i < bs.length ∧ sec = (l + i) / 32 := by
  obtain ⟨p, hp, rfl⟩ := List.mem_map.mp (List.mem_eraseDups.mp h)
  obtain ⟨i, hi, hpi⟩ := mem_plainBytes hp
  exact ⟨i, hi, by rw [hpi]⟩

theorem plainBytes_values (l : Nat) (bs : Bytes) : (plainBytes l bs).map (fun b => b.2.2) = bs := by
  simp [plainBytes, Function.comp_def]

/-- One element in a good place, folded into the bytes there. -/
theorem ExtSt.foldOne_value (x : ExtSt) {c op ffmt fmt l src n : Nat} (hop : op ≠ 5) (hn : foldBytes (foldOfOp op) fmt = n)
    (hpos : 0 < n) (hgood : ∀ i, i < n → x.poisoned c (l + i) = false) : x.foldOne c op ffmt fmt l src =
      x.writeBytes c (plainBytes l (leBytes n (foldElem (foldOfOp op) fmt ffmt (leNat (x.peek c l n)) src).1)) := by
  have hbad : ((List.range (max 1 (n / 32))).any fun i => x.poisoned c (l + 32 * i)) = false := by
    rw [List.any_eq_false]
    intro i hi
    rw [hgood (32 * i) (by rw [List.mem_range] at hi; omega)]
    nofun
  simp only [ExtSt.foldOne, if_neg hop, hn, hbad, Bool.false_eq_true, if_false]

/-- A trailer in a good sector, combined with the one that stands there. -/
theorem ExtSt.foldOne_trailer (x : ExtSt) {c ffmt fmt l src : Nat} (hgood : x.poisoned c l = false) : x.foldOne c 5 ffmt fmt l src =
    x.writeBytes c (plainBytes l (leBytes 32 (if trlMatch src (leNat (x.peek c l 8)) then trlCombine src (leNat (x.peek c l 8)) false
      else trlFmt (leNat (x.peek c l 8))))) := by
  simp only [ExtSt.foldOne, if_true, hgood, Bool.false_eq_true, if_false]

/-- The one element of a request of its size. -/
theorem foldParts_value {op fmt l : Nat} {src : Bytes} (hop : op ≠ 5) (hn : src.length = foldBytes (foldOfOp op) fmt) (hpos : 0 < src.length) :
    foldParts op fmt (plainBytes l src) = [(l, leNat src)] := by
  have hlen : (plainBytes l src).length = src.length := by simp [plainBytes]
  have hhead : ((plainBytes l src).head?.map (·.1)).getD 0 = l := by
    match src, hpos with
    | b :: t, _ => rw [plainBytes_cons]; rfl
  simp only [foldParts, if_neg hop, hlen, ← hn, Nat.div_self hpos, List.range_one, List.map_cons, List.map_nil, Nat.zero_mul,
    List.drop_zero, List.take_of_length_le (Nat.le_of_eq hlen), hhead, plainBytes_values]

theorem eraseDups_replicate (n a : Nat) : (List.replicate (n + 1) a).eraseDups = [a] := by
  rw [List.replicate_succ, List.eraseDups_cons]
  simp

/-- Looking up a byte of a plain request by its place. -/
theorem find_plainBytes (l i : Nat) (src : Bytes) : (((plainBytes l src).reverse.find? fun b => b.1 == l + i).map fun b => b.2.2) = src[i]? := by
  induction src generalizing l i with
  | nil => rfl
  | cons b t ih =>
    rw [plainBytes_cons, List.reverse_cons, List.find?_append]
    rcases i with _ | j
    · have hnone : ((plainBytes (l + 1) t).reverse.find? fun b => b.1 == l + 0) = none := by
        rw [List.find?_eq_none]
        intro p hp
        obtain ⟨k, -, hk⟩ := mem_plainBytes (List.mem_reverse.mp hp)
        simp [hk]
        omega
      rw [hnone]
      simp
    · have hj := ih (l + 1) j
      rw [show l + (j + 1) = l + 1 + j by omega]
      cases hfind : (plainBytes (l + 1) t).reverse.find? fun b => b.1 == l + 1 + j with
      | some p =>
        rw [hfind] at hj
        simpa using hj
      | none =>
        rw [hfind] at hj
        have hne : ¬ l = l + 1 + j := by omega
        simpa [hne] using hj

/-- The one trailer of a request of a whole sector. -/
theorem foldParts_trailer {fmt l : Nat} {src : Bytes} (hlen : src.length = 32) (hl : l % 32 = 0) :
    foldParts 5 fmt (plainBytes l src) = [(l, leAt src 0 8)] := by
  have hsec : sectorsOf (plainBytes l src) = [l / 32] := by
    have hmap : (plainBytes l src).map (fun b => b.1 / 32) = List.replicate (31 + 1) (l / 32) := by
      rw [List.eq_replicate_iff]
      refine ⟨by simp [plainBytes, hlen], fun x hx => ?_⟩
      obtain ⟨p, hp, rfl⟩ := List.mem_map.mp hx
      obtain ⟨i, hi, hpi⟩ := mem_plainBytes hp
      omega
    rw [sectorsOf, hmap, eraseDups_replicate]
  have hback : 32 * (l / 32) = l := by omega
  have hvals : ((List.range 8).map fun i => (((plainBytes l src).reverse.find? fun b => b.1 == l + i).map fun b => b.2.2).getD 0) =
      src.take 8 := by
    simp only [find_plainBytes]
    refine List.ext_getElem (by simp [hlen]) fun i h1 h2 => ?_
    simp only [List.length_map, List.length_range] at h1
    simp [hlen, show i < 32 by omega]
  simp only [foldParts, if_true, hsec, List.map_cons, List.map_nil, hback, hvals, leAt, List.drop_zero]

/-- A fold request of one element in good sectors. -/
theorem ExtSt.foldWrite_one (x : ExtSt) {c op ffmt fmt l v : Nat} {bs : List (Nat × Byte × Byte)}
    (hsuit : foldSuits op ffmt fmt bs = true) (hparts : foldParts op fmt bs = [(l, v)])
    (hgood : ∀ sec ∈ sectorsOf bs, x.poisoned c (32 * sec) = false) : x.foldWrite c op ffmt fmt bs [] =
      (((x.readSectors c (sectorsOf bs) []).foldOne c op ffmt fmt l v).freshen c (wholeSectors bs)).onChan c fun k =>
        { k with folds := k.folds + 1 } := by
  have hpois : ((sectorsOf bs).any fun sec => (x.readSectors c (sectorsOf bs) []).poisoned c (32 * sec)) = false := by
    rw [List.any_eq_false]
    intro sec hsec
    rw [ExtSt.poisoned, ExtSt.readSectors_bad, ← ExtSt.poisoned, hgood sec hsec]
    nofun
  simp only [ExtSt.foldWrite, hsuit, hparts, hpois, Bool.not_true, Bool.false_eq_true, if_false, List.foldl_cons, List.foldl_nil]

theorem ExtSt.foldFront_served (x : ExtSt) {u op ffmt fmt : Nat} {bs : List (Nat × Byte × Byte)} {rest : List ReqKind}
    (us : List Upset) (hq : (x.chan u).queue = .fold op ffmt fmt bs :: rest) (hf : x.isFenced u = false)
    (hmay : mayServe (x.chan u).running (x.chan u).queue 0 = true) :
    x.foldFront u us = ((x.unqueue u 0).fresh u).foldWrite u op ffmt fmt bs us := by
  have hserve : x.serveAt u 0 us = (x.unqueue u 0).serve u (.fold op ffmt fmt bs) us :=
    x.serveAt_served us (by rw [hq]; rfl) hmay rfl
  have hf' : ((x.unqueue u 0).onChan u fun k => { k with attempts := 0 }).isFenced u = false := hf
  simp only [ExtSt.foldFront, hq, hserve, ExtSt.serve, hf', Bool.false_eq_true, if_false]
  rfl

/-- Settles O30: fold requests, then commands refused and accepted, and their completion. -/
theorem creamery : Obligations.Creamery := by
  intro s u
  refine ⟨fun op ffmt fmt bs rest hq hf hmay => ⟨fun hsuit found => ?dropped, fun l src hwf hsuit hbs hpos hgood hlen htrail hop => ?folded⟩,
    fun r rest hq hfront => ⟨?reserved, ?ops⟩, fun hq => ?port, fun hr => ?idle, fun d rest hr hf => ?complete⟩
  case dropped =>
    refine ⟨_, rfl, rfl, ?_⟩
    dsimp only
    rw [s.ext.foldFront_served found hq hf hmay, ExtSt.foldWrite, hsuit, Bool.not_false, if_pos rfl]
    refine ⟨rfl, List.mem_append_right _ (List.mem_singleton_self _), ?_⟩
    simp only [ExtSt.chan_line, ExtSt.chan_onChan_self, ExtSt.fresh, ExtSt.unqueue, hq]
    rfl
  case folded =>
    subst hbs
    obtain ⟨x0, hx0⟩ : ∃ x0, (s.ext.unqueue u 0).fresh u = x0 := ⟨_, rfl⟩
    have hmem : x0.mem = s.ext.mem := by rw [← hx0]; rfl
    have hbad : ∀ a, x0.poisoned u a = s.ext.poisoned u a := fun a => by rw [← hx0]; rfl
    have hread := x0.readIn_readSectors u (sectorsOf (plainBytes l src)) []
    have hstored := x0.stored_readSectors u (sectorsOf (plainBytes l src)) []
    have hgood1 : ∀ i, i < src.length → (x0.readSectors u (sectorsOf (plainBytes l src)) []).poisoned u (l + i) = false := fun i hi => by
      rw [ExtSt.poisoned, ExtSt.readSectors_bad, ← ExtSt.poisoned, hbad, hgood i hi]
    have hsectors : ∀ sec ∈ sectorsOf (plainBytes l src), x0.poisoned u (32 * sec) = false := fun sec hsec => by
      obtain ⟨i, hi, rfl⟩ := mem_sectorsOf_plain hsec
      rw [poisoned_sector, hbad, hgood i hi]
    -- either kind of request has one part, whose bytes it replaces
    have hone : ∃ v bs, foldParts op fmt (plainBytes l src) = [(l, v)] ∧ bs.length = src.length ∧
        (x0.readSectors u (sectorsOf (plainBytes l src)) []).foldOne u op ffmt fmt l v =
          (x0.readSectors u (sectorsOf (plainBytes l src)) []).writeBytes u (plainBytes l bs) ∧
        (op < 5 → bs = leBytes src.length (foldElem (foldOfOp op) fmt ffmt (leNat (s.ext.peek u l src.length)) (leNat src)).1) ∧
        (op = 5 → bs = leBytes 32 (if trlMatch (leAt src 0 8) (leNat (s.ext.peek u l 8)) then
          trlCombine (leAt src 0 8) (leNat (s.ext.peek u l 8)) false else trlFmt (leNat (s.ext.peek u l 8)))) := by
      have hpeek : ∀ n, (x0.readSectors u (sectorsOf (plainBytes l src)) []).peek u l n = s.ext.peek u l n := fun n => by
        rw [ExtSt.peek, hread.mem, hmem]; rfl
      rcases Nat.lt_or_eq_of_le hop with h5 | rfl
      · have hne : op ≠ 5 := Nat.ne_of_lt h5
        refine ⟨_, _, foldParts_value hne (hlen h5) hpos, length_leBytes _ _,
          ExtSt.foldOne_value _ hne (hlen h5).symm hpos hgood1, fun _ => by rw [hpeek], fun h => absurd h hne⟩
      · obtain ⟨h32, hl⟩ := htrail rfl
        refine ⟨_, _, foldParts_trailer h32 hl, (length_leBytes _ _).trans h32.symm,
          ExtSt.foldOne_trailer _ (hgood1 0 hpos), fun h => absurd h (by omega), fun _ => by rw [hpeek]⟩
    obtain ⟨v, bs, hparts, hbslen, hfold, hvalue, htrailer⟩ := hone
    have hwrite := (x0.readSectors u (sectorsOf (plainBytes l src)) []).stored_writeBytes u (plainBytes l bs)
    obtain ⟨-, hchan⟩ := hstored.trans hwrite
    obtain ⟨_, _, _, _, _, hu⟩ := hchan u
    have hk : x0.chan u = { s.ext.chan u with queue := rest, attempts := 0 } := by
      rw [← hx0, ExtSt.fresh, ExtSt.chan_onChan_self, ExtSt.unqueue, ExtSt.chan_onChan_self, hq]
      rfl
    refine ⟨_, rfl, rfl, ?_⟩
    dsimp only
    rw [s.ext.foldFront_served [] hq hf hmay, hx0, x0.foldWrite_one hsuit hparts hsectors, hfold]
    have hbytes : ((x0.readSectors u (sectorsOf (plainBytes l src)) []).writeBytes u (plainBytes l bs)).mem =
        s.ext.mem.write (memKey u l) bs := by
      rw [ExtSt.writeBytes_plain, hread.mem, hmem]
    generalize (x0.readSectors u (sectorsOf (plainBytes l src)) []).writeBytes u (plainBytes l bs) = y at hu hbytes ⊢
    have hself : y.mem.read (memKey u l) bs.length = bs := by rw [hbytes]; exact Mem.read_write_self hwf _ bs
    refine ⟨fun h5 => ?_, fun h5 => ?_, fun a ha => ?_, ?_⟩
    · rw [← hvalue h5, ← hbslen]
      exact hself
    · have h32 : bs.length = 32 := hbslen.trans (htrail h5).1
      rw [← htrailer h5]
      rw [h32] at hself
      exact hself
    · show y.mem.get a = _
      rw [hbytes, Mem.get_write hwf, if_neg (by omega)]
    · rw [ExtSt.chan_onChan_self, show (y.freshen u _).chan u = y.chan u from rfl, hu, hk]
      exact ⟨rfl, rfl, rfl⟩
  case reserved =>
    intro hop
    have hfence : (s.ext.partialPort u).runOp s.chip u 4 = s.ext.runCmd s.chip u r := by
      rw [s.ext.partialPort_of_command hq, s.ext.runOp_front hfront (.inr ⟨rfl, hop⟩)]
    refine ⟨_, rfl, rfl, ?_⟩
    dsimp only
    rw [hfence]
    exact s.ext.runCmd_refused hq rfl (Cmd.check_reserved _ _ _ hop)
  case ops =>
    intro p hp hop
    have hexec : exec p.1 s = .next { s with ext := s.ext.runCmd s.chip u r } := by
      have hrow : exec p.1 s = .next { s with ext := s.ext.runOp s.chip u p.2 } := by
        fin_cases hp
        · rfl
        · rfl
        · rfl
        · exact congrArg (fun x => Host.Outcome.next { s with ext := ExtSt.runOp x s.chip u 4 }) (s.ext.partialPort_of_command hq)
      rw [hrow, s.ext.runOp_front hfront (.inl hop)]
    refine ⟨fun hcode => ?_, fun hcode => ?_⟩
    · exact ⟨_, hexec, rfl, s.ext.runCmd_refused hq rfl hcode⟩
    · obtain ⟨q, hdone⟩ : ∃ q, (Cmd.of r).done (s.ext.unqueue u 0) s.chip (((s.chip.arenaOf (Cmd.of r).src).map (·.2)).getD Arena.absent)
        (((((s.chip.arenaOf (Cmd.of r).src).map (·.2)).getD Arena.absent).setIndex u).getD 0) = q := ⟨_, rfl⟩
      obtain ⟨d, hrun, htok, hstatus⟩ := s.ext.runCmd_accepted hcode rfl hdone
      have hun : (s.ext.unqueue u 0).chan u = { s.ext.chan u with queue := rest, attempts := 0 } :=
        (s.ext.chan_onChan_self u _).trans (by rw [hq]; rfl)
      obtain ⟨hresp, hchan⟩ := hdone ▸ (Cmd.of r).stored_done (s.ext.unqueue u 0) s.chip _ _
      obtain ⟨_, _, _, _, _, hu⟩ := hchan u
      refine ⟨_, d, hexec, rfl, ?_⟩
      dsimp only
      rw [hrun, ExtSt.chan_onChan_self]
      rw [hu, hun] at hstatus ⊢
      have hfour : ∀ {n}, (Cmd.of r).op = n → n ≠ 4 → ¬ (Cmd.of r).op = 4 := fun h hn h4 => hn (h ▸ h4)
      refine ⟨rfl, rfl, htok, rfl, rfl, hresp, ⟨fun h => ?_, fun h => ?_, fun h => ?_⟩, fun h => ?_⟩
      · rw [if_neg (hfour h (by omega))] at hstatus
        obtain rfl := (Cmd.done_gather h _ _ _ _).symm.trans hdone
        exact ⟨rfl, hstatus⟩
      · rw [if_neg (hfour h (by omega))] at hstatus
        obtain rfl := (Cmd.done_reduce h _ _ _ _).symm.trans hdone
        exact ⟨rfl, hstatus⟩
      · rw [if_neg (hfour h (by omega))] at hstatus
        obtain rfl := (Cmd.done_scaleStore h _ _ _ _).symm.trans hdone
        exact ⟨rfl, hstatus⟩
      · rw [if_pos h] at hstatus ⊢
        obtain rfl := (Cmd.done_fence h _ _ _ _).symm.trans hdone
        exact ⟨rfl, rfl, hstatus⟩
  case port =>
    refine ⟨_, rfl, rfl, ?_⟩
    dsimp only
    rw [s.ext.fence_partial s.chip hq]
    refine ⟨rfl, List.mem_append_right _ (List.mem_singleton_self _), ?_⟩
    simp only [ExtSt.chan_line, ExtSt.chan_onChan_self, ExtSt.unqueue, hq]
    rfl
  case idle =>
    refine congrArg Host.Outcome.next ?_
    rw [show s.ext.complete u = s.ext by simp only [ExtSt.complete, hr]]
  case complete =>
    obtain ⟨y, ob, units, hc, htok, hunits, hy⟩ := s.ext.complete_oldest hr hf
    refine ⟨_, rfl, rfl, ?_⟩
    dsimp only
    rw [hc]
    have hchan : ∀ ob units, ({ y with ob := ob, units := units } : ExtSt).chan u = y.chan u := fun _ _ => rfl
    rw [hchan]
    rcases hy with ⟨hd, rfl⟩ | ⟨l, bs, hd, rfl⟩
    · rw [ExtSt.chan_onChan_self]
      exact ⟨rfl, rfl, rfl, fun l bs _ h => absurd (hd.symm.trans h) nofun, fun _ => rfl, htok, hunits⟩
    · obtain ⟨-, hch⟩ := (s.ext.onChan u fun k => { k with running := rest, cmds := k.cmds + 1 }).stored_writeBytes u (plainBytes l bs)
      obtain ⟨_, _, _, _, _, hu⟩ := hch u
      rw [hu, ExtSt.chan_onChan_self]
      refine ⟨rfl, rfl, rfl, fun l' bs' hwf h => ?_, fun h => absurd (hd.symm.trans h) nofun, htok, hunits⟩
      obtain ⟨rfl, rfl⟩ := Prod.mk.inj (Option.some.inj (hd.symm.trans h))
      have hmem := (s.ext.onChan u fun k => { k with running := rest, cmds := k.cmds + 1 }).writeBytes_plain u l bs
      refine ⟨?_, fun a ha => ?_⟩
      · rw [ExtSt.peek, hmem]
        exact Mem.read_write_self hwf _ bs
      · rw [hmem]
        exact (Mem.get_write hwf _ a bs).trans (if_neg (by omega))

end Sys2Proof.Machine
end
section
/-! Rings, doorbells, events and messages of the host interface (O39, O40). -/

namespace Sys2Proof.Machine

/-! ### Configuration words of rings -/

theorem HostSt.onRing_congr (h : HostSt) {g : Nat} {f f' : Ring → Ring} (e : f (h.ring g) = f' (h.ring g)) :
    h.onRing g f = h.onRing g f' := by simp only [HostSt.onRing, e]

theorem sqWord_fields (on : Bool) {cls cq z : Nat} (hc : cls < 4) (hq : cq < 16384) (hz : z ≤ 12) :
    let v := fld (b2n on) 1 63 + fld cls 2 61 + fld cq 14 20 + fld z 4 16
    bit v 63 = on ∧ bits v 62 61 = cls ∧ bits v 33 20 = cq ∧ bits v 19 16 = z := by
  cases on <;>
    simp only [bit, bits, fld, b2n, Nat.shiftLeft_eq, Nat.shiftRight_eq_div_pow, Nat.testBit_eq_decide_div_mod_eq, decide_eq_true_eq,
      decide_eq_false_iff_not, if_true, Bool.false_eq_true, if_false] <;> omega

theorem cqWord_fields (on irq : Bool) {vec co z : Nat} (hv : vec < 2048) (hc : co < 256) (hz : z ≤ 12) :
    let v := fld (b2n on) 1 63 + fld (b2n irq) 1 61 + fld vec 11 50 + fld co 8 42 + fld z 4 32
    bit v 63 = on ∧ bit v 61 = irq ∧ bits v 60 50 = vec ∧ bits v 49 42 = co ∧ bits v 35 32 = z := by
  cases on <;> cases irq <;>
    simp only [bit, bits, fld, b2n, Nat.shiftLeft_eq, Nat.shiftRight_eq_div_pow, Nat.testBit_eq_decide_div_mod_eq, decide_eq_true_eq,
      decide_eq_false_iff_not, if_true, Bool.false_eq_true, if_false] <;> omega

theorem sizeCode_small (old : Nat) {z : Nat} (h : z ≤ 12) : sizeCode old z = z := if_neg (by omega)

section
variable {h : HostSt} {fn g : Nat}

theorem HostSt.sqEnable_starts (hc : (h.ring g).cls < 4) (hq : (h.ring g).cq < 16384) (hz : (h.ring g).sqLog ≤ 12)
    (hg : (h.global fn (h.ring g).cq).isSome = true) (hoff : (h.ring g).sqEn = false) :
    h.sqEnable fn g true = h.onRing g fun r => { r with sqEn := true, head := 0, tail := 0 } := by
  obtain ⟨hon, hcls, hcq, hlog⟩ := sqWord_fields true hc hq hz
  rw [HostSt.sqEnable, HostSt.writeSqCfg]
  simp only [hon, hcls, hcq, hlog, Option.isNone_iff_eq_none, Option.isSome_iff_ne_none.mp hg, hoff, if_false, if_true,
    Bool.false_eq_true]
  exact h.onRing_congr (by rw [sizeCode_small _ hz])

theorem HostSt.sqEnable_stops (hc : (h.ring g).cls < 4) (hq : (h.ring g).cq < 16384) (hz : (h.ring g).sqLog ≤ 12)
    (hg : (h.global fn (h.ring g).cq).isSome = true) (hon : (h.ring g).sqEn = true) :
    h.sqEnable fn g false = h.onRing g fun r => { r with sqEn := false } := by
  obtain ⟨hoff, -, hcq, -⟩ := sqWord_fields false hc hq hz
  rw [HostSt.sqEnable, HostSt.writeSqCfg]
  simp only [hoff, hcq, Option.isNone_iff_eq_none, Option.isSome_iff_ne_none.mp hg, hon, if_false, if_true, Bool.false_eq_true]

theorem HostSt.cqEnable_starts (hv : (h.ring g).vector < if fn = 0 then 2048 else 64) (hc : (h.ring g).coalesce < 256)
    (hz : (h.ring g).cqLog ≤ 12) (hoff : (h.ring g).cqEn = false) :
    h.cqEnable fn g true = h.onRing g fun r => { r with
      cqEn := true, cqHead := 0, cqTail := 0, phase := true, unsignalled := 0 } := by
  obtain ⟨hon, hirq, hvec, hco, hlog⟩ := cqWord_fields true (h.ring g).irqEn (vec := (h.ring g).vector) (by split at hv <;> omega) hc hz
  rw [HostSt.cqEnable, HostSt.writeCqCfg]
  simp only [hon, hirq, hvec, hco, hlog, if_neg (Nat.not_le.mpr hv), hoff, if_false, if_true, Bool.false_eq_true]
  exact h.onRing_congr (by rw [sizeCode_small _ hz])

theorem HostSt.cqEnable_stops (hv : (h.ring g).vector < if fn = 0 then 2048 else 64) (hc : (h.ring g).coalesce < 256)
    (hz : (h.ring g).cqLog ≤ 12) (hon : (h.ring g).cqEn = true) :
    h.cqEnable fn g false = h.onRing g fun r => { r with cqEn := false } := by
  obtain ⟨hoff, -, hvec, -, -⟩ := cqWord_fields false (h.ring g).irqEn (vec := (h.ring g).vector) (by split at hv <;> omega) hc hz
  rw [HostSt.cqEnable, HostSt.writeCqCfg]
  simp only [hoff, hvec, if_neg (Nat.not_le.mpr hv), hon, if_false, if_true, Bool.false_eq_true]

end

/-! ### Doorbells -/

section
variable {h : HostSt} {fn j g : Nat}

theorem HostSt.sqDoorbell_not_owned (v : Nat) (hg : h.global fn j = none) : h.sqDoorbell fn j v = h.dbIgnored fn := by
  simp only [HostSt.sqDoorbell, hg]

theorem HostSt.cqDoorbell_not_owned (v : Nat) (hg : h.global fn j = none) : h.cqDoorbell fn j v = h.dbIgnored fn := by
  simp only [HostSt.cqDoorbell, hg]

theorem HostSt.sqDoorbell_inside {v : Nat} (hg : h.global fn j = some g) (he : (h.ring g).sqEn = true)
    (hv : v % 65536 < ringSize (h.ring g).sqLog) : h.sqDoorbell fn j v = h.onRing g fun r => { r with tail := v % 65536 } := by
  simp only [HostSt.sqDoorbell, hg, he, Nat.not_le.mpr hv, Bool.not_true, Bool.false_eq_true, or_self, if_false]

theorem HostSt.cqDoorbell_inside {v : Nat} (hg : h.global fn j = some g) (he : (h.ring g).cqEn = true)
    (hv : v % 65536 < ringSize (h.ring g).cqLog) : h.cqDoorbell fn j v = h.onRing g fun r => { r with cqHead := v % 65536 } := by
  simp only [HostSt.cqDoorbell, hg, he, Nat.not_le.mpr hv, Bool.not_true, Bool.false_eq_true, or_self, if_false]

theorem HostSt.sqDoorbell_ignored {v : Nat} (hg : h.global fn j = some g)
    (hv : (h.ring g).sqEn = false ∨ ringSize (h.ring g).sqLog ≤ v % 65536) : h.sqDoorbell fn j v = h.dbIgnored fn := by
  simp only [HostSt.sqDoorbell, hg]
  exact if_pos (hv.imp_left fun he => by rw [he]; rfl)

theorem HostSt.cqDoorbell_ignored {v : Nat} (hg : h.global fn j = some g)
    (hv : (h.ring g).cqEn = false ∨ ringSize (h.ring g).cqLog ≤ v % 65536) : h.cqDoorbell fn j v = h.dbIgnored fn := by
  simp only [HostSt.cqDoorbell, hg]
  exact if_pos (hv.imp_left fun he => by rw [he]; rfl)

end

/-- A doorbell reaches the interface of a module that is on, and raises source 1 in P2 and P3. -/
theorem State.doorbell_on {s : State} (hon : s.on = true) (f : HostSt → HostSt) :
    s.doorbell f = .next { s with host := f s.host, pwr := if s.pwr.state = 2 ∨ s.pwr.state = 3 then s.pwr.line 1 else s.pwr } := by
  rw [State.doorbell, if_pos hon]

theorem State.onHost_on {s : State} (hon : s.on = true) (f : HostSt → HostSt) : s.onHost f = .next { s with host := f s.host } := by
  rw [State.onHost, if_pos hon]

/-- SQ_ENABLE of a ring that the function owns. -/
theorem State.sqEnable_owned {s : State} {fn : Fin 16} {q : Fin 16384} {g : Nat} (hon : s.on = true) (hg : s.host.global fn q = some g)
    (on : Bool) : exec (.sqEnable fn q on) s = .next { s with host := s.host.sqEnable fn g on } := by
  show execSqEnable fn q on s = _
  simp only [execSqEnable, State.onHost_on hon, hg]

/-- CQ_ENABLE of a ring that the function owns. -/
theorem State.cqEnable_owned {s : State} {fn : Fin 16} {q : Fin 16384} {g : Nat} (hon : s.on = true) (hg : s.host.global fn q = some g)
    (on : Bool) : exec (.cqEnable fn q on) s = .next { s with host := s.host.cqEnable fn g on } := by
  show execCqEnable fn q on s = _
  simp only [execCqEnable, State.onHost_on hon, hg]

/-- Settles O39. -/
theorem ringsAndDoorbells : Obligations.RingsAndDoorbells := by
  intro s fn q hon h rung ignored
  have sq : ∀ (val : BitVec 32) (h' : HostSt), h.sqDoorbell fn q val.toNat = h' → exec (.sqTailDoorbell fn q val) s = .next (rung h') :=
    fun val h' e => e ▸ s.doorbell_on hon fun h => h.sqDoorbell fn q val.toNat
  have cq : ∀ (val : BitVec 32) (h' : HostSt), h.cqDoorbell fn q val.toNat = h' → exec (.cqHeadDoorbell fn q val) s = .next (rung h') :=
    fun val h' e => e ▸ s.doorbell_on hon fun h => h.cqDoorbell fn q val.toNat
  refine ⟨fun hg => ⟨fun val => ⟨sq _ _ (h.sqDoorbell_not_owned _ hg), cq _ _ (h.cqDoorbell_not_owned _ hg)⟩, fun on => ?_⟩,
    fun g hg => ⟨fun val => ⟨fun he hv => sq _ _ (h.sqDoorbell_inside hg he hv), fun hv => sq _ _ (h.sqDoorbell_ignored hg hv),
      fun he hv => cq _ _ (h.cqDoorbell_inside hg he hv), fun hv => cq _ _ (h.cqDoorbell_ignored hg hv)⟩,
      fun hc hq hz hr => ?_, fun hv hc hz => ?_⟩⟩
  · show execSqEnable fn q on s = _ ∧ execCqEnable fn q on s = _
    simp only [execSqEnable, execCqEnable, State.onHost_on hon, show s.host.global fn q = none from hg, and_self]
  · rw [State.sqEnable_owned hon hg, State.sqEnable_owned hon hg]
    exact ⟨fun he => by rw [h.sqEnable_starts hc hq hz hr he], fun he => by rw [h.sqEnable_stops hc hq hz hr he]⟩
  · rw [State.cqEnable_owned hon hg, State.cqEnable_owned hon hg]
    exact ⟨fun he => by rw [h.cqEnable_starts hv hc hz he], fun he => by rw [h.cqEnable_stops hv hc hz he]⟩

/-! ### Messages and events (R462, R463) -/

@[simp] theorem HostSt.signal_ring (h : HostSt) (fn vec q : Nat) : (h.signal fn vec).ring q = h.ring q := by
  rw [HostSt.signal]
  split <;> rfl

@[simp] theorem HostSt.signal_events (h : HostSt) (fn vec : Nat) : (h.signal fn vec).events = h.events := by
  rw [HostSt.signal]
  split <;> rfl

theorem HostSt.signal_open {h : HostSt} {fn vec : Nat} (hm : (h.msixEntry (2048 * fn + vec)).getLsbD 96 = false) :
    h.signal fn vec = { h with out := h.out ++ [.msix fn vec] } := by
  simp only [HostSt.signal, hm, Bool.false_eq_true, if_false]

theorem HostSt.signal_masked {h : HostSt} {fn vec : Nat} (hm : (h.msixEntry (2048 * fn + vec)).getLsbD 96 = true) :
    (h.signal fn vec).out = h.out ∧ 2048 * fn + vec ∈ (h.signal fn vec).msixPend := by
  simp only [HostSt.signal, hm, if_true, true_and]
  split
  · next hc => exact List.contains_iff_mem.mp hc
  · simp

theorem HostSt.mem_signal_out {h : HostSt} {o : HostOut} (ho : o ∈ h.out) (fn vec : Nat) : o ∈ (h.signal fn vec).out := by
  rw [HostSt.signal]
  split
  · exact ho
  · exact List.mem_append_left _ ho

theorem HostSt.signalCq_ring_self (h : HostSt) (g : Nat) : (h.signalCq g).ring g = { h.ring g with unsignalled := 0 } := by
  simp only [HostSt.signalCq]
  split <;> simp

@[simp] theorem HostSt.signalCq_events (h : HostSt) (g : Nat) : (h.signalCq g).events = h.events := by
  simp only [HostSt.signalCq]
  split <;> simp

theorem HostSt.mem_signalCq_out {h : HostSt} {o : HostOut} (ho : o ∈ h.out) (g : Nat) : o ∈ (h.signalCq g).out := by
  simp only [HostSt.signalCq]
  split
  · exact HostSt.mem_signal_out (h := h.onRing g _) ho _ _
  · exact ho

/-- A record stands at TAIL of its ring, no message sent yet. -/
def HostSt.recorded (h : HostSt) (x : Record) : HostSt :=
  ({ h with out := h.out ++ [.write (h.owner x.cq) ((h.ring x.cq).cqBase.toNat * 64 + 32 * (h.ring x.cq).cqTail)
    (h.recordBytes x (h.ring x.cq).phase)] } : HostSt).onRing x.cq Ring.recorded

theorem HostSt.put_eq (h : HostSt) (x : Record) : h.put x =
    if (h.ring x.cq).irqEn = true ∧ (h.ring x.cq).coalesce + 1 ≤ ((h.recorded x).ring x.cq).unsignalled then
      (h.recorded x).signalCq x.cq
    else h.recorded x := rfl

theorem HostSt.recorded_ring_self (h : HostSt) (x : Record) : (h.recorded x).ring x.cq = (h.ring x.cq).recorded :=
  HostSt.ring_onRing_self ..

/-- Whether or not a message follows it, a record that is put stands in the host's memory, its ring's TAIL one further. -/
theorem HostSt.put_spec (h : HostSt) (x : Record) :
    (h.put x).events = h.events ∧ ((h.put x).ring x.cq).cqTail = ((h.ring x.cq).cqTail + 1) % ringSize (h.ring x.cq).cqLog ∧
    (.write (h.owner x.cq) ((h.ring x.cq).cqBase.toNat * 64 + 32 * (h.ring x.cq).cqTail) (h.recordBytes x (h.ring x.cq).phase)) ∈
      (h.put x).out := by
  have hout : (.write (h.owner x.cq) ((h.ring x.cq).cqBase.toNat * 64 + 32 * (h.ring x.cq).cqTail)
      (h.recordBytes x (h.ring x.cq).phase)) ∈ (h.recorded x).out := List.mem_append_right _ (List.mem_singleton_self _)
  rw [h.put_eq x]
  split
  · rw [HostSt.signalCq_events, HostSt.signalCq_ring_self, HostSt.recorded_ring_self]
    exact ⟨rfl, rfl, HostSt.mem_signalCq_out hout _⟩
  · rw [HostSt.recorded_ring_self]
    exact ⟨rfl, rfl, hout⟩

theorem HostSt.hold_of_room {h : HostSt} (hl : h.events.length < 256) (e : Nat × Nat × Nat) :
    h.hold e = { h with events := h.events ++ [e] } := if_neg (Nat.not_le.mpr hl)

theorem HostSt.hold_of_full {h : HostSt} (hl : 256 ≤ h.events.length) (e : Nat × Nat × Nat) :
    h.hold e = { h with evtLost := satAdd 16 h.evtLost 1 } := if_pos hl

theorem HostSt.writeEvent_off {h : HostSt} (he : h.evtEn = false) : h.writeEvent = h := by
  simp only [HostSt.writeEvent, he, Bool.false_eq_true, false_and, if_false]
  split <;> rfl

theorem HostSt.writeEvent_one {h : HostSt} {e : Nat × Nat × Nat} (hev : h.events = [e]) (he : h.evtEn = true)
    (hc : (h.ring h.evtCq).cqEn = true) (hf : (h.ring h.evtCq).cqFull = false) :
    h.writeEvent = ({ h with events := [] } : HostSt).put ⟨h.evtCq, e.1, 0xFFFF, none, 0, 0, e.2.1, e.2.2⟩ := by
  simp only [HostSt.writeEvent, hev, he, hc, hf, Bool.not_false, and_self, if_true]

theorem State.eventRecord_taken {s s1 : State} {src : Part} {e : Nat × Nat × Nat} (hon : s.on = true)
    (ht : s.takeEvent src = (some e, s1)) :
    exec (.eventRecord src) s = .next { s1 with host := (s1.host.hold e).writeEvent } := by
  show execEventRecord src s = _
  simp only [execEventRecord, hon, ht, Bool.not_true, Bool.false_eq_true, if_false]

/-- Settles O40. -/
theorem eventsAndMessages : Obligations.EventsAndMessages := by
  intro s hon
  refine ⟨fun e rest p hp hev => ?_, fun q => ?_⟩
  · have taken : s.takeEvent p.1 = (some e, p.2.2) ∧ p.2.2.host = s.host := by
      simp only [List.mem_cons, List.not_mem_nil, or_false] at hp
      rcases hp with rfl | rfl | rfl | rfl | rfl <;> dsimp only at hev ⊢ <;>
        simp only [State.takeEvent, hev, List.head?_cons, List.tail_cons, and_self]
    obtain ⟨ht, hh⟩ := taken
    rw [State.eventRecord_taken hon ht, hh]
    refine ⟨fun he hl => ?_, fun he hl => ?_, fun he hnone hc hf => ?_⟩
    · rw [HostSt.hold_of_room hl, HostSt.writeEvent_off]
      exact he
    · rw [HostSt.hold_of_full hl, HostSt.writeEvent_off]
      exact he
    · have hw : ({ s.host with events := [e] } : HostSt).writeEvent = _ := HostSt.writeEvent_one rfl he hc hf
      rw [HostSt.hold_of_room (by simp [hnone]), hnone, List.nil_append, hw]
      obtain ⟨hevs, htail, hout⟩ := HostSt.put_spec { s.host with events := [] }
        ⟨s.host.evtCq, e.1, 0xFFFF, none, 0, 0, e.2.1, e.2.2⟩
      exact ⟨_, rfl, rfl, hevs, htail, hout⟩
  · have hx : exec (.msixCoalesceTimeout q) s = .next { s with host := s.host.coalesceTimeout q } := s.onHost_on hon _
    rw [hx]
    refine ⟨fun h0 => by rw [HostSt.coalesceTimeout, if_neg (by omega)], fun h0 => ⟨_, rfl, rfl, ?_⟩⟩
    dsimp only
    rw [HostSt.coalesceTimeout, if_pos h0]
    refine ⟨by rw [HostSt.signalCq_ring_self], fun hirq => ?_, fun hirq hm => ?_, fun hirq hm => ?_⟩
    · simp only [HostSt.signalCq, hirq, Bool.false_eq_true, if_false]
      exact ⟨rfl, rfl⟩
    · simp only [HostSt.signalCq, hirq, if_true]
      rw [HostSt.signal_open (h := s.host.onRing q _) hm]
      rfl
    · simp only [HostSt.signalCq, hirq, if_true]
      exact HostSt.signal_masked (h := s.host.onRing q _) hm

/-! ### Resets of a function (R452) -/

/-- A module that is on whose error table lists VF 1 twice, the second time with an error. -/
def twiceListed : State := { State.reset with
  host := { HostSt.reset with err := [(1, HifErr.zero), (1, { HifErr.zero with bad := 1 })] } }

/-- Refutes O41: of an error table that lists a function twice, which the statement allows, a Function Level Reset takes the first
entry alone, so that the second one is left where the statement says that nothing is counted. -/
theorem not_functionsAndResets : ¬ Obligations.FunctionsAndResets := by
  intro h
  obtain ⟨-, hflr, -⟩ := h twiceListed
  obtain ⟨t, ht, -, -, -, herr, -⟩ := hflr rfl 1 (by decide)
  have hx : exec (.functionLevelReset 1) twiceListed = .next { twiceListed with host := twiceListed.host.flr 1 } := rfl
  have he : t = { twiceListed with host := twiceListed.host.flr 1 } := Host.Outcome.next.inj (ht.symm.trans hx)
  have hone : (twiceListed.host.flr 1).err.get HifErr.zero 1 = { HifErr.zero with bad := 1 } := rfl
  rw [he] at herr
  exact absurd (hone.symm.trans herr) (by decide)

end Sys2Proof.Machine
end
section
/-! Host commands on the store, power and membership (O38). -/

namespace Sys2Proof.Machine

/-! ### What the end of a command leaves (R355, R455, R456) -/

/-- From `s` to `t` commands have ended and started: the host interface and the image state may be new. -/
def State.TellsHost (s t : State) : Prop := t = { s with host := t.host, img := t.img }

theorem State.TellsHost.trans {s t u : State} (h : s.TellsHost t) (g : t.TellsHost u) : s.TellsHost u := by
  rw [State.TellsHost] at h g ⊢
  rw [g, h]

theorem State.noteBusy_tellsHost (s : State) : s.TellsHost s.noteBusy := by
  rw [State.TellsHost, s.noteBusy_eq]

theorem State.answer_tellsHost (s : State) (id status detail r0 r1 : Nat) : s.TellsHost (s.answer id status detail r0 r1) := by
  have h : ∀ h h' : HostSt, s.TellsHost ({ ({ s with host := h } : State) with host := h' } : State).noteBusy := fun h h' => by
    rw [State.TellsHost, State.noteBusy_eq]
  exact h _ _

theorem State.answer_library (s : State) (id status detail r0 r1 : Nat) :
    (s.answer id status detail r0 r1).img.library = s.img.library := by
  simp only [State.answer, State.startAll, State.noteBusy_eq]
  split <;> rfl

theorem State.imgCode_tellsHost (s : State) (id code r0 : Nat) : s.TellsHost (s.imgCode id code r0) :=
  State.TellsHost.trans (t := { s with img := { s.img with code := code, section_ := 0xFFF, detail := 0 } }) rfl
    (State.answer_tellsHost ..)

theorem State.endLaunch_tellsHost (s : State) : s.TellsHost s.endLaunch := by
  rw [State.endLaunch]
  split
  · exact s.imgCode_tellsHost ..
  · rfl

theorem State.endStop_tellsHost (s : State) : s.TellsHost s.endStop := by
  rw [State.endStop]
  split
  · exact s.answer_tellsHost ..
  · rfl

theorem State.endLoad_tellsHost (s : State) : s.TellsHost s.endLoad := by
  rw [State.endLoad]
  split
  · exact s.imgCode_tellsHost ..
  · rfl

/-- The end of a run touches neither power nor telemetry. -/
theorem State.endRun_frame (s : State) : s.endRun.pwr = s.pwr ∧ s.endRun.tel = s.tel ∧ s.endRun.img.active = 0 := by
  have h : s.TellsHost s.endLaunch.endStop.endLoad :=
    s.endLaunch_tellsHost.trans ((State.endStop_tellsHost _).trans (State.endLoad_tellsHost _))
  rw [State.TellsHost] at h
  rw [s.endRun_eq, h]
  exact ⟨rfl, rfl, rfl⟩

/-! ### Power transitions (R503, R504) -/

theorem PwrSt.note_eq (p : PwrSt) (kind arg : Nat) :
    p.note kind arg = { p with audit := (p.note kind arg).audit, commits := (p.note kind arg).commits } := by
  simp only [PwrSt.note]
  split <;> rfl

/-- The start of a transition leaves the plane and memory; it ends a debug session towards P3 and P4 alone. -/
theorem State.powerStart_spec (s : State) (id t : Nat) :
    (s.powerStart id t).pwr.busy = true ∧ (s.powerStart id t).pwr.target = t ∧ (s.powerStart id t).pwr.state = s.pwr.state ∧
    (s.powerStart id t).pwr.powerCmd = some id ∧ (s.powerStart id t).host = { s.host with paused := false }.wait id ∧
    (s.powerStart id t).plane = s.plane ∧ (s.powerStart id t).ext = s.ext ∧ (t < 3 → (s.powerStart id t).sec = s.sec) := by
  have begun : ∃ u : State, s.powerStart id t = ({ u with
      pwr := { s.pwr with busy := true, target := t, powerCmd := some id }.note 4 t, host := { s.host with paused := false } } : State).hold id ∧
      u.plane = s.plane ∧ u.ext = s.ext ∧ (t < 3 → u.sec = s.sec) := by
    by_cases h : 3 ≤ t
    · simp only [State.powerStart, State.endSession, if_pos h]
      generalize (List.range 20).foldl _ s.icu = i
      exact ⟨{ s with sec := { s.sec with level := 0 }, icu := i }, rfl, rfl, rfl, fun h' => absurd h (by omega)⟩
    · simp only [State.powerStart, if_neg h]
      exact ⟨s, rfl, rfl, rfl, fun _ => rfl⟩
  obtain ⟨u, hu, hplane, hext, hsec⟩ := begun
  have hn := PwrSt.note_eq { s.pwr with busy := true, target := t, powerCmd := some id } 4 t
  revert hu hn
  generalize ({ s.pwr with busy := true, target := t, powerCmd := some id } : PwrSt).note 4 t = w
  intro hu hn
  rw [hu, hn]
  exact ⟨rfl, rfl, rfl, rfl, rfl, hplane, hext, hsec⟩

/-- Reaching a power state other than P4: in P3 the run ends. -/
theorem State.enter_spec (s : State) {t : Nat} (h : t < 4) :
    (s.enter t).pwr.state = t ∧ (s.enter t).pwr.busy = false ∧ (s.enter t).pwr.transitions = s.pwr.transitions + 1 ∧
    (s.enter t).sec = s.sec ∧ (s.enter t).tel = s.tel ∧ (t < 3 → (s.enter t).plane = s.plane) ∧
    (t = 3 → (s.enter t).img.active = 0) := by
  have h4 : t ≠ 4 := by omega
  by_cases h3 : t = 3
  · subst h3
    have ended : ∃ u : State, s.enter 3 = u.endRun ∧ u.sec = s.sec ∧ u.tel = s.tel ∧
        u.pwr = { s.pwr with state := 3, busy := false, target := 0, powerCmd := none, transitions := s.pwr.transitions + 1 } := by
      simp only [State.enter, if_neg h4, show ¬ (3 : Nat) ≤ 1 by decide, if_false, if_true]
      split <;> exact ⟨_, rfl, rfl, rfl, rfl⟩
    obtain ⟨u, hu, hsec, htel, hpwr⟩ := ended
    obtain ⟨hp, ht, ha⟩ := u.endRun_frame
    rw [hu, hp, ht, State.endRun_sec, hpwr]
    exact ⟨rfl, rfl, rfl, hsec, htel, fun h => absurd h (by decide), fun _ => ha⟩
  · by_cases h1 : t ≤ 1
    · simp only [State.enter, if_neg h4, if_pos h1]
      split <;> exact ⟨rfl, rfl, rfl, rfl, rfl, fun _ => rfl, fun h => absurd h h3⟩
    · simp only [State.enter, if_neg h4, if_neg h1, if_neg h3]
      split <;> exact ⟨rfl, rfl, rfl, rfl, rfl, fun _ => rfl, fun h => absurd h h3⟩

/-! ### The commands -/

theorem State.onCmd_ready {s : State} {op id : Nat} {c : HostCmd} (h : s.host.ready op id = some c) (f : HostCmd → State) :
    s.onCmd op id f = .next (f c) := by
  rw [State.onCmd, h]

theorem SupSt.extCode_invalid {u : SupSt} {e : Nat} (h : u.nextMap.invalid e = true) : u.extCode e = 0x85 := if_pos h

theorem SupSt.extCode_full {u : SupSt} {e : Nat} (h : u.nextMap.invalid e = false) (hl : 64 ≤ u.exts.length) : u.extCode e = 0x81 := by
  rw [SupSt.extCode, h, if_neg (by decide), if_pos hl]

theorem SupSt.extCode_room {u : SupSt} {e : Nat} (h : u.nextMap.invalid e = false) (hl : u.exts.length < 64) : u.extCode e = 0 := by
  rw [SupSt.extCode, h, if_neg (by decide), if_neg (by omega)]

/-- A transition to P4 ends with its command's record written and the module off. -/
theorem State.powerDown_spec (s : State) {id : Nat} (hb : s.pwr.busy = true) (hc : s.pwr.powerCmd = some id) (h4 : s.pwr.target = 4) :
    ∃ t, exec .powerTransitionEnd s = .next t ∧ t.pwr.state = 4 ∧ t.on = false ∧
      t.plane.sites = [] ∧ t.ext.mem = [] ∧ t.img = { ImgSt.reset with library := s.img.library } ∧ t.link = LinkSt.reset ∧
      t.herd = HerdSt.reset ∧ t.sup.exts = s.sup.exts ∧ t.pwr.journal = s.pwr.journal := by
  have hlib := s.answer_library id 0 0 0 0
  have hframe := s.answer_tellsHost id 0 0 0 0
  have hx : exec .powerTransitionEnd s = .next (({ s.answer id 0 0 0 0 with
      host := (List.range (s.answer id 0 0 0 0).host.records.length).foldl (fun (h : HostSt) _ => h.writeRecord)
        (s.answer id 0 0 0 0).host } : State).enter 4) := by
    show execPowerTransitionEnd s = _
    simp only [execPowerTransitionEnd, hb, hc, h4, if_true]
  revert hlib hframe hx
  generalize s.answer id 0 0 0 0 = a
  generalize (List.range a.host.records.length).foldl (fun (h : HostSt) _ => h.writeRecord) a.host = h
  intro hlib hframe hx
  rw [State.TellsHost] at hframe
  have hsup : a.sup.exts = s.sup.exts := (congrArg (fun u : State => u.sup.exts) hframe :)
  have hpwr : a.pwr.journal = s.pwr.journal := (congrArg (fun u : State => u.pwr.journal) hframe :)
  exact ⟨_, hx, rfl, rfl, rfl, rfl, hlib ▸ rfl, rfl, rfl, hsup, hpwr⟩

/-- Settles O38. -/
theorem moduleCommands : Obligations.ModuleCommands := by
  intro s id c queued
  refine ⟨fun hc img hl => ⟨fun hroom => ?_, fun short hs => ?_, fun hfull => ?_⟩, fun hc => ⟨fun hl => ?_, fun hl => ?_⟩,
    fun hc => ⟨fun hi => ?_, fun hi => ⟨fun hl => ?_, fun hl => ?_⟩⟩, fun hc => ⟨fun hm => ?_, fun hm => ?_⟩,
    fun hc hb => ⟨fun hw => ?_, fun hw hm => ?_⟩, fun hb hp => ⟨fun ht => ?_, fun ht => s.powerDown_spec hb hp ht⟩⟩
  · refine (State.onCmd_ready hc _).trans ?_
    rw [if_neg (by omega), if_neg (by omega), ← hl, List.take_length]
    rfl
  · refine (State.onCmd_ready hc _).trans ?_
    rw [if_pos hs]
  · refine (State.onCmd_ready hc _).trans ?_
    rw [if_neg (by omega), if_pos (by omega)]
  · exact (State.onCmd_ready hc _).trans (congrArg _ (if_pos hl))
  · exact (State.onCmd_ready hc _).trans (congrArg _ (if_neg (ne_true_of_eq_false hl)))
  · refine (State.onCmd_ready hc _).trans ?_
    rw [SupSt.extCode_invalid hi]
    rfl
  · refine (State.onCmd_ready hc _).trans ?_
    rw [SupSt.extCode_room hi hl]
    rfl
  · refine (State.onCmd_ready hc _).trans ?_
    rw [SupSt.extCode_full hi hl]
    rfl
  · exact (State.onCmd_ready hc _).trans (congrArg _ (if_neg (not_not_intro hm)))
  · exact (State.onCmd_ready hc _).trans (congrArg _ (if_pos hm))
  · exact (State.onCmd_ready hc _).trans (congrArg _ (if_pos ⟨hw, by rw [hb]; rfl⟩))
  · have hx : exec (.power id) s = .next (s.powerStart id (c.word 1)) := by
      refine (State.onCmd_ready hc _).trans ?_
      dsimp only
      rw [if_neg fun h => hw h.1, if_pos hm]
    exact ⟨_, hx, s.powerStart_spec id (c.word 1)⟩
  · have hx : exec .powerTransitionEnd s = .next ((s.enter s.pwr.target).answer id 0 0 0 0) := by
      show execPowerTransitionEnd s = _
      simp only [execPowerTransitionEnd, hb, hp, if_true, if_neg (show ¬ s.pwr.target = 4 by omega)]
    exact ⟨_, _, hx, rfl, s.enter_spec ht⟩

end Sys2Proof.Machine
end
section
/-! Image commands: arming and stopping, starts, loads (O35, O36, O37). -/

namespace Sys2Proof.Machine

/-! ### Arming and stopping (R345, R352, R381) -/

/-- The chip waits at the barrier of a point's coming occurrence. -/
def State.WaitsAt (s : State) (x : Nat) : Prop := s.img.sampled.isSome = true ∧ ∃ pt, s.plane.pointAt s.chip = some (x, pt)

theorem State.sampledAt_waits {s : State} {x : Nat} (h : s.WaitsAt x) : s.sampledAt x = 1 := by
  obtain ⟨hs, pt, hp⟩ := h
  simp only [State.sampledAt, hp, hs, and_self, if_true]

theorem State.sampledAt_free {s : State} {x : Nat} (h : ¬ s.WaitsAt x) : s.sampledAt x = 0 := by
  rw [State.sampledAt]
  split
  · next y pt hp =>
    refine if_neg ?_
    rintro ⟨rfl, hs⟩
    exact h ⟨hs, pt, hp⟩
  · rfl

theorem State.late_iff (s : State) (x n : Nat) :
    n < s.nextOcc x + s.sampledAt x ↔ n < s.nextOcc x ∨ (n = s.nextOcc x ∧ s.WaitsAt x) := by
  by_cases h : s.WaitsAt x
  · simp only [s.sampledAt_waits h, h, and_true]
    omega
  · simp only [s.sampledAt_free h, h, and_false, or_false]
    omega

theorem State.ahead_iff (s : State) (x n : Nat) :
    ¬ n < s.nextOcc x + s.sampledAt x ↔ s.nextOcc x < n ∨ (n = s.nextOcc x ∧ ¬ s.WaitsAt x) := by
  by_cases h : s.WaitsAt x
  · simp only [s.sampledAt_waits h, h, not_true, and_false, or_false]
    omega
  · simp only [s.sampledAt_free h, h, not_false_eq_true, and_true]
    omega

/-- IMG_ARM of an image that stands in the shadow buffer. -/
theorem State.imgArm_eq {s : State} {id : Nat} {c : HostCmd} {img : Image} (hc : s.host.ready 0x13 id = some c)
    (hi : s.img.image = some img) : exec (.imgArm id) s = .next (
      let x := bits (c.word 1) 7 0
      let n := bits (c.word 1) 63 32
      if s.img.shadow ≠ 2 then s.imgCode id 0x16 0
      else if img.kind = 0 then s.imgCode id 0x0A 0
      else if !(s.chip.points.any fun p => p.1 == x) then s.imgCode id 0x19 0
      else if n < s.nextOcc x + s.sampledAt x then s.imgCode id 0x18 0
      else { s with img := { s.img with shadow := 3, armPoint := x, armOcc := n } }.imgCode id 0 0) := by
  refine (State.onCmd_ready hc _).trans ?_
  rw [hi]

theorem State.recordsLeft_none {s : State} (hr : s.herd.remote = []) (hq : ∀ d ∈ s.plane.live, (s.plane.core d).sig.queue = []) :
    s.recordsLeft = false := by
  have hany : (s.plane.live.any fun c => !(s.plane.core c).sig.queue.isEmpty) = false :=
    List.any_eq_false.mpr fun d hd => by simp [hq d hd]
  rw [State.recordsLeft, hr, hany]
  exact Bool.and_false _

/-- Settles O37. -/
theorem armAndStop : Obligations.ArmAndStop := by
  intro s id c coded waits
  refine ⟨fun hc img hi => ?_, fun hc => ?_, fun hc => ⟨fun h2 ha => ?_, fun h2 ha => ?_, fun h => ?_⟩,
    fun hc => State.onCmd_ready hc _, fun hw hq => ?_, fun hw hq => ?_, fun hq => ?_, State.recordsLeft_none⟩
  · intro x n next
    rw [State.imgArm_eq hc hi]
    refine ⟨fun h => congrArg _ (if_pos h), fun h hk => ?_, fun h hk hp => ?_, fun h hk hp => ⟨fun hn => ?_, fun hn => ?_⟩⟩
    · rw [if_neg (not_not_intro h), if_pos hk]
      rfl
    · rw [if_neg (not_not_intro h), if_neg hk, if_pos (by rw [hp]; rfl)]
      rfl
    · rw [if_neg (not_not_intro h), if_neg hk, if_neg (by rw [hp]; decide), if_pos ((s.late_iff x n).mpr hn)]
      rfl
    · rw [if_neg (not_not_intro h), if_neg hk, if_neg (by rw [hp]; decide), if_neg ((s.ahead_iff x n).mpr hn)]
      rfl
  · intro x next
    refine ⟨fun h hn => ?_, fun h hn => ?_, fun h ha hx ho => ?_, fun h => ?_⟩ <;> refine (State.onCmd_ready hc _).trans ?_
    · rw [if_neg fun hl => (s.ahead_iff x _).mpr hn hl.2, if_pos h]
      rfl
    · rw [if_pos ⟨h, (s.late_iff x _).mpr hn⟩]
      rfl
    · rw [if_neg (by omega), if_neg (by omega), if_pos ⟨h, ha, hx, ho⟩]
      rfl
    · rw [if_neg (by omega), if_neg (by omega), if_neg (by omega)]
      rfl
  · refine (State.onCmd_ready hc _).trans ?_
    rw [if_pos (.inl h2), if_pos ⟨ha, h2⟩]
  · refine (State.onCmd_ready hc _).trans ?_
    rw [if_pos (.inl h2), if_neg fun h => ha h.1]
  · refine (State.onCmd_ready hc _).trans ?_
    rw [if_neg (by omega)]
    rfl
  · show execPlaneQuiescent s = _
    rw [execPlaneQuiescent, if_pos hq, hw]
    rfl
  · show execPlaneQuiescent s = _
    rw [execPlaneQuiescent, if_pos hq, hw]
    rfl
  · show execPlaneQuiescent s = _
    rw [execPlaneQuiescent, if_neg (ne_true_of_eq_false hq)]

/-! ### Starts (R350, R363, R389, R390) -/

/-- What a launch makes of the counters of the plane, and what it leaves of its clocks. -/
theorem PlaneSt.launch_counts (p : PlaneSt) (img : Image) (comparing : Bool) :
    (p.launch img comparing).count = 0 ∧ (p.launch img comparing).launched = true ∧ (p.launch img comparing).slipTotal = 0 ∧
    (p.launch img comparing).slipCause = [] ∧ (p.launch img comparing).now = p.now ∧
    (p.launch img comparing).cadence = p.cadence := by
  let counts := fun q : PlaneSt => (q.count, q.launched, q.slipTotal, q.slipCause, q.now, q.cadence)
  have hclocks : ∀ q : PlaneSt, ∀ f, ((q.each f).now, (q.each f).cadence) = (q.now, q.cadence) := fun q f =>
    foldl_keeps (fun q : PlaneSt => (q.now, q.cadence)) _ (by intros; rfl) _ _
  have hlaunch : counts (p.launch img comparing) = (0, true, 0, [], p.now, p.cadence) := by
    refine (foldl_keeps counts _ (by intros; rfl) _ _).trans ?_
    simp only [counts, Prod.mk.injEq, true_and]
    exact Prod.mk.inj (hclocks _ _)
  simpa only [counts, Prod.mk.injEq] using hlaunch

theorem HerdSt.leave_count (h : HerdSt) : h.leave.count = h.count := by
  rw [HerdSt.leave]
  split <;> rfl

/-- A launch by an image: it is active, the shadow buffer empty, its counters at 0, and its command ends with the herd count. -/
theorem State.launchWith_spec (s : State) (img : Image) (cmd : Nat) :
    ∃ u : State, s.launchWith img cmd = u.answer cmd 0 0 s.herd.count.toNat 0 ∧
      u.img.active = 1 ∧ u.img.activeHash = img.hash ∧ u.img.shadow = 0 ∧ u.img.image = none ∧ u.img.launch = none ∧
      u.img.runs = s.img.runs + 1 ∧ u.img.segment = 0 ∧ u.img.code = 0 ∧ u.plane.count = 0 ∧ u.plane.launched = true ∧
      u.plane.slipTotal = 0 ∧ u.plane.slipCause = [] ∧ u.plane.now = s.plane.now ∧ u.plane.cadence = s.plane.cadence ∧
      u.chip = img.chip ∧ u.sec = s.sec ∧ u.sup = s.sup := by
  refine ⟨_, rfl, rfl, rfl, rfl, rfl, rfl, rfl, rfl, rfl, ?_⟩
  obtain ⟨hcount, hlaunched, htotal, hcause, hnow, hcadence⟩ := s.plane.launch_counts img
    ((s.herd.coldStart (LinkSt.newRun { s.link with ports := s.link.ports.map fun p => (p.1, p.2.countersReset) }) img.chip).1.lsState == 1)
  exact ⟨hcount, hlaunched, htotal, hcause, hnow, hcadence, rfl, rfl, rfl⟩

section
variable {s : State} {l : Launch} {img : Image}

theorem State.launchDue_barrier_released (hl : s.img.launch = some l) (hi : s.img.image = some img) (hb : l.barrier = true)
    (hbar : s.herd.bar.isSome = true) (hr : s.herd.released = some true) :
    s.launchDue = ({ s with herd := s.herd.leave } : State).launchWith img l.cmd := by
  simp only [State.launchDue, hl, hi, hb, hbar, hr, if_true]

theorem State.launchDue_before (hl : s.img.launch = some l) (hi : s.img.image = some img) (hb : l.barrier = false)
    (hc : s.herd.count < l.at_) : s.launchDue = s := by
  simp only [State.launchDue, hl, hi, hb, hc, or_true, if_true, Bool.false_eq_true, if_false]

theorem State.launchDue_complete (hl : s.img.launch = some l) (hi : s.img.image = some img) (hb : l.barrier = false)
    (h0 : l.at_ ≠ 0) (hc : l.at_ ≤ s.herd.count) (hh : s.herdComplete img.chip.herdN = true) :
    s.launchDue = s.launchWith img l.cmd := by
  simp only [State.launchDue, hl, hi, hb, h0, BitVec.not_lt.mpr hc, or_self, hh, if_true, Bool.false_eq_true, if_false]

theorem State.launchDue_incomplete (hl : s.img.launch = some l) (hi : s.img.image = some img) (hb : l.barrier = false)
    (h0 : l.at_ ≠ 0) (hc : l.at_ ≤ s.herd.count) (hh : s.herdComplete img.chip.herdN = false) :
    s.launchDue = s.launchLate l.cmd := by
  simp only [State.launchDue, hl, hi, hb, h0, BitVec.not_lt.mpr hc, or_self, hh, Bool.false_eq_true, if_false]

theorem State.beginCycle_due (hck : s.clockOn = true) (hh : s.plane.half = false) : s.beginCycle = s.launchDue := by
  rw [State.beginCycle, hck, hh]
  rfl

theorem State.beginCycle_of_due (h : s.launchDue = s) : s.beginCycle = s := by
  rw [State.beginCycle, h, ite_self]

theorem State.atCountLaunch_eq (hl : s.img.launch = some l) :
    exec .atCountLaunch s = .next (if l.barrier then s else s.beginCycle) := by
  show execAtCountLaunch s = _
  rw [execAtCountLaunch, hl]

theorem State.launch_eq (hl : s.img.launch = some l) (hi : s.img.image = some img) (hck : s.clockOn = true) :
    exec .launch s = .next (if l.barrier then (if s.herd.bar.isNone then s.arriveStart img else s.beginCycle)
      else if l.at_ = 0 then s.launchWith img l.cmd else s) := by
  show execLaunch s = _
  rw [execLaunch, hl, hi, hck]
  rfl

theorem State.arriveStart_of_no_barrier (hb : s.herd.bar.isNone = true) : s.arriveStart img =
    { s with herd := if s.herdComplete img.chip.herdN then s.herd.arriveFirst else s.herd } := by
  simp only [State.arriveStart, hb, and_true]
  split <;> rfl

end

/-- Settles O36. -/
theorem starts : Obligations.Starts := by
  intro s id c img refused
  refine ⟨fun hc hi => ?_, fun hc hi => ?_, fun l hl hi hck => ?_⟩
  · refine (State.onCmd_ready hc _).trans ?_
    rw [hi]
    rfl
  · have hx : exec (.imgStart id) s = .next _ := State.onCmd_ready hc _
    rw [hx, hi]
    refine ⟨fun h => congrArg _ (if_pos h), fun h hk => ?_, fun h hk => ?_⟩
    · dsimp only
      rw [if_neg (not_not_intro h), if_pos hk]
      rfl
    · dsimp only
      rw [if_neg (not_not_intro h), if_neg hk]
      refine ⟨fun h0 => ?_, fun h1 hn => ?_, fun h1 hn => ?_, fun h2 => ?_⟩
      · rw [h0]
        rfl
      · rw [h1]
        exact congrArg _ (if_pos hn)
      · rw [h1]
        exact congrArg _ (if_neg (BitVec.not_le.mpr hn))
      · rw [h2]
        show Host.Outcome.next ((s.launchWaits ⟨true, 0, id⟩).arriveStart img) = _
        rw [State.arriveStart]
        by_cases hh : s.herdComplete img.chip.herdN = true ∧ s.herd.bar.isNone = true
        · rw [if_pos hh]
          exact (if_pos hh).symm ▸ rfl
        · rw [if_neg hh]
          exact (if_neg hh).symm ▸ rfl
  · intro launched
    have starts : ∀ i, exec i s = .next (s.launchWith img l.cmd) → launched i := fun i hx => by
      obtain ⟨u, hu, h⟩ := s.launchWith_spec img l.cmd
      exact ⟨u, hx.trans (congrArg Host.Outcome.next hu), h⟩
    have hcount := State.atCountLaunch_eq hl
    have hlaunch := State.launch_eq hl hi hck
    refine ⟨fun hb => ?_, fun hb => ?_⟩
    · rw [hb, if_neg (by decide)] at hcount hlaunch
      refine ⟨fun h0 => starts _ (hlaunch.trans (congrArg _ (if_pos h0))), fun h0 => hlaunch.trans (congrArg _ (if_neg h0)),
        fun h0 hh hn => ⟨fun hm => starts _ ?_, fun hm => ?_⟩, fun hn => ?_⟩
      · rw [hcount, State.beginCycle_due hck hh, State.launchDue_complete hl hi hb h0 hn hm]
      · rw [hcount, State.beginCycle_due hck hh, State.launchDue_incomplete hl hi hb h0 hn hm]
        rfl
      · rw [hcount, State.beginCycle_of_due (State.launchDue_before hl hi hb hn)]
    · rw [hb, if_pos rfl] at hcount hlaunch
      refine ⟨hcount, fun hbar => ?_, fun hbar hh hr => ?_⟩
      · have hnone : s.herd.bar.isNone = true := by rw [hbar]; rfl
        rw [hlaunch, if_pos hnone, State.arriveStart_of_no_barrier hnone]
      · have hnone : ¬ s.herd.bar.isNone = true := by
          rw [Option.isNone_iff_eq_none]
          exact Option.isSome_iff_ne_none.mp hbar
        rw [if_neg hnone, State.beginCycle_due hck hh, State.launchDue_barrier_released hl hi hb hbar hr] at hlaunch
        obtain ⟨u, hu, h⟩ := ({ s with herd := s.herd.leave } : State).launchWith_spec img l.cmd
        rw [show ({ s with herd := s.herd.leave } : State).herd.count = s.herd.count from s.herd.leave_count] at hu
        exact ⟨u, hlaunch.trans (congrArg Host.Outcome.next hu), h⟩

/-! ### Loads (R345, R346, R355) -/

/-- A chip that begins to join changes its link and its herd state alone. -/
theorem State.startJoin_frame (s : State) : s.startJoin = { s with link := s.startJoin.link, herd := s.startJoin.herd } := by
  rw [State.startJoin]
  split
  · next h =>
    have hin : [0].contains s.chip.herdX = true := by rw [h]; rfl
    simp only [State.issue, State.adopt, hin, if_true, show ¬ (1 : Nat) = 3 by decide, if_false]
  · rfl

@[simp] theorem State.startJoin_sup (s : State) : s.startJoin.sup = s.sup := by rw [s.startJoin_frame]

@[simp] theorem State.place_sup (s : State) (img : Image) : (s.place img).sup = s.sup := by
  simp only [State.place]
  split
  · rfl
  · rw [State.startJoin_sup]

/-- A NEXT image that is placed leaves the arenas in force and the plane. -/
theorem State.place_next (s : State) {img : Image} (hk : img.kind = 1) : (s.place img).chip = s.chip ∧ (s.place img).plane = s.plane := by
  refine ⟨?_, ?_⟩ <;> simp only [State.place, if_pos hk]

theorem State.spoil_frame (s : State) (b : Bytes) (img : Image) (i : Nat) :
    (s.spoil b img i).chip = s.chip ∧ (s.spoil b img i).sup = s.sup := by
  refine Prod.mk.inj (foldl_keeps (fun s : State => (s.chip, s.sup)) _ (fun t e => ?_) _ _)
  split
  · rfl
  · split <;> rfl

theorem State.loadEnds_eq {s : State} (hw : s.sup.computeWanted = false) (id : Nat) (r : LoadRes) (img : Option Image) :
    s.loadEnds id r img = ({ s with img := s.img.loadEnds r img } : State).answer id (if r.1 = 0 then 0 else 1) r.1 (loadWord r) 0 := by
  rw [State.loadEnds, State.afterLoad, State.answer_sup]
  exact if_neg (ne_true_of_eq_false hw)

/-- What the second pass makes of an image before its command ends. -/
theorem State.loadSections_spec (s : State) (id : Nat) (b : Bytes) (hw : s.sup.computeWanted = false) :
    ∃ u : State, s.loadSections id b = ({ u with img := u.img.loadEnds (loadThird s.loadEnv b) (some (Image.of b s.sup.enabled)) } : State).answer
        id (if (loadThird s.loadEnv b).1 = 0 then 0 else 1) (loadThird s.loadEnv b).1 (loadWord (loadThird s.loadEnv b)) 0 ∧
      (leAt b 14 1 = 1 → u.chip = s.chip ∧ ((loadThird s.loadEnv b).1 = 0 → u.plane = s.plane)) := by
  by_cases hr : (loadThird s.loadEnv b).1 = 0
  · refine ⟨s.place (Image.of b s.sup.enabled), ?_, fun hk => ?_⟩
    · simp only [State.loadSections, hr, if_true]
      rw [State.loadEnds_eq (by rw [State.place_sup, hw]), hr]
      rfl
    · obtain ⟨hchip, hplane⟩ := s.place_next (img := Image.of b s.sup.enabled) hk
      exact ⟨hchip, fun _ => hplane⟩
  · refine ⟨s.spoil b (Image.of b s.sup.enabled) (if (loadThird s.loadEnv b).1 = 0x0C ∧ (loadThird s.loadEnv b).2.1 = 0xFFF then
      (imgSecs b).length else (loadThird s.loadEnv b).2.1), ?_, fun _ => ⟨(s.spoil_frame ..).1, fun h => absurd h hr⟩⟩
    simp only [State.loadSections, if_neg hr]
    rw [State.loadEnds_eq (by rw [(s.spoil_frame ..).2, hw]), if_neg hr]

theorem loadWord_of_no_detail (code section_ : Nat) : loadWord (code, section_, 0) = fld code 8 56 + fld section_ 12 44 := by
  simp [loadWord]

theorem State.load_first {s : State} {id code : Nat} {b : Bytes} (hw : s.sup.computeWanted = false) (hf : loadFirst b = code)
    (h0 : code ≠ 0) : s.load id b = ({ s with img := { s.img with
      shadow := 0, image := none, second := false, loading := [], code := code, section_ := 0xFFF, detail := 0 } } : State).answer
        id 1 code (fld code 8 56 + fld 0xFFF 12 44) 0 := by
  simp only [State.load, hf, ne_eq, h0, not_false_eq_true, if_true]
  rw [State.loadEnds_eq hw, ImgSt.loadEnds]
  dsimp only
  rw [if_neg h0, if_neg h0, if_neg h0, loadWord_of_no_detail]

theorem State.load_cold {s : State} {id : Nat} {b : Bytes} (hf : loadFirst b = 0) (h2 : loadSecond s.loadEnv b = 0)
    (hk : leAt b 14 1 ≠ 1) : s.load id b = { s with
      img := { s.img with shadow := 1, second := true, loading := b, loadCmd := id }, host := s.host.wait id } := by
  simp only [State.load, hf, h2, ne_eq, not_true, if_false, if_neg hk]
  rfl

theorem State.load_next {s : State} {id : Nat} {b : Bytes} (hf : loadFirst b = 0) (h2 : loadSecond s.loadEnv b = 0)
    (hk : leAt b 14 1 = 1) : s.load id b = s.loadSections id b := by
  simp only [State.load, hf, h2, ne_eq, not_true, if_false, if_pos hk]

/-- Settles O35. -/
theorem imageLoads : Obligations.ImageLoads := by
  intro s id c img stat busyAnswer ended
  refine ⟨fun hc h => ?_, fun hc h hl => ?_, fun hc h => ?_, fun hc h hf => ?_, fun i h hw hi => ?_, fun h2 hq hw => ?_, fun h => ?_⟩
  · exact (State.onCmd_ready hc _).trans (congrArg _ (if_pos h))
  · refine (State.onCmd_ready hc _).trans ?_
    rw [if_neg (not_not_intro h), if_pos hl]
  · exact (State.onCmd_ready hc _).trans (congrArg _ (if_pos h))
  · refine (State.onCmd_ready hc _).trans ?_
    rw [if_neg (not_not_intro h), hf]
    rfl
  · have hx : exec i s = .next (s.load id img) := by
      obtain ⟨hc, rfl, hl⟩ | ⟨hc, rfl, hf⟩ := hi <;> refine (State.onCmd_ready hc _).trans ?_
      · rw [if_neg (not_not_intro h), if_neg (by omega), ← hl, List.take_length]
      · rw [if_neg (not_not_intro h), hf]
    rw [hx]
    refine ⟨fun code hf h0 => ?_, fun hf hs hk => ?_, fun hf hs hk => ?_⟩
    · rw [State.load_first hw hf h0]
    · rw [State.load_cold hf hs hk]
    · rw [State.load_next hf hs hk]
      obtain ⟨u, hu, hkeep⟩ := s.loadSections_spec id img hw
      exact ⟨_, _, congrArg _ hu, ⟨rfl, rfl⟩, hkeep hk⟩
  · obtain ⟨u, hu, -⟩ := s.loadSections_spec s.img.loadCmd s.img.loading hw
    have hx : exec .loadSecondPass s = .next (s.loadSections s.img.loadCmd s.img.loading) := by
      show execLoadSecondPass s = _
      rw [execLoadSecondPass, h2, hq]
      rfl
    exact ⟨_, _, hx.trans (congrArg Host.Outcome.next hu), rfl, rfl⟩
  · show execLoadSecondPass s = _
    rw [execLoadSecondPass, if_neg (by rcases h with h | h <;> simp [h])]

end Sys2Proof.Machine
end
section
/-! Device memory reached by the host (O33). -/

namespace Sys2Proof.Machine

/-! ### Bytes put in any order (R288) -/

/-- Whole bytes put at their places of a channel. -/
def putAt (m : Mem) (c : Nat) (bs : List (Nat × Byte × Byte)) : Mem :=
  bs.foldl (fun (m : Mem) b => m.put (memKey c b.1) (mergeByte (m.get (memKey c b.1)) b.2.1 b.2.2)) m

theorem putAt_miss {m : Mem} (h : m.wf = true) (c : Nat) {bs : List (Nat × Byte × Byte)} {k : Nat} (hk : ∀ b ∈ bs, memKey c b.1 ≠ k) :
    (putAt m c bs).get k = m.get k := by
  induction bs generalizing m with
  | nil => rfl
  | cons b t ih =>
    refine (ih (Mem.wf_put h _ _) fun d hd => hk d (List.mem_cons_of_mem _ hd)).trans ?_
    rw [Mem.get_put h, if_neg (hk b List.mem_cons_self).symm]

/-- A place that is put holds its byte, however often it is put, when every time it is the same. -/
theorem putAt_hit {m : Mem} (h : m.wf = true) (c : Nat) {bs : List (Nat × Byte × Byte)} {k : Nat} {v : Byte}
    (hin : ∃ b ∈ bs, memKey c b.1 = k) (hv : ∀ b ∈ bs, memKey c b.1 = k → b.2 = (0xFF, v)) : (putAt m c bs).get k = v := by
  induction bs generalizing m with
  | nil => exact absurd hin (by simp)
  | cons b t ih =>
    by_cases ht : ∃ d ∈ t, memKey c d.1 = k
    · exact ih (Mem.wf_put h _ _) ht fun d hd => hv d (List.mem_cons_of_mem _ hd)
    · have hb : memKey c b.1 = k := by
        obtain ⟨d, hd, hdk⟩ := hin
        obtain rfl | hd := List.mem_cons.mp hd
        · exact hdk
        · exact absurd ⟨d, hd, hdk⟩ ht
      refine (putAt_miss (Mem.wf_put h _ _) c fun d hd e => ht ⟨d, hd, e⟩).trans ?_
      rw [Mem.get_put h, if_pos hb.symm, hv b List.mem_cons_self hb, mergeByte_whole]

/-- The bytes of a string, put at their places in any order and any number of times, are the string written. -/
theorem putAt_get {m : Mem} (h : m.wf = true) (c l : Nat) (bs : Bytes) {ps : List (Nat × Byte × Byte)}
    (hps : ∀ p, p ∈ ps ↔ ∃ i b, bs[i]? = some b ∧ p = (l + i, 0xFF, b)) (k : Nat) :
    (putAt m c ps).get k = (m.write (memKey c l) bs).get k := by
  have hkey : ∀ i, memKey c (l + i) = memKey c l + i := fun i => (Nat.add_assoc _ l i).symm
  rw [Mem.get_write h]
  by_cases hk : memKey c l ≤ k ∧ k < memKey c l + bs.length
  · obtain ⟨i, rfl⟩ := Nat.exists_eq_add_of_le hk.1
    have hi : bs[i]? = some bs[i] := List.getElem?_eq_getElem (by omega)
    rw [if_pos hk, Nat.add_sub_cancel_left, List.getD_eq_getElem?_getD, hi]
    refine putAt_hit h c ⟨_, (hps _).mpr ⟨i, _, hi, rfl⟩, hkey i⟩ fun p hp e => ?_
    obtain ⟨j, b, hj, rfl⟩ := (hps p).mp hp
    have hij : j = i := by
      have hj' : memKey c (l + j) = memKey c l + i := e
      have := hkey j
      omega
    rw [hij, hi] at hj
    rw [Option.some.inj hj]
    rfl
  · rw [if_neg hk]
    refine putAt_miss h c fun p hp e => hk ?_
    obtain ⟨j, b, hj, rfl⟩ := (hps p).mp hp
    have hj' : memKey c (l + j) = k := e
    have := hkey j
    have := (List.getElem?_eq_some_iff.mp hj).1
    omega

theorem mem_plainBytes_iff (l : Nat) (bs : Bytes) (p : Nat × Byte × Byte) :
    p ∈ plainBytes l bs ↔ ∃ i b, bs[i]? = some b ∧ p = (l + i, 0xFF, b) := by
  rw [plainBytes, List.mem_map]
  constructor
  · rintro ⟨⟨b, i⟩, hq, rfl⟩
    exact ⟨i, b, List.mem_zipIdx_iff_getElem?.mp hq, rfl⟩
  · rintro ⟨i, b, hb, rfl⟩
    exact ⟨(b, i), List.mem_zipIdx_iff_getElem?.mpr hb, rfl⟩

/-! ### Requests of another agent (R283) -/

theorem ExtSt.foldl_handIn (x : ExtSt) {c : Nat} (hf : x.isFenced c = false) {α : Type} (g : Nat × α → ReqKind) (ks : List (Nat × α))
    (hk : ∀ k ∈ ks, k.1 = c) : (ks.foldl (fun (x : ExtSt) k => x.handIn k.1 (g k)) x).mem = x.mem ∧
      (ks.foldl (fun (x : ExtSt) k => x.handIn k.1 (g k)) x).isFenced c = false ∧
      ((ks.foldl (fun (x : ExtSt) k => x.handIn k.1 (g k)) x).chan c).queue = (x.chan c).queue ++ ks.map g := by
  induction ks generalizing x with
  | nil => exact ⟨rfl, hf, (List.append_nil _).symm⟩
  | cons k t ih =>
    have hkc : k.1 = c := hk k List.mem_cons_self
    rw [List.foldl_cons, hkc, x.handIn_queued _ hf]
    obtain ⟨hm, hfe, hq⟩ := ih (x.onChan c fun d => { d with queue := d.queue ++ [g k] }) hf fun d hd => hk d (List.mem_cons_of_mem _ hd)
    refine ⟨hm, hfe, hq.trans ?_⟩
    rw [ExtSt.chan_onChan_self, List.map_cons, List.append_assoc]
    rfl

/-- Bytes that lie in one channel's MEMORY arenas enter its queue, in as many writes as granules. -/
theorem ExtSt.handOver_memory (x : ExtSt) {cfg : ChipCfg} {ch : Nat} {loc : Nat → Nat} {ws : List (Nat × Byte × Byte)} (fmt : Nat)
    (hw : ∀ b ∈ ws, cfg.whereIs b.1 = .memory ch (loc b.1)) (hf : x.isFenced ch = false) :
    ∃ pieces : List (List (Nat × Byte × Byte)), (x.handOver cfg (.extWrite 0 0 fmt ws)).mem = x.mem ∧
      (x.handOver cfg (.extWrite 0 0 fmt ws)).isFenced ch = false ∧
      ((x.handOver cfg (.extWrite 0 0 fmt ws)).chan ch).queue = (x.chan ch).queue ++ pieces.map ReqKind.write ∧
      ∀ p, p ∈ pieces.flatten ↔ ∃ b ∈ ws, p = (loc b.1, b.2) := by
  let placed := ws.map fun b => ((ch, loc b.1 / cfg.granAt b.1), loc b.1, b.2)
  let piece := fun c : Nat × Nat => (placed.filter (·.1 == c)).map (·.2)
  have hx : x.handOver cfg (.extWrite 0 0 fmt ws) = ((placed.map (·.1)).eraseDups).foldl (fun (x : ExtSt) c =>
      x.handIn c.1 (.write (piece c))) x := by
    rw [ExtSt.handOver]
    dsimp only
    rw [(List.filterMap_eq_map_iff_forall_eq_some (g := fun b => ((ch, loc b.1 / cfg.granAt b.1), loc b.1, b.2))).mpr
        fun b hb => ?_, List.filterMap_eq_nil_iff.mpr fun b hb => ?_, List.filterMap_eq_nil_iff.mpr fun b hb => ?_]
    · rfl
    all_goals rw [hw b hb]
  have hkeys : ∀ k ∈ (placed.map (·.1)).eraseDups, k.1 = ch := fun k hk => by
    obtain ⟨p, hp, rfl⟩ := List.mem_map.mp (List.mem_eraseDups.mp hk)
    obtain ⟨b, -, rfl⟩ := List.mem_map.mp hp
    rfl
  obtain ⟨hm, hfe, hq⟩ := x.foldl_handIn hf (fun c => .write (piece c)) _ hkeys
  refine ⟨(placed.map (·.1)).eraseDups.map piece, by rw [hx, hm], by rw [hx, hfe], ?_, fun p => ?_⟩
  · rw [hx, hq]
    exact congrArg _ List.map_map.symm
  · constructor
    · intro hp
      obtain ⟨l, hl, hp⟩ := List.mem_flatten.mp hp
      obtain ⟨k, -, rfl⟩ := List.mem_map.mp hl
      obtain ⟨q, hq, rfl⟩ := List.mem_map.mp hp
      obtain ⟨b, hb, rfl⟩ := List.mem_map.mp (List.mem_filter.mp hq).1
      exact ⟨b, hb, rfl⟩
    · rintro ⟨b, hb, rfl⟩
      have hin : ((ch, loc b.1 / cfg.granAt b.1), loc b.1, b.2) ∈ placed := List.mem_map.mpr ⟨b, hb, rfl⟩
      exact List.mem_flatten.mpr ⟨_, List.mem_map.mpr ⟨_, List.mem_eraseDups.mpr (List.mem_map.mpr ⟨_, hin, rfl⟩), rfl⟩,
        List.mem_map.mpr ⟨_, List.mem_filter.mpr ⟨hin, beq_self_eq_true _⟩, rfl⟩⟩

theorem ExtSt.foldl_serve_writes (x : ExtSt) {c : Nat} (hf : x.isFenced c = false) (pieces : List (List (Nat × Byte × Byte))) :
    ((pieces.map ReqKind.write).foldl (fun (x : ExtSt) r => x.serve c r []) x).mem = putAt x.mem c pieces.flatten := by
  induction pieces generalizing x with
  | nil => rfl
  | cons bs t ih =>
    have hread := (x.fresh c).readIn_readSectors c (partSectors bs) []
    have hm : ((x.fresh c).readSectors c (partSectors bs) []).mem = x.mem := hread.mem
    have hfe : ((x.fresh c).readSectors c (partSectors bs) []).isFenced c = false := (hread.isFenced c).trans hf
    rw [List.map_cons, List.foldl_cons, x.serve_write bs [] hf, ih (ExtSt.writeBytes _ c bs) hfe, List.flatten_cons, putAt, putAt, List.foldl_append,
      ExtSt.writeBytes, hm]
    rfl

theorem nth_map_range {α : Type} (f : Nat → α) (d : α) {n i : Nat} (h : i < n) : nth ((List.range n).map f) i d = f i := by
  simp [nth, h]

/-- A read by another agent notes sectors as read and hits of a fence; bytes and marks stand. -/
theorem ExtSt.agentRead_keeps (x : ExtSt) (cfg : ChipCfg) (a n : Nat) : (x.agentRead cfg a n).1.mem = x.mem ∧
    (x.agentRead cfg a n).1.bad = x.bad ∧ (x.agentRead cfg a n).1.fenced = x.fenced := by
  let marks := fun y : ExtSt => (y.mem, y.bad, y.fenced)
  have step : ∀ (y : ExtSt) (p : Nat × Nat), marks (if y.isFenced p.1 then y.fenceHit p.1 else y.noteRead p.1 p.2) = marks y := fun y p => by
    split
    · rfl
    · obtain ⟨⟨_, _, _, _, hy⟩, -⟩ := y.readIn_noteRead p.1 p.2
      have hb := y.noteRead_bad p.1 p.2
      simp only [marks]
      rw [hb, hy]
  have h : marks (x.agentRead cfg a n).1 = marks x := foldl_keeps marks _ step _ _
  simpa only [marks, Prod.mk.injEq] using h

section
variable {cfg : ChipCfg} {a n ch l : Nat}

theorem chansOf_one (hn : 0 < n) (ha : a % 32 = 0) (hw : ∀ i, i < n → cfg.whereIs (a + i) = .memory ch (l + i)) :
    chansOf cfg a n = [ch] := by
  obtain ⟨m, hm⟩ : ∃ m, ceilDiv (n + a % 32) 32 = m + 1 := ⟨ceilDiv (n + a % 32) 32 - 1, by rw [ceilDiv]; omega⟩
  have hbase : a / 32 * 32 = a := by omega
  rw [chansOf, hbase, (List.filterMap_eq_map_iff_forall_eq_some (g := fun _ => ch)).mpr fun i hi => ?_, List.map_const', List.length_range,
    hm, eraseDups_replicate]
  have hi' := List.mem_range.mp hi
  rw [hw (32 * i) (by rw [ceilDiv] at hi'; omega)]

theorem ExtSt.settleFor_idle {x : ExtSt} (hn : 0 < n) (ha : a % 32 = 0) (hw : ∀ i, i < n → cfg.whereIs (a + i) = .memory ch (l + i))
    (hq : (x.chan ch).queue = []) (hr : (x.chan ch).running = []) : x.settleFor cfg a n = x.fresh ch := by
  rw [ExtSt.settleFor, chansOf_one hn ha hw, List.foldl_cons, List.foldl_nil, ExtSt.drain, hq]
  dsimp only
  rw [ExtSt.completeAll, hr]
  rfl

/-- A write of another agent into an idle channel of a sound stack. -/
theorem ExtSt.writeFor_idle {x : ExtSt} (fmt : Nat) (bs : Bytes) (hn : 0 < bs.length) (ha : a % 32 = 0)
    (hw : ∀ i, i < bs.length → cfg.whereIs (a + i) = .memory ch (l + i)) (hf : x.isFenced ch = false)
    (hq : (x.chan ch).queue = []) (hr : (x.chan ch).running = []) (hwf : x.mem.wf = true) :
    (x.writeFor cfg a fmt bs).2 = 0 ∧ ∀ k, (x.writeFor cfg a fmt bs).1.mem.get k = (x.mem.write (memKey ch l) bs).get k := by
  have hplace : ∀ b ∈ plainBytes a bs, cfg.whereIs b.1 = .memory ch (l + (b.1 - a)) := fun b hb => by
    obtain ⟨i, hi, hb⟩ := mem_plainBytes hb
    rw [hb, hw i hi, Nat.add_sub_cancel_left]
  obtain ⟨pieces, hm, hfe, hqueue, hmem⟩ := (x.fresh ch).handOver_memory (loc := fun b => l + (b - a)) fmt hplace hf
  have hpieces : ∀ p, p ∈ pieces.flatten ↔ ∃ i b, bs[i]? = some b ∧ p = (l + i, 0xFF, b) := fun p => by
    rw [hmem]
    constructor
    · rintro ⟨q, hq, rfl⟩
      obtain ⟨i, b, hb, rfl⟩ := (mem_plainBytes_iff a bs q).mp hq
      exact ⟨i, b, hb, by rw [Nat.add_sub_cancel_left]⟩
    · rintro ⟨i, b, hb, rfl⟩
      exact ⟨_, (mem_plainBytes_iff a bs _).mpr ⟨i, b, hb, rfl⟩, by rw [Nat.add_sub_cancel_left]⟩
  have hempty : ((x.fresh ch).chan ch).queue = [] := (congrArg Chan.queue (x.chan_onChan_self ch _)).trans hq
  rw [hempty, List.nil_append] at hqueue
  have hall : (pieces.map ReqKind.write).filter (!·.isCmd) = pieces.map ReqKind.write :=
    List.filter_eq_self.mpr fun r hr => by
      obtain ⟨p, -, rfl⟩ := List.mem_map.mp hr
      rfl
  rw [ExtSt.writeFor, ExtSt.writeMasked, ExtSt.settleFor_idle hn ha hw hq hr, chansOf_one hn ha hw]
  dsimp only
  refine ⟨List.length_eq_zero_iff.mpr (List.filter_eq_nil_iff.mpr fun i hi => ?_), fun k => ?_⟩
  · rw [hw i (List.mem_range.mp hi)]
    exact ne_true_of_eq_false hf
  · rw [List.foldl_cons, List.foldl_nil, hqueue, hall, ExtSt.foldl_serve_writes]
    · exact (congrArg (fun m => (putAt m ch pieces.flatten).get k) hm).trans (putAt_get hwf ch l bs hpieces k)
    · exact hfe

/-- A read of another agent from good sectors of an idle channel of a sound stack. -/
theorem ExtSt.readFor_idle {x : ExtSt} (hn : 0 < n) (ha : a % 32 = 0) (hw : ∀ i, i < n → cfg.whereIs (a + i) = .memory ch (l + i))
    (hf : x.isFenced ch = false) (hq : (x.chan ch).queue = []) (hr : (x.chan ch).running = [])
    (hp : ∀ i, i < n → x.poisoned ch (l + i) = false) :
    (x.readFor cfg a n).1.mem = x.mem ∧
    (x.readFor cfg a n).2 = (List.range n).map fun i => (x.mem.get (memKey ch (l + i)), false, true) := by
  obtain ⟨hmem, hbad, hfenced⟩ := (x.fresh ch).agentRead_keeps cfg a n
  rw [ExtSt.readFor, ExtSt.settleFor_idle hn ha hw hq hr]
  refine ⟨hmem, ?_⟩
  revert hmem hbad hfenced
  rw [ExtSt.agentRead]
  dsimp only
  generalize List.foldl _ (x.fresh ch) _ = y
  intro hmem hbad hfenced
  refine List.map_congr_left fun i hi => ?_
  have hin := List.mem_range.mp hi
  rw [nth_map_range _ _ hin, hw i hin]
  have hf' : y.isFenced ch = false := (congrArg (fun m => bit m (ch / 32)) hfenced).trans hf
  have hp' : y.poisoned ch (l + i) = false := (congrArg (fun b : List Nat => b.contains (memKey ch (l + i) / 32)) hbad).trans (hp i hin)
  have hg : y.mem.get (memKey ch (l + i)) = x.mem.get (memKey ch (l + i)) := congrArg (fun m => Mem.get m (memKey ch (l + i))) hmem
  simp only [hf', hp', hg, Bool.false_eq_true, if_false]

end

theorem Mem.read_eq_map (m : Mem) (a n : Nat) : m.read a n = (List.range n).map fun i => m.get (a + i) := by
  induction n generalizing a with
  | zero => rfl
  | succ n ih =>
    rw [Mem.read, ih, List.range_succ_eq_map, List.map_cons, List.map_map]
    refine congrArg (_ :: ·) (List.map_congr_left fun i _ => ?_)
    rw [Function.comp, Nat.succ_eq_add_one, Nat.add_assoc, Nat.add_comm 1 i]

/-- Good bytes read for the host are the bytes themselves, and each lies in an arena. -/
theorem State.deviceRead_good (s : State) {a n : Nat} {bs : Bytes} (h : (s.ext.readFor s.chip a n).2 = bs.map fun b => (b, false, true)) :
    (s.deviceRead a n).2 = (bs, 0) := by
  have hbytes : ∀ (bs : Bytes) k, ((bs.map fun b => (b, false, true)).zipIdx k).map
      (fun q : (Byte × Bool × Bool) × Nat => if q.1.2.1 then Config.freeByte (s.free + q.2) else q.1.1) = bs := by
    intro bs
    induction bs with
    | nil => exact fun _ => rfl
    | cons b t ih => exact fun k => congrArg (b :: ·) (ih (k + 1))
  have hout : ((bs.map fun b => (b, false, true)).filter fun t : Byte × Bool × Bool => !t.2.2) = [] := by simp
  rw [State.deviceRead]
  generalize s.ext.readFor s.chip a n = r at h
  obtain ⟨x, l⟩ := r
  obtain rfl : l = _ := h
  exact Prod.ext (hbytes bs 0) (congrArg List.length hout)

section
variable {s : State} {fn : Fin 16} {off n : Nat}

theorem State.bar2Read_beyond (hon : s.on = true) (h : 2 ^ s.host.barLog fn < off + n) :
    exec (.bar2Read fn off n) s = .next { s with data := [] } := by
  show execBar2Read fn off n s = _
  rw [execBar2Read, hon, if_neg (by decide), if_pos h]

theorem State.bar2Write_beyond (hon : s.on = true) {data : Bytes} (h : 2 ^ s.host.barLog fn < off + data.length) :
    exec (.bar2Write fn off data) s = .next s := by
  show execBar2Write fn off data s = _
  rw [execBar2Write, hon, if_pos (by simp [h])]

theorem State.bar2Read_range (hon : s.on = true) (h : off + n ≤ 2 ^ s.host.barLog fn) {a : Nat} (ha : s.host.bar2Range fn off n = some a) :
    exec (.bar2Read fn off n) s = .next { (s.deviceRead a n).1 with
      data := (s.deviceRead a n).2.1
      host := if (s.deviceRead a n).2.2 = 0 then (s.deviceRead a n).1.host else (s.deviceRead a n).1.host.oor fn 1 } := by
  show execBar2Read fn off n s = _
  rw [execBar2Read, hon, if_neg (by decide), if_neg (Nat.not_lt.mpr h), ha]

theorem State.bar2Write_range (hon : s.on = true) {data : Bytes} (h : off + data.length ≤ 2 ^ s.host.barLog fn) {a : Nat}
    (ha : s.host.bar2Range fn off data.length = some a) : exec (.bar2Write fn off data) s = .next { (s.deviceWrite a data).1 with
      host := if (s.deviceWrite a data).2 = 0 then (s.deviceWrite a data).1.host else (s.deviceWrite a data).1.host.oor fn 1 } := by
  show execBar2Write fn off data s = _
  rw [execBar2Write, hon, if_neg (by simp [Nat.not_lt.mpr h]), ha]

/-- Bytes out of reach read as zero, and nothing is read for them. -/
theorem State.foldl_bar2Byte_none (s : State) (n : Nat) (h : ∀ i, i < n → s.host.bar2 fn (off + i) = none) :
    (List.range n).foldl (fun (st : State × Bytes × Bool) i =>
      ((st.1.bar2Byte fn (off + i)).1, st.2.1 ++ [(st.1.bar2Byte fn (off + i)).2.1], st.2.2 || (st.1.bar2Byte fn (off + i)).2.2))
      (s, [], false) = (s, List.replicate n 0, decide (0 < n)) := by
  induction n with
  | zero => rfl
  | succ n ih =>
    have hbyte : s.bar2Byte fn (off + n) = (s, 0, true) := by rw [State.bar2Byte, h n (Nat.lt_succ_self n)]
    rw [List.range_succ, List.foldl_append, ih fun i hi => h i (Nat.lt_succ_of_lt hi), List.foldl_cons, List.foldl_nil]
    dsimp only
    rw [hbyte, ← List.replicate_succ', Bool.or_true, decide_eq_true (Nat.succ_pos n)]

theorem HostSt.bar2Range_none {h : HostSt} {f : Nat} (hn : 0 < n) (hb : ∀ i, i < n → h.bar2 f (off + i) = none) :
    h.bar2Range f off n = none := by
  have h0 : h.bar2 f off = none := hb 0 hn
  rw [HostSt.bar2Range, h0]

theorem State.bar2Read_none (hon : s.on = true) (h : off + n ≤ 2 ^ s.host.barLog fn) (hn : 0 < n)
    (hb : ∀ i, i < n → s.host.bar2 fn (off + i) = none) :
    exec (.bar2Read fn off n) s = .next { s with data := List.replicate n 0, host := s.host.oor fn 1 } := by
  show execBar2Read fn off n s = _
  rw [execBar2Read, hon, if_neg (by decide), if_neg (Nat.not_lt.mpr h), HostSt.bar2Range_none hn hb]
  have hfold := s.foldl_bar2Byte_none (fn := fn) (off := off) n hb
  rw [decide_eq_true hn] at hfold
  exact congrArg (fun r : State × Bytes × Bool => Host.Outcome.next
    { r.1 with data := r.2.1, host := if r.2.2 then r.1.host.oor fn 1 else r.1.host }) hfold

theorem State.bar2Write_none (hon : s.on = true) {data : Bytes} (h : off + data.length ≤ 2 ^ s.host.barLog fn) (hn : 0 < data.length)
    (hb : ∀ i, i < data.length → s.host.bar2 fn (off + i) = none) :
    exec (.bar2Write fn off data) s = .next { s with host := s.host.oor fn 1 } := by
  show execBar2Write fn off data s = _
  rw [execBar2Write, hon, if_neg (by simp [Nat.not_lt.mpr h]), HostSt.bar2Range_none hn hb]
  dsimp only
  have hfold : ∀ (l : List (Byte × Nat)) (bad : Bool), (∀ q ∈ l, s.host.bar2 fn (off + q.2) = none) →
      ∀ f : State × Bool → Byte × Nat → State × Bool, (∀ b q, s.host.bar2 fn (off + q.2) = none → f (s, b) q = (s, true)) →
      l.foldl f (s, bad) = (s, bad || !l.isEmpty) := by
    intro l
    induction l with
    | nil => exact fun bad _ f _ => by rw [List.isEmpty_nil, Bool.not_true, Bool.or_false]; rfl
    | cons q t ih =>
      intro bad hl f hf
      rw [List.foldl_cons, hf bad q (hl q List.mem_cons_self), ih true (fun d hd => hl d (List.mem_cons_of_mem _ hd)) f hf]
      simp
  have hne : (data.zipIdx).isEmpty = false := by
    rw [List.isEmpty_eq_false_iff]
    exact fun e => by simpa [hn.ne'] using congrArg List.length e
  rw [hfold _ false (fun q hq => hb _ (by have := List.snd_lt_of_mem_zipIdx hq; omega)) _ (fun b q hq => by dsimp only; rw [hq]), hne]
  rfl

end

/-- Settles O33: an idle channel serves the host's bytes at once; what BAR2 reaches goes the same way. -/
theorem deviceMemory : Obligations.DeviceMemory := by
  intro s
  refine ⟨fun a n ch l hn ha hch hw hf hq hr => ⟨fun bs hbs hwf => ?_, fun hp => ?_⟩,
    fun fn off n hon h => ⟨State.bar2Read_beyond hon h, fun data hd => State.bar2Write_beyond hon (hd ▸ h)⟩,
    fun fn off n hon h => ⟨fun a ha => ⟨fun h0 => ?_, fun h0 => ?_, fun data hd => ?_⟩,
      fun hn hb => ⟨State.bar2Read_none hon h hn hb, fun data hd => ?_⟩⟩⟩
  · subst hbs
    obtain ⟨hout, hget⟩ := s.ext.writeFor_idle 0 bs hn ha hw hf hq hr hwf
    refine ⟨hout, ?_, fun x hx => (hget x).trans ?_, rfl⟩
    · exact (Mem.read_congr _ _ fun k _ _ => hget k).trans (Mem.read_write_self hwf _ bs)
    · rw [Mem.get_write hwf, if_neg (by omega)]
  · obtain ⟨hmem, hread⟩ := s.ext.readFor_idle hn ha hw hf hq hr hp
    refine ⟨State.deviceRead_good s ?_, hmem, rfl⟩
    rw [hread, ExtSt.peek, Mem.read_eq_map, List.map_map]
    exact List.map_congr_left fun i _ => by rw [Function.comp, memKey, memKey, Nat.add_assoc]
  · rw [State.bar2Read_range hon h ha, if_pos h0]
  · rw [State.bar2Read_range hon h ha, if_neg h0]
  · subst hd
    intro w
    rw [State.bar2Write_range hon h ha]
    exact ⟨fun h0 => by rw [if_pos h0], fun h0 => by rw [if_neg h0]⟩
  · subst hd
    exact State.bar2Write_none hon h hn hb

end Sys2Proof.Machine
end
section
/-! Host commands that move data and tokens (O34). -/

namespace Sys2Proof.Machine

/-! ### Tokens of the host (R268, R270, R353) -/

theorem Core.tokened_pail_ne (k : Core) {pail i : Nat} (h : i ≠ pail) : (k.tokened pail).pail i = k.pail i := by
  rw [Core.tokened]
  split
  · exact Core.pail_setPail_ne k _ h
  · rfl

theorem Core.tokened_edge (k : Core) (pail : Nat) : ((k.tokened pail).pail pail).edge = (k.pail pail).edge := by
  rw [Core.tokened]
  split
  · rw [Core.pail_setPail_self]
    split <;> rfl
  · rfl

/-- An EDGE token raises the level of its pail, or is held in its crossing queue. -/
theorem Core.tokened_count (k : Core) {pail : Nat} (h : (k.pail pail).edge = true) :
    ((k.tokened pail).pail pail).level + ((k.tokened pail).pail pail).queue = (k.pail pail).level + (k.pail pail).queue + 1 := by
  rw [Core.tokened, if_pos h, Core.pail_setPail_self]
  split <;> dsimp only <;> omega

theorem Core.tokened_refused (k : Core) {pail : Nat} (h : (k.pail pail).edge = false) : (k.tokened pail).pail pail = k.pail pail := by
  rw [Core.tokened, if_neg (ne_true_of_eq_false h)]
  rfl

theorem PlaneSt.core_edgeToken_ne (p : PlaneSt) (c pail : Nat) {d : Nat} (h : d ≠ c) : (p.edgeToken c pail).core d = p.core d := by
  rw [PlaneSt.edgeToken]
  split
  · exact (Tab.get_set_ne _ _ _ h).trans (Tab.get_set_ne _ _ _ h)
  · rfl

theorem PlaneSt.edgeToken_sites (p : PlaneSt) (c pail : Nat) : (p.edgeToken c pail).live = p.live := by
  rw [PlaneSt.edgeToken]
  split <;> rfl

/-- What the pail of a token holds after it. -/
theorem PlaneSt.pail_edgeToken (p : PlaneSt) {c : Nat} (h : c ∈ p.live) (pail : Nat) :
    ((p.edgeToken c pail).core c).pail pail = ((p.core c).tokened pail).pail pail := by
  have hself : ∀ (q : PlaneSt) (k : Core), (q.setCore c k).core c = k := fun q k => Tab.get_set_self _ _ _ _
  have hcollect : ∀ q : PlaneSt, ((q.collect c).core c).pail pail = (q.core c).pail pail := fun q =>
    (congrArg (fun k : Core => k.pail pail) (hself q { q.core c with ev := [] }) :)
  rw [p.edgeToken_live h, hcollect, hself]

theorem PlaneSt.edgeToken_not_live (p : PlaneSt) {c : Nat} (h : c ∉ p.live) (pail : Nat) : p.edgeToken c pail = p := by
  rw [PlaneSt.edgeToken, if_neg (by simpa using h)]

theorem PlaneSt.planePail_edgeToken (p : PlaneSt) (c pail : Nat) : (p.edgeToken c pail).planePail c pail = p.planePail c pail := by
  by_cases h : c ∈ p.live
  · rw [PlaneSt.planePail, p.pail_edgeToken h, Core.tokened_edge]
    rfl
  · rw [p.edgeToken_not_live h]

theorem PlaneSt.planePail_edgeTokens (p : PlaneSt) (c pail n : Nat) : (p.edgeTokens c pail n).planePail c pail = p.planePail c pail := by
  induction n generalizing p with
  | zero => rfl
  | succ n ih => exact (ih _).trans (p.planePail_edgeToken c pail)

theorem PlaneSt.core_edgeTokens_ne (p : PlaneSt) (c pail n : Nat) {d : Nat} (h : d ≠ c) : (p.edgeTokens c pail n).core d = p.core d := by
  induction n generalizing p with
  | zero => rfl
  | succ n ih => exact (ih _).trans (p.core_edgeToken_ne c pail h)

/-- Tokens that an EDGE pail takes are counted there, in its level or in its crossing queue. -/
theorem PlaneSt.count_edgeTokens (p : PlaneSt) {c pail : Nat} (n : Nat) (h : c ∈ p.live) (he : p.planePail c pail = false) :
    (((p.edgeTokens c pail n).core c).pail pail).level + (((p.edgeTokens c pail n).core c).pail pail).queue =
      ((p.core c).pail pail).level + ((p.core c).pail pail).queue + n := by
  induction n generalizing p with
  | zero => rfl
  | succ n ih =>
    have hedge : ((p.core c).pail pail).edge = true := by simpa [PlaneSt.planePail] using he
    have hone := (p.core c).tokened_count hedge
    rw [← p.pail_edgeToken h pail] at hone
    rw [PlaneSt.edgeTokens, ih _ (by rwa [p.edgeToken_sites]) ((p.planePail_edgeToken c pail).trans he), hone]
    omega

/-- A PLANE pail takes no token of the host. -/
theorem PlaneSt.edgeTokens_refused (p : PlaneSt) {c pail : Nat} (n : Nat) (he : p.planePail c pail = true) :
    ((p.edgeTokens c pail n).core c).pail pail = (p.core c).pail pail := by
  induction n generalizing p with
  | zero => rfl
  | succ n ih =>
    rw [PlaneSt.edgeTokens, ih _ ((p.planePail_edgeToken c pail).trans he)]
    by_cases h : c ∈ p.live
    · rw [p.pail_edgeToken h, Core.tokened_refused _ (by simpa [PlaneSt.planePail] using he)]
    · rw [p.edgeToken_not_live h]

theorem State.tokensEnd_edge {s : State} {core pail : Nat} (c : HostCmd) (result : Nat) (he : s.plane.planePail core pail = false) :
    s.tokensEnd c core pail result = if ((s.plane.core core).pail pail).queue = 0 then s.answer c.id 0 0 result 0 else s.hold c.id := by
  rw [State.tokensEnd, he]
  rfl

theorem State.tokensEnd_plane {s : State} {core pail : Nat} (c : HostCmd) (result : Nat) (he : s.plane.planePail core pail = true) :
    s.tokensEnd c core pail result = s.refuse c.id 0x80 := by
  rw [State.tokensEnd, he, if_pos rfl]

/-! ### Draws (R376) -/

theorem drawElement_length (form : Nat) (w : BitVec 64) : (drawElement form w).length = drawSize form := by
  rw [drawElement, drawSize]
  split
  · exact length_leBytes ..
  · split <;> exact length_leBytes ..

/-- Pieces of one length, joined: the whole length, and each piece at its place. -/
theorem flatMap_range_pieces {α : Type} (f : Nat → List α) {k : Nat} (hf : ∀ j, (f j).length = k) (n : Nat) :
    ((List.range n).flatMap f).length = n * k ∧ ∀ j, j < n → (((List.range n).flatMap f).drop (j * k)).take k = f j := by
  induction n with
  | zero => exact ⟨(Nat.zero_mul k).symm, fun j h => absurd h (Nat.not_lt_zero j)⟩
  | succ n ih =>
    obtain ⟨hlen, hpiece⟩ := ih
    have hsplit : (List.range (n + 1)).flatMap f = (List.range n).flatMap f ++ f n := by
      rw [List.range_succ, List.flatMap_append, List.flatMap_singleton]
    rw [hsplit]
    refine ⟨by rw [List.length_append, hlen, hf, Nat.succ_mul], fun j hj => ?_⟩
    obtain hj | rfl := Nat.lt_succ_iff_lt_or_eq.mp hj
    · have hend : j * k + k ≤ n * k := by
        rw [← Nat.succ_mul]
        exact Nat.mul_le_mul_right k hj
      rw [List.drop_append_of_le_length (by omega), List.take_append_of_le_length (by rw [List.length_drop]; omega), hpiece j hj]
    · rw [List.drop_append, ← hlen, List.drop_length, Nat.sub_self, List.nil_append, List.drop_zero, ← hf j, List.take_length]

/-! ### The commands -/

section
variable {s : State} {id : Nat} {c : HostCmd}

theorem State.copyIn_ready (hc : s.host.ready 0x01 id = some c) (data : Bytes) : exec (.copyIn id data) s = .next (
    let w := s.deviceWrite (c.word 2) (data.take (c.word 3))
    let s1 : State := { w.1 with host := w.1.host.oor c.fn w.2 }
    if data.length < c.word 3 then s1.answer id 5 0 0 0 else s1.copyInDone c) := by
  show execCopyIn id data s = _
  rw [execCopyIn, hc]

theorem State.copyInDone_plain (hc : c.token = none) : s.copyInDone c = s.answer c.id 0 0 (c.word 3) 0 := by
  rw [State.copyInDone, hc]

theorem State.copyInDone_token {core pail : Nat} (hc : c.token = some (core, pail)) :
    s.copyInDone c = ({ s with plane := s.plane.edgeToken core pail } : State).tokensEnd c core pail (c.word 3) := by
  rw [State.copyInDone, hc]

theorem State.hostSignal_ready (hc : s.host.ready 0x03 id = some c) : exec (.hostSignal id) s = .next (({ s with
    plane := s.plane.edgeTokens (bits (c.word 1) 18 11) (bits (c.word 1) 10 0) (bits (c.word 1) 63 48) } : State).tokensEnd c
      (bits (c.word 1) 18 11) (bits (c.word 1) 10 0) (bits (c.word 1) 63 48)) := by
  show execHostSignal id s = _
  rw [execHostSignal, hc]

theorem State.hostSignal_held (hn : s.host.ready 0x03 id = none) (hc : s.host.held 0x03 id = some c) : exec (.hostSignal id) s =
    .next (s.tokensEnd c (bits (c.word 1) 18 11) (bits (c.word 1) 10 0) (bits (c.word 1) 63 48)) := by
  show execHostSignal id s = _
  rw [execHostSignal, hn]
  dsimp only
  rw [State.onHeld, hc]

theorem State.descCreate_ready (hc : s.host.ready 0x04 id = some c) {words : Bytes} (hw : words.length = 128)
    (hl : bits (c.word 2) 7 0 ∈ s.plane.live) : exec (.descCreate id words) s = .next (
      let r := (s.plane.core (bits (c.word 2) 7 0)).createDesc s.plane.enabled s.chip.arenaRange (bits (c.word 2) 14 8)
        (BitVec.ofNat 1024 (leNat words))
      let s1 : State := { s with plane := s.plane.setCore (bits (c.word 2) 7 0) r.2 }
      if r.1 = 0 then s1.answer id 0 0 0 0 else s1.answer id 1 r.1 r.1 0) := by
  refine (State.onCmd_ready hc _).trans ?_
  rw [if_neg (by omega), if_neg (by simpa using hl), ← hw, List.take_length]

theorem Core.createDesc_valid (k : Core) {enabled : Nat} {arena : Nat → Option (Nat × Nat)} (slot : Nat) {d : BitVec 1024}
    (h : validate enabled arena d = 0) : k.createDesc enabled arena slot d =
      (0, { k with su := { k.su with createReason := 0, createSlot := slot, pendDesc := k.su.pendDesc.set slot d } }) := by
  simp only [Core.createDesc, h, if_true]

theorem Core.createDesc_invalid (k : Core) {enabled code : Nat} {arena : Nat → Option (Nat × Nat)} (slot : Nat) {d : BitVec 1024}
    (h : validate enabled arena d = code) (h0 : code ≠ 0) : k.createDesc enabled arena slot d =
      (code, { k with su := { k.su with createReason := code, createSlot := slot } }) := by
  simp only [Core.createDesc, h, if_neg h0]

end

/-- Settles O34. -/
theorem dataCommands : Obligations.DataCommands := by
  intro s id c
  refine ⟨fun hc => State.onCmd_ready hc _, fun hc data => ?copyIn, fun hc => State.onCmd_ready hc _, fun hc => ?signal,
    fun hn hc => ?held, fun hc words hw => ?desc, fun hc => ?draw, fun hc hb => ?snapshot⟩
  case copyIn =>
    intro w s1
    rw [State.copyIn_ready hc data]
    refine ⟨fun hl => congrArg _ (if_pos hl), fun hl ht => ?_, fun core pail hl ht => ?_⟩
    · exact congrArg _ ((if_neg (Nat.not_lt.mpr hl)).trans (State.copyInDone_plain ht))
    · intro s2 he
      have h : (if data.length < c.word 3 then s1.answer id 5 0 0 0 else s1.copyInDone c) = s2.tokensEnd c core pail (c.word 3) :=
        (if_neg (Nat.not_lt.mpr hl)).trans (State.copyInDone_token ht)
      rw [State.tokensEnd_edge c (c.word 3) he] at h
      exact ⟨fun hq => congrArg _ (h.trans (if_pos hq)), fun hq => congrArg _ (h.trans (if_neg hq))⟩
  case signal =>
    intro core pail n p
    rw [State.hostSignal_ready hc]
    refine ⟨fun hl he => ⟨?_, s.plane.count_edgeTokens n hl he, fun d hd => s.plane.core_edgeTokens_ne core pail n hd⟩,
      fun he => ⟨?_, s.plane.edgeTokens_refused n he⟩⟩
    · exact congrArg _ (State.tokensEnd_edge c n ((s.plane.planePail_edgeTokens core pail n).trans he))
    · exact congrArg _ (State.tokensEnd_plane c n ((s.plane.planePail_edgeTokens core pail n).trans he))
  case held =>
    intro core pail he
    rw [State.hostSignal_held hn hc, State.tokensEnd_edge c _ he]
    exact ⟨fun hq => congrArg _ (if_pos hq), fun hq => congrArg _ (if_neg hq)⟩
  case desc =>
    intro core slot d u hl
    rw [State.descCreate_ready hc hw hl]
    refine ⟨fun hv => ?_, fun code hv h0 => ?_⟩
    · rw [Core.createDesc_valid _ _ hv]
      rfl
    · rw [Core.createDesc_invalid _ _ hv h0]
      exact congrArg _ (if_neg h0)
  case draw =>
    intro n form seed
    obtain ⟨hlen, hpiece⟩ := flatMap_range_pieces (fun j => drawElement form (whey seed (BitVec.ofNat 64 (c.word 2))
      (BitVec.ofNat 64 (c.word 3 + j)))) (fun j => drawElement_length form _) n
    exact ⟨_, State.onCmd_ready hc _, hlen, hpiece⟩
  case snapshot =>
    refine (State.onCmd_ready hc _).trans ?_
    rw [TelSt.request, hb]
    rfl

end Sys2Proof.Machine
end
section
/-! What a port sends and takes, and the timing tree that follows (R384, R401 to R408, R420). -/

namespace Sys2Proof.Machine

/-! ### Sending by a port with nothing else to send (R405, R407) -/

/-- A flit that a port sends as the only one it has: its epoch is the one in force, its SEQ the port's next. -/
def Port.sentFlit (q : Port) (s : Seg) (epoch vc me dest : Nat) (loc : Bool) : Flit :=
  ⟨vc, q.txSeq, 0, epoch, if loc then 0 else dest, if loc then 0 else me, 15, 0, 0, loc, [s]⟩

/-- The port after a flit has been sent first. -/
def Port.sent (v : SendEnv) (q : Port) (f : Flit) : Port :=
  Port.emit { q with
    outq := []
    txSeq := (q.txSeq + 1) % 4096
    credits := q.credits.set f.vc (nth q.credits f.vc 0 - 1)
    drySince := if nth q.credits f.vc 0 - 1 = 0 then q.drySince.set f.vc v.clock else q.drySince
    replay := q.replay ++ [f]
    sendings := if q.replay.isEmpty then 1 else q.sendings } f

/-- A port that carries traffic, with room for a flit of a channel and credit for it. -/
structure Port.Ready (q : Port) (vc : Nat) : Prop where
  outq : q.outq = []
  up : q.state = 2 ∨ q.state = 3
  room : q.replay.length < 512
  credit : 0 < nth q.credits vc 0

theorem Port.Ready.pump {q : Port} {s : Seg} {vc : Nat} (h : q.Ready vc) (v : SendEnv) (epoch me dest : Nat) (loc : Bool)
    (hm : maySend v.mstate (s.flit epoch vc me dest loc) = true) :
    ({ q with outq := q.outq ++ [s.flit epoch vc me dest loc] } : Port).pump v 1 = q.sent v (q.sentFlit s v.epoch vc me dest loc) := by
  obtain ⟨ho, hup, hr, hc⟩ := h
  have hc' : 0 < nth q.credits (s.flit epoch vc me dest loc).vc 0 := hc
  have hgo : ¬ ((q.state ≠ 2 ∧ q.state ≠ 3) ∨ 512 ≤ q.replay.length) := by omega
  simp only [ho, List.nil_append, Port.pump, if_neg hgo, takeFirst, hc', hm, decide_true, Bool.and_self, if_true]
  rfl

/-- A segment of this chip leaves at once by a port that is ready, while no flit in transit can leave. -/
theorem LinkSt.send_still (l : LinkSt) {p vc : Nat} {s : Seg} (me dest : Nat) (loc : Bool) (h : l.byreStill p) (hq : (l.port p).Ready vc)
    (hm : maySend l.mstate (s.flit l.epoch vc me dest loc) = true) : l.send p vc me dest loc s =
      l.onPort p fun q => q.sent l.env (q.sentFlit s l.epoch vc me dest loc) := by
  have hport : (l.onPort p fun q => { q with outq := q.outq ++ [s.flit l.epoch vc me dest loc] }).onPort p
      (fun q => q.pump l.env q.outq.length) = l.onPort p fun q => q.sent l.env (q.sentFlit s l.epoch vc me dest loc) := by
    have hlen : ((l.port p).outq ++ [s.flit l.epoch vc me dest loc]).length = 1 := by rw [hq.outq]; rfl
    rw [LinkSt.onPort_onPort]
    simp only [LinkSt.onPort, Function.comp, hlen]
    rw [hq.pump l.env l.epoch me dest loc hm]
    rfl
  rw [LinkSt.send, LinkSt.pump]
  refine (congrArg LinkSt.forwardAll hport).trans (LinkSt.byreStill_forwardAll _ (l.byreStill_onPort h rfl))

/-- A LOCAL SYNC segment of a beacon leaves whatever the membership is. -/
theorem LinkSt.tell_still (l : LinkSt) (cfg : ChipCfg) {p : Nat} {s : Seg} (h : l.byreStill p) (hq : (l.port p).Ready 3)
    (hop : s.op = 0x10 ∨ s.op = 0x16) : l.tell cfg p s = l.onPort p fun q => q.sent l.env (q.sentFlit s l.epoch 3 cfg.herdX 0 true) := by
  refine l.send_still _ _ _ h hq ?_
  rw [maySend]
  split
  · rfl
  · split
    · rcases hop with hop | hop <;> simp [Seg.flit, hop]
    · rfl

/-! ### Taking the next segment (R406) -/

/-- From `q` to `q'` segments have been taken: what waits here and what the idle line tells may be new, and nothing that the port
sends under. -/
def Port.Takes (q q' : Port) : Prop := q' = { q with rx := q'.rx, sync := q'.sync, freed := q'.freed, crNext := q'.crNext, wire := q'.wire }

theorem Port.Takes.trans {q q' q'' : Port} (h : q.Takes q') (g : q'.Takes q'') : q.Takes q'' := by
  rw [Port.Takes] at h g ⊢
  rw [g, h]

theorem Port.takes_waiting (q : Port) (rx : List RxFlit) (sync : List (Flit × Nat × Seg)) : q.Takes { q with rx := rx, sync := sync } := rfl

theorem Port.takes_free (q : Port) (epoch vc : Nat) : q.Takes (q.free epoch vc) := rfl

theorem Port.takes_fillSync (epoch n : Nat) (q : Port) : q.Takes (q.fillSync epoch n) := by
  induction n generalizing q with
  | zero => rfl
  | succ n ih =>
    rw [Port.fillSync]
    split
    · rfl
    · next r rest _ =>
      split
      · rfl
      · exact ((q.takes_waiting rest (q.sync ++ r.segs.map fun x => (r.flit, x))).trans (Port.takes_free _ epoch 3)).trans (ih _)

theorem Port.takes_popSeg (q : Port) (epoch vc : Nat) : q.Takes (q.popSeg epoch vc) := by
  rw [Port.popSeg]
  split
  · exact (q.takes_waiting q.rx (q.sync.drop 1)).trans (Port.takes_fillSync epoch _ _)
  · split
    · rfl
    · next r others _ =>
      dsimp only
      split
      · exact (q.takes_waiting others q.sync).trans (Port.takes_free _ epoch vc)
      · exact q.takes_waiting _ q.sync

/-- What the timing tree reads of a port. -/
def Port.peer (q : Port) : Nat × Bool × BitVec 64 := (q.state, q.peerValid, q.peerId)

theorem Port.popSeg_peer (q : Port) (epoch vc : Nat) : (q.popSeg epoch vc).peer = q.peer := by
  have h := q.takes_popSeg epoch vc
  rw [Port.Takes] at h
  rw [h]
  rfl

/-- From `l` to `m` nothing of what the timing tree reads has changed. -/
structure LinkSt.SameTree (l m : LinkSt) : Prop where
  peer : ∀ p, (m.port p).peer = (l.port p).peer
  mstate : m.mstate = l.mstate
  root : m.root = l.root
  mask : m.mask = l.mask

theorem LinkSt.SameTree.refl (l : LinkSt) : l.SameTree l := ⟨fun _ => rfl, rfl, rfl, rfl⟩

theorem LinkSt.SameTree.trans {l m n : LinkSt} (h : l.SameTree m) (g : m.SameTree n) : l.SameTree n :=
  ⟨fun p => (g.peer p).trans (h.peer p), g.mstate.trans h.mstate, g.root.trans h.root, g.mask.trans h.mask⟩

theorem LinkSt.sameTree_onPort (l : LinkSt) (p : Nat) {f : Port → Port} (h : (f (l.port p)).peer = (l.port p).peer) :
    l.SameTree (l.onPort p f) := by
  refine ⟨fun d => ?_, rfl, rfl, rfl⟩
  by_cases hd : d = p
  · rw [hd, LinkSt.port_onPort_self, h]
  · rw [l.port_onPort_ne f hd]

theorem LinkSt.sameTree_syncPop (l : LinkSt) (p : Nat) : l.SameTree (l.syncPop p) := l.sameTree_onPort p (Port.popSeg_peer _ _ _)

theorem LinkSt.SameTree.peerHerd {l m : LinkSt} (h : l.SameTree m) (cfg : ChipCfg) (p : Nat) :
    peerHerd cfg (m.port p) = peerHerd cfg (l.port p) := by
  have hp := h.peer p
  simp only [Port.peer, Prod.mk.injEq] at hp
  obtain ⟨-, hv, hi⟩ := hp
  rw [Machine.peerHerd, Machine.peerHerd, hv, hi]

theorem LinkSt.SameTree.inTree {l m : LinkSt} (h : l.SameTree m) (cfg : ChipCfg) (p : Nat) : m.inTree cfg p = l.inTree cfg p := by
  have hs : (m.port p).state = (l.port p).state := congrArg Prod.fst (h.peer p)
  rw [LinkSt.inTree, LinkSt.inTree, hs, h.mstate, h.mask, h.peerHerd]

theorem LinkSt.SameTree.timingRoot {l m : LinkSt} (h : l.SameTree m) : timingRoot m = timingRoot l := by
  rw [Machine.timingRoot, Machine.timingRoot, h.mstate, h.root]

/-! ### The timing tree (R384) -/

theorem LinkSt.SameTree.tree {l m : LinkSt} (h : l.SameTree m) (x : HerdSt) (cfg : ChipCfg) : x.tree m cfg = x.tree l cfg := by
  simp only [HerdSt.tree, h.inTree, h.timingRoot, h.peerHerd]

/-- The tree changes depth, parent and what they decide of the state. -/
theorem HerdSt.tree_frame (x : HerdSt) (l : LinkSt) (cfg : ChipCfg) : ∃ depths depth parent state good slew, x.tree l cfg =
    { x with depths := depths, depth := depth, parent := parent, state := state, good := good, slew := slew } := by
  simp only [HerdSt.tree]
  split
  · exact ⟨_, _, _, _, _, _, rfl⟩
  · split
    · exact ⟨_, _, _, _, _, _, rfl⟩
    · split <;> exact ⟨_, _, _, _, _, _, rfl⟩

theorem HerdSt.tree_depths (x : HerdSt) (l : LinkSt) (cfg : ChipCfg) : (x.tree l cfg).depths = x.depths.filter fun d => l.inTree cfg d.1 := by
  simp only [HerdSt.tree]
  split
  · rfl
  · split
    · rfl
    · split <;> rfl

theorem HerdSt.eq_of_tree {y : HerdSt} {depth parent : Option Nat} {state good : Nat} {slew : Int} (h1 : y.depth = depth)
    (h2 : y.parent = parent) (h3 : y.state = state) (h4 : y.good = good) (h5 : y.slew = slew) :
    { y with depth := depth, parent := parent, state := state, good := good, slew := slew } = y := by
  subst h1 h2 h3 h4 h5
  rfl

/-- A herd state whose tree has been made already stands, as long as it follows a parent or is free without one. -/
theorem HerdSt.tree_again {x y : HerdSt} {l : LinkSt} {cfg : ChipCfg} (hd : y.depths = (x.tree l cfg).depths)
    (hdep : y.depth = (x.tree l cfg).depth) (hp : y.parent = (x.tree l cfg).parent) (hs : y.parent ≠ none → y.state ≠ 0)
    (hn : y.parent = none → y.state = 0 ∧ y.good = 0 ∧ y.slew = 0) : y.tree l cfg = y := by
  rw [HerdSt.tree_depths] at hd
  have hf : y.depths.filter (fun d => l.inTree cfg d.1) = y.depths := by rw [hd, List.filter_filter]; simp only [Bool.and_self]
  simp only [HerdSt.tree, ← hd] at hdep hp
  simp only [HerdSt.tree, hf]
  split at hdep
  · next hroot =>
    rw [if_pos hroot] at hp ⊢
    obtain ⟨h1, h2, h3⟩ := hn hp
    exact HerdSt.eq_of_tree hdep hp h1 h2 h3
  · next hroot =>
    rw [if_neg hroot] at hp ⊢
    split at hdep
    · next hbest =>
      rw [hbest] at hp
      obtain ⟨h1, h2, h3⟩ := hn hp
      exact HerdSt.eq_of_tree hdep hp h1 h2 h3
    · next a p hbest =>
      rw [hbest] at hp
      rw [apply_ite HerdSt.depth, ite_self] at hdep
      dsimp only at hp
      rw [apply_ite HerdSt.parent, ite_self] at hp
      rw [if_pos ⟨hp, hs (by rw [hp]; exact Option.some_ne_none p)⟩]
      exact HerdSt.eq_of_tree hdep hp rfl rfl rfl

end Sys2Proof.Machine
end
section
/-! Herd time: ticks, SYNC_IN, beacons and the alignment of the herd count (O42). -/

namespace Sys2Proof.Machine

/-! ### Ticks (R382, R383) -/

theorem HerdSt.syncPulse_eq (h : HerdSt) : h.syncPulse = { h with syncOut := h.syncPulse.syncOut } := by
  rw [HerdSt.syncPulse]
  split <;> rfl

theorem HerdSt.tick_load {h : HerdSt} (hl : h.loadIn = some 1) :
    h.tick.count = h.load ∧ h.tick.armed = false ∧ h.tick.loadIn = none := by
  simp only [HerdSt.tick, hl]
  rw [HerdSt.syncPulse_eq]
  exact ⟨rfl, rfl, rfl⟩

theorem HerdSt.tick_plain {h : HerdSt} (hl : h.loadIn = none) (hs : h.state ≠ 2 ∨ h.slew = 0 ∨ h.slewGap < 4095) :
    h.tick.count = h.count + 1 ∧ h.tick.slew = h.slew := by
  simp only [HerdSt.tick, hl]
  rw [if_neg (by omega), HerdSt.syncPulse_eq]
  exact ⟨rfl, rfl⟩

theorem HerdSt.tick_slewed {h : HerdSt} (hl : h.loadIn = none) (hs : h.state = 2) (hg : 4095 ≤ h.slewGap) (h0 : h.slew ≠ 0) :
    h.tick.count = h.count + (if 0 < h.slew then 2 else 0) ∧ h.tick.slew = (if 0 < h.slew then h.slew - 1 else h.slew + 1) ∧
    h.tick.slewGap = 0 := by
  simp only [HerdSt.tick, hl]
  rw [if_pos ⟨hs, h0, hg⟩, HerdSt.syncPulse_eq]
  simp only [decide_eq_true_eq, and_self]

/-! ### Beacons (R384) -/

section
variable {l : LinkSt} {cfg : ChipCfg} {h : HerdSt} {p : Nat}

theorem LinkSt.ready_of_upPorts (hp : p ∈ l.upPorts) (ho : (l.port p).outq = []) (hr : (l.port p).replay.length < 512)
    (hc : 0 < nth (l.port p).credits 3 0) : (l.port p).Ready 3 := by
  have hup : (l.port p).state = 2 ∨ (l.port p).state = 3 := by
    have := (List.mem_filter.mp hp).2
    simpa using this
  exact ⟨ho, hup, hr, hc⟩

theorem HerdSt.beaconSend_early (hg : h.beaconGap < 65536) : h.beaconSend l cfg = (h, l) := if_pos hg

theorem HerdSt.beaconSend_one (hg : 65536 ≤ h.beaconGap) (hp : l.upPorts = [p]) :
    h.beaconSend l cfg = ({ h with beaconGap := 0 }, l.tell cfg p (h.beaconSeg false h.count.toNat 0 0)) := by
  rw [HerdSt.beaconSend, if_neg (Nat.not_lt.mpr hg), hp]
  rfl

/-- A beacon that comes in is answered; what the neighbour's depth makes of the tree stands. -/
theorem HerdSt.beacon_answered {f : Flit} {i : Nat} {g : Seg} (hh : l.syncHead p 0x10 = some (f, i, g)) (hf : f.loc = true)
    (ha : g.aux % 2 = 0) : h.beacon l cfg p =
      (({ h with depths := h.depths.set p (leAt g.data 24 2) } : HerdSt).tree (l.syncPop p) cfg,
       (l.syncPop p).tell cfg p ((({ h with depths := h.depths.set p (leAt g.data 24 2) } : HerdSt).tree (l.syncPop p) cfg).beaconSeg true
         (leAt g.data 0 8) h.count.toNat h.count.toNat)) := by
  simp only [HerdSt.beacon, hh, hf, Bool.not_true, Bool.false_eq_true, if_false, ha, if_true]

theorem HerdSt.beacon_followed {f : Flit} {i : Nat} {g : Seg} (hh : l.syncHead p 0x10 = some (f, i, g)) (hf : f.loc = true)
    (ha : g.aux % 2 = 1) (hp : (({ h with depths := h.depths.set p (leAt g.data 24 2) } : HerdSt).tree (l.syncPop p) cfg).parent = some p) :
    h.beacon l cfg p =
      ((({ h with depths := h.depths.set p (leAt g.data 24 2) } : HerdSt).tree (l.syncPop p) cfg).follow
        (beaconOffset (leAt g.data 0 8) (leAt g.data 8 8) (leAt g.data 16 8) h.count.toNat (l.port p).asym), l.syncPop p) := by
  have ha' : ¬ g.aux % 2 = 0 := by omega
  simp only [HerdSt.beacon, hh, hf, Bool.not_true, Bool.false_eq_true, if_false, ha', hp, if_true]

/-- A herd state that the tree has given a parent has a state other than FREE, one without is FREE. -/
theorem HerdSt.tree_state (x : HerdSt) (l : LinkSt) (cfg : ChipCfg) :
    ((x.tree l cfg).parent ≠ none → (x.tree l cfg).state ≠ 0) ∧
    ((x.tree l cfg).parent = none → (x.tree l cfg).state = 0 ∧ (x.tree l cfg).good = 0 ∧ (x.tree l cfg).slew = 0) := by
  simp only [HerdSt.tree]
  split
  · exact ⟨fun h => absurd rfl h, fun _ => ⟨rfl, rfl, rfl⟩⟩
  · split
    · exact ⟨fun h => absurd rfl h, fun _ => ⟨rfl, rfl, rfl⟩⟩
    · split
      · next hk => exact ⟨fun _ => hk.2, fun h => absurd h (Option.some_ne_none _)⟩
      · exact ⟨fun _ => Nat.one_ne_zero, fun h => absurd h (Option.some_ne_none _)⟩

theorem HerdSt.tree_tree (x : HerdSt) (l : LinkSt) (cfg : ChipCfg) : (x.tree l cfg).tree l cfg = x.tree l cfg :=
  HerdSt.tree_again rfl rfl rfl (x.tree_state l cfg).1 (x.tree_state l cfg).2

/-- Following a parent changes count, offset and the alignment, and leaves the tree. -/
theorem HerdSt.follow_frame (h : HerdSt) (off : Int) : (h.follow off).depths = h.depths ∧ (h.follow off).depth = h.depth ∧
    (h.follow off).parent = h.parent ∧ (h.follow off).offset = off ∧ (h.state ≠ 0 → (h.follow off).state ≠ 0) := by
  simp only [HerdSt.follow]
  generalize (if decide (off.natAbs ≤ 2) = true then h.good + 1 else 0) = n
  split
  · exact ⟨rfl, rfl, rfl, rfl, fun _ => Nat.succ_ne_zero _⟩
  · split
    · exact ⟨rfl, rfl, rfl, rfl, id⟩
    · split
      · exact ⟨rfl, rfl, rfl, rfl, fun _ => Nat.succ_ne_zero _⟩
      · split
        · split
          · exact ⟨rfl, rfl, rfl, rfl, fun _ => Nat.succ_ne_zero _⟩
          · exact ⟨rfl, rfl, rfl, rfl, id⟩
        · exact ⟨rfl, rfl, rfl, rfl, id⟩

/-- A herd state that follows its parent keeps its place in the tree. -/
theorem HerdSt.follow_tree {x : HerdSt} {q : Nat} (hp : (x.tree l cfg).parent = some q) (off : Int) :
    ((x.tree l cfg).follow off).tree l cfg = (x.tree l cfg).follow off := by
  obtain ⟨hd, hdep, hpar, -, hst⟩ := (x.tree l cfg).follow_frame off
  have hne : (x.tree l cfg).parent ≠ none := by rw [hp]; exact Option.some_ne_none q
  exact HerdSt.tree_again hd hdep hpar (fun _ => hst ((x.tree_state l cfg).1 hne)) fun hn => absurd (hpar.symm.trans hn) hne

theorem HerdSt.follow_near {off : Int} (hs : h.state = 2) (hn : off.natAbs ≤ 64) : h.follow off = { h with offset := off, slew := off } := by
  simp only [HerdSt.follow, hs, Nat.not_lt.mpr hn, and_false, if_false, if_true]

theorem HerdSt.follow_far {off : Int} (hs : h.state = 2) (hn : 64 < off.natAbs) :
    (h.follow off).state = 3 ∧ (h.follow off).count = h.count + BitVec.ofInt 64 off ∧ (h.follow off).good = 0 := by
  simp only [HerdSt.follow, hs, hn, and_self, if_true]
  exact ⟨trivial, rfl, trivial⟩

theorem HerdSt.follow_lost {off : Int} (hs : h.state = 3) :
    (h.follow off).state = 1 ∧ (h.follow off).count = h.count + BitVec.ofInt 64 off := by
  simp only [HerdSt.follow, hs, show ¬ (3 : Nat) = 2 by decide, false_and, if_false, if_true]
  exact ⟨trivial, rfl⟩

theorem HerdSt.follow_acquiring {off : Int} (hs : h.state = 1) : h.follow off =
    if 4 ≤ (if off.natAbs ≤ 2 then h.good + 1 else 0) then
      { ({ h with offset := off } : HerdSt).stepCount off with state := 2, good := if off.natAbs ≤ 2 then h.good + 1 else 0, slew := 0 }
    else { ({ h with offset := off } : HerdSt).stepCount off with good := if off.natAbs ≤ 2 then h.good + 1 else 0 } := by
  simp only [HerdSt.follow, hs, show ¬ (1 : Nat) = 2 by decide, show ¬ (1 : Nat) = 3 by decide, false_and, if_false, if_true, decide_eq_true_eq]

end

/-- A return from the parent is followed, and the tree stands. -/
theorem State.beacon_followed {s : State} {p : Fin 32} {f : Flit} {i : Nat} {g : Seg} (hh : s.link.syncHead p 0x10 = some (f, i, g))
    (hf : f.loc = true) (ha : g.aux % 2 = 1)
    (hp : (({ s.herd with depths := s.herd.depths.set p (leAt g.data 24 2) } : HerdSt).tree (s.link.syncPop p) s.chip).parent = some p.val) :
    exec (.beacon p) s = .next { s with
      link := s.link.syncPop p
      herd := (({ s.herd with depths := s.herd.depths.set p (leAt g.data 24 2) } : HerdSt).tree (s.link.syncPop p) s.chip).follow
        (beaconOffset (leAt g.data 0 8) (leAt g.data 8 8) (leAt g.data 16 8) s.herd.count.toNat (s.link.port p).asym) } := by
  show execBeacon p s = _
  rw [execBeacon, HerdSt.beacon_followed hh hf ha hp, State.onHerdLink]
  dsimp only
  rw [HerdSt.follow_tree hp]

/-- What following a parent makes of count and alignment. -/
theorem HerdSt.follow_spec (h : HerdSt) (off : Int) : (h.follow off).offset = off ∧
    (h.state = 2 → off.natAbs ≤ 64 → h.follow off = { h with offset := off, slew := off }) ∧
    (h.state = 2 → 64 < off.natAbs → (h.follow off).state = 3 ∧ (h.follow off).count = h.count + BitVec.ofInt 64 off ∧ (h.follow off).good = 0) ∧
    (h.state = 3 → (h.follow off).state = 1 ∧ (h.follow off).count = h.count + BitVec.ofInt 64 off) ∧
    (h.state = 1 → h.good < 3 → off.natAbs ≤ 2 →
      (h.follow off).state = 1 ∧ (h.follow off).good = h.good + 1 ∧ (h.follow off).count = h.count + BitVec.ofInt 64 off) ∧
    (h.state = 1 → 3 ≤ h.good → off.natAbs ≤ 2 → (h.follow off).state = 2 ∧ (h.follow off).count = h.count + BitVec.ofInt 64 off) ∧
    (h.state = 1 → 2 < off.natAbs → (h.follow off).state = 1 ∧ (h.follow off).good = 0 ∧
      (h.follow off).count = h.count + BitVec.ofInt 64 off) := by
  refine ⟨(h.follow_frame off).2.2.2.1, HerdSt.follow_near, HerdSt.follow_far, HerdSt.follow_lost, fun hs hg hn => ?_,
    fun hs hg hn => ?_, fun hs hn => ?_⟩ <;> rw [HerdSt.follow_acquiring hs]
  · rw [if_pos hn, if_neg (by omega)]
    exact ⟨hs, rfl, rfl⟩
  · rw [if_pos hn, if_pos (by omega)]
    exact ⟨rfl, rfl⟩
  · rw [if_neg (show ¬ off.natAbs ≤ 2 by omega), if_neg (show ¬ 4 ≤ 0 by decide)]
    exact ⟨hs, rfl, rfl⟩

/-- Settles O42: the pins, a tick, a beacon sent, one answered and one followed. -/
theorem herdTime : Obligations.HerdTime := by
  intro s seen
  refine ⟨fun hon => ⟨?arm, fun ha hl => ?sync, fun hc ho => ?pulse, fun hc => ?quiet⟩, fun h => ?missed, fun hp h2 => ?tick,
    fun hg => ?early, fun p hup hg => ?send, fun p f i g hh hf => ?take⟩
  case arm => exact congrArg Host.Outcome.next (if_pos hon)
  case sync =>
    have h : (if s.on then seen.syncIn else seen) = { seen with loadIn := some 40 } :=
      (if_pos hon).trans (if_pos ⟨ha, Option.isNone_iff_eq_none.mpr hl⟩)
    exact congrArg (fun h : HerdSt => Host.Outcome.next { s with herd := h }) h
  case pulse =>
    have h : s.herd.syncPulse = { s.herd with syncOut := 16 } := if_pos ⟨hc, ho⟩
    exact congrArg Host.Outcome.next ((if_pos hon).trans (congrArg (fun h : HerdSt => { s with herd := h }) h))
  case quiet =>
    have h : s.herd.syncPulse = s.herd := if_neg fun e => hc e.1
    exact congrArg Host.Outcome.next ((if_pos hon).trans (congrArg (fun h : HerdSt => { s with herd := h }) h))
  case missed =>
    have hnone : (if s.on then seen.syncIn else seen) = seen := by
      split
      · next hon =>
        refine if_neg fun e => ?_
        obtain h | h | h := h
        · exact absurd hon (by simp [h])
        · exact absurd e.1 (by simp [seen, h])
        · exact h (Option.isNone_iff_eq_none.mp e.2)
      · rfl
    exact congrArg (fun h : HerdSt => Host.Outcome.next { s with herd := h }) hnone
  case tick =>
    have hidle : step s = .next { s with herd := s.herd.tick, link := s.link.pass 1 } := by
      have hstep : step s = .next s.idle := by simp only [step, hp]
      exact hstep.trans (congrArg Host.Outcome.next (if_pos (by simp [State.serviceOnly, h2])))
    refine ⟨_, hidle, rfl, HerdSt.tick_load, fun hl => ⟨fun h0 => (HerdSt.tick_plain hl (.inr (.inl h0))).1, fun hs hg => ⟨fun h0 => ?_, fun h0 => ?_⟩,
      fun hg => HerdSt.tick_plain hl (.inr (.inr hg))⟩⟩
    · obtain ⟨hc, hsl, hgap⟩ := HerdSt.tick_slewed hl hs hg (by omega)
      rw [if_pos h0] at hc hsl
      exact ⟨hc, hsl, hgap⟩
    · obtain ⟨hc, hsl, hgap⟩ := HerdSt.tick_slewed hl hs hg (by omega)
      rw [if_neg (by omega)] at hc hsl
      exact ⟨hc.trans (BitVec.add_zero _), hsl, hgap⟩
  case early =>
    exact congrArg (fun r => Host.Outcome.next (s.onHerdLink r)) (HerdSt.beaconSend_early hg)
  case send =>
    intro q f ho hb hr hc
    have hq : q.Ready 3 := LinkSt.ready_of_upPorts (by rw [hup]; exact List.mem_singleton_self _) ho hr hc
    have hx : exec .beaconSend s = .next (s.onHerdLink ({ s.herd with beaconGap := 0 },
        s.link.onPort p fun q => q.sent s.link.env (q.sentFlit (s.herd.beaconSeg false s.herd.count.toNat 0 0) s.link.epoch 3 s.chip.herdX 0 true))) := by
      refine congrArg (fun r => Host.Outcome.next (s.onHerdLink r)) ((HerdSt.beaconSend_one hg hup).trans ?_)
      rw [s.link.tell_still s.chip hb hq (.inl rfl)]
    obtain ⟨_, _, _, _, _, _, htree⟩ := HerdSt.tree_frame { s.herd with beaconGap := 0 }
      (s.link.onPort p fun q => q.sent s.link.env (q.sentFlit (s.herd.beaconSeg false s.herd.count.toNat 0 0) s.link.epoch 3 s.chip.herdX 0 true)) s.chip
    refine ⟨_, hx, rfl, ?_, ?_, ?_⟩
    · exact (congrArg HerdSt.beaconGap htree :)
    · exact (congrArg HerdSt.count htree :)
    · dsimp only [State.onHerdLink]
      rw [LinkSt.port_onPort_self]
      exact ⟨rfl, rfl, rfl⟩
  case take =>
    intro l1 h1
    refine ⟨fun ha ho hb hr hc hst => ?_, fun ha hp => ?_⟩
    · intro r
      have hq : (l1.port p).Ready 3 := ⟨ho, .inl hst, hr, hc⟩
      have hx : exec (.beacon p) s = .next (s.onHerdLink (h1, l1.onPort p fun q =>
          q.sent l1.env (q.sentFlit (h1.beaconSeg true (leAt g.data 0 8) s.herd.count.toNat s.herd.count.toNat) l1.epoch 3 s.chip.herdX 0 true))) := by
        refine congrArg (fun r => Host.Outcome.next (s.onHerdLink r)) ((HerdSt.beacon_answered hh hf ha).trans ?_)
        rw [LinkSt.tell_still _ s.chip hb hq (.inl rfl)]
      have hsame : l1.SameTree (l1.onPort p fun q =>
          q.sent l1.env (q.sentFlit (h1.beaconSeg true (leAt g.data 0 8) s.herd.count.toNat s.herd.count.toNat) l1.epoch 3 s.chip.herdX 0 true)) :=
        l1.sameTree_onPort p rfl
      refine ⟨_, hx, ?_, ?_⟩
      · dsimp only [State.onHerdLink]
        rw [hsame.tree, HerdSt.tree_tree]
      · dsimp only [State.onHerdLink]
        rw [LinkSt.port_onPort_self]
        rfl
    · intro off moved
      exact ⟨_, State.beacon_followed hh hf ha hp, rfl, h1.follow_spec off⟩

end Sys2Proof.Machine
end
section
/-! Herd barriers and lock-step comparison (O43). -/

namespace Sys2Proof.Machine

/-! ### The barrier (R385 to R388) -/

section
variable {h : HerdSt} {l : LinkSt} {cfg : ChipCfg} {p : Nat} {f : Flit} {i : Nat} {g : Seg} {b : Bar}

theorem HerdSt.seqOk_now (hb : h.bar = some b) {seq : Nat} (hs : seq = b.seq) : h.seqOk seq = true := by
  simp only [HerdSt.seqOk, hb, hs, beq_self_eq_true, Bool.true_or]

theorem HerdSt.barArrive_now (hh : l.syncHead p 0x11 = some (f, i, g)) (hf : f.loc = true) (hb : h.bar = some b)
    (hs : leAt g.data 0 4 = b.seq) (below : List (Nat × List Nat)) : h.barArrive l cfg p below =
      ({ h with arrives := h.arrives ++ [(⟨p, leAt g.data 0 4, g.aux.testBit 0⟩ : Arrive)] } : HerdSt).passUp (l.syncPop p) cfg below := by
  simp only [HerdSt.barArrive, hh, hf, HerdSt.seqOk_now hb hs, Bool.not_true, Bool.false_eq_true, or_self, if_false]

/-- The arrivals of a barrier that have come, by the chips they come from. -/
def HerdSt.came (h : HerdSt) (l : LinkSt) (cfg : ChipCfg) (seq : Nat) : List Nat :=
  (h.arrives.filter fun a => a.seq == seq).filterMap fun a => peerHerd cfg (l.port a.port)

theorem HerdSt.passUp_waits (hb : h.bar = some b) {below : List (Nat × List Nat)} {x : Nat × List Nat} (hx : x ∈ below)
    (hk : (h.childPort l cfg x.1).isSome = true) (hc : x.1 ∉ h.came l cfg b.seq) : h.passUp l cfg below = (h, l) := by
  simp only [HerdSt.passUp, hb]
  refine if_pos (.inr ?_)
  rw [Bool.not_eq_true', List.all_eq_false]
  exact ⟨x, List.mem_filter.mpr ⟨hx, hk⟩, by rw [List.contains_iff_mem]; exact hc⟩

/-- At the root, with every member there, the barrier gets its count and its decision. -/
theorem HerdSt.passUp_root (hb : h.bar = some b) (hs : b.sent = false) (hr : cfg.herdX = timingRoot l)
    (hm : ∀ m ∈ l.mask, m = cfg.herdX ∨ m ∈ h.came l cfg b.seq) : ∃ b' l', h.passUp l cfg [] =
      ({ h with bar := some b', arrives := h.arrives.filter fun a => a.seq != b.seq }, l') ∧ b'.seq = b.seq ∧ b'.sent = true ∧
      b'.release = some (h.count + BitVec.ofNat 64 b.margin, b.bit && (h.arrives.filter (·.seq == b.seq)).all (·.bit)) := by
  have hall : l.mask.all (cfg.herdX :: h.came l cfg b.seq ++ ([] : List (Nat × List Nat)).flatMap (·.2)).contains = true := by
    rw [List.all_eq_true]
    intro m hmem
    rw [List.contains_iff_mem, List.flatMap_nil, List.append_nil, List.mem_cons]
    exact hm m hmem
  generalize hp : h.passUp l cfg [] = r
  simp only [HerdSt.passUp, hb, hs, List.filter_nil, List.all_nil, Bool.not_true, Bool.false_eq_true, or_self, if_false, if_pos hr] at hp
  exact ⟨_, _, hp.symm.trans (if_pos hall), rfl, rfl, rfl⟩

theorem HerdSt.barRelease_taken (hh : l.syncHead p 0x12 = some (f, i, g)) (hf : f.loc = true) (hb : h.bar = some b)
    (hq : leAt g.data 0 4 = b.seq) (hr : b.release = none) (hd : b.down = []) (hs : b.sent = true) : h.barRelease l cfg p [] =
      ({ h with
          bar := some { b with release := some (BitVec.ofNat 64 (leAt g.data 4 8), g.aux.testBit 0 && !h.degraded) }
          late := if BitVec.ofNat 64 (leAt g.data 4 8) < h.count then satAdd 16 h.late 1 else h.late }, l.syncPop p) := by
  obtain ⟨_, _, _, _, _, _, _, _⟩ := b
  dsimp only at hq hr hd hs
  subst hr hd hs
  simp only [HerdSt.barRelease, hh, hf, hb, hq, HerdSt.seqOk_now hb rfl, Bool.not_true, Bool.false_eq_true, or_self, if_false, ne_eq,
    not_true, Option.isSome_none]
  rfl

theorem HerdSt.barRelease_held (hh : l.syncHead p 0x12 = some (f, i, g)) (hf : f.loc = true) (hb : h.bar = some b)
    (hq : leAt g.data 0 4 = b.seq) (hr : b.release = none) (hs : b.sent = false) (children : List Nat) : h.barRelease l cfg p children =
      ({ h with early := h.early ++ [(b.seq, BitVec.ofNat 64 (leAt g.data 4 8), g.aux.testBit 0)] }, l.syncPop p) := by
  simp only [HerdSt.barRelease, hh, hf, hb, hq, HerdSt.seqOk_now hb rfl, hr, hs, Bool.not_true, Bool.not_false, Bool.false_eq_true, or_self,
    if_false, if_true, ne_eq, not_true, Option.isSome_none]

theorem HerdSt.barOver_iff (hb : h.bar = some b) (hr : b.release = none) :
    h.barOver = true ↔ b.timeout ≠ 0 ∧ b.began.toNat + b.timeout * 65536 ≤ h.count.toNat := by
  simp [HerdSt.barOver, hb, hr]

end

theorem State.barrierTimeout_over {s : State} {b : Bar} (hb : s.herd.bar = some b) (hs : b.sent = true) (ho : s.herd.barOver = true)
    (children : List Nat) : s.barrierTimeout children = { s with herd := { s.herd with
      bar := some { b with sent := true, release := some (s.herd.count, false) }
      timeouts := satAdd 16 s.herd.timeouts 1
      ob := (s.herd.ob.line 67).event 6 b.seq 0 } } := by
  simp only [State.barrierTimeout, ho, hb, hs, HerdSt.barTimeoutDo, Bool.not_true, Bool.false_eq_true, if_false, if_true, List.foldl_nil]

/-! ### Lock-step (R378, R380, R381) -/

theorem State.lsCompare_idle {s : State} (h : s.herd.lsState = 0 ∨ s.herd.lsState = 1) : s.lsCompare = s := by
  rw [State.lsCompare, if_neg (by omega), if_neg (by omega)]

theorem HerdSt.tileFound_lsState (h : HerdSt) (f : LsFetch) (sums : List (BitVec 64)) : (h.tileFound f sums).lsState = h.lsState := by
  rw [HerdSt.tileFound]
  split <;> rfl

theorem HerdSt.fetch_lsState (h : HerdSt) (f : LsFetch) : (h.fetch f).lsState = h.lsState := by
  rw [HerdSt.fetch]
  split
  · exact HerdSt.tileFound_lsState ..
  · rfl

theorem HerdSt.compare_lsState (h : HerdSt) (l : LinkSt) (cfg : ChipCfg) (mine theirs : LsRec) (sums : List (BitVec 64)) :
    (h.compare l cfg mine theirs sums).1.lsState = h.lsState := by
  rw [HerdSt.compare]
  split
  · rfl
  · exact HerdSt.fetch_lsState ..

theorem State.lsOne_lsState (s : State) (core : Nat) (e : Nat × Nat × List (BitVec 64)) : (s.lsOne core e).herd.lsState = s.herd.lsState := by
  rw [State.lsOne]
  split
  · rfl
  · exact HerdSt.compare_lsState ..

/-- Comparing the pairs of records that are complete leaves the pairing. -/
theorem State.lsCompare_comparing {s : State} (h : s.herd.lsState = 2) : s.lsCompare.herd.lsState = 2 := by
  have hfold := foldl_keeps (fun s : State => s.herd.lsState) (fun (s : State) c =>
    (s.plane.core c).sig.queue.foldl (fun (s : State) e => s.lsOne c e) s)
    (fun s c => foldl_keeps (fun s : State => s.herd.lsState) _ (fun s e => s.lsOne_lsState c e) _ _) s.plane.live s
  rw [State.lsCompare, if_pos h]
  dsimp only at hfold ⊢
  split <;> exact hfold.trans h

/-- A chip that is MISPAIRED compares nothing and keeps no record. -/
theorem State.lsCompare_mispaired {s : State} (h : s.herd.lsState = 3) :
    s.lsCompare.herd.lsState = 3 ∧ s.lsCompare.herd.remote = [] ∧ s.lsCompare.plane.comparing = false := by
  rw [State.lsCompare, if_neg (by omega), if_pos h]
  exact ⟨h, rfl, rfl⟩

theorem HerdSt.lsTake_record {h : HerdSt} {bs : Bytes} (hl : bs.length = 32) (hs : h.lsState = 1) :
    h.lsTake bs = { h with remote := h.remote ++ [LsRec.of bs] } := by
  rw [HerdSt.lsTake, if_neg (by omega), if_pos (.inl hs)]

theorem HerdSt.lsTake_sums {h : HerdSt} {bs : Bytes} {x : LsFetch} {rest : List LsFetch} (hl : bs.length = 264) (hf : h.fetches = x :: rest)
    (hs : coreSig ((List.range 33).map fun i => BitVec.ofNat 64 (leAt bs (8 * i) 8)) = x.theirs) (h1 : h.first = some x.rec_) :
    h.lsTake bs = { h with
      fetches := rest
      tile := (List.range 33).find? fun i =>
        nth x.sums i 0 != nth ((List.range 33).map fun i => BitVec.ofNat 64 (leAt bs (8 * i) 8)) i 0 } := by
  rw [HerdSt.lsTake, if_pos hl, HerdSt.fetched]
  simp only [hf, takeFirst, hs, beq_self_eq_true, if_true]
  exact if_pos h1

section
variable {h : HerdSt} {l : LinkSt} {cfg : ChipCfg} {p : Nat} {f : Flit} {i : Nat} {g : Seg}

theorem HerdSt.pair_kept (hh : l.syncHead p 0x14 = some (f, i, g)) :
    h.pair l cfg p false = ({ h with pairIn := h.pairIn.set f.src (BitVec.ofNat 12 (leAt g.data 0 2)) }, l.syncPop p) := by
  simp only [HerdSt.pair, hh, Bool.not_false, true_or, if_true]

theorem HerdSt.pair_judged (hh : l.syncHead p 0x14 = some (f, i, g)) (hs : h.lsState = 1) (he : lsEnable h.lsOn = true)
    (hp : lsPartner h.lsOn = f.src) : h.pair l cfg p true = ({ h with
      lsState := if lsEnable (BitVec.ofNat 12 (leAt g.data 0 2)) && lsPartner (BitVec.ofNat 12 (leAt g.data 0 2)) == cfg.herdX then 2 else 3 },
      l.syncPop p) := by
  have h2 : ¬ 2 ≤ h.lsState := by omega
  simp only [HerdSt.pair, hh, h2, HerdSt.judgePair, he, hp, Bool.not_true, Bool.false_eq_true, false_and, or_self, if_false, beq_self_eq_true,
    Bool.and_self, if_true]

end

theorem LinkSt.SameTree.came {l m : LinkSt} (hl : l.SameTree m) (h : HerdSt) (cfg : ChipCfg) (seq : Nat) :
    h.came m cfg seq = h.came l cfg seq := by
  simp only [HerdSt.came, hl.peerHerd]

/-- Settles O43: an arrival, a release, a timeout, a record or sums of the partner, and its pairing message. -/
theorem barriersAndLockstep : Obligations.BarriersAndLockstep := by
  intro s p f i g l1 seen came now
  have hsame : s.link.SameTree l1 := s.link.sameTree_syncPop p
  refine ⟨fun b children members hh hf hb hq => ⟨fun c ms hc hk hn => ?waits, fun hch hs hr hm => ?root⟩,
    fun b hh hf hb hq hr hd => ?release, fun b hb hr hs => ⟨fun ht hc children => ?ranOut, fun ht children => ?early⟩,
    fun hh hs => ⟨fun hl => ?record, fun x rest hl hx => ?sums⟩, fun hh => ?pair⟩
  case waits =>
    have hwait : s.herd.barArrive s.link s.chip p ((children.zip members).map fun x => (x.1.val, x.2.map (·.val))) =
        ({ s.herd with arrives := now }, l1) := by
      rw [HerdSt.barArrive_now hh hf hb hq]
      refine HerdSt.passUp_waits (h := { s.herd with arrives := now }) (l := l1) (x := (c.val, ms.map (·.val))) hb
        (List.mem_map_of_mem (f := fun x : Fin 1024 × List (Fin 1024) => (x.1.val, x.2.map (·.val))) hc) hk ?_
      rw [hsame.came]
      exact hn
    exact congrArg (fun r => Host.Outcome.next (s.onHerdLink r)) hwait
  case root =>
    subst hch
    have hroot : s.chip.herdX = timingRoot l1 := hr.trans hsame.timingRoot.symm
    obtain ⟨b', l', hpass, hseq, hsent, hrel⟩ := HerdSt.passUp_root (h := { s.herd with arrives := now }) (l := l1) (cfg := s.chip) hb hs hroot
      (by rw [hsame.came]; exact fun m hmem => hm m (hsame.mask ▸ hmem))
    have hx : exec (.barrierArrive p [] members) s = .next (s.onHerdLink ({ s.herd with
        bar := some b', arrives := now.filter fun a => a.seq != b.seq }, l')) :=
      congrArg (fun r => Host.Outcome.next (s.onHerdLink r)) ((HerdSt.barArrive_now hh hf hb hq []).trans hpass)
    obtain ⟨_, _, _, _, _, _, htree⟩ := HerdSt.tree_frame { s.herd with bar := some b', arrives := now.filter fun a => a.seq != b.seq } l' s.chip
    exact ⟨_, hx, rfl, (congrArg HerdSt.arrives htree :), b', (congrArg HerdSt.bar htree :), hseq, hsent, hrel⟩
  case release =>
    intro t taken
    refine ⟨fun hs => ?_, fun hs children => congrArg (fun r => Host.Outcome.next (s.onHerdLink r)) (HerdSt.barRelease_held hh hf hb hq hr hs _)⟩
    have hx : exec (.barrierRelease p []) s = .next (seen { s.herd with
        bar := taken, late := if t < s.herd.count then satAdd 16 s.herd.late 1 else s.herd.late }) :=
      congrArg (fun r => Host.Outcome.next (s.onHerdLink r)) (HerdSt.barRelease_taken hh hf hb hq hr hd hs)
    rw [hx]
    exact ⟨fun ht => by rw [if_neg (BitVec.not_lt.mpr ht)], fun ht => by rw [if_pos ht]⟩
  case ranOut =>
    exact congrArg Host.Outcome.next (State.barrierTimeout_over hb hs ((HerdSt.barOver_iff hb hr).mpr ⟨ht, hc⟩) _)
  case early =>
    refine congrArg Host.Outcome.next (if_pos ?_)
    rw [Bool.not_eq_true', ← Bool.not_eq_true, HerdSt.barOver_iff hb hr]
    omega
  case record =>
    show execLsrec p s = _
    simp only [execLsrec, hh, HerdSt.lsTake_record hl hs]
    exact congrArg Host.Outcome.next (State.lsCompare_idle (.inr hs))
  case sums =>
    intro sums hsig hfirst
    show execLsrec p s = _
    simp only [execLsrec, hh, HerdSt.lsTake_sums hl hx hsig hfirst]
    exact congrArg Host.Outcome.next (State.lsCompare_idle (.inr hs))
  case pair =>
    intro w named
    refine ⟨fun ha hs => ?_, fun ha hs he hp => ?_⟩
    · have hx : exec (.pair p) s = .next (seen { s.herd with pairIn := s.herd.pairIn.set f.src w }).lsCompare := by
        show execPair p s = _
        rw [execPair, ha, show ((0 : Nat) != 0) = false from rfl, HerdSt.pair_kept hh]
        rfl
      obtain ⟨_, _, _, _, _, _, htree⟩ := HerdSt.tree_frame { s.herd with pairIn := s.herd.pairIn.set f.src w } l1 s.chip
      rw [hx, State.lsCompare_idle (.inl ((congrArg HerdSt.lsState htree :).trans hs))]
    · have hx : exec (.pair p) s = .next (seen { s.herd with lsState := if lsEnable w && lsPartner w == s.chip.herdX then 2 else 3 }).lsCompare := by
        show execPair p s = _
        rw [execPair, show (s.img.active != 0) = true by simpa using ha, HerdSt.pair_judged hh hs he hp]
        rfl
      obtain ⟨_, _, _, _, _, _, htree⟩ := HerdSt.tree_frame { s.herd with
        lsState := if lsEnable w && lsPartner w == s.chip.herdX then 2 else 3 } l1 s.chip
      have hls : (seen { s.herd with lsState := if lsEnable w && lsPartner w == s.chip.herdX then 2 else 3 }).herd.lsState =
          if lsEnable w && lsPartner w == s.chip.herdX then 2 else 3 := (congrArg HerdSt.lsState htree :)
      refine ⟨fun hn => ⟨_, hx, State.lsCompare_comparing (hls.trans (if_pos ?_))⟩,
        fun hn => ⟨_, hx, State.lsCompare_mispaired (hls.trans (if_neg ?_))⟩⟩
      · rw [hn.1, hn.2, beq_self_eq_true]
        rfl
      · rw [Bool.and_eq_true, beq_iff_eq]
        exact hn

end Sys2Proof.Machine
end
section
/-! Membership of the herd (O44). -/

namespace Sys2Proof.Machine

/-- What MEMBER and JOIN speak of: state, epoch, root and members. -/
def LinkSt.membership (l : LinkSt) : Nat × Nat × Nat × List Nat := (l.mstate, l.epoch, l.root, l.mask)

/-! ### What the link does leaves the membership -/

theorem LinkSt.line_membership (l : LinkSt) (n : Nat) : (l.line n).membership = l.membership := rfl
theorem LinkSt.line_xfers (l : LinkSt) (n : Nat) : (l.line n).xfers = l.xfers := rfl

theorem LinkSt.forward_membership (n : Nat) (l : LinkSt) : (LinkSt.forward n l).membership = l.membership := by
  induction n generalizing l with
  | zero => rfl
  | succ n ih =>
    rw [LinkSt.forward]
    split
    · rfl
    · exact ih _

theorem LinkSt.pump_membership (l : LinkSt) (p : Nat) : (l.pump p).membership = l.membership := LinkSt.forward_membership _ _

theorem LinkSt.send_membership (l : LinkSt) (p vc me dest : Nat) (loc : Bool) (s : Seg) :
    (l.send p vc me dest loc s).membership = l.membership := LinkSt.pump_membership _ _

theorem LinkSt.sendTo_membership (l : LinkSt) (cfg : ChipCfg) (vc dest : Nat) (s : Seg) :
    (l.sendTo cfg vc dest s).membership = l.membership := by
  rw [LinkSt.sendTo]
  split
  · exact LinkSt.send_membership ..
  · rfl

theorem LinkSt.answer_membership (l : LinkSt) (cfg : ChipCfg) (p src : Nat) (s : Seg) :
    (l.answer cfg p src s).membership = l.membership := by
  rw [LinkSt.answer]
  split
  · exact LinkSt.sendTo_membership ..
  · exact LinkSt.send_membership ..

theorem LinkSt.endTag_membership (l : LinkSt) (p t status : Nat) : (l.endTag p t status).membership = l.membership := by
  rw [LinkSt.endTag]
  split <;> rfl

theorem LinkSt.settleTag_membership (l : LinkSt) (p t status : Nat) : (l.settleTag p t status).membership = l.membership := by
  rw [LinkSt.settleTag]
  split
  · rfl
  · exact l.endTag_membership p t status
  · exact l.endTag_membership p t status

theorem LinkSt.settlePort_membership (l : LinkSt) (p status : Nat) (gone : TagUse → Bool) :
    (l.settlePort p status gone).membership = l.membership :=
  foldl_keeps LinkSt.membership _ (fun l _ => l.settleTag_membership p _ status) _ l

theorem LinkSt.dead_membership (l : LinkSt) (gone : Nat → Bool) :
    (l.dead gone).membership = l.membership :=
  foldl_keeps LinkSt.membership _ (fun l p => l.settlePort_membership p 2 _) _ l

theorem LinkSt.setState_membership (l : LinkSt) (p st : Nat) : (l.setState p st).membership = l.membership := by
  rw [LinkSt.setState]
  split
  · rfl
  · dsimp only
    split
    · exact LinkSt.settlePort_membership ..
    · rfl

theorem LinkSt.violation_membership (l : LinkSt) (p cls seq idx : Nat) (counts : Bool) :
    (l.violation p cls seq idx counts).membership = l.membership := by
  rw [LinkSt.violation]
  generalize hl : LinkSt.control _ _ _ = l1
  have h1 : l1.membership = l.membership := by
    rw [← hl]
    rfl
  split
  · exact (LinkSt.setState_membership ..).trans h1
  · exact h1

theorem LinkSt.xfer_membership (l : LinkSt) (p src : Nat) (s : Seg) (f : InXfer → InXfer) :
    (l.xfer p src s f).membership = l.membership := by
  rw [LinkSt.xfer]
  split <;> rfl

theorem LinkSt.dropSeg_membership (l : LinkSt) (cfg : ChipCfg) (p src seq idx cls : Nat) (s : Seg) :
    (l.dropSeg cfg p src seq idx cls s).membership = l.membership := by
  rw [LinkSt.dropSeg]
  split
  · exact (LinkSt.answer_membership ..).trans (LinkSt.violation_membership ..)
  · split
    · exact (LinkSt.xfer_membership ..).trans (LinkSt.violation_membership ..)
    · exact LinkSt.violation_membership ..

theorem LinkSt.queue_membership (l : LinkSt) (cfg : ChipCfg) (p : Nat) (f : Flit) (bad : Option Seg) :
    (l.queue cfg p f bad).membership = l.membership := by
  simp only [LinkSt.queue]
  generalize hw : List.foldl _ l _ = l1
  have hl : l1.membership = l.membership := by
    rw [← hw]
    exact foldl_keeps LinkSt.membership _ (fun _ _ => LinkSt.dropSeg_membership ..) _ l
  split <;> exact hl

theorem LinkSt.accept_membership (l : LinkSt) (cfg : ChipCfg) (p : Nat) (f : Flit) (bad : Option Seg) :
    (l.accept cfg p f bad).membership = l.membership := by
  have hviol (cls : Nat) (counts : Bool) (m : LinkSt) (hm : m.membership = (l.violation p cls f.seq 0 counts).membership) :
      m.membership = l.membership := hm.trans (LinkSt.violation_membership ..)
  rw [LinkSt.accept]
  split
  · rfl
  · split
    · rfl
    · split
      · rfl
      · split
        · exact hviol _ _ _ rfl
        · split
          · rfl
          · split
            · split
              · split
                · exact hviol _ _ _ rfl
                · exact LinkSt.forward_membership _ _
              · exact hviol _ _ _ rfl
            · exact LinkSt.queue_membership ..

theorem LinkSt.rejudge_membership (l : LinkSt) (cfg : ChipCfg) (p : Nat) : (l.rejudge cfg p).membership = l.membership := by
  rw [LinkSt.rejudge, foldl_keeps LinkSt.membership _ fun _ _ => LinkSt.accept_membership ..]
  rfl

/-- An adopted epoch is in force. -/
theorem LinkSt.adopt_membership (l : LinkSt) (cfg : ChipCfg) (epoch root : Nat) (mask : List Nat) :
    (l.adopt cfg epoch root mask).membership = (2, epoch, root, mask) := by
  simp only [LinkSt.adopt]
  generalize hd : LinkSt.dead _ _ = l2
  have h2 : l2.membership = (2, epoch, root, mask) := by
    rw [← hd, LinkSt.dead_membership]
    rfl
  generalize List.range 32 = ps
  rw [LinkSt.line_membership, foldl_keeps LinkSt.membership _ fun l p => ?_]
  · exact h2
  · exact (LinkSt.pump_membership ..).trans (LinkSt.rejudge_membership ..)

theorem LinkSt.flood_membership (l : LinkSt) (cfg : ChipCfg) : (l.flood cfg).membership = l.membership :=
  foldl_keeps LinkSt.membership _ (fun _ _ => LinkSt.send_membership ..) _ l

/-- A chip that becomes FENCED keeps epoch and members, and no transfer stays. -/
theorem LinkSt.fenceAll_membership (l : LinkSt) (root : Nat) :
    (l.fenceAll root).membership = (3, l.epoch, root, l.mask) ∧ (l.fenceAll root).xfers = [] := by
  simp only [LinkSt.fenceAll]
  generalize hd : LinkSt.dead _ _ = l2
  have h2 : l2.membership = (3, l.epoch, root, l.mask) := by
    rw [← hd, LinkSt.dead_membership]
    rfl
  generalize List.range 32 = ps
  generalize List.foldl _ l2.ob l2.xfers = ob
  rw [LinkSt.line_membership, LinkSt.line_xfers]
  constructor
  · rw [foldl_keeps LinkSt.membership _ fun _ _ => ?_]
    · exact h2
    · rfl
  · rw [foldl_keeps LinkSt.xfers _ fun _ _ => ?_]
    rfl

/-! ### The chip's part (R424 to R428) -/

/-- An epoch is in force at this chip, which is a member of it. -/
def State.InForce (t : State) (epoch root : Nat) (mask : List Nat) : Prop :=
  t.link.mstate = 2 ∧ t.link.epoch = epoch ∧ t.link.root = root ∧ t.link.mask = mask

/-- A member adopts an epoch it is in. -/
theorem State.adopt_member {s : State} {epoch root : Nat} {mask : List Nat} (hm : s.chip.herdX ∈ mask) (h3 : s.link.mstate = 2) :
    (s.adopt epoch root mask).InForce epoch root mask ∧ (s.adopt epoch root mask).plane = s.plane ∧
      (s.adopt epoch root mask).host = s.host := by
  have hne : ¬ s.link.mstate = 3 := by omega
  have hin : mask.contains s.chip.herdX = true := List.contains_iff_mem.mpr hm
  rw [State.adopt, if_pos hin]
  dsimp only
  rw [if_neg hne]
  have hflood := (LinkSt.flood_membership (s.link.adopt s.chip epoch root mask) s.chip).trans (LinkSt.adopt_membership s.link s.chip epoch root mask)
  simp only [LinkSt.membership, Prod.mk.injEq] at hflood
  exact ⟨hflood, rfl, rfl⟩

/-- A member that becomes FENCED halts every core at its next seam. -/
theorem State.fence_spec {s : State} (h : s.link.mstate = 2) (epoch root : Nat) :
    (s.fence epoch root).link.mstate = 3 ∧ (s.fence epoch root).link.root = root ∧
      (s.fence epoch root).plane = { s.plane with stop := true } ∧ (s.fence epoch root).link.xfers = [] := by
  have hne : ¬ s.link.mstate = 3 := by omega
  obtain ⟨hm, hx⟩ := s.link.fenceAll_membership root
  simp only [LinkSt.membership, Prod.mk.injEq] at hm
  obtain ⟨hm, -, hr, -⟩ := hm
  rw [State.fence, if_neg hne]
  generalize s.link.fenceAll root = l at hm hr hx ⊢
  exact ⟨hm, hr, rfl, hx⟩

/-- A member that an epoch excludes becomes FENCED under it. -/
theorem State.adopt_excluded {s : State} {epoch root : Nat} {mask : List Nat} (hm : s.chip.herdX ∉ mask) (h : s.link.mstate = 2) :
    s.adopt epoch root mask = { s.fence epoch root with
      link := { (s.fence epoch root).link with epoch := epoch, root := root, mask := mask } } := by
  have hin : ¬ mask.contains s.chip.herdX = true := fun h => hm (List.contains_iff_mem.mp h)
  rw [State.adopt, if_neg hin, if_neg (by omega)]

theorem State.issue_member {s : State} {mask : List Nat} (hm : s.chip.herdX ∈ mask) (h : s.link.mstate = 2) :
    (s.issue mask).InForce ((s.link.epoch + 1) % 65536) (mask.headD 0) mask :=
  (State.adopt_member hm h).1

theorem LinkSt.deadPort_iff (l : LinkSt) (p : Nat) :
    l.deadPort p = true ↔ ∃ t0, (l.port p).downSince = some t0 ∧ t0 + 65536 * l.deadTime.toNat ≤ l.clock := by
  rw [LinkSt.deadPort]
  split
  · next t ht =>
    simp only [ht, Option.some.injEq, exists_eq_left', LinkSt.deadTicks]
    exact decide_eq_true_iff
  · next hn => simp only [hn, reduceCtorEq, false_and, exists_false, Bool.false_eq_true]

/-- Settles O44: JOIN at the root, MEMBER of a newer epoch, suspicion, and the epoch's control flits. -/
theorem membership : Obligations.Membership := by
  intro s p f i g me inForce next
  have hissue {t : State} (hl : t.link.mstate = 2) (he : t.link.epoch = s.link.epoch) (hc : t.chip = s.chip) {mask : List Nat} (hm : me ∈ mask) :
      inForce (t.issue mask) next (mask.headD 0) mask := by
    have h := State.issue_member (s := t) (mask := mask) (by rw [hc]; exact hm) hl
    rw [he] at h
    exact h
  refine ⟨fun hh h2 hr => ⟨fun hid hm => ⟨_, rfl, ?join⟩, fun hid => ?noJoin⟩, fun hh hf h2 hnew => ?member,
    fun hh h2 => ?suspect, fun x h2 => ?timeout, fun e root h2 => ?epoch⟩
  case join =>
    have hx : s.join p = ({ s with link := s.link.syncPop p } : State).issue (secIns f.src s.link.mask) := by
      simp only [State.join, hh]
      exact if_pos ⟨h2, hr, hid⟩
    rw [hx]
    exact hissue (t := { s with link := s.link.syncPop p }) h2 rfl rfl hm
  case noJoin =>
    refine congrArg Host.Outcome.next ?_
    simp only [State.join, hh]
    exact if_neg fun h => hid h.2.2
  case member =>
    intro m mask
    have hx : s.member p = ({ s with link := s.link.syncPop p } : State).adopt (g.aux % 65536) (g.addr % 1024) mask := by
      simp only [State.member, hh, hf, Bool.not_true, Bool.false_eq_true, if_false]
      rw [if_neg (by omega), if_pos (.inr (.inl hnew))]
    refine ⟨fun hb hlt => ⟨_, rfl, ?_⟩, fun hb => ⟨_, rfl, ?_⟩⟩
    · have hin : me ∈ mask := List.mem_filter.mpr ⟨List.mem_range.mpr hlt, hb⟩
      rw [hx]
      exact State.adopt_member (s := { s with link := s.link.syncPop p }) hin h2
    · have hout : me ∉ mask := fun h => by
        have := (List.mem_filter.mp h).2
        rw [hb] at this
        exact absurd this (by decide)
      clear_value mask
      rw [hx, State.adopt_excluded (s := { s with link := s.link.syncPop p }) hout h2]
      obtain ⟨hm, -, hp, hxf⟩ := State.fence_spec (s := { s with link := s.link.syncPop p }) h2 (g.aux % 65536) (g.addr % 1024)
      exact ⟨hm, rfl, rfl, rfl, hp, hxf⟩
  case suspect =>
    intro y rest
    refine ⟨fun hy hne hj hme => ⟨_, rfl, ?_⟩, fun hnot => congrArg Host.Outcome.next ?_⟩
    · have hx : s.suspect p = ({ s with link := s.link.syncPop p } : State).issue rest := by
        simp only [State.suspect, hh]
        exact if_pos ⟨h2, List.contains_iff_mem.mpr hy, hne, hj⟩
      rw [hx]
      exact hissue (t := { s with link := s.link.syncPop p }) h2 rfl rfl (List.mem_filter.mpr ⟨hme, by simpa using fun h => hne h.symm⟩)
    · simp only [State.suspect, hh]
      refine if_neg fun ⟨_, hy, hne, hj⟩ => ?_
      rcases hnot with h | h | h
      · exact h (List.contains_iff_mem.mp hy)
      · exact hne h
      · exact h hj
  case timeout =>
    intro rest gone
    refine ⟨fun hps hgone hx hne hj hme => ⟨_, rfl, ?_⟩, fun hnot => congrArg Host.Outcome.next (if_neg ?_)⟩
    · have hdead : (!(s.portsTo x).isEmpty && (s.portsTo x).all s.link.deadPort) = true := by
        rw [Bool.and_eq_true, Bool.not_eq_true', List.isEmpty_eq_false_iff, List.all_eq_true]
        exact ⟨hps, fun q hq => (s.link.deadPort_iff q).mpr (hgone q hq)⟩
      have hrun : s.suspectTimeout x = s.issue rest := by
        rw [State.suspectTimeout, if_pos hdead, State.suspectOf, if_pos ⟨h2, List.contains_iff_mem.mpr hx, hne⟩]
        exact if_pos hj
      rw [hrun]
      exact hissue h2 rfl rfl (List.mem_filter.mpr ⟨hme, by simpa using fun h => hne h.symm⟩)
    · rw [Bool.and_eq_true, Bool.not_eq_true', List.isEmpty_eq_false_iff, List.all_eq_true]
      rintro ⟨hps, hall⟩
      rcases hnot with h | ⟨q, hq, hn⟩
      · exact hps h
      · exact hn ((s.link.deadPort_iff q).mp (hall q hq))
  case epoch =>
    have h3 : ¬ s.link.mstate = 0 := by omega
    refine ⟨fun ex => congrArg Host.Outcome.next ?_, fun hnew => ⟨congrArg Host.Outcome.next ?_, _, rfl, ?_⟩,
      fun hold ex => congrArg Host.Outcome.next ?_⟩
    · simp only [State.epochFlit, h2, if_true]
    · simp only [State.epochFlit, hnew, h3, Bool.false_eq_true, if_false, if_true]
    · simp only [State.epochFlit, hnew, h2, Bool.false_eq_true, if_false, if_true]
      obtain ⟨hm, hr, hp, -⟩ := State.fence_spec h2 e.toNat root
      exact ⟨hm, hr, hp⟩
    · simp only [State.epochFlit, hold, Bool.false_eq_true, if_false]

end Sys2Proof.Machine
end
section
/-! States of a port, violations and control flits (O46, O49). -/

namespace Sys2Proof.Machine

/-! ### A port that changes its state (R417, R432, R436) -/

/-- From `q` to `q'` open tags have been settled: tags, what counts their ends, and transfers gone may be new, nothing else. -/
def Port.Settled (q q' : Port) : Prop :=
  q' = { q with tags := q'.tags, doneOk := q'.doneOk, doneErr := q'.doneErr, lastErr := q'.lastErr, gone := q'.gone }

theorem Port.Settled.trans {q q' q'' : Port} (h : q.Settled q') (g : q'.Settled q'') : q.Settled q'' := by
  rw [Port.Settled] at h g ⊢
  rw [g, h]

/-- From `l` to `l'` only port `p` may have changed, and there only by settling tags. -/
structure LinkSt.Settles (p : Nat) (l l' : LinkSt) : Prop where
  port : (l.port p).Settled (l'.port p)
  others : ∀ d, d ≠ p → l'.port d = l.port d

theorem LinkSt.Settles.refl (p : Nat) (l : LinkSt) : l.Settles p l := ⟨rfl, fun _ _ => rfl⟩

theorem LinkSt.Settles.trans {p : Nat} {l m n : LinkSt} (h : l.Settles p m) (g : m.Settles p n) : l.Settles p n :=
  ⟨h.port.trans g.port, fun d hd => (g.others d hd).trans (h.others d hd)⟩

theorem LinkSt.settles_onPort (l : LinkSt) {p : Nat} {f : Port → Port} (h : (l.port p).Settled (f (l.port p))) : l.Settles p (l.onPort p f) :=
  ⟨by rw [LinkSt.port_onPort_self]; exact h, fun _ hd => LinkSt.port_onPort_ne l f hd⟩

/-- A port at which the use of a tag has ended with a status (R417, R418). -/
def Port.ends (q : Port) (t status : Nat) : Port :=
  { q with
    tags := q.tags.set t ⟨((q.tag t).gen + 1) % 16, none, 0⟩
    doneOk := if status = 0 then q.doneOk + 1 else q.doneOk
    doneErr := if status = 0 then q.doneErr else satAdd 16 q.doneErr 1
    lastErr := if status = 0 then q.lastErr else status }

theorem LinkSt.endTag_eq (l : LinkSt) (p t status : Nat) : l.endTag p t status =
    if status = 0 then l.onPort p fun q => q.ends t status else (l.onPort p fun q => q.ends t status).line (768 + p) := rfl

theorem LinkSt.settles_endTag (l : LinkSt) (p t status : Nat) : l.Settles p (l.endTag p t status) := by
  have h := l.settles_onPort (p := p) (f := fun q => q.ends t status) rfl
  rw [LinkSt.endTag_eq]
  split
  · exact h
  · exact ⟨h.port, h.others⟩

theorem LinkSt.settles_settleTag (l : LinkSt) (p t status : Nat) : l.Settles p (l.settleTag p t status) := by
  rw [LinkSt.settleTag]
  split
  · exact .refl p l
  · exact ⟨(l.settles_endTag p t status).port, (l.settles_endTag p t status).others⟩
  · next core ch chip fold closed _ =>
    have h := (l.settles_endTag p t status).trans (LinkSt.settles_onPort (l.endTag p t status) (f := fun q =>
      { q with gone := if closed then q.gone else q.gone ++ [.xfer core ch chip fold false] }) rfl)
    exact ⟨h.port, h.others⟩

theorem LinkSt.settles_settlePort (l : LinkSt) (p status : Nat) (gone : TagUse → Bool) : l.Settles p (l.settlePort p status gone) := by
  rw [LinkSt.settlePort]
  generalize List.filter _ (l.port p).tags = ts
  induction ts generalizing l with
  | nil => exact .refl p l
  | cons t ts ih => exact (l.settles_settleTag p t.1 status).trans (ih _)

/-- A port as it enters another state. -/
def Port.enters (q : Port) (st clock : Nat) : Port :=
  { q with
    state := st
    lanes := if st = 0 ∨ st = 5 then 0 else q.lanes
    downSince := if !deadState st then none else if deadState q.state then q.downSince else some clock
    asm := if deadState st then [] else q.asm }

theorem LinkSt.setState_same (l : LinkSt) {p st : Nat} (h : (l.port p).state = st) : l.setState p st = l := if_pos h

theorem LinkSt.setState_ne (l : LinkSt) {p st : Nat} (h : (l.port p).state ≠ st) : l.setState p st =
    if deadState st then ((l.onPort p fun q => q.enters st l.clock).line (800 + p)).settlePort p 3 fun _ => true
    else (l.onPort p fun q => q.enters st l.clock).line (800 + p) := by
  rw [LinkSt.setState, if_neg h]
  rfl

theorem LinkSt.setState_live (l : LinkSt) {p st : Nat} (h : (l.port p).state ≠ st) (hs : deadState st = false) :
    l.setState p st = (l.onPort p fun q => q.enters st l.clock).line (800 + p) := by
  rw [l.setState_ne h, if_neg (by rw [hs]; exact Bool.false_ne_true)]

theorem LinkSt.setState_other (l : LinkSt) {p st : Nat} (h : (l.port p).state ≠ st) :
    (l.onPort p fun q => q.enters st l.clock).Settles p (l.setState p st) := by
  rw [l.setState_ne h]
  split
  · have hs := LinkSt.settles_settlePort ((l.onPort p fun q => q.enters st l.clock).line (800 + p)) p 3 fun _ => true
    exact ⟨hs.port, hs.others⟩
  · exact ⟨rfl, fun _ _ => rfl⟩

/-- What a port in another state keeps. -/
structure Port.Kept (q q' : Port) : Prop where
  badLanes : q'.badLanes = q.badLanes
  failovers : q'.failovers = q.failovers
  disable : q'.disable = q.disable
  replay : q'.replay = q.replay

theorem LinkSt.setState_state (l : LinkSt) (p st : Nat) : ((l.setState p st).port p).state = st := by
  by_cases h : (l.port p).state = st
  · rw [l.setState_same h, h]
  · have hp := (l.setState_other h).port
    rw [Port.Settled] at hp
    rw [hp, LinkSt.port_onPort_self]
    rfl

theorem LinkSt.setState_kept (l : LinkSt) (p st : Nat) : (l.port p).Kept ((l.setState p st).port p) := by
  by_cases h : (l.port p).state = st
  · rw [l.setState_same h]
    exact ⟨rfl, rfl, rfl, rfl⟩
  · have hp := (l.setState_other h).port
    rw [Port.Settled] at hp
    rw [hp, LinkSt.port_onPort_self]
    exact ⟨rfl, rfl, rfl, rfl⟩

theorem LinkSt.setState_lanes (l : LinkSt) {p st : Nat} (h : (l.port p).state ≠ st) :
    ((l.setState p st).port p).lanes = if st = 0 ∨ st = 5 then 0 else (l.port p).lanes := by
  have hp := (l.setState_other h).port
  rw [Port.Settled] at hp
  rw [hp, LinkSt.port_onPort_self]
  rfl

theorem LinkSt.setState_others (l : LinkSt) {p d : Nat} (st : Nat) (hd : d ≠ p) : (l.setState p st).port d = l.port d := by
  by_cases h : (l.port p).state = st
  · rw [l.setState_same h]
  · exact ((l.setState_other h).others d hd).trans (LinkSt.port_onPort_ne l _ hd)

/-! ### Violations (R430 to R432) -/

/-- A port that a violation of the partner has been counted at. -/
def Port.violated (q : Port) (cls seq idx clock : Nat) : Port :=
  { q with
    rxViol := satAdd 16 q.rxViol 1
    lastClass := cls
    lastSeq := seq
    violTimes := (q.violTimes.filter fun t => decide (clock < t + 2 ^ 24)) ++ [clock]
    wire := q.wire ++ [.violation cls seq idx] }

theorem LinkSt.violation_eq (l : LinkSt) (p cls seq idx : Nat) : l.violation p cls seq idx true =
    if (l.port p).violLimit.toNat < ((l.port p).violated cls seq idx l.clock).violTimes.length then
      (l.onPort p fun q => q.violated cls seq idx l.clock).setState p 4
    else l.onPort p fun q => q.violated cls seq idx l.clock := by
  have h1 : (l.onPort p fun q => { q with
      rxViol := satAdd 16 q.rxViol 1, lastClass := cls, lastSeq := seq,
      violTimes := if true = true then (q.violTimes.filter fun t => decide (l.clock < t + 2 ^ 24)) ++ [l.clock] else q.violTimes }).control p
      (.violation cls seq idx) = l.onPort p fun q => q.violated cls seq idx l.clock := by
    rw [LinkSt.control, LinkSt.onPort_onPort]
    rfl
  rw [LinkSt.violation, h1]
  simp only [and_true, LinkSt.port_onPort_self]
  rfl

theorem LinkSt.violation_within (l : LinkSt) {p cls seq idx : Nat}
    (h : ((l.port p).violated cls seq idx l.clock).violTimes.length ≤ (l.port p).violLimit.toNat) :
    l.violation p cls seq idx true = l.onPort p fun q => q.violated cls seq idx l.clock := by
  rw [LinkSt.violation_eq, if_neg (by omega)]

theorem LinkSt.violation_over (l : LinkSt) {p cls seq idx : Nat}
    (h : (l.port p).violLimit.toNat < ((l.port p).violated cls seq idx l.clock).violTimes.length) :
    l.violation p cls seq idx true = (l.onPort p fun q => q.violated cls seq idx l.clock).setState p 4 := by
  rw [LinkSt.violation_eq, if_pos h]

/-- A violation that counts, seen at its port: what it is judged by, what it leaves, and other ports. -/
theorem LinkSt.violation_spec (l : LinkSt) (p cls seq idx : Nat) : let q := l.port p
    let r := (l.violation p cls seq idx true).port p
    r.held = q.held ∧ r.rxViol = satAdd 16 q.rxViol 1 ∧ r.lastClass = cls ∧ r.lastSeq = seq ∧ r.freed = q.freed ∧
    r.violTimes = (q.violTimes.filter fun t => decide (l.clock < t + 2 ^ 24)) ++ [l.clock] ∧
    (q.violLimit.toNat < r.violTimes.length → r.state = 4) ∧ (r.violTimes.length ≤ q.violLimit.toNat → r.state = q.state) ∧
    ∀ d, d ≠ p → (l.violation p cls seq idx true).port d = l.port d := by
  intro q r
  by_cases h : q.violLimit.toNat < (q.violated cls seq idx l.clock).violTimes.length
  · have hr : r = ((l.onPort p fun q => q.violated cls seq idx l.clock).setState p 4).port p := congrArg (·.port p) (l.violation_over h)
    have hst : r.state = 4 := hr ▸ LinkSt.setState_state _ p 4
    have hoth (d : Nat) (hd : d ≠ p) : (l.violation p cls seq idx true).port d = l.port d := by
      rw [l.violation_over h, LinkSt.setState_others _ 4 hd, LinkSt.port_onPort_ne l _ hd]
    by_cases h4 : q.state = 4
    · rw [LinkSt.setState_same _ (by rw [LinkSt.port_onPort_self]; exact h4), LinkSt.port_onPort_self] at hr
      rw [hr]
      exact ⟨rfl, rfl, rfl, rfl, rfl, rfl, fun _ => h4, fun _ => rfl, hoth⟩
    · have hp := (LinkSt.setState_other (l.onPort p fun q => q.violated cls seq idx l.clock) (p := p) (st := 4)
        (by rw [LinkSt.port_onPort_self]; exact h4)).port
      rw [← hr, Port.Settled, LinkSt.port_onPort_self, LinkSt.port_onPort_self] at hp
      have hv : r.violTimes = (q.violated cls seq idx l.clock).violTimes := by rw [hp]; rfl
      refine ⟨by rw [hp]; rfl, by rw [hp]; rfl, by rw [hp]; rfl, by rw [hp]; rfl, by rw [hp]; rfl, hv, fun _ => hst, fun hle => ?_, hoth⟩
      rw [hv] at hle
      omega
  · have hr : r = q.violated cls seq idx l.clock := by
      rw [← LinkSt.port_onPort_self l p fun q => q.violated cls seq idx l.clock]
      exact congrArg (·.port p) (l.violation_within (Nat.le_of_not_lt h))
    rw [hr]
    refine ⟨rfl, rfl, rfl, rfl, rfl, rfl, fun hlt => absurd hlt h, fun _ => rfl, fun d hd => ?_⟩
    rw [l.violation_within (Nat.le_of_not_lt h), LinkSt.port_onPort_ne l _ hd]

/-! ### Control flits and stalls (R421, R426, R431, R432) -/

theorem LinkSt.askAgain_due {l : LinkSt} {p t0 : Nat} (ha : (l.port p).asked = some t0) (hh : (l.port p).held ≠ [])
    (ht : t0 + 65536 ≤ l.clock) : l.askAgain p = l.onPort p fun q => { q with asked := some l.clock, wire := q.wire ++ [.epochAsk] } := by
  simp only [LinkSt.askAgain, ha]
  rw [if_neg (by rintro (h | h); exacts [hh (List.isEmpty_iff.mp h), by omega]), LinkSt.control, LinkSt.onPort_onPort]
  rfl

theorem LinkSt.askAgain_early {l : LinkSt} {p : Nat}
    (h : (l.port p).held = [] ∨ ∃ t0, (l.port p).asked = some t0 ∧ l.clock < t0 + 65536) : l.askAgain p = l := by
  rw [LinkSt.askAgain]
  split
  · next t ht =>
    refine if_pos ?_
    rcases h with h | ⟨t0, h0, hlt⟩
    · exact .inl (by rw [h]; rfl)
    · rw [ht, Option.some.injEq] at h0
      exact .inr (by omega)
  · rfl

/-- Freeing a buffer counts it and tells the partner. -/
theorem Port.free_eq (q : Port) (epoch vc : Nat) : ∃ next wire, q.free epoch vc =
    { q with freed := q.freed.set vc ((nth q.freed vc 0 + 1) % 1024), crNext := next, wire := wire } :=
  ⟨_, _, rfl⟩

theorem nth_set_self {α : Type} (l : List α) (i : Nat) (v d : α) : nth (l.set i v) i d = if i < l.length then v else d := by
  rw [nth, List.getD_eq_getElem?_getD, List.getElem?_set_self']
  split
  · next h => rw [List.getElem?_eq_getElem h]; rfl
  · next h => rw [List.getElem?_eq_none (Nat.le_of_not_lt h)]; rfl

/-- Settles O46: VIOLATION, FENCED, the epoch asked for again, the oldest held flit, and a channel without credit. -/
theorem linkSignals : Obligations.LinkSignals := by
  intro s p q
  refine ⟨rfl, rfl, fun t0 ha hh ht => ?_, fun h => ?_, fun h rest hheld => ⟨fun hdue => ?held, fun hearly => ?early⟩,
    fun vc => ⟨fun t0 hd h2 => ⟨fun hdue => ?stall, fun hlt => ?soon⟩, fun hn => ?credit⟩⟩
  · exact congrArg (fun l => Host.Outcome.next { s with link := l }) (LinkSt.askAgain_due ha hh ht)
  · exact congrArg (fun l => Host.Outcome.next { s with link := l }) (LinkSt.askAgain_early h)
  case held =>
    refine ⟨_, rfl, rfl, ?_⟩
    have hrun : s.link.heldTimeout p =
        ((s.link.onPort p fun q => { q with held := rest }).freeAt p h.flit.vc).violation p 8 h.flit.seq 0 true := by
      rw [LinkSt.heldTimeout, hheld]
      exact if_neg (by rw [LinkSt.deadTicks]; omega)
    obtain ⟨h1, h2, h3, h4, h5, h6, h7, h8, h9⟩ :=
      LinkSt.violation_spec ((s.link.onPort p fun q => { q with held := rest }).freeAt p h.flit.vc) p 8 h.flit.seq 0
    obtain ⟨next, wire, hfree⟩ := ({ q with held := rest } : Port).free_eq s.link.epoch h.flit.vc
    have hport : ((s.link.onPort p fun q => { q with held := rest }).freeAt p h.flit.vc).port p =
        ({ q with held := rest } : Port).free s.link.epoch h.flit.vc := by
      rw [LinkSt.freeAt, LinkSt.port_onPort_self, LinkSt.port_onPort_self]
      rfl
    rw [hport, hfree] at h1 h2 h5 h6 h7 h8
    rw [← hrun] at h1 h2 h3 h4 h5 h6 h7 h8 h9
    refine ⟨h1, h2, h3, h4, ?_, ?_, h7, h8, fun d hd => (h9 d hd).trans ?_⟩
    · exact (congrArg (fun l => nth l h.flit.vc 0) h5).trans (nth_set_self _ _ _ _)
    · exact (congrArg List.length h6).trans List.length_append
    · rw [LinkSt.freeAt, LinkSt.port_onPort_ne _ _ hd, LinkSt.port_onPort_ne _ _ hd]
  case early =>
    have hrun : s.link.heldTimeout p = s.link := by
      rw [LinkSt.heldTimeout, hheld]
      exact if_pos (by rw [LinkSt.deadTicks]; exact hearly)
    exact congrArg (fun l => Host.Outcome.next (s.onLink fun _ => l)) hrun
  case stall =>
    refine congrArg (fun l => Host.Outcome.next { s with link := l }) ?_
    rw [LinkSt.creditStall, hd]
    exact if_pos ⟨by rw [h2]; rfl, hdue⟩
  case soon =>
    refine congrArg (fun l => Host.Outcome.next { s with link := l }) ?_
    rw [LinkSt.creditStall, hd]
    exact if_neg fun h => Nat.not_le.mpr hlt h.2
  case credit =>
    refine congrArg (fun l => Host.Outcome.next { s with link := l }) ?_
    rw [LinkSt.creditStall, hn]

/-! ### Training and lanes (R433 to R437) -/

/-- What is sent again changes the wire alone, with the channel whose credit goes out next. -/
theorem Port.replayAll_eq (q : Port) (mstate : Nat) : ∃ next wire, q.replayAll mstate = { q with crNext := next, wire := wire } ∧
    (q.replay = [] → wire = q.wire) := by
  have hfold (fs : List Flit) : ∀ q : Port, ∃ next wire, fs.foldl (fun (p : Port) f => p.emit f) q = { q with crNext := next, wire := wire } := by
    induction fs with
    | nil => exact fun q => ⟨_, _, rfl⟩
    | cons f fs ih =>
      intro q
      obtain ⟨next, wire, h⟩ := ih (q.emit f)
      exact ⟨next, wire, h⟩
  by_cases hr : q.replay = []
  · have hn : q.replayAll mstate = q := by simp only [Port.replayAll, hr, List.filter_nil, List.foldl_nil]
    exact ⟨q.crNext, q.wire, hn, fun _ => rfl⟩
  · obtain ⟨next, wire, h⟩ := hfold (q.replay.filter fun f => maySend mstate f) q
    exact ⟨next, wire, h, fun hn => absurd hn hr⟩

/-- Changes of a port with nothing to send, with a line between them, let nothing leave. -/
theorem LinkSt.pump_changed (l : LinkSt) {p n : Nat} (f e g : Port → Port) (hb : l.byreStill p) (ho : (g (e (f (l.port p)))).outq = [])
    (hk : (g (e (f (l.port p)))).byre = (l.port p).byre) :
    ((((l.onPort p f).onPort p e).line n).onPort p g).pump p = (l.line n).onPort p (g ∘ e ∘ f) := by
  rw [← LinkSt.pump_still (l.line n) (f := g ∘ e ∘ f) hb ho hk, LinkSt.onPort_onPort]
  exact congrArg (LinkSt.pump · p) (LinkSt.onPort_onPort (l.line n) p (e ∘ f) g)

section
variable {l : LinkSt} {p lanes : Nat} {fin : Bool} {peerId me : BitVec 64} {peerPort : Nat} {rtt asym : BitVec 32} {low : Bool}

theorem LinkSt.train_fails (h : (l.port p).state = 1)
    (hf : fin = false ∨ laneCount ((lanes % 64) &&& (63 - (l.port p).badLanes)) < 3) :
    l.train p lanes fin peerId peerPort rtt asym low me = l.setState p 0 := by
  rw [LinkSt.train, if_neg (by omega), if_pos (hf.imp_left fun h => by rw [h]; rfl)]

/-- A port whose training has finished with `good` lanes, before it is up (R433 to R435). -/
def Port.trainedTo (q : Port) (p good : Nat) (peerId : BitVec 64) (peerPort : Nat) (rtt asym : BitVec 32) (low : Bool) (me : BitVec 64) : Port :=
  { q with
    lanes := if low then lowestLane good else good
    badLanes := q.badLanes + (63 - q.badLanes - good)
    failovers := satAdd 16 q.failovers (laneCount (63 - q.badLanes - good))
    peerValid := true
    peerPort := peerPort % 32
    peerId := peerId
    rtt := rtt
    asym := asym
    peerFenced := false
    credits := if q.trained then q.credits else [128, 128, 128, 32]
    freed := if q.trained then q.freed else [0, 0, 0, 0]
    peerFreed := if q.trained then q.peerFreed else [0, 0, 0, 0]
    txSeq := if q.trained then q.txSeq else 0
    rxSeq := if q.trained then q.rxSeq else 0
    sendings := if q.replay.isEmpty then 0 else 1
    wire := q.wire ++ [.ident me p [128, 128, 128, 32]]
    trained := true }

/-- A training that finishes with lanes enough: the port as it comes up, and no other port changed. -/
theorem LinkSt.train_up (h : (l.port p).state = 1) {good : Nat} (hg : (lanes % 64) &&& (63 - (l.port p).badLanes) = good)
    (hc : 3 ≤ laneCount good) (ho : (l.port p).outq = []) (hb : l.byreStill p) :
    let up := ((l.port p).trainedTo p good peerId peerPort rtt asym low me).enters (if low then 3 else 2) l.clock
    ∃ next wire, (l.train p lanes true peerId peerPort rtt asym low me).port p = { up with crNext := next, wire := wire } ∧
      (up.replay = [] → wire = up.wire) ∧ ∀ d, d ≠ p → (l.train p lanes true peerId peerPort rtt asym low me).port d = l.port d := by
  intro up
  have hlive : deadState (if low then 3 else 2) = false := by cases low <;> rfl
  have hne : (l.port p).state ≠ if low then 3 else 2 := by cases low <;> simp [h]
  have hx : l.train p lanes true peerId peerPort rtt asym low me =
      (((l.onPort p fun _ => (l.port p).trainedTo p good peerId peerPort rtt asym low me).setState p (if low then 3 else 2)).onPort p
        fun q => q.replayAll l.mstate).pump p := by
    rw [LinkSt.train, if_neg (by omega), hg, if_neg (by simp only [Bool.not_true, Bool.false_eq_true, false_or]; omega)]
    rfl
  obtain ⟨next, wire, hr, hw⟩ := up.replayAll_eq l.mstate
  rw [hx, LinkSt.setState_live _ (by rw [LinkSt.port_onPort_self]; exact hne) hlive,
    LinkSt.pump_changed l _ _ _ hb ((congrArg Port.outq hr).trans ho) (congrArg Port.byre hr :)]
  refine ⟨next, wire, (LinkSt.port_onPort_self _ _ _).trans hr, hw, fun d hd => LinkSt.port_onPort_ne _ _ hd⟩

end

theorem LinkSt.retrain_state (l : LinkSt) (p : Nat) (all : Bool) : ((l.retrain p all).port p).state = 1 := LinkSt.setState_state _ p 1

theorem LinkSt.retrain_kept (l : LinkSt) (p : Nat) (all : Bool) : let r := (l.retrain p all).port p
    r.badLanes = (if all then 0 else (l.port p).badLanes) ∧ r.failovers = (l.port p).failovers ∧ r.disable = (l.port p).disable ∧
      r.replay = (l.port p).replay := by
  intro r
  obtain ⟨h1, h2, h3, h4⟩ := LinkSt.setState_kept (l.onPort p fun q => { q with
    retrains := if q.trained then satAdd 16 q.retrains 1 else q.retrains
    badLanes := if all then 0 else q.badLanes
    violTimes := if all then [] else q.violTimes }) p 1
  rw [LinkSt.port_onPort_self] at h1 h2 h3 h4
  exact ⟨h1, h2, h3, h4⟩

theorem LinkSt.retrain_lanes (l : LinkSt) {p : Nat} (all : Bool) (h : (l.port p).state ≠ 1) :
    ((l.retrain p all).port p).lanes = (l.port p).lanes := by
  rw [LinkSt.retrain, LinkSt.setState_lanes _ (by rw [LinkSt.port_onPort_self]; exact h), LinkSt.port_onPort_self]
  rfl

/-- A DOWN port that trains again. -/
theorem LinkSt.retry_down (l : LinkSt) {p : Nat} (h : (l.port p).state = 0) : (l.retry p).port p = { l.port p with
    state := 1, downSince := none, retrains := if (l.port p).trained then satAdd 16 (l.port p).retrains 1 else (l.port p).retrains } := by
  rw [LinkSt.retry, if_pos h, LinkSt.retrain, LinkSt.setState_live _ (by rw [LinkSt.port_onPort_self, h]; decide) rfl, LinkSt.port_line,
    LinkSt.port_onPort_self, LinkSt.port_onPort_self]
  rfl

/-- A port that has lost a lane (R434). -/
def Port.laneLost (q : Port) (lane : Nat) : Port :=
  { q with badLanes := q.badLanes ||| 2 ^ lane, lanes := q.lanes &&& (63 - 2 ^ lane), failovers := satAdd 16 q.failovers 1 }

theorem State.portTrained_link (s : State) (p : Nat) : (s.portTrained p).link = s.link := by
  rw [State.portTrained]
  split
  · dsimp only
    split <;> rfl
  · rfl

/-- Settles O49: training, the retry, a lane that fails, DISABLE and RETRAIN. -/
theorem training : Obligations.Training := by
  intro s p q
  refine ⟨fun lanes fin peerId peerPort rtt asym h1 => ?train, fun hon hcab => ⟨fun h0 => ⟨_, congrArg Host.Outcome.next (if_pos ?here), ?retry⟩,
    fun hne => congrArg Host.Outcome.next ?noRetry⟩, fun lane hbit h2 => ⟨_, rfl, ?lane⟩,
    fun hthere => ⟨⟨_, congrArg Host.Outcome.next (if_pos hthere), ?disable⟩, ⟨_, congrArg Host.Outcome.next (if_pos hthere), ?enable⟩,
      fun hd hc => ⟨_, congrArg Host.Outcome.next (if_pos hthere), ?retrain⟩, fun h => (congrArg Host.Outcome.next (if_pos hthere)).trans ?noRetrain⟩⟩
  case train =>
    intro good failed
    have hg : lanes.toNat % 64 &&& (63 - q.badLanes) = good := by rw [Nat.mod_eq_of_lt lanes.isLt]
    refine ⟨fun hf => ⟨_, congrArg Host.Outcome.next (if_pos h1), ?_⟩, fun hfin hc ho hb => ⟨_, congrArg Host.Outcome.next (if_pos h1), ?_⟩⟩
    · rw [State.portTrained_link]
      simp only [State.onLink]
      rw [LinkSt.train_fails h1 (by rw [hg]; exact hf)]
      obtain ⟨hbad, hfail, -, -⟩ := s.link.setState_kept p 0
      exact ⟨LinkSt.setState_state _ _ _, s.link.setState_lanes (by rw [h1]; decide), hbad, hfail, fun d hd => s.link.setState_others 0 hd⟩
    · subst hfin
      obtain ⟨next, wire, hp, hw, hoth⟩ := LinkSt.train_up (peerId := peerId) (peerPort := peerPort) (rtt := rtt) (asym := asym)
        (low := decide (2 ≤ s.pwr.state)) (me := s.sup.moduleId) h1 hg hc ho hb
      rw [State.portTrained_link]
      simp only [State.onLink]
      rw [hp]
      refine ⟨?_, ?_, rfl, rfl, rfl, Nat.mod_eq_of_lt peerPort.isLt, rfl, rfl, hw, fun ht => ?_,
        fun ht => ⟨if_pos ht, if_pos ht, if_pos ht⟩, rfl, hoth⟩
      · exact ite_congr (decide_eq_true_eq) (fun _ => rfl) fun _ => rfl
      · by_cases h2 : 2 ≤ s.pwr.state
        · rw [if_pos h2, decide_eq_true h2]
          rfl
        · rw [if_neg h2, decide_eq_false h2]
          rfl
      · have hn : ¬ (s.link.port p).trained = true := Bool.not_eq_true _ ▸ ht
        exact ⟨if_neg hn, if_neg hn, if_neg hn⟩
  case here => simp only [hon, hcab, Bool.and_self]
  case retry => exact s.link.retry_down h0
  case noRetry =>
    rw [if_pos (by simp only [hon, hcab, Bool.and_self]), LinkSt.retry, if_neg hne]
  case lane =>
    have hrun : s.link.laneFail p lane =
        if laneCount (63 - (q.badLanes ||| 2 ^ lane.val)) < 3 then
          ((s.link.onPort p fun q => q.laneLost lane).line (800 + p)).setState p 0
        else ((s.link.onPort p fun q => q.laneLost lane).line (800 + p)).retrain p false := by
      have hgo : ¬ ((!bit q.lanes lane) = true ∨ (!([2, 3].contains q.state)) = true) := by rw [hbit, h2]; decide
      rw [LinkSt.laneFail, if_neg hgo]
      simp only [LinkSt.port_line, LinkSt.port_onPort_self]
      rfl
    have hlost : ((s.link.onPort p fun q => q.laneLost lane).line (800 + p)).port p = q.laneLost lane := by
      rw [LinkSt.port_line, LinkSt.port_onPort_self]
    have hbad : bit (q.laneLost lane).badLanes lane = true := by
      simp only [Port.laneLost, bit, Nat.testBit_or, Nat.testBit_two_pow_self, Bool.or_true]
    have hlane : bit (q.laneLost lane).lanes lane = false := by
      have hmask : ∀ i : Fin 6, (63 - 2 ^ i.val).testBit i = false := by decide
      simp only [Port.laneLost, bit, Nat.testBit_and, hmask lane, Bool.and_false]
    simp only [State.onLink]
    rw [hrun]
    split
    · next hfew =>
      obtain ⟨hb, hf, -, -⟩ := LinkSt.setState_kept ((s.link.onPort p fun q => q.laneLost lane).line (800 + p)) p 0
      rw [hlost] at hb hf
      refine ⟨by rw [hb]; exact hbad, ?_, hf, LinkSt.setState_state _ p 0⟩
      rw [LinkSt.setState_lanes _ (by rw [hlost]; exact h2.trans_ne (by decide))]
      exact Nat.zero_testBit _
    · obtain ⟨hb, hf, -, -⟩ := LinkSt.retrain_kept ((s.link.onPort p fun q => q.laneLost lane).line (800 + p)) p false
      rw [hlost] at hb hf
      refine ⟨by rw [hb]; exact hbad, ?_, hf, LinkSt.retrain_state _ p false⟩
      rw [LinkSt.retrain_lanes _ _ (by rw [hlost]; exact h2.trans_ne (by decide)), hlost]
      exact hlane
  case disable =>
    obtain ⟨-, -, hd, -⟩ := LinkSt.setState_kept (s.link.onPort p fun q => { q with disable := true, violTimes := q.violTimes }) p 5
    refine ⟨LinkSt.setState_state _ p 5, hd.trans ?_, fun hne => LinkSt.setState_lanes _ ?_⟩
    · rw [LinkSt.port_onPort_self]
    · rw [LinkSt.port_onPort_self]
      exact hne
  case enable =>
    have hport : (s.link.onPort p fun q => { q with disable := false, violTimes := [] }).port p =
        { q with disable := false, violTimes := [] } := LinkSt.port_onPort_self _ _ _
    rcases hc : s.sup.cabled p with _ | _
    · obtain ⟨hb, -, hd, -⟩ := LinkSt.setState_kept (s.link.onPort p fun q => { q with disable := false, violTimes := [] }) p 0
      rw [hport] at hb hd
      exact ⟨LinkSt.setState_state _ p 0, hd, hb⟩
    · obtain ⟨hb, -, hd, -⟩ := LinkSt.retrain_kept (s.link.onPort p fun q => { q with disable := false, violTimes := [] }) p false
      rw [hport] at hb hd
      exact ⟨LinkSt.retrain_state _ p false, hd, hb⟩
  case retrain =>
    have hrun : s.link.retrainAll p (s.sup.cabled p) = s.link.retrain p true := if_neg (by rw [hc]; simpa using hd)
    obtain ⟨hb, -, -, hr⟩ := s.link.retrain_kept p true
    simp only [State.onLink]
    rw [hrun]
    exact ⟨LinkSt.retrain_state _ p true, hb, hr⟩
  case noRetrain =>
    have hrun : s.link.retrainAll p (s.sup.cabled p) = s.link :=
      if_pos (by rw [Bool.or_eq_true, Bool.not_eq_true']; exact h)
    exact congrArg (fun l => Host.Outcome.next (s.onLink fun _ => l)) hrun

end Sys2Proof.Machine
end
section
/-! Receiving, acknowledging and replaying flits (O45). -/

namespace Sys2Proof.Machine

theorem State.onLink_congr {s : State} {f g : LinkSt → LinkSt} (h : f s.link = g s.link) : s.onLink f = s.onLink g := by
  rw [State.onLink, State.onLink, h]

theorem LinkSt.onPort_congr {l : LinkSt} {p : Nat} {f g : Port → Port} (h : f (l.port p) = g (l.port p)) : l.onPort p f = l.onPort p g := by
  rw [LinkSt.onPort, LinkSt.onPort, h]

/-! ### Acknowledging and replay (R401, R407, R408) -/

theorem LinkSt.credited_still (l : LinkSt) {p : Nat} (ho : (l.port p).outq = []) (hb : l.byreStill p) (ack vc n : Nat) :
    l.credited p ack vc n = l.onPort p fun q => q.credit ack vc n :=
  LinkSt.pump_still l hb ho rfl

section
variable {l : LinkSt} {p : Nat} {f : Flit} {rest : List Flit}

theorem LinkSt.resend_oldest (hr : (l.port p).replay = f :: rest) (h2 : (l.port p).state = 2) : l.resend p f.seq =
    if 8 ≤ (l.port p).sendings then l.retrain p false
    else l.onPort p fun q => ({ q with replay := q.replay.drop 0, sendings := (l.port p).sendings + 1 } : Port).replayAll l.mstate := by
  have hfind : ((l.port p).replay.zipIdx).find? (fun x => x.1.seq == f.seq) = some (f, 0) := by
    rw [hr, List.zipIdx_cons, List.find?_cons_of_pos (by exact beq_self_eq_true _)]
  simp only [LinkSt.resend, h2, true_or, if_true, hfind]

theorem LinkSt.resend_few (hr : (l.port p).replay = f :: rest) (h2 : (l.port p).state = 2) (hs : (l.port p).sendings < 8)
    (hm : ∀ x ∈ (l.port p).replay, maySend l.mstate x = true) : l.resend p f.seq =
      l.onPort p fun q => (f :: rest).foldl (fun (q : Port) x => q.emit x) { q with sendings := q.sendings + 1 } := by
  rw [LinkSt.resend_oldest hr h2, if_neg (by omega)]
  refine congrArg (fun q => ({ l with ports := l.ports.set p q } : LinkSt)) ?_
  simp only [Port.replayAll, List.drop_zero]
  rw [List.filter_eq_self.mpr hm, hr]

theorem LinkSt.resend_many (hr : (l.port p).replay = f :: rest) (h2 : (l.port p).state = 2) (hs : 8 ≤ (l.port p).sendings) :
    l.resend p f.seq = l.retrain p false := by
  rw [LinkSt.resend_oldest hr h2, if_pos hs]

end

/-! ### What is done with a flit (R405, R406, R420) -/

section
variable {cfg : ChipCfg} {l : LinkSt} {p : Nat} {f : Flit}

/-- A flit of the epoch in force from a member, or a neighbour, for this chip goes to its buffer. -/
theorem LinkSt.accept_here (h4 : (l.port p).state ≠ 4) (h1 : l.mstate ≠ 1) (he : f.epoch = l.epoch)
    (hm : f.loc = true ∨ l.mstate ≠ 2 ∨ f.src ∈ l.mask) (hd : f.loc = true ∨ f.dest = cfg.herdX) (bad : Option Seg) :
    l.accept cfg p f bad = l.queue cfg p f bad := by
  have ht : (!f.loc && f.dest != cfg.herdX) = false := by
    rcases hd with h | h <;> simp [h]
  have hin : ¬ (f.loc = false ∧ l.mstate = 2 ∧ l.mask.contains f.src = false) := by
    rintro ⟨h, h2, h3⟩
    rcases hm with hm | hm | hm
    · rw [h] at hm
      cases hm
    · exact hm h2
    · rw [List.contains_iff_mem.mpr hm] at h3
      cases h3
  simp only [LinkSt.accept, ht, he, ne_eq, not_true, false_and, and_false, false_or, if_neg h4, h1, Bool.false_eq_true, if_false,
    Bool.false_and, Bool.not_eq_true', hin]

/-- A flit in transit whose sender is a member and whose route is valid enters the byre. -/
theorem LinkSt.accept_transit (h4 : (l.port p).state ≠ 4) (h2 : l.mstate = 2) (he : f.epoch = l.epoch) (hl : f.loc = false)
    (hd : f.dest ≠ cfg.herdX) (hm : f.src ∈ l.mask) {d out : Nat} (hr : cfg.links.find? (·.1 == f.dest) = some (d, out)) (hh : 0 < f.hops)
    (bad : Option Seg) : l.accept cfg p f bad = (l.onPort p fun q => q.enterByre l.epoch out { f with hops := f.hops - 1 }).forwardAll := by
  have ht : (!f.loc && f.dest != cfg.herdX) = true := by simp [hl, hd]
  have hin : l.mask.contains f.src = true := List.contains_iff_mem.mpr hm
  have hh' : ¬ f.hops = 0 := by omega
  simp only [LinkSt.accept, ht, he, ne_eq, not_true, false_and, and_false, false_or, if_neg h4, h2, Bool.false_eq_true, if_false, hin, hr, hh',
    Bool.not_true, Nat.reduceEqDiff, Nat.reduceBEq, Bool.and_false, Bool.false_and, if_true]

/-- The segments of a sound flit wait in its buffer. -/
theorem LinkSt.queue_sound (hs : ∀ g ∈ f.segs, opOnVc g.op f.vc = true ∧ readBad g = false) (hne : f.segs ≠ []) :
    l.queue cfg p f none = l.onPort p fun q =>
      ({ q with rx := q.rx ++ [⟨f, f.segs.zipIdx.map fun x => (x.2, x.1)⟩] } : Port).fillSync l.epoch 1 := by
  have hall : ∀ x ∈ f.segs.zipIdx, (opOnVc x.1.op f.vc && !readBad x.1) = true := by
    intro x hx
    obtain ⟨h1, h2⟩ := hs x.1 (List.fst_mem_of_mem_zipIdx hx)
    rw [h1, h2]
    rfl
  have hgood : f.segs.zipIdx.filter (fun x => opOnVc x.1.op f.vc && !readBad x.1) = f.segs.zipIdx := List.filter_eq_self.mpr hall
  have hwrong : f.segs.zipIdx.filter (fun x => !(opOnVc x.1.op f.vc && !readBad x.1)) = [] := by
    rw [List.filter_eq_nil_iff]
    intro x hx
    rw [hall x hx]
    decide
  have hk : (f.segs.zipIdx.map fun x => (x.2, x.1)).isEmpty = false := by
    rw [List.isEmpty_eq_false_iff]
    simpa using hne
  simp only [LinkSt.queue, hgood, hwrong, List.append_nil, List.foldl_nil, hk, Bool.false_eq_true, if_false]

end

theorem Port.fillSync_other {epoch : Nat} {q : Port} (h : ∀ r ∈ q.rx, r.flit.vc ≠ 3) : q.fillSync epoch 1 = q := by
  rw [Port.fillSync, takeFirst_eq_none fun r hr => by simpa using h r hr]

/-- The only SYNC flit that waits gives its records to the Sync handler, and frees its buffer. -/
theorem Port.fillSync_last {epoch : Nat} {q : Port} {r : RxFlit} (h : ∀ r ∈ q.rx, r.flit.vc ≠ 3) (hv : r.flit.vc = 3)
    (hroom : q.sync.length + r.segs.length ≤ 64) : ({ q with rx := q.rx ++ [r] } : Port).fillSync epoch 1 =
      ({ q with sync := q.sync ++ r.segs.map fun x => (r.flit, x) } : Port).free epoch 3 := by
  have ht : takeFirst (fun r : RxFlit => r.flit.vc == 3) (q.rx ++ [r]) = some (r, q.rx) :=
    takeFirst_append_singleton (by rw [hv]; rfl) fun r hr => by simpa using h r hr
  simp only [Port.fillSync, ht]
  exact if_neg (by omega)

theorem Port.enterByre_eq (q : Port) (epoch out : Nat) (f : Flit) : (q.byreUse f.vc < 32 ∧ ∃ next wire, q.enterByre epoch out f =
      { q with byre := q.byre ++ [(out, f)], freed := q.freed.set f.vc ((nth q.freed f.vc 0 + 1) % 1024), crNext := next, wire := wire }) ∨
    (32 ≤ q.byreUse f.vc ∧ q.enterByre epoch out f = { q with through := q.through ++ [(out, f)] }) := by
  by_cases h : q.byreUse f.vc < 32
  · obtain ⟨next, wire, hf⟩ := ({ q with byre := q.byre ++ [(out, f)] } : Port).free_eq epoch f.vc
    exact .inl ⟨h, next, wire, by rw [Port.enterByre, if_pos h]; exact hf⟩
  · exact .inr ⟨by omega, by rw [Port.enterByre, if_neg h]⟩

/-- A flit that enters the byre for a port without credit leaves nothing to forward. -/
theorem LinkSt.enterByre_still (l : LinkSt) {p out : Nat} {f : Flit} {e : Port → Port} (hb : l.byreStill p) (ho : out ≠ p)
    (hc : nth (l.port out).credits f.vc 0 = 0)
    (he : (e (l.port p)).byre = (l.port p).byre ++ [(out, f)] ∨ (e (l.port p)).byre = (l.port p).byre) :
    (l.onPort p e).forwardAll = l.onPort p e := by
  refine LinkSt.forwardAll_still _ fun x hx => ?_
  have hold (h : x ∈ l.byres) : (l.onPort p e).canSend x.2.1 x.2.2 = false := by
    obtain ⟨hne, hs⟩ := hb x h
    simp only [LinkSt.canSend, l.port_onPort_ne e hne] at hs ⊢
    exact hs
  rcases l.mem_byres_onPort p e x hx with h | ⟨hp, hy⟩
  · exact hold h
  · have hin (h : x.2 ∈ (l.port p).byre) : x ∈ l.byres := by
      have hm := l.mem_byres p x.2 h
      rwa [← hp] at hm
    rcases he with he | he <;> rw [he] at hy
    · rcases List.mem_append.mp hy with h | h
      · exact hold (hin h)
      · rw [List.mem_singleton] at h
        rw [h]
        simp only [LinkSt.canSend, l.port_onPort_ne e ho, hc]
        rw [decide_eq_false (Nat.lt_irrefl 0), Bool.and_false, Bool.false_and]
    · exact hold (hin hy)

/-! ### DATA_FLIT_RECEIVE (R401, R405, R407) -/

/-- A port at which the codewords of a flit have been counted. -/
def Port.counted (q : Port) (c u : Nat) : Port := { q with fecCorr := q.fecCorr + BitVec.ofNat 32 c, fecUncorr := satAdd 16 q.fecUncorr u }

section
variable {cfg : ChipCfg} {l : LinkSt} {p : Nat} {bytes : Bytes} {c u : Nat} {x : RxParse}

theorem LinkSt.receive_broken (h2 : (l.port p).state = 2) (hb : u ≠ 0 ∨ Flit.parse bytes = none) : l.receive cfg p bytes c u =
    l.onPort p fun q => { q.counted c u with naksTx := satAdd 16 q.naksTx 1, wire := q.wire ++ [.nak q.rxSeq] } := by
  have hn : (if u = 0 then Flit.parse bytes else none) = none := by
    split
    · next h0 => exact hb.resolve_left fun h => h h0
    · rfl
  rw [LinkSt.receive, if_neg (by omega), hn]
  simp only [LinkSt.control, LinkSt.onPort_onPort]
  rfl

theorem LinkSt.receive_reserved (h2 : (l.port p).state = 2) (hu : u = 0) (hx : Flit.parse bytes = some x) (hk : x.kind = 3)
    (hl : (l.port p).violLimit = 255) (hv : (l.port p).violTimes = []) : l.receive cfg p bytes c u =
      l.onPort p fun q => { q.counted c u with rxViol := satAdd 16 q.rxViol 1, lastClass := 1, lastSeq := x.flit.seq,
                                               violTimes := [l.clock], wire := q.wire ++ [.violation 1 x.flit.seq 0] } := by
  subst hu
  rw [LinkSt.receive, if_neg (by omega), if_pos rfl, hx]
  dsimp only
  rw [if_pos hk, LinkSt.violation_within]
  · rw [LinkSt.onPort_onPort]
    refine congrArg (fun q => ({ l with ports := l.ports.set p q } : LinkSt)) ?_
    simp only [Function.comp, Port.violated, Port.counted, hv, List.filter_nil, List.nil_append]
    rfl
  · rw [LinkSt.port_onPort_self]
    simp only [Port.violated, hv, hl, List.filter_nil, List.nil_append]
    exact (by decide : 1 ≤ (255 : BitVec 8).toNat)

/-- A DATA flit is dealt with once its acknowledgement and credit are taken. -/
theorem LinkSt.receive_data (h2 : (l.port p).state = 2) (hu : u = 0) (hx : Flit.parse bytes = some x) (hk : x.kind = 1)
    (ho : (l.port p).outq = []) (hb : l.byreStill p) : l.receive cfg p bytes c u =
      (l.onPort p fun q => (q.counted c u).credit x.flit.ack x.flit.crVc x.flit.crCount).receiveData cfg p x := by
  subst hu
  rw [LinkSt.receive, if_neg (by omega), if_pos rfl, hx]
  dsimp only
  rw [if_neg (by omega), if_pos hk, LinkSt.credited_still _ (by rw [LinkSt.port_onPort_self]; exact ho) (l.byreStill_onPort hb rfl),
    LinkSt.onPort_onPort]
  rfl

theorem LinkSt.receiveData_next (hs : x.flit.seq = (l.port p).rxSeq) (hroom : (l.port p).inUse x.flit.vc < vcSize x.flit.vc)
    (hsound : x.sound = true) : l.receiveData cfg p x =
      (l.onPort p fun q => { q with rxSeq := (q.rxSeq + 1) % 4096 }).accept cfg p x.flit x.bad := by
  simp only [LinkSt.receiveData, hs, if_true, LinkSt.port_onPort_self, hsound, Bool.not_true, Bool.false_eq_true, if_false]
  exact if_neg (Nat.not_le.mpr hroom)

theorem LinkSt.receiveData_duplicate (hs : x.flit.seq ≠ (l.port p).rxSeq) (hd : ((l.port p).rxSeq + 4096 - x.flit.seq) % 4096 ≤ 512) :
    l.receiveData cfg p x = l := by
  simp only [LinkSt.receiveData, if_neg hs]
  exact if_pos hd

end

/-- Settles O45: what a port that is up does with a flit, an IDLE flit, a NAK and the replay timeout. -/
theorem linkLevel : Obligations.LinkLevel := by
  intro s p q
  refine ⟨fun h2 bytes c u => ?receive, fun ack vc n ho hb => ?idle, fun f rest n hr hn h2 => ⟨fun hs hm => ?few, fun hs => ?many⟩, fun hr => ?none⟩
  case receive =>
    intro counted
    have hx : exec (.dataFlitReceive p bytes (c, u)) s = .next (s.onLink fun l => l.receive s.chip p bytes c u) :=
      congrArg Host.Outcome.next (State.onLink_congr (congrArg (LinkSt.receive · s.chip p bytes c u) (if_neg (h2.trans_ne (by decide)))))
    refine ⟨fun hb => hx.trans (congrArg Host.Outcome.next (State.onLink_congr (LinkSt.receive_broken h2 hb))), fun x hu hp => ?_⟩
    intro f paid
    refine ⟨fun hk hl hv => hx.trans (congrArg Host.Outcome.next (State.onLink_congr (LinkSt.receive_reserved h2 hu hp hk hl hv))),
      fun hk hsound hbad ho hb => ?_⟩
    have hrun : s.link.receive s.chip p bytes c u = (s.link.onPort p paid).receiveData s.chip p x := LinkSt.receive_data h2 hu hp hk ho hb
    have hport : (s.link.onPort p paid).port p = paid q := LinkSt.port_onPort_self _ _ _
    let taken := fun (q : Port) => { paid q with rxSeq := (q.rxSeq + 1) % 4096 }
    have hport2 : (s.link.onPort p taken).port p = taken q := LinkSt.port_onPort_self _ _ _
    have hnext (hs : f.seq = q.rxSeq) (hroom : q.inUse f.vc < vcSize f.vc) : s.link.receive s.chip p bytes c u =
        (s.link.onPort p taken).accept s.chip p f none := by
      refine hrun.trans ((LinkSt.receiveData_next (by rw [hport]; exact hs) (by rw [hport]; exact hroom) hsound).trans ?_)
      rw [hbad, LinkSt.onPort_onPort]
      rfl
    refine ⟨fun hs hroom h1 he hm hrx hd hne hsegs => ?_, fun hs hdup => ?_, fun d out hs hroom he hl hd hms hm hr hh hout hc => ?_⟩
    · have hqueue : s.link.receive s.chip p bytes c u = s.link.onPort p fun q => ({ taken q with
          rx := q.rx ++ [⟨f, f.segs.zipIdx.map fun x => (x.2, x.1)⟩] } : Port).fillSync s.link.epoch 1 := by
        rw [hnext hs hroom, LinkSt.accept_here (l := s.link.onPort p taken) (by rw [hport2]; exact h2.trans_ne (by decide)) h1 he hm hd, LinkSt.queue_sound hsegs hne,
          LinkSt.onPort_onPort]
        rfl
      intro kept
      refine ⟨fun hv => hx.trans (congrArg Host.Outcome.next (State.onLink_congr (hqueue.trans (LinkSt.onPort_congr ?_)))),
        fun hv hsync => ⟨_, hx, rfl, ?_⟩⟩
      · exact Port.fillSync_other fun r hr => (List.mem_append.mp hr).elim (hrx r) fun h => by rwa [List.mem_singleton.mp h]
      · have hlast : ({ taken q with rx := q.rx ++ [⟨f, kept⟩] } : Port).fillSync s.link.epoch 1 =
            ({ taken q with sync := q.sync ++ kept.map fun x => (f, x) } : Port).free s.link.epoch 3 :=
          Port.fillSync_last (q := taken q) (r := ⟨f, kept⟩) hrx hv
            (by simp only [kept, List.length_map, List.length_zipIdx]; exact hsync)
        obtain ⟨next, wire, hfree⟩ :=
          ({ taken q with sync := q.sync ++ kept.map fun x => (f, x) } : Port).free_eq s.link.epoch 3
        simp only [State.onLink]
        rw [hqueue, LinkSt.port_onPort_self]
        refine ⟨fun o ho => LinkSt.port_onPort_ne _ _ ho, ?_⟩
        have hend := hlast.trans hfree
        exact ⟨(congrArg Port.rxSeq hend :), (congrArg Port.rx hend :), (congrArg Port.sync hend :), (congrArg Port.freed hend :)⟩
    · refine hx.trans (congrArg Host.Outcome.next (State.onLink_congr (hrun.trans ?_)))
      exact LinkSt.receiveData_duplicate (by rw [hport]; exact hs) (by rw [hport]; exact hdup)
    · have hbyre : s.link.receive s.chip p bytes c u = (s.link.onPort p fun q =>
          (taken q).enterByre s.link.epoch out { f with hops := f.hops - 1 }).forwardAll := by
        rw [hnext hs hroom, LinkSt.accept_transit (l := s.link.onPort p taken) (by rw [hport2]; exact h2.trans_ne (by decide)) hms he hl hd hm hr hh, LinkSt.onPort_onPort]
        rfl
      have henter := (taken q).enterByre_eq s.link.epoch out { f with hops := f.hops - 1 }
      rw [LinkSt.enterByre_still _ hb hout (f := { f with hops := f.hops - 1 }) hc (henter.imp
        (fun ⟨_, next, wire, h⟩ => (congrArg Port.byre h :)) fun ⟨_, h⟩ => (congrArg Port.byre h :))] at hbyre
      refine ⟨_, hx, rfl, ?_⟩
      simp only [State.onLink]
      rw [hbyre, LinkSt.port_onPort_self]
      refine ⟨fun o ho => LinkSt.port_onPort_ne _ _ ho, ?_⟩
      rcases henter with ⟨huse, next, wire, h⟩ | ⟨huse, h⟩
      · refine ⟨(congrArg Port.rx h :), (congrArg Port.rxSeq h :), fun _ => ⟨(congrArg Port.byre h :), (congrArg Port.through h :), (congrArg Port.freed h :)⟩,
          fun hfull => absurd huse (Nat.not_lt.mpr hfull)⟩
      · exact ⟨(congrArg Port.rx h :), (congrArg Port.rxSeq h :), fun hfree => absurd hfree (Nat.not_lt.mpr huse),
          fun _ => ⟨(congrArg Port.byre h :), (congrArg Port.freed h :), (congrArg Port.through h :)⟩⟩
  case idle =>
    refine congrArg (fun l => Host.Outcome.next { s with link := l }) ?_
    rw [LinkSt.idleFlit, LinkSt.credited_still _ ho hb, Nat.mod_eq_of_lt ack.isLt, Nat.mod_eq_of_lt vc.isLt, Nat.mod_eq_of_lt n.isLt]
  case few =>
    intro again
    refine ⟨congrArg Host.Outcome.next (State.onLink_congr ?_), congrArg Host.Outcome.next (State.onLink_congr ?_)⟩
    · have hport : (s.link.onPort p fun q => { q with naksRx := satAdd 16 q.naksRx 1 }).port p = { q with naksRx := satAdd 16 q.naksRx 1 } :=
        LinkSt.port_onPort_self _ _ _
      rw [LinkSt.nak, Nat.mod_eq_of_lt n.isLt, ← hn, LinkSt.resend_few (by rw [hport]; exact hr) (by rw [hport]; exact h2)
        (by rw [hport]; exact hs) (by rw [hport]; exact hm), LinkSt.onPort_onPort]
      rfl
    · simp only [LinkSt.replayTimeout, show (s.link.port p).replay = f :: rest from hr]
      exact LinkSt.resend_few hr h2 hs hm
  case many =>
    refine ⟨⟨_, rfl, ?_⟩, ⟨_, rfl, ?_⟩⟩
    · have hport : (s.link.onPort p fun q => { q with naksRx := satAdd 16 q.naksRx 1 }).port p = { q with naksRx := satAdd 16 q.naksRx 1 } :=
        LinkSt.port_onPort_self _ _ _
      simp only [State.onLink]
      rw [LinkSt.nak, Nat.mod_eq_of_lt n.isLt, ← hn, LinkSt.resend_many (by rw [hport]; exact hr) (by rw [hport]; exact h2)
        (by rw [hport]; exact hs)]
      obtain ⟨-, -, -, hk⟩ := (s.link.onPort p fun q => { q with naksRx := satAdd 16 q.naksRx 1 }).retrain_kept p false
      rw [hport] at hk
      exact ⟨LinkSt.retrain_state _ p false, hk⟩
    · have hrun : s.link.replayTimeout p = s.link.retrain p false := by
        simp only [LinkSt.replayTimeout, show (s.link.port p).replay = f :: rest from hr]
        exact LinkSt.resend_many hr h2 hs
      simp only [State.onLink]
      rw [hrun]
      obtain ⟨-, -, -, hk⟩ := s.link.retrain_kept p false
      exact ⟨LinkSt.retrain_state _ p false, hk⟩
  case none =>
    refine congrArg Host.Outcome.next (State.onLink_congr ?_)
    simp only [LinkSt.replayTimeout, show (s.link.port p).replay = [] from hr, id]

end Sys2Proof.Machine
end
section
/-! Requests of other chips and what they are answered with (O47, O48). -/

namespace Sys2Proof.Machine

/-! ### Transfers that arrive (R413) -/

/-- No transfer of the segment stands here yet. -/
def LinkSt.Fresh (l : LinkSt) (p src : Nat) (g : Seg) : Prop := ∀ x ∈ l.xfers, ¬ (x.src = src ∧ x.tag = g.tag ∧ x.gen = g.gen ∧ x.port = p)

theorem LinkSt.xfer_fresh {l : LinkSt} {p src : Nat} {g : Seg} (h : l.Fresh p src g) (f : InXfer → InXfer) :
    l.xfer p src g f = { l with xfers := l.xfers ++ [f ⟨p, src, g.tag, g.gen, g.core, g.mch, 0, none, 0⟩] } := by
  have hn : ¬ (l.xfers.any fun x => x.src == src && x.tag == g.tag && x.gen == g.gen && x.port == p) = true := by
    rw [List.any_eq_true]
    rintro ⟨x, hx, hs⟩
    simp only [Bool.and_eq_true, beq_iff_eq, and_assoc] at hs
    exact h x hx hs
  exact if_neg hn

/-! ### What settling leaves of the transfers that arrive -/

theorem LinkSt.endTag_xfers (l : LinkSt) (p t status : Nat) : (l.endTag p t status).xfers = l.xfers := by
  rw [LinkSt.endTag_eq]
  split <;> rfl

theorem LinkSt.settleTag_xfers (l : LinkSt) (p t status : Nat) : (l.settleTag p t status).xfers = l.xfers := by
  rw [LinkSt.settleTag]
  split
  · rfl
  · exact l.endTag_xfers p t status
  · exact l.endTag_xfers p t status

theorem LinkSt.setState_xfers (l : LinkSt) (p st : Nat) : (l.setState p st).xfers = l.xfers := by
  by_cases h : (l.port p).state = st
  · rw [l.setState_same h]
  · rw [l.setState_ne h]
    split
    · exact foldl_keeps LinkSt.xfers _ (fun _ _ => LinkSt.settleTag_xfers ..) _ _
    · rfl

theorem LinkSt.violation_xfers (l : LinkSt) (p cls seq idx : Nat) : (l.violation p cls seq idx true).xfers = l.xfers := by
  rw [LinkSt.violation_eq]
  split
  · exact LinkSt.setState_xfers ..
  · rfl

/-! ### Requests (R403, R410, R413 to R415, R435) -/

section
variable {l : LinkSt} {x : ExtSt} {cfg : ChipCfg} {p vc : Nat} {f : Flit} {idx : Nat} {g : Seg}

theorem LinkSt.popped_state (l : LinkSt) (p vc : Nat) : ((l.onPort p fun q => q.popSeg l.epoch vc).port p).state = (l.port p).state := by
  have h := (l.port p).takes_popSeg l.epoch vc
  rw [Port.Takes] at h
  rw [LinkSt.port_onPort_self, h]

theorem LinkSt.store_taken {kind : Nat} (h2 : (l.port p).state = 2) (ha : inArena cfg kind g.addr g.data.length = true) (hf : l.Fresh p f.src g) :
    l.store x cfg p f idx kind g =
      ({ l with xfers := l.xfers ++ [⟨p, f.src, g.tag, g.gen, g.core, g.mch, 1, none, 0⟩] },
       (x.writeMasked cfg g.addr g.data.length g.fmt (if kind = 1 then g.masked else plainBytes g.addr g.data)).1) := by
  rw [LinkSt.store, if_neg (by omega), if_pos ha, LinkSt.xfer_fresh hf]

theorem LinkSt.store_slow {kind : Nat} (h3 : (l.port p).state = 3) (hf : l.Fresh p f.src g) : l.store x cfg p f idx kind g =
    ({ l with xfers := l.xfers ++ [⟨p, f.src, g.tag, g.gen, g.core, g.mch, 1, none, 5⟩] }, x) := by
  rw [LinkSt.store, if_pos h3, LinkSt.xfer_fresh hf]

/-- A WRITE or FOLD outside every arena of its kind is dropped as a violation, and counts for its transfer. -/
theorem LinkSt.store_outside {kind : Nat} (h2 : (l.port p).state = 2) (ha : inArena cfg kind g.addr g.data.length = false)
    (hf : l.Fresh p f.src g) (ho : g.op = 1 ∨ g.op = 3) : l.store x cfg p f idx kind g =
      ({ l.violation p 5 f.seq idx true with xfers := l.xfers ++ [⟨p, f.src, g.tag, g.gen, g.core, g.mch, 1, none, 1⟩] }, x) := by
  have hf' : (l.violation p 5 f.seq idx true).Fresh p f.src g := by
    rw [LinkSt.Fresh, LinkSt.violation_xfers]
    exact hf
  rw [LinkSt.store, if_neg (by omega), if_neg (by rw [ha]; decide), LinkSt.dropSeg, if_neg (by omega), if_pos ho, LinkSt.xfer_fresh hf',
    LinkSt.violation_xfers]

/-- The sectors of a READ that came poisoned, as RDATA tells them (log entry 38). -/
def poisonOf (bad : Nat → Bool) (k : Nat) : Nat := (List.range k).foldl (fun m i => m + (if bad i then 2 ^ i else 0)) 0

theorem poisonOf_lt (bad : Nat → Bool) (k : Nat) : poisonOf bad k < 2 ^ k := by
  induction k with
  | zero => exact Nat.one_pos
  | succ k ih =>
    rw [poisonOf, List.range_succ, List.foldl_append] at *
    simp only [List.foldl_cons, List.foldl_nil]
    split <;> omega

theorem poisonOf_bit (bad : Nat → Bool) (k i : Nat) : bit (poisonOf bad k) i = (decide (i < k) && bad i) := by
  induction k with
  | zero => rw [decide_eq_false (Nat.not_lt_zero i)]; exact Nat.zero_testBit i
  | succ k ih =>
    have hlt := poisonOf_lt bad k
    have hs : poisonOf bad (k + 1) = poisonOf bad k + (if bad k then 2 ^ k else 0) := by
      rw [poisonOf, List.range_succ, List.foldl_append]
      rfl
    rw [hs]
    split
    · next hb =>
      have hor : poisonOf bad k + 2 ^ k = 2 ^ k ||| poisonOf bad k := by
        rw [Nat.add_comm, ← Nat.mul_one (2 ^ k), Nat.two_pow_add_eq_or_of_lt hlt]
      rw [bit, hor, Nat.testBit_or, Nat.testBit_two_pow]
      rw [bit] at ih
      rw [ih]
      by_cases hi : k = i
      · subst hi
        simp [hb]
      · rw [decide_eq_false hi, Bool.false_or, decide_eq_decide.mpr (by omega : i < k ↔ i < k + 1)]
    · next hb =>
      rw [Nat.add_zero, ih]
      by_cases hi : k = i
      · subst hi
        simp [hb]
      · rw [decide_eq_decide.mpr (by omega : i < k ↔ i < k + 1)]

theorem LinkSt.readSeg_good (h2 : (l.port p).state = 2) (ha : inArena cfg 1 g.addr (bits g.aux 8 0) = true)
    (hs : (g.addr - ((cfg.arenaOf g.addr).map fun a => a.2.base).getD 0) % cfg.granAt g.addr + bits g.aux 8 0 ≤ cfg.granAt g.addr) :
    l.readSeg x cfg p f idx g = (l.answer cfg p f.src (rdataSeg g
        (poisonOf (fun i => (nth (x.readFor cfg g.addr (bits g.aux 8 0)).2 (32 * i) (0, false, false)).2.1) (bits g.aux 8 0 / 32)) 0
        ((x.readFor cfg g.addr (bits g.aux 8 0)).2.map (·.1))), (x.readFor cfg g.addr (bits g.aux 8 0)).1) := by
  simp only [LinkSt.readSeg, h2, ha, Nat.reduceEqDiff, if_false, Bool.not_true, Bool.false_eq_true]
  exact if_neg (Nat.not_lt.mpr hs)

theorem LinkSt.readSeg_slow (h3 : (l.port p).state = 3) : l.readSeg x cfg p f idx g =
    (l.answer cfg p f.src (rdataSeg g 255 5 (fillBytes (bits g.aux 8 0) 0)), x) := by
  rw [LinkSt.readSeg, if_pos h3]

theorem LinkSt.request_write (hn : (l.port p).nextSeg vc = some (f, idx, g)) (ho : g.op = 1) :
    l.request x cfg p vc 1 = (l.onPort p fun q => q.popSeg l.epoch vc).store x cfg p f idx 1 g := by
  simp only [LinkSt.request, hn, ho, ne_eq, not_true, if_false]

theorem LinkSt.request_fold (hn : (l.port p).nextSeg vc = some (f, idx, g)) (ho : g.op = 3) :
    l.request x cfg p vc 3 = (l.onPort p fun q => q.popSeg l.epoch vc).store x cfg p f idx 2 g := by
  simp only [LinkSt.request, hn, ho, ne_eq, not_true, if_false]

theorem LinkSt.request_read (hn : (l.port p).nextSeg vc = some (f, idx, g)) (ho : g.op = 2) :
    l.request x cfg p vc 2 = (l.onPort p fun q => q.popSeg l.epoch vc).readSeg x cfg p f idx g := by
  simp only [LinkSt.request, hn, ho, ne_eq, not_true, if_false]

theorem LinkSt.request_close (hn : (l.port p).nextSeg vc = some (f, idx, g)) (ho : g.op = 4) :
    l.request x cfg p vc 4 = ((l.onPort p fun q => q.popSeg l.epoch vc).xfer p f.src g fun t => { t with
      close := some g.aux, status := if ((l.onPort p fun q => q.popSeg l.epoch vc).port p).state = 3 then 5 else t.status }, x) := by
  simp only [LinkSt.request, hn, ho, ne_eq, not_true, if_false]

theorem LinkSt.served_done {y : InXfer} {n : Nat} (hx : l.xfers = [y]) (hp : y.port = p) (hc : y.close = some n) (hn : n ≤ y.served) :
    l.served cfg p = ({ l with xfers := [], ob := l.ob.token y.core (2044 + y.mch) } : LinkSt).answer cfg p y.src
      ⟨9, y.tag, y.gen, 0, y.mch, y.core, y.status, 0, []⟩ := by
  simp only [LinkSt.served, hx, takeFirst, hp, hc, beq_self_eq_true, decide_eq_true hn, Bool.and_self, if_true]

theorem LinkSt.served_waits {y : InXfer} {n : Nat} (hx : l.xfers = [y]) (hc : y.close = some n) (hn : y.served < n) :
    l.served cfg p = l := by
  simp only [LinkSt.served, hx, takeFirst, hc, decide_eq_false (Nat.not_le.mpr hn), Bool.and_false, Bool.false_eq_true, if_false]

end

/-- Settles O47: WRITE, FOLD and READ segments, a CLOSE, and a transfer that is served. -/
theorem linkRequests : Obligations.LinkRequests := by
  intro s p f idx g q popped xfers fresh entry
  have hfresh (hf : fresh) (vc : Nat) : (popped vc).Fresh p f.src g := hf
  have hstate (vc : Nat) : ((popped vc).port p).state = q.state := s.link.popped_state p vc
  refine ⟨fun vc op kind i hi hn ho hf => ?store, fun hn ho => ?read, fun vc hn ho hf hq => ?close, fun x n hx hp hc => ?served⟩
  case store =>
    have hx : exec i s = .next (s.onLinkExt ((popped vc).store s.ext s.chip p f idx kind g)) := by
      rcases hi with ⟨rfl, rfl, rfl, rfl⟩ | ⟨rfl, rfl, rfl, rfl⟩
      · exact congrArg (fun r => Host.Outcome.next (s.onLinkExt r)) (LinkSt.request_write hn ho)
      · exact congrArg (fun r => Host.Outcome.next (s.onLinkExt r)) (LinkSt.request_fold hn ho)
    have hop : g.op = 1 ∨ g.op = 3 := by omega
    refine ⟨fun h2 ha => ?_, fun h2 ha => ⟨_, hx, ?_⟩, fun h3 => ?_⟩
    · rw [hx, LinkSt.store_taken ((hstate vc).trans h2) ha (hfresh hf vc)]
      rfl
    · rw [LinkSt.store_outside ((hstate vc).trans h2) ha (hfresh hf vc) hop]
      obtain ⟨-, hv, hcls, hseq, -⟩ := (popped vc).violation_spec p 5 f.seq idx
      have hrx : ((popped vc).port p).rxViol = q.rxViol := by
        have h := q.takes_popSeg s.link.epoch vc
        rw [Port.Takes] at h
        rw [LinkSt.port_onPort_self, h]
      exact ⟨rfl, rfl, hcls, hseq, hv.trans (by rw [hrx])⟩
    · rw [hx, LinkSt.store_slow ((hstate vc).trans h3) (hfresh hf vc)]
      rfl
  case read =>
    intro n
    have hx : exec (.linkRead p) s = .next (s.onLinkExt ((popped 0).readSeg s.ext s.chip p f idx g)) :=
      congrArg (fun r => Host.Outcome.next (s.onLinkExt r)) (LinkSt.request_read hn ho)
    refine ⟨fun h2 ha hs => ?_, fun h3 => ?_⟩
    · intro bs
      refine ⟨_, poisonOf_bit (fun i => (nth bs (32 * i) (0, false, false)).2.1) (n / 32), ?_⟩
      rw [hx, LinkSt.readSeg_good ((hstate 0).trans h2) ha hs]
      rfl
    · rw [hx, LinkSt.readSeg_slow ((hstate 0).trans h3)]
      rfl
  case close =>
    have hx : exec (.close p vc) s = .next (s.onLinkExt ((popped vc).xfer p f.src g fun t => { t with
        close := some g.aux, status := if ((popped vc).port p).state = 3 then 5 else t.status }, s.ext)) :=
      congrArg (fun r => Host.Outcome.next (s.onLinkExt r)) (LinkSt.request_close hn ho)
    rw [hx, LinkSt.xfer_fresh (hfresh hf vc), hstate]
    rfl
  case served =>
    have hrun : exec (.transferServed p) s = .next { s with link := s.link.served s.chip p } := rfl
    refine ⟨fun hle => hrun.trans ?_, fun hlt => hrun.trans ?_⟩
    · rw [LinkSt.served_done hx hp hc hle]
    · rw [LinkSt.served_waits hx hc hlt]

end Sys2Proof.Machine
end
section
/-! Tags, and the answers that end them (O48). -/

namespace Sys2Proof.Machine

/-! ### The port's tags (R418, R419) -/

theorem Port.tag_of_set {q r : Port} {k : Nat} {x : Tag} (h : r.tags = q.tags.set k x) : r.tag k = x ∧ ∀ j, j ≠ k → r.tag j = q.tag j := by
  simp only [Port.tag, h]
  exact ⟨Tab.get_set_self _ _ _ _, fun j hj => Tab.get_set_ne _ _ _ hj⟩

/-- What a port shows once a tag's use has ended with a status. -/
structure Port.Freed (q r : Port) (t status : Nat) : Prop where
  tag : r.tag t = ⟨((q.tag t).gen + 1) % 16, none, 0⟩
  others : ∀ j, j ≠ t → r.tag j = q.tag j
  ok : status = 0 → r.doneOk = q.doneOk + 1 ∧ r.doneErr = q.doneErr
  err : status ≠ 0 → r.lastErr = status ∧ r.doneErr = satAdd 16 q.doneErr 1 ∧ r.doneOk = q.doneOk

theorem Port.freed_ends (q : Port) (t status : Nat) : q.Freed (q.ends t status) t status :=
  ⟨(Port.tag_of_set rfl).1, (Port.tag_of_set rfl).2, fun h => ⟨if_pos h, if_pos h⟩, fun h => ⟨if_neg h, if_neg h, if_neg h⟩⟩

theorem LinkSt.port_endTag (l : LinkSt) (p t status : Nat) : (l.endTag p t status).port p = (l.port p).ends t status := by
  rw [LinkSt.endTag_eq]
  split
  · exact LinkSt.port_onPort_self ..
  · exact (LinkSt.port_line ..).trans (LinkSt.port_onPort_self ..)

theorem LinkSt.endTag_resp (l : LinkSt) (p t status : Nat) : (l.endTag p t status).resp = l.resp := by
  rw [LinkSt.endTag_eq]
  split <;> rfl

theorem LinkSt.endTag_tokens (l : LinkSt) (p t status : Nat) : (l.endTag p t status).ob.tokens = l.ob.tokens := by
  rw [LinkSt.endTag_eq]
  split <;> rfl

/-! ### RDATA and DONE (R413, R414, R419) -/

section
variable {l : LinkSt} {p op : Nat} {f : Flit} {idx : Nat} {g : Seg} {live : LinkSt → Seg → Option TagUse → LinkSt}

theorem LinkSt.popped_port (l : LinkSt) (p vc : Nat) : ∃ rx sync freed crNext wire, (l.onPort p fun q => q.popSeg l.epoch vc).port p =
    { l.port p with rx := rx, sync := sync, freed := freed, crNext := crNext, wire := wire } := by
  have h := (l.port p).takes_popSeg l.epoch vc
  rw [LinkSt.port_onPort_self]
  exact ⟨_, _, _, _, _, h⟩

theorem LinkSt.popped_tag (l : LinkSt) (p vc t : Nat) : ((l.onPort p fun q => q.popSeg l.epoch vc).port p).tag t = (l.port p).tag t := by
  obtain ⟨_, _, _, _, _, h⟩ := l.popped_port p vc
  rw [h]
  rfl

theorem LinkSt.popped_stale : ((l.onPort p fun q => q.popSeg l.epoch 1).port p).isStale g =
    (((l.port p).tag g.tag).use.isNone || ((l.port p).tag g.tag).gen != g.gen) := by
  rw [Port.isStale, LinkSt.popped_tag]

theorem LinkSt.response_stale (hn : (l.port p).nextSeg 1 = some (f, idx, g)) (ho : g.op = op)
    (hs : ((l.port p).tag g.tag).use = none ∨ ((l.port p).tag g.tag).gen ≠ g.gen) : l.response p op live =
      (l.onPort p fun q => q.popSeg l.epoch 1).onPort p fun q => { q with stale := satAdd 16 q.stale 1 } := by
  have hst : (((l.port p).tag g.tag).use.isNone || ((l.port p).tag g.tag).gen != g.gen) = true := by
    rw [Bool.or_eq_true, Option.isNone_iff_eq_none, bne_iff_ne]
    exact hs
  simp only [LinkSt.response, hn, ho, ne_eq, not_true, if_false]
  rw [LinkSt.popped_stale, if_pos hst]

theorem LinkSt.response_live (hn : (l.port p).nextSeg 1 = some (f, idx, g)) (ho : g.op = op) {u : TagUse}
    (hu : ((l.port p).tag g.tag).use = some u) (hg : ((l.port p).tag g.tag).gen = g.gen) : l.response p op live =
      live (l.onPort p fun q => q.popSeg l.epoch 1) g (some u) := by
  have hst : (((l.port p).tag g.tag).use.isNone || ((l.port p).tag g.tag).gen != g.gen) = false := by
    rw [hu, hg, bne_self_eq_false]
    rfl
  simp only [LinkSt.response, hn, ho, ne_eq, not_true, if_false]
  rw [LinkSt.popped_stale, hst, if_neg Bool.false_ne_true, LinkSt.popped_tag, hu]

end

theorem rdataVal_eq (g : Seg) (addr : Nat) (e : Nat × Nat × Nat) : rdataVal g addr e =
    if bit g.aux ((e.2.1 - addr) / 32) then none
    else some (let w := e.2.2
      let v := leAt g.data (e.2.1 - addr)
      if w = 4 then v 1 % 16 else if w = 5 then v 1 / 16
      else if w = 257 ∨ w = 258 then v 32 else v (max 1 (w / 8))) := by
  obtain ⟨i, a, w⟩ := e
  simp only [rdataVal]
  split
  · rfl
  · by_cases h4 : w = 4
    · subst h4
      rfl
    · by_cases h5 : w = 5
      · subst h5
        rfl
      · by_cases hz : w = 257 ∨ w = 258
        · have hr : 256 < w ∧ w < 259 := by omega
          simp only [h4, h5, hz, hr, or_self, and_self, if_true, if_false]
          rfl
        · have hr : ¬ (256 < w ∧ w < 259) := by omega
          simp only [h4, h5, hz, hr, or_self, if_false]

/-- A tag freed after its answer has been taken, seen from the port before. -/
theorem LinkSt.freed_popped (l : LinkSt) (p t status : Nat) : (l.port p).Freed
    (((l.onPort p fun q => q.popSeg l.epoch 1).endTag p t status).port p) t status := by
  obtain ⟨_, _, _, _, _, h⟩ := l.popped_port p 1
  rw [LinkSt.port_endTag, h]
  obtain ⟨htag, hoth, hok, herr⟩ := Port.freed_ends { l.port p with rx := _, sync := _, freed := _, crNext := _, wire := _ } t status
  exact ⟨htag, hoth, hok, herr⟩

/-! ### Timers (R419) -/

/-- A tag settled without its answer: the port, the poison of a READ, the token of a transfer. -/
theorem LinkSt.settleTag_spec (l : LinkSt) {p t : Nat} {u : TagUse} (hu : ((l.port p).tag t).use = some u) (status : Nat) :
    (∃ gone, (l.settleTag p t status).port p = { (l.port p).ends t status with gone := gone }) ∧
    (∀ core m rel chip addr els, u = .read core m rel chip addr els →
      (l.settleTag p t status).resp = l.resp ++ [⟨core, m, 400 + p, rel, els.map fun e => (elName e.1 e.2.2, none)⟩]) ∧
    (∀ core m chip fold closed, u = .xfer core m chip fold closed →
      (l.settleTag p t status).ob.tokens = l.ob.tokens ++ [(core, 2040 + m)]) := by
  rcases u with ⟨core, m, rel, chip, addr, els⟩ | ⟨core, m, chip, fold, closed⟩
  · have hx : l.settleTag p t status = (l.endTag p t status).respond (poisonResp core m (400 + p) rel els) := by
      simp only [LinkSt.settleTag, hu]
    rw [hx]
    refine ⟨⟨_, l.port_endTag p t status⟩, fun core' m' rel' chip' addr' els' he => ?_, fun _ _ _ _ _ he => nomatch he⟩
    cases he
    exact congrArg (· ++ _) (l.endTag_resp p t status)
  · have hx : l.settleTag p t status = { (l.endTag p t status).onPort p fun q =>
        { q with gone := if closed then q.gone else q.gone ++ [.xfer core m chip fold false] } with
        ob := (l.endTag p t status).ob.token core (2040 + m) } := by
      simp only [LinkSt.settleTag, hu]
      rfl
    rw [hx]
    have hport := (l.endTag p t status).port_onPort_self p fun q =>
      { q with gone := if closed then q.gone else q.gone ++ [.xfer core m chip fold false] }
    rw [l.port_endTag] at hport
    refine ⟨⟨_, hport⟩, ?_, ?_⟩
    · intro _ _ _ _ _ _ he
      cases he
    · intro _ _ _ _ _ he
      cases he
      exact congrArg (· ++ _) (l.endTag_tokens p t status)

theorem LinkSt.tagTimeout_due (l : LinkSt) {p t : Nat} {u : TagUse} (hu : ((l.port p).tag t).use = some u) (hd : ((l.port p).tag t).due ≤ l.clock) :
    l.tagTimeout p t = ((l.settleTag p t 4).onPort p fun q => { q with timeouts := satAdd 16 q.timeouts 1 }).line (768 + p) := by
  rw [LinkSt.tagTimeout, if_neg]
  rw [hu]
  rintro (h | h)
  · cases h
  · omega

theorem LinkSt.tagTimeout_early (l : LinkSt) {p t : Nat} (hd : l.clock < ((l.port p).tag t).due) : l.tagTimeout p t = l := by
  rw [LinkSt.tagTimeout, if_pos (.inr hd)]

/-! ### Hand-over at a port (R411 to R413) -/

/-- The one transfer that is due at a port leaves the plane there. -/
theorem exec_segmentHandOver_one (s : State) {p : Fin 32} {x : Transit} (hact : s.mayAct = true) (hm : s.plane.mesh = [x])
    (hd : x.due ≤ s.plane.now) (hl : x.lost = false) (hp : x.load.port = some p.val) (hroom : s.link.room s.chip p [x.load] = true) :
    exec (.segmentHandOver p) s = .next (({ s with plane := { s.plane with mesh := [] } } : State).handOver x.load) := by
  have hfind : (s.plane.mesh.find? fun y => decide (y.due ≤ s.plane.now) && y.load.port == some p.val) = some x := by
    simp [hm, hd, hp]
  have hdel : ({ s.plane with mesh := [] } : PlaneSt).deliver s.plane.now x = ({ s.plane with mesh := [] }, [x.load]) := by
    rcases hx : x.load <;> simp only [hx, Payload.port, reduceCtorEq] at hp <;> simp only [PlaneSt.deliver, hx, hl, Bool.false_eq_true, if_false]
  show execSegmentHandOver p s = _
  simp only [execSegmentHandOver, hfind, hroom, hact, Bool.and_self, if_true]
  rw [s.deliverDue_leaves (f := fun y => y == x) hm hd (beq_self_eq_true x) hdel]

/-- A payload for a port changes link and cores' signatures alone. -/
theorem State.handOver_port (s : State) {x : Payload} {p : Nat} (hp : x.port = some p) : ∃ plane, s.handOver x =
      { s with plane := plane, link := s.link.handOver s.chip x } ∧ plane.mesh = s.plane.mesh ∧
      (∀ core m ch chip rel els, x = .remRead core m ch chip rel els → plane = s.plane) := by
  cases x with
  | remRead core ch port chip rel els => exact ⟨s.plane, rfl, rfl, fun _ _ _ _ _ _ _ => rfl⟩
  | remClose core ch port chip n fold => exact ⟨s.plane, rfl, rfl, fun _ _ _ _ _ _ _ => rfl⟩
  | remSeg core ch port chip fmt fold more addr bs =>
    simp only [State.handOver]
    split
    · exact ⟨s.plane, rfl, rfl, fun _ _ _ _ _ _ _ => rfl⟩
    · exact ⟨_, rfl, rfl, fun _ _ _ _ _ _ he => nomatch he⟩
  | _ => cases hp

/-! ### What a port makes of a payload (R411 to R413, R417, R418) -/

section
variable {l : LinkSt} {cfg : ChipCfg} {p chip : Nat}

theorem LinkSt.refusal_down (h0 : (l.port p).state = 0) (h3 : l.mstate ≠ 3) (hm : l.mstate = 2 → chip ∈ l.mask) :
    l.refusal p chip = some 3 := by
  have hin : ¬ (l.mstate = 3 ∨ l.mstate = 2 ∧ (!l.mask.contains chip) = true) := by
    rintro (h | ⟨h2, hn⟩)
    · exact h3 h
    · rw [List.contains_iff_mem.mpr (hm h2)] at hn
      cases hn
  rw [LinkSt.refusal, if_neg hin, if_pos]
  rw [LinkSt.reachable, h0]
  simp

theorem LinkSt.refusal_up (hp : p < 32) (h2 : (l.port p).state = 2) (hm : l.mstate = 2) (hc : chip ∈ l.mask) : l.refusal p chip = none := by
  have hin : ¬ (l.mstate = 3 ∨ l.mstate = 2 ∧ (!l.mask.contains chip) = true) := by
    rintro (h | ⟨-, hn⟩)
    · omega
    · rw [List.contains_iff_mem.mpr hc] at hn
      cases hn
  rw [LinkSt.refusal, if_neg hin, if_neg]
  rw [LinkSt.reachable, h2, decide_eq_true hp]
  decide

/-- A READ for a port that carries no traffic is answered with poison at once. -/
theorem LinkSt.handOver_refused {core m rel status : Nat} {els : List (Nat × Nat × Nat)} (hp : p < 32) (hr : l.refusal p chip = some status) :
    l.handOver cfg (.remRead core m p chip rel els) = ((l.onPort p fun q => { q with
      doneErr := satAdd 16 q.doneErr (readRuns cfg els).length, lastErr := status }).line (768 + p)).respond
      (poisonResp core m (400 + p) rel els) := by
  simp only [LinkSt.handOver, hr, LinkSt.refuseLoad, hp, if_true]

/-- A tag is taken where one is free, and its segment leaves at once by a port that is ready. -/
theorem LinkSt.takeTag_ready {vc k : Nat} {u : TagUse} {mk : Nat → Nat → Seg} (hk : (l.port p).freeTag = some k) (hb : l.byreStill p)
    (hq : (l.port p).Ready vc) (hm : l.mstate = 2) : l.takeTag cfg p chip vc u mk = l.onPort p fun q =>
      ({ q with tags := q.tags.set k ⟨((l.port p).tag k).gen, some u, l.clock + 65536 * q.tagTimeout.toNat⟩ } : Port).sent l.env
        (q.sentFlit (mk k ((l.port p).tag k).gen) l.epoch vc cfg.herdX chip false) := by
  obtain ⟨ho, hup, hr, hc⟩ := hq
  simp only [LinkSt.takeTag, hk]
  rw [LinkSt.send_still _ cfg.herdX chip false (l.byreStill_onPort hb rfl) (by rw [LinkSt.port_onPort_self]; exact ⟨ho, hup, hr, hc⟩)
    (by rw [LinkSt.onPort_mstate, hm]; rfl), LinkSt.onPort_onPort]
  rfl

end

/-- What a port that has sent shows: the flit kept for replay, and on the wire with the ACK of now. -/
theorem Port.sent_shows (q : Port) (v : SendEnv) (f : Flit) :
    (q.sent v f).replay = q.replay ++ [f] ∧ (q.sent v f).wire = q.wire ++ [.data (q.stamp f).encode] ∧ (q.sent v f).tags = q.tags :=
  ⟨rfl, rfl, rfl⟩

/-- Settles O48: hand-over of READs, segments and CLOSE, then RDATA, DONE, and a tag's timer. -/
theorem linkAnswers : Obligations.LinkAnswers := by
  intro s p q
  refine ⟨fun x core m chip rel els hact hm hd hl hx h0 h3 hmem => ?poison, fun x chip vc k hact hm hd hl h2 hms hmem ho hb hr hc hroom => ?leaves,
    fun f idx g hn => ?answers, fun tag u hu => ⟨fun hlt => ?runs, fun hle => ⟨_, rfl, rfl, ?expired⟩⟩⟩
  case poison =>
    have href := LinkSt.refusal_down (chip := chip) h0 h3 hmem
    have hroom : s.link.room s.chip p [x.load] = true := by
      simp only [LinkSt.room, hx, Payload.chip, List.filter_cons, href, Option.isNone_some, Bool.false_eq_true, if_false, List.filter_nil,
        List.isEmpty_nil, Bool.true_or]
    obtain ⟨plane, hrun, -, hplane⟩ := State.handOver_port { s with plane := { s.plane with mesh := [] } } (x := x.load) (p := p) (by rw [hx]; rfl)
    rw [hplane _ _ _ _ _ _ hx, hx, LinkSt.handOver_refused p.isLt href] at hrun
    have hexec := exec_segmentHandOver_one s hact hm hd hl (by rw [hx]; rfl) hroom
    rw [hx, hrun] at hexec
    have hport := s.link.port_onPort_self p fun q => { q with doneErr := satAdd 16 q.doneErr (readRuns s.chip els).length, lastErr := 3 }
    exact ⟨_, hexec, rfl, rfl, (congrArg Port.lastErr hport :), (congrArg Port.doneErr hport :)⟩
  case leaves =>
    intro leaves taken
    have hup := LinkSt.refusal_up p.isLt h2 hms hmem
    have hready : q.Ready vc := ⟨ho, .inl h2, hr, hc⟩
    have hleaves {g : Seg} {r : Port} (hp : x.load.port = some p.val) (hr : r = { q with tags := r.tags, asm := r.asm })
        (hlink : (s.link.handOver s.chip x.load).port p =
          r.sent s.link.env ⟨vc, q.txSeq, 0, s.link.epoch, chip, s.chip.herdX, 15, 0, 0, false, [g]⟩) :
        ∃ t, leaves t g ∧ (t.link.port p).tags = r.tags := by
      obtain ⟨plane, hrun, hmesh, -⟩ := State.handOver_port { s with plane := { s.plane with mesh := [] } } hp
      obtain ⟨hrep, hwire, htags⟩ := r.sent_shows s.link.env ⟨vc, q.txSeq, 0, s.link.epoch, chip, s.chip.herdX, 15, 0, 0, false, [g]⟩
      have hexec := exec_segmentHandOver_one s hact hm hd hl hp hroom
      rw [hrun] at hexec
      rw [← hlink] at hrep hwire htags
      refine ⟨_, ⟨hexec, hmesh, rfl, hrep.trans ?_, hwire.trans ?_⟩, htags⟩
      · rw [hr]
      · rw [hr]
        rfl
    refine ⟨fun core m rel idx a code hx ha hv hk => ?_, fun core m fmt addr bs fold hx hv hasm hgone hno hk => ?_,
      fun core m n fold hx hv hgone hk => ?_⟩
    · subst hv
      have hlo : ([(idx, a, code)].map fun e => e.2.1 / 32 * 32).foldl min (2 ^ 40) = a / 32 * 32 := by
        simp only [List.map_cons, List.map_nil, List.foldl_cons, List.foldl_nil]
        omega
      have hhi : ([(idx, a, code)].map fun e => (e.2.1 + elSpan e + 31) / 32 * 32).foldl max 0 = (a + elSpan (idx, a, code) + 31) / 32 * 32 := by
        simp only [List.map_cons, List.map_nil, List.foldl_cons, List.foldl_nil, Nat.zero_max]
      have hlink := LinkSt.takeTag_ready (cfg := s.chip) (chip := chip) (u := .read core m rel chip (a / 32 * 32) [(idx, a, code)])
        (mk := fun t gen => ⟨2, t, gen, 0, m, core, (a + elSpan (idx, a, code) + 31) / 32 * 32 - a / 32 * 32, a / 32 * 32, []⟩) hk hb hready hms
      have hrun : s.link.handOver s.chip x.load = s.link.takeTag s.chip p chip 0 (.read core m rel chip (a / 32 * 32) [(idx, a, code)])
          fun t gen => ⟨2, t, gen, 0, m, core, (a + elSpan (idx, a, code) + 31) / 32 * 32 - a / 32 * 32, a / 32 * 32, []⟩ := by
        simp only [LinkSt.handOver, hx, hup, readRuns, List.foldl_cons, List.foldl_nil, List.getLast?_nil, Option.bind_none]
        rw [hlo, hhi]
      obtain ⟨t, ht, htags⟩ := hleaves (by rw [hx]; rfl) rfl (by rw [hrun, hlink, LinkSt.port_onPort_self]; rfl)
      exact ⟨t, ht, Port.tag_of_set htags⟩
    · subst hv
      let l1 := s.link.onPort p fun q => q.dropAsm core m chip
      have hport : l1.port p = q.dropAsm core m chip := LinkSt.port_onPort_self _ _ _
      have hrun : s.link.handOver s.chip x.load = l1.takeTag s.chip p chip (if fold then 2 else 0) (.xfer core m chip fold false)
          fun t gen => ⟨if fold then 3 else 1, t, gen, if fold then fmt else 0, m, core, if fold then 0 else halfAux bs, addr, bs.map (·.2)⟩ := by
        have hall : (s.link.port p).asmOf core m chip ++ bs = bs := by
          rw [Port.asmOf, hasm]
          rfl
        have hnot : ¬ ((none : Option Nat).isSome = true ∨ TagUse.xfer core m chip fold false ∈ (s.link.port p).gone) := by
          rw [hgone]
          simp
        have hno' : (l1.port p).tagOf (.xfer core m chip fold false) = none := by
          rw [hport]
          exact hno
        simp only [LinkSt.handOver, hx, hup, hall, if_neg hnot, Bool.false_eq_true, if_false, Nat.add_sub_cancel]
        simp only [l1, LinkSt.sendSeg] at hno' ⊢
        rw [hno']
      have hlink := LinkSt.takeTag_ready (l := l1) (cfg := s.chip) (chip := chip) (u := .xfer core m chip fold false)
        (mk := fun t gen => ⟨if fold then 3 else 1, t, gen, if fold then fmt else 0, m, core, if fold then 0 else halfAux bs, addr, bs.map (·.2)⟩)
        (by rw [hport]; exact hk) (s.link.byreStill_onPort hb rfl) (by rw [hport]; exact ⟨ho, .inl h2, hr, hc⟩) hms
      obtain ⟨t, ht, htags⟩ := hleaves (by rw [hx]; rfl) rfl (by rw [hrun, hlink, LinkSt.port_onPort_self, hport]; rfl)
      exact ⟨t, ht, Port.tag_of_set htags⟩
    · subst hv
      let l1 := s.link.onPort p fun r => { r with tags := r.tags.set k { q.tag k with use := some (.xfer core m chip fold true) } }
      have hport : l1.port p = { q with tags := q.tags.set k { q.tag k with use := some (.xfer core m chip fold true) } } :=
        LinkSt.port_onPort_self _ _ _
      have hrun : s.link.handOver s.chip x.load = l1.send p (if fold then 2 else 0) s.chip.herdX chip false
          ⟨4, k, (q.tag k).gen, 0, m, core, n, 0, []⟩ := by
        have hnot : ¬ TagUse.xfer core m chip fold false ∈ (s.link.port p).gone := by
          rw [hgone]
          simp
        have hk' : (s.link.port p).tagOf (.xfer core m chip fold false) = some k := hk
        simp only [LinkSt.handOver, hx, hup, if_neg hnot, LinkSt.sendClose, hk']
        rfl
      have hlink := LinkSt.send_still l1 (s := ⟨4, k, (q.tag k).gen, 0, m, core, n, 0, []⟩) s.chip.herdX chip false (s.link.byreStill_onPort hb rfl)
        (by rw [hport]; exact ⟨ho, .inl h2, hr, hc⟩ : (l1.port p).Ready (if fold then 2 else 0))
        (by rw [show l1.mstate = 2 from hms]; rfl)
      obtain ⟨t, ht, htags⟩ := hleaves (by rw [hx]; rfl) rfl (by rw [hrun, hlink, LinkSt.port_onPort_self, hport]; rfl)
      obtain ⟨hk', hoth⟩ := Port.tag_of_set htags
      exact ⟨t, ht, by rw [hk'], hoth⟩
  case answers =>
    intro l1 tg freed
    have hfreed (status : Nat) {t : State} (ht : t.link.port p = (l1.endTag p g.tag status).port p) : freed t status := by
      obtain ⟨h1, h2, h3, h4⟩ := s.link.freed_popped p g.tag status
      rw [← ht] at h1 h2 h3 h4
      exact ⟨h1, h2, h3, h4⟩
    refine ⟨fun ho hs => ?_, fun ho hs => ?_, fun core m rel chip addr els ho hg hu => ?_, fun core m chip fold closed ho hg hu => ?_⟩
    · exact congrArg (fun l : LinkSt => (Host.Outcome.next { s with link := l } : Result)) (LinkSt.response_stale hn ho hs)
    · exact congrArg (fun l : LinkSt => (Host.Outcome.next { s with link := l } : Result)) (LinkSt.response_stale hn ho hs)
    · have hx : s.link.rdata p = (l1.endTag p g.tag (bits g.aux 15 8)).respond
          ⟨core, m, 400 + p, rel, els.map fun e => (elName e.1 e.2.2, rdataVal g addr e)⟩ := LinkSt.response_live hn ho hu hg
      refine ⟨_, els.map fun e => (elName e.1 e.2.2, rdataVal g addr e),
        congrArg (fun l : LinkSt => (Host.Outcome.next { s with link := l } : Result)) hx, hfreed _ rfl, rfl,
        congrArg (· ++ _) (l1.endTag_resp p g.tag _), List.length_map _, fun i hi => ?_⟩
      rw [List.getElem?_map, List.getElem?_eq_getElem hi, Option.map_some, rdataVal_eq]
    · have hx : s.link.done p = { l1.endTag p g.tag (bits g.aux 7 0) with
          ob := (l1.endTag p g.tag (bits g.aux 7 0)).ob.token core (2040 + m) } := LinkSt.response_live hn ho hu hg
      exact ⟨_, congrArg (fun l : LinkSt => (Host.Outcome.next { s with link := l } : Result)) hx, hfreed _ rfl, rfl,
        congrArg (· ++ _) (l1.endTag_tokens p g.tag _)⟩
  case runs =>
    exact congrArg (fun l : LinkSt => (Host.Outcome.next { s with link := l } : Result)) (s.link.tagTimeout_early hlt)
  case expired =>
    obtain ⟨⟨gone, hport⟩, hread, hxfer⟩ := s.link.settleTag_spec hu 4
    obtain ⟨htag, -, -, herr⟩ := Port.freed_ends q tag 4
    have hend := (LinkSt.port_onPort_self (s.link.settleTag p tag 4) p fun q => { q with timeouts := satAdd 16 q.timeouts 1 }).trans
      (congrArg (fun q : Port => { q with timeouts := satAdd 16 q.timeouts 1 }) hport)
    rw [s.link.tagTimeout_due hu hle]
    refine ⟨(congrArg (Port.tag · tag) hend :).trans htag, (congrArg Port.timeouts hend :), (congrArg Port.lastErr hend :).trans (herr (by decide)).1,
      hread, hxfer⟩

end Sys2Proof.Machine
end
section
/-! Lines and wake latches of the interrupt sources (O50). -/

namespace Sys2Proof.Machine

/-! ### A source replaced, with its host vector signalled or not (R485, R493) -/

/-- A source replaced, and its host vector to be signalled if `tell`. -/
def IcuSt.put (i : IcuSt) (n : Nat) (x : IcuSrc) (tell : Bool) : IcuSt :=
  { i.setSrc n x with msi := i.msi ++ if tell then [x.hostVec.toNat] else [] }

theorem IcuSt.setSrc_eq_put (i : IcuSt) (n : Nat) (x : IcuSrc) : i.setSrc n x = i.put n x false := by
  rw [IcuSt.put, if_neg Bool.false_ne_true, List.append_nil]
  rfl

theorem IcuSt.setSrc_put (i : IcuSt) (n : Nat) (x y : IcuSrc) (b : Bool) : (i.setSrc n x).put n y b = i.put n y b := by
  simp only [IcuSt.put, IcuSt.setSrc, Tab.set_set]

theorem IcuSt.pend_of_idle {i : IcuSt} {n : Nat} (hp : (i.src n).pending = false) :
    i.pend n = i.put n { i.src n with pending := true } (i.src n).hostEn := by
  rw [IcuSt.pend, hp, if_neg Bool.false_ne_true]
  split
  · next he => rw [IcuSt.put, if_pos he]; rfl
  · next he => rw [IcuSt.put, if_neg he, List.append_nil]; rfl

theorem IcuSt.pend_merged {i : IcuSt} {n : Nat} (hp : (i.src n).pending = true) (hd : srcData n = true) :
    i.pend n = i.put n { i.src n with coalesced := satAdd 16 (i.src n).coalesced 1 } false := by
  rw [IcuSt.pend, if_pos hp, if_pos hd, IcuSt.setSrc_eq_put]

/-! ### Rise and fall of a sensed value (R486, R493) -/

section
variable {i : IcuSt} {n : Nat} {x : IcuSrc}

theorem IcuSt.rise_of_idle (hp : x.pending = false) (hf : srcData n = true ∨ x.active = false) :
    (i.setSrc n x).rise n = i.put n { x with pending := true } x.hostEn := by
  have hgo : ¬ ((!srcData n) = true ∧ x.active = true) := by
    rcases hf with h | h <;> simp [h]
  rw [IcuSt.rise, IcuSt.src_setSrc_self, if_neg hgo, IcuSt.pend_of_idle (by rw [IcuSt.src_setSrc_self]; exact hp), IcuSt.src_setSrc_self,
    IcuSt.setSrc_put]

theorem IcuSt.rise_merged (hp : x.pending = true) (hd : srcData n = true) :
    (i.setSrc n x).rise n = i.put n { x with coalesced := satAdd 16 x.coalesced 1 } false := by
  rw [IcuSt.rise, if_neg (by simp [hd]), IcuSt.pend_merged (by rw [IcuSt.src_setSrc_self]; exact hp) hd, IcuSt.src_setSrc_self, IcuSt.setSrc_put]

theorem IcuSt.rise_held (hf : ¬ (srcData n = true ∨ x.active = false)) : (i.setSrc n x).rise n = i.put n x false := by
  rw [IcuSt.rise, if_pos, IcuSt.setSrc_eq_put]
  rw [IcuSt.src_setSrc_self]
  rw [not_or, Bool.not_eq_true, Bool.not_eq_false] at hf
  exact ⟨by rw [hf.1]; rfl, hf.2⟩

theorem IcuSt.fall_mgmt (hd : srcData n = false) : (i.setSrc n x).fall n = i.put n { x with pending := false } false := by
  rw [IcuSt.fall, if_neg (by rw [hd]; exact Bool.false_ne_true), IcuSt.src_setSrc_self, IcuSt.setSrc_eq_put, IcuSt.setSrc_put]

theorem IcuSt.fall_data (hd : srcData n = true) : (i.setSrc n x).fall n = i.put n x false := by
  rw [IcuSt.fall, if_pos hd, IcuSt.setSrc_eq_put]

end

/-! ### The wake latch (R487) -/

/-- What a source shows that the wake latch has made pending. -/
def IcuSrc.Woken (x : IcuSrc) : Prop := x.latched = false ∧ x.pending = true

/-- A source whose latch clears and that becomes pending. -/
theorem IcuSt.src_woken_self (i : IcuSt) (n : Nat) : (((i.setSrc n { i.src n with latched := false }).pend n).src n).Woken := by
  rcases hp : (i.src n).pending with _ | _
  · rw [IcuSt.pend_of_idle (by rw [IcuSt.src_setSrc_self]; exact hp), IcuSt.src_setSrc_self, IcuSt.setSrc_put]
    exact (IcuSt.src_setSrc_self i n _).symm ▸ ⟨rfl, rfl⟩
  · rw [IcuSt.pend, if_pos (by rw [IcuSt.src_setSrc_self]; exact hp), IcuSt.src_setSrc_self, IcuSt.src_setSrc_self]
    exact ⟨rfl, hp⟩

theorem IcuSt.src_pend_other (i : IcuSt) {n m : Nat} (h : m ≠ n) : (i.pend n).src m = i.src m := by
  rw [IcuSt.pend]
  split
  · exact i.src_setSrc_ne _ h
  · split <;> exact i.src_setSrc_ne _ h

theorem IcuSt.pend_cores (i : IcuSt) (n : Nat) : (i.pend n).cores = i.cores := by
  rw [IcuSt.pend]
  split
  · rfl
  · split <;> rfl

theorem IcuSt.src_woken_other (i : IcuSt) {n m : Nat} (h : m ≠ n) :
    ((i.setSrc n { i.src n with latched := false }).pend n).src m = i.src m := by
  rw [IcuSt.src_pend_other _ h, IcuSt.src_setSrc_ne _ _ h]

/-- A source woken, or one that the list of sources to wake names, is woken in the end. -/
theorem IcuSt.woken_foldl (ps : List (Nat × IcuSrc)) (m : Nat) : ∀ i : IcuSt, (i.src m).Woken ∨ m ∈ ps.map (·.1) →
    ((ps.foldl (fun (i : IcuSt) p => (i.setSrc p.1 { i.src p.1 with latched := false }).pend p.1) i).src m).Woken := by
  induction ps with
  | nil => exact fun i h => h.resolve_right (List.not_mem_nil)
  | cons p ps ih =>
    intro i h
    refine ih _ ?_
    by_cases hm : m = p.1
    · subst hm
      exact .inl (i.src_woken_self p.1)
    · rw [i.src_woken_other hm]
      exact h.imp_right fun h => (List.mem_cons.mp h).resolve_left hm

theorem IcuSt.wakeLatch_cores (i : IcuSt) : i.wakeLatch.cores = i.cores := by
  rw [IcuSt.wakeLatch, foldl_keeps IcuSt.cores _ fun _ _ => ?_]
  exact IcuSt.pend_cores ..

theorem IcuSt.woken_wakeLatch {i : IcuSt} {m : Nat} (h : (i.src m).latched = true) : (i.wakeLatch.src m).Woken := by
  refine IcuSt.woken_foldl _ m i (.inr ?_)
  rcases Tab.get_mem (IcuSrc.reset i.cpq m) i.srcs m with hmem | hreset
  · exact List.mem_map_of_mem (f := (·.1)) (List.mem_filter (p := fun x : Nat × IcuSrc => x.2.latched).mpr ⟨hmem, h⟩)
  · rw [IcuSt.src, hreset] at h
    cases h

theorem IcuSt.wakeLatch_none {i : IcuSt} (h : ∀ p ∈ i.srcs, p.2.latched = false) : i.wakeLatch = i := by
  rw [IcuSt.wakeLatch, List.filter_eq_nil_iff.mpr fun p hp => by rw [h p hp]; exact Bool.false_ne_true]
  rfl

/-- Settles O50: LINE_RISE with the clock stopped and running, LINE_FALL, FILTER_ACCEPT by mode and class, and the wake latch. -/
theorem interruptLines : Obligations.InterruptLines := by
  intro s n q src told free
  have hrise (h : s.takeLine n = some s) : exec (.lineRise n) s = .next (s.onIcu fun i => i.lineRise s.on n) := by
    show execLineRise n s = _
    rw [execLineRise, h]
  have hsrc {i : Instr} {f : IcuSt → IcuSt} {x : IcuSrc} {b : Bool} (hx : exec i s = .next (s.onIcu f)) (hf : f s.icu = s.icu.put n x b) :
      src i x := by
    refine ⟨_, hx, ?_, ?_, fun m hm => ?_⟩
    · rw [State.onIcu_src, hf]
      exact s.icu.src_setSrc_self n x
    · rw [State.onIcu_cores, hf]
      rfl
    · rw [State.onIcu_src, hf]
      exact s.icu.src_setSrc_ne x hm
  have htold {i : Instr} {f : IcuSt → IcuSt} {x : IcuSrc} (hx : exec i s = .next (s.onIcu f)) (hf : f s.icu = s.icu.put n x q.hostEn)
      (hv : x.hostVec = q.hostVec) : told i := by
    refine ⟨_, hx, ?_⟩
    rw [State.onIcu, hf, ← hv]
    rfl
  refine ⟨fun h => ?nothing, fun hoff hout h => ⟨?noFall, ?noAccept, fun hw => hsrc (b := false) (hrise h) ?latch⟩, fun hon => ?on⟩
  case nothing =>
    show execLineRise n s = _
    rw [execLineRise, h]
  case noFall => exact congrArg Host.Outcome.next (if_neg (by rw [hoff]; exact Bool.false_ne_true))
  case noAccept => exact congrArg Host.Outcome.next (if_neg (by rw [hoff]; exact Bool.false_ne_true))
  case latch =>
    simp only [IcuSt.lineRise, hoff, hw, Bool.not_false, if_true]
    exact IcuSt.setSrc_eq_put ..
  case on =>
    have hfall : exec (.lineFall n) s = .next (s.onIcu fun i => i.lineFall n) := congrArg Host.Outcome.next (if_pos hon)
    have haccept : exec (.filterAccept n) s = .next (s.onIcu fun i => i.filterAccept n) := congrArg Host.Outcome.next (if_pos hon)
    have hwake : exec .wakeLatch s = .next (s.onIcu IcuSt.wakeLatch) := congrArg Host.Outcome.next (if_pos hon)
    refine ⟨fun h hl => ?rises, fun hl => ⟨fun hv hd => hsrc (b := false) hfall ?fallMgmt, fun hd => hsrc (b := false) hfall ?fallOther⟩, fun hne => ?accepts,
      ⟨_, hwake, s.icu.wakeLatch_cores, fun m hm => s.icu.woken_wakeLatch hm, fun hm => ?still⟩⟩
    case rises =>
      have hx : s.icu.lineRise s.on n = if q.level then (s.icu.setSrc n { q with line := true }).rise n else s.icu.setSrc n { q with line := true } := by
        rw [IcuSt.lineRise, if_neg (by rw [hon]; exact Bool.false_ne_true), if_neg (by rw [hl]; exact Bool.false_ne_true)]
      have hlevel (hv : q.level = true) : s.icu.lineRise s.on n = (s.icu.setSrc n { q with line := true }).rise n := hx.trans (if_pos hv)
      refine ⟨fun hv => hsrc (b := false) (hrise h) ?_, fun hv hp hf => ?_, fun hv hf => hsrc (hrise h) ((hlevel hv).trans (IcuSt.rise_held hf))⟩
      · rw [hx, if_neg (by rw [hv]; exact Bool.false_ne_true)]
        exact IcuSt.setSrc_eq_put ..
      · have hput := (hlevel hv).trans (IcuSt.rise_of_idle (x := { q with line := true }) hp hf)
        exact ⟨hsrc (hrise h) hput, htold (hrise h) hput rfl⟩
    case fallMgmt =>
      rw [IcuSt.lineFall, if_neg (by rw [hl]; decide)]
      exact (if_pos hv).trans (IcuSt.fall_mgmt hd)
    case fallOther =>
      rw [IcuSt.lineFall, if_neg (by rw [hl]; decide)]
      split
      · next hv => exact IcuSt.fall_data (hd.resolve_left fun h => by rw [h] at hv; cases hv)
      · exact IcuSt.setSrc_eq_put ..
    case accepts =>
      have hx : s.icu.filterAccept n = if q.level then s.icu.setSrc n { q with filtered := q.line }
          else if q.line then (s.icu.setSrc n { q with filtered := q.line }).rise n else (s.icu.setSrc n { q with filtered := q.line }).fall n := if_neg hne
      have hup (hv : q.level = false) (hl : q.line = true) : s.icu.filterAccept n = (s.icu.setSrc n { q with filtered := true }).rise n := by
        rw [hx, if_neg (by rw [hv]; exact Bool.false_ne_true), if_pos hl, hl]
      have hdown (hv : q.level = false) (hl : q.line = false) : s.icu.filterAccept n = (s.icu.setSrc n { q with filtered := false }).fall n := by
        rw [hx, if_neg (by rw [hv]; exact Bool.false_ne_true), if_neg (by rw [hl]; exact Bool.false_ne_true), hl]
      refine ⟨fun hv => hsrc haccept ((hx.trans (if_pos hv)).trans (IcuSt.setSrc_eq_put ..)), fun hv hl => ⟨fun hp hf => ?_, fun hp hd => ?_, fun hf => ?_⟩,
        fun hv hl => ⟨fun hd => ?_, fun hd => ?_⟩⟩
      · have hput := (hup hv hl).trans (IcuSt.rise_of_idle (x := { q with filtered := true }) hp hf)
        exact ⟨hsrc haccept hput, htold haccept hput rfl⟩
      · exact hsrc haccept ((hup hv hl).trans (IcuSt.rise_merged hp hd))
      · exact hsrc haccept ((hup hv hl).trans (IcuSt.rise_held hf))
      · exact hsrc haccept ((hdown hv hl).trans (IcuSt.fall_mgmt hd))
      · exact hsrc haccept ((hdown hv hl).trans (IcuSt.fall_data hd))
    case still =>
      rw [State.onIcu_srcs, IcuSt.wakeLatch_none hm]

end Sys2Proof.Machine
end
section
/-! LADLE and the stewards' services (O52). -/

namespace Sys2Proof.Machine

theorem IcuSt.onCore_congr {i : IcuSt} {c : Nat} {f g : CtlCore → CtlCore} (h : f (i.core c) = g (i.core c)) : i.onCore c f = i.onCore c g := by
  rw [IcuSt.onCore, IcuSt.onCore, h]

/-- Where no source is pending none is offered. -/
theorem IcuSt.offer_none {i : IcuSt} (h : ∀ n, (i.src n).pending = false) (c : Nat) : i.offer c = none := by
  refine Option.eq_none_iff_forall_ne_some.mpr fun n hn => ?_
  have hp := (IcuSt.pending_of_offeredTo (IcuSt.offeredTo_of_offer hn)).1
  rw [h n] at hp
  cases hp

section
variable {s : State} {k src dst size : Nat}

/-- LADLE retires once DONE has reached CNT, however many steps it may go. -/
theorem State.ladle_retires (h : (s.icu.core k).ladleCnt ≤ (s.icu.core k).ladleDone) (steps : Nat) : s.ladle k src dst size steps =
    { s with icu := s.icu.onCore k fun c => { c with ladleDone := 0, pc := c.pc + 4 } } := by
  cases steps with
  | zero => exact if_neg (BitVec.not_lt.mpr h)
  | succ n =>
    rw [State.ladle]
    exact if_neg (BitVec.not_lt.mpr h)

/-- Controller and cores after LADLE has moved one element within the data SRAMs and counted it. -/
def IcuSt.moved (i : IcuSt) (k m o d p size : Nat) : IcuSt :=
  ({ i with dataSram := i.dataSram.upd [] d fun x : Mem => x.write p (Mem.read (i.dataSram.get [] m) o size) } : IcuSt).onCore k fun _ =>
    { i.core k with ladleDone := BitVec.ofNat 64 ((i.core k).ladleDone.toNat + 1) }

theorem IcuSt.core_moved (i : IcuSt) (k m o d p size : Nat) :
    (i.moved k m o d p size).core k = { i.core k with ladleDone := BitVec.ofNat 64 ((i.core k).ladleDone.toNat + 1) } := by
  rw [IcuSt.moved, IcuSt.core_onCore_self]

theorem IcuSt.moved_dataSram (i : IcuSt) (k m o d p size : Nat) : (i.moved k m o d p size).dataSram =
    i.dataSram.upd [] d fun x : Mem => x.write p (Mem.read (i.dataSram.get [] m) o size) := rfl

/-- One element within the data SRAMs is moved and counted; then LADLE retires or has elements left. -/
theorem State.ladle_moves {m o d p : Nat} (hlt : (s.icu.core k).ladleDone < (s.icu.core k).ladleCnt) (hn : ∀ n, (s.icu.src n).pending = false)
    (hs : ctlPlace k (src + (s.icu.core k).ladleDone.toNat * size) = .data m o)
    (hd : ctlPlace k (dst + (s.icu.core k).ladleDone.toNat * size) = .data d p) :
    s.ladle k src dst size 1 = ({ s with icu := s.icu.moved k m o d p size } : State).ladle k src dst size 0 := by
  have hoffer : (s.icu.moved k m o d p size).offer k = none := IcuSt.offer_none (i := s.icu.moved k m o d p size) hn k
  have hmoved : ({ s.icu with dataSram := s.icu.dataSram.upd [] d fun x => x.write p (Mem.read (s.icu.dataSram.get [] m) o size) } : IcuSt).onCore k
      (fun c => { c with ladleDone := BitVec.ofNat 64 ((s.icu.core k).ladleDone.toNat + 1) }) = s.icu.moved k m o d p size :=
    IcuSt.onCore_congr rfl
  refine (State.ladle.eq_2 s k src dst size 0).trans ?_
  simp only [if_pos hlt, State.ctlLoad, hs, State.ctlStore, hd, hmoved, hoffer, Option.isSome_none, Bool.false_eq_true, if_false]

/-- With one element counted, LADLE has elements left or retires. -/
theorem State.ladle_counted {i : IcuSt} (hlt : (i.core k).ladleDone < (i.core k).ladleCnt) {t : State}
    (ht : t.icu.core k = { i.core k with ladleDone := BitVec.ofNat 64 ((i.core k).ladleDone.toNat + 1) }) :
    let u := t.ladle k src dst size 0
    u.icu.dataSram = t.icu.dataSram ∧ u.icu.fwSram = t.icu.fwSram ∧ u.icu.core k =
      if (i.core k).ladleDone + 1 = (i.core k).ladleCnt then { i.core k with ladleDone := 0, pc := (i.core k).pc + 4 }
      else { i.core k with ladleDone := (i.core k).ladleDone + 1 } := by
  have hone : BitVec.ofNat 64 ((i.core k).ladleDone.toNat + 1) = (i.core k).ladleDone + 1 := by
    rw [BitVec.ofNat_add, BitVec.ofNat_toNat, BitVec.setWidth_eq]
    rfl
  rw [hone] at ht
  rw [State.ladle, ht]
  dsimp only
  by_cases he : (i.core k).ladleDone + 1 = (i.core k).ladleCnt
  · rw [if_neg (by rw [he]; exact BitVec.lt_irrefl _), if_pos he]
    exact ⟨rfl, rfl, by rw [IcuSt.core_onCore_self, ht]⟩
  · rw [if_pos (by bv_omega), if_neg he]
    exact ⟨rfl, rfl, ht⟩

end

/-- Settles O52: LADLE retiring, moving one element, and its exceptions; STW_TOKEN; a routed event. -/
theorem ladleAndStewards : Obligations.LadleAndStewards := by
  intro s k hon c core trap
  have hstop : ¬ (!s.on) = true := by rw [hon]; exact Bool.false_ne_true
  refine ⟨fun word src dst steps hrun hl => ?ladle, fun val => ?token, fun qd source cause hr => ⟨?event, fun d => ?diagnosis⟩⟩
  case ladle =>
    have hx (steps : Nat) : exec (.ladle k word src dst steps) s = .next (match ladleSize word with
        | none => s.ctlTrap k 2 word.toNat
        | some size =>
          if src.toNat % size ≠ 0 then s.ctlTrap k 4 src.toNat
          else if dst.toNat % size ≠ 0 then s.ctlTrap k 6 dst.toNat
          else s.ladle k src.toNat dst.toNat size steps) := by
      refine congrArg Host.Outcome.next (if_neg ?_)
      rw [hon, show (s.icu.core k).state = 1 from hrun, hl]
      decide
    refine ⟨fun hn => ⟨_, hx steps, ?_⟩, fun size hz => ?_⟩
    · rw [hn]
      exact congrArg (fun i : IcuSt => ({ s with icu := i } : State)) (IcuSt.onCore_congr rfl)
    · refine ⟨fun hs => ⟨_, hx steps, ?_⟩, fun hs hd => ⟨_, hx steps, ?_⟩, fun hs hd => ⟨fun hle => ⟨_, hx steps, ?_⟩, fun m o d p hlt hp hsm hdm => ?_⟩⟩
      · rw [hz]
        dsimp only
        rw [if_pos hs]
        exact congrArg (fun i : IcuSt => ({ s with icu := i } : State)) (IcuSt.onCore_congr rfl)
      · rw [hz]
        dsimp only
        rw [if_neg (not_not.mpr hs), if_pos hd]
        exact congrArg (fun i : IcuSt => ({ s with icu := i } : State)) (IcuSt.onCore_congr rfl)
      · rw [hz]
        dsimp only
        rw [if_neg (not_not.mpr hs), if_neg (not_not.mpr hd), State.ladle_retires hle]
        exact congrArg (fun i : IcuSt => ({ s with icu := i } : State)) (IcuSt.onCore_congr rfl)
      · refine ⟨_, hx 1, ?_⟩
        rw [hz]
        dsimp only
        rw [if_neg (not_not.mpr hs), if_neg (not_not.mpr hd), State.ladle_moves hlt hp hsm hdm]
        obtain ⟨hdata, hfw, hcore⟩ := State.ladle_counted (src := src.toNat) (dst := dst.toNat) (size := size) hlt
          (t := { s with icu := s.icu.moved k m o d p size }) (s.icu.core_moved k m o d p size)
        rw [hdata.trans (s.icu.moved_dataSram ..), hfw]
        exact ⟨Tab.get_upd_self _ _ _ _, fun e he => Tab.get_upd_ne _ _ _ he, rfl, hcore⟩
  case token =>
    intro q hq hk hlt
    refine congrArg Host.Outcome.next (if_pos ?_)
    have hlost : s.icu.lostCores.contains k.val = false := by
      rw [← Bool.not_eq_true, List.contains_iff_mem]
      exact hk
    rw [hon, hq, hlost, decide_eq_true hlt]
    rfl
  case event =>
    refine congrArg Host.Outcome.next ((if_pos (by rw [hon, hr]; rfl)).trans ?_)
    simp only [IcuSt.stewardLog, Option.map_none, Option.toList_none, List.append_nil]
  case diagnosis =>
    exact congrArg Host.Outcome.next (if_pos (by rw [hon, hr]; rfl))

end Sys2Proof.Machine
end
section
/-! The nonvolatile store and the telemetry snapshots (O54). -/

namespace Sys2Proof.Machine

/-! ### The hold-up bank (R514 to R517) -/

/-- The reports of a measurement of the bank. -/
def PwrSt.lowOb (p : PwrSt) (energy : Nat) : Outbox := if energy < 15000 then (p.ob.event 0xA 4 0).line 6 else p.ob

theorem PwrSt.measured_eq (p : PwrSt) (energy : Nat) : p.measured energy = { p with energy := min 65535 energy, ob := p.lowOb energy } := by
  rw [PwrSt.measured, PwrSt.lowOb]
  split <;> rfl

theorem PwrSt.healthCheck_eq (p : PwrSt) (rtc energy cap esr : Nat) : p.healthCheck rtc energy cap esr = { p with
    energy := min 65535 energy
    capPct := min 255 cap
    esrPct := min 255 esr
    healthy := bankHealthy cap esr
    checked := rtc
    ob := if bankHealthy cap esr then p.lowOb energy else (p.lowOb energy).event 0xA 5 0 } := by
  rw [PwrSt.healthCheck, PwrSt.measured_eq]
  dsimp only
  split <;> rfl

theorem PwrSt.admits_iff (p : PwrSt) (kind : Nat) :
    p.admits kind = true ↔ p.healthy = true ∧ commitNeed kind + 3000 ≤ p.energy ∧ p.railsFailing = false := by
  rw [PwrSt.admits, Bool.and_eq_true, Bool.and_eq_true, decide_eq_true_eq, Bool.not_eq_true', and_assoc]

/-! ### A commit that has its turn (R32, R514 to R516) -/

section
variable {s : State} {energy : Nat} {c : Commit} {rest : List Commit}

theorem State.checkDue_iff (s : State) : s.checkDue = true ↔ s.pwr.checked + 60 * 32768 < s.sup.rtc.toNat := decide_eq_true_iff

theorem exec_durableCommit (hon : s.on = true) (hc : s.pwr.commits = c :: rest) (hd : s.checkDue = false) : exec (.durableCommit energy) s =
    .next (if s.commitCode c.act ≠ 0 then
        { s with pwr := { s.pwr with commits := rest }.measured energy }.answerCommit c.cmd 1 (s.commitCode c.act) 0
      else if ({ s.pwr with commits := rest }.measured energy).admits c.act.kind then
        { ({ s with pwr := { s.pwr with commits := rest }.measured energy }.commitDone c.act).1 with
          pwr := ({ s with pwr := { s.pwr with commits := rest }.measured energy }.commitDone c.act).1.pwr.journalled
            c.act.kind c.act.record.1 c.act.record.2 }.answerCommit c.cmd 0 0
          ({ s with pwr := { s.pwr with commits := rest }.measured energy }.commitDone c.act).2
      else { s with pwr := ({ s.pwr with commits := rest }.measured energy).refuse }.answerCommit c.cmd 1 0x82 0) := by
  show execDurableCommit energy s = _
  rw [execDurableCommit, hon, hd, hc]
  rfl

end

/-! ### Diagnoses that a map extension settles (R481) -/

theorem IcuSt.diagnosed_diag (i : IcuSt) (gone : Nat → Bool) {q : Nat} (hq : q < 8) :
    ((i.diagnosed gone).steward q).diag = (i.steward q).diag.filter fun e => !gone e := by
  obtain ⟨-, hin, -⟩ := foldl_range_at (fun (i : IcuSt) q => (i.steward q).diag)
    (fun (i : IcuSt) q => i.onSteward q fun s => { s with diag := s.diag.filter fun e => !gone e }) 0
    (fun _ old new => new = old.filter fun e => !gone e) (fun _ => True) (n := 8) (x := i)
    (fun x h _ _ => ⟨trivial, by rw [Nat.zero_add, IcuSt.steward_onSteward_self], fun d hd => by
      rw [IcuSt.steward_onSteward_ne _ _ (by rwa [Nat.zero_add] at hd)]⟩) trivial
  have h := hin q hq
  rwa [Nat.zero_add] at h

/-! ### NAND wear (R519) -/

theorem PwrSt.events_foldl (ts : List Nat) (h : ∀ t ∈ ts, t < 256) : ∀ p : PwrSt, ts.foldl (fun (p : PwrSt) t => p.event 7 t) p =
    { p with ob := ts.foldl (fun (o : Outbox) t => o.event 0xA (7 + 256 * t) 0) p.ob } := by
  induction ts with
  | nil => exact fun p => rfl
  | cons t ts ih =>
    intro p
    rw [List.foldl_cons, ih (fun x hx => h x (List.mem_cons_of_mem _ hx)), List.foldl_cons, PwrSt.event,
      Nat.mod_eq_of_lt (h t List.mem_cons_self)]

theorem wearPassed_lt {old new t : Nat} (h : t ∈ wearPassed old new) : t < 256 := by
  have hm := (List.mem_filter.mp h).1
  simp only [List.mem_cons, List.not_mem_nil, or_false] at hm
  omega

theorem PwrSt.nandWear_eq (p : PwrSt) {life worst bad erased : Nat} (hl : life < 256) (hw : worst < 256) (hb : bad < 65536) (he : erased < 2 ^ 32) :
    p.nandWear life worst bad erased = { p with
      lifePct := life, worstPct := worst, badBlocks := bad, erasedMib := erased
      ob := (wearPassed p.lifePct life ++ wearPassed p.worstPct worst).foldl (fun (o : Outbox) t => o.event 0xA (7 + 256 * t) 0) p.ob } := by
  have h1 : min 255 life = life := by omega
  have h2 : min 255 worst = worst := by omega
  have h3 : min 65535 bad = bad := by omega
  have h4 : min (2 ^ 32 - 1) erased = erased := by omega
  rw [PwrSt.nandWear, h1, h2, h3, h4]
  exact PwrSt.events_foldl _ (fun t ht => (List.mem_append.mp ht).elim wearPassed_lt wearPassed_lt) _

/-- Settles O54: health checks, durable commits of each kind, NAND wear, and snapshots. -/
theorem storeAndSnapshots : Obligations.StoreAndSnapshots := by
  intro s hon p low due
  have hpwr (f : PwrSt → PwrSt) : s.onPwr f = .next { s with pwr := f s.pwr } := congrArg Host.Outcome.next (if_pos hon)
  refine ⟨fun energy cap esr => ?health, fun h energy => ?idle, fun energy c rest he hc hdue => ?commit, fun life worst bad erased hl hw hb he => ?wear,
    fun i hi => ?trigger, fun hp => ?noPeriod, fun hb => ?noCapture, fun x hb hx => ?capture⟩
  case health =>
    intro ok
    refine (hpwr fun p => p.healthCheck s.sup.rtc.toNat energy cap esr).trans ?_
    rw [PwrSt.healthCheck_eq]
    rfl
  case idle =>
    show execDurableCommit energy s = _
    rw [execDurableCommit]
    rcases h with h | h
    · rw [h]
      split
      · next hn => cases hn
      · rfl
    · rw [(State.checkDue_iff s).mpr h, Bool.not_true, Bool.and_false]
  case commit =>
    intro p1 fits done gives refused
    have hrun := exec_durableCommit (energy := energy) hon hc (Bool.eq_false_iff.mpr fun h => hdue ((State.checkDue_iff s).mp h))
    have hp1 : { s.pwr with commits := rest }.measured energy = p1 := by
      rw [PwrSt.measured_eq, show min 65535 energy = energy by omega]
      rfl
    rw [hp1] at hrun
    have hadmits (kind : Nat) : p1.admits kind = true ↔ fits (commitNeed kind) := PwrSt.admits_iff p1 kind
    have hrefused (ha : s.commitCode c.act = 0) (hn : ¬ fits (commitNeed c.act.kind)) : refused := by
      rw [if_neg (by rw [ha]; exact fun h => h rfl), if_neg fun h => hn ((hadmits _).mp h)] at hrun
      exact hrun
    have hdone (ha : s.commitCode c.act = 0) (hf : fits (commitNeed c.act.kind)) :
        exec (.durableCommit energy) s = .next ({ (State.commitDone { s with pwr := p1 } c.act).1 with
          pwr := (State.commitDone { s with pwr := p1 } c.act).1.pwr.journalled c.act.kind c.act.record.1 c.act.record.2 }.answerCommit
          c.cmd 0 0 (State.commitDone { s with pwr := p1 } c.act).2) := by
      rw [if_neg (by rw [ha]; exact fun h => h rfl), if_pos ((hadmits _).mpr hf)] at hrun
      exact hrun
    refine ⟨fun ha => ?audit, fun e ha => ?mapExt, fun slot img ha => ?store, fun slot ha => ?delete, fun slot svn ha => ?firmware⟩ <;>
      rw [ha] at hrefused hdone
    case audit => exact ⟨hdone rfl, hrefused rfl⟩
    case mapExt =>
      intro u
      refine ⟨fun h0 hf => ⟨s.icu.diagnosed u.nextMap.invalid, ?_, fun q => s.icu.diagnosed_diag _ q.isLt⟩, hrefused, fun hne => ?_⟩
      · have hx := hdone h0 hf
        simp only [State.commitDone, List.length_append, List.length_singleton] at hx
        exact hx
      · rw [if_pos (by rw [ha]; exact hne), ha] at hrun
        rw [hrun, State.commitCode]
        by_cases hv : s.sup.nextMap.invalid e = true
        · rw [if_pos hv, SupSt.extCode_invalid hv]
        · have hv' := Bool.eq_false_iff.mpr hv
          have hl : 64 ≤ s.sup.exts.length := Nat.le_of_not_lt fun hl => hne (SupSt.extCode_room hv' hl)
          rw [if_neg hv, SupSt.extCode_full hv' hl]
    case store => exact ⟨hdone rfl, hrefused rfl⟩
    case delete => exact ⟨hdone rfl, hrefused rfl⟩
    case firmware => exact ⟨hdone rfl, hrefused rfl⟩
  case wear =>
    refine (hpwr fun p => p.nandWear life worst bad erased).trans ?_
    rw [PwrSt.nandWear_eq s.pwr hl hw hb he]
    rfl
  case trigger =>
    have hx : exec i s = .next s.trigger := by
      rcases hi with rfl | ⟨rfl, hp⟩
      · exact congrArg Host.Outcome.next (if_pos hon)
      · exact congrArg Host.Outcome.next (if_pos (by rw [hon]; simpa using hp))
    refine ⟨fun hb => hx.trans ?_, fun hb => hx.trans ?_⟩
    · rw [State.trigger, TelSt.request, if_pos hb]
    · rw [State.trigger, TelSt.request, if_neg (by rw [hb]; exact Bool.false_ne_true)]
  case noPeriod =>
    exact congrArg Host.Outcome.next (if_neg (by rw [hp]; simp))
  case noCapture => exact congrArg Host.Outcome.next (if_neg (by rw [hb]; exact Bool.false_ne_true))
  case capture =>
    intro ended
    have hx : exec .snapshotCaptureEnd s = .next ((ended.host.cmds.filter fun c => c.op == 6 && c.waits).foldl
        (fun (s : State) c => s.answer c.id 0 0 s.tel.number.toNat 0) ended) := by
      have hend : ({ s with tel := s.tel.captureEnd } : State) = ended := by rw [TelSt.captureEnd, hx]
      rw [← hend]
      exact congrArg Host.Outcome.next (if_pos hb)
    refine ⟨fun hc => hx.trans ?_, fun c hc ho hw => hx.trans ?_⟩
    · rw [show ended.host.cmds = [] from hc]
      rfl
    · rw [show ended.host.cmds = [c] from hc, List.filter_cons_of_pos (by rw [ho, hw]; rfl)]
      rfl

end Sys2Proof.Machine
end
section
/-! The sideband and firmware updates (R542, R563). -/

namespace Sys2Proof.Machine

/-- An answer of the sideband while the auxiliary rail stands. -/
theorem State.sideband_up {s : State} (h : s.pwr.railsFailing = false) (code : Nat) (answer : Bytes) :
    s.sideband code answer = { s with data := BitVec.ofNat 8 code :: answer } :=
  if_neg (by rw [h]; exact Bool.false_ne_true)

theorem SecSt.slotOk_iff (c : SecSt) (f : FwSlot) : c.slotOk f = true ↔
    f.pair < 4 ∧ c.revoked.getLsbD f.pair = false ∧ f.signed = true ∧ c.rollback.toNat ≤ f.svn.toNat ∧ f.bodyOk = true := by
  simp only [SecSt.slotOk, Bool.and_eq_true, decide_eq_true_eq, Bool.not_eq_true', and_assoc]

/-- Settles O58: with the rail up the sideband answers; an update stores under its slot alone, and an activation queues its
commit exactly where the slot's checks pass. -/
theorem sidebandAndFirmware : Obligations.SidebandAndFirmware := by
  unfold Obligations.SidebandAndFirmware
  intro s hrail
  refine ⟨congrArg Host.Outcome.next (State.sideband_up hrail 0 _), ?clear, fun pair signed bodyOk stewardOk svn version body => ?update,
    fun hon => ?activation, fun hoff => ?off⟩
  case clear =>
    have h : ¬ s.pwr.railsFailing = true := by rw [hrail]; exact Bool.false_ne_true
    exact congrArg Host.Outcome.next ((if_neg h).trans (if_neg h))
  case update =>
    intro f i
    have hi : exec i s = .next (if s.on then { s with sec := s.sec.update f }
        else if s.pwr.railsFailing then s else { s with data := [0x02] }) := rfl
    refine ⟨fun hon hsvn => ⟨_, hi.trans (congrArg Host.Outcome.next (if_pos hon)), ?_⟩, fun hon hsvn => ?_, fun hoff => ?_⟩
    · have hu : s.sec.update f = { s.sec with slots := s.sec.slots.set (1 - s.sec.slot) f } := if_neg (Nat.not_lt.mpr hsvn)
      rw [hu]
      exact ⟨rfl, Tab.get_set_self .., fun k hk => Tab.get_set_ne _ _ _ hk⟩
    · have hu : s.sec.update f = s.sec := if_pos hsvn
      rw [hi, if_pos hon, hu]
    · rw [hi, hoff, hrail]
      rfl
  case activation =>
    intro k f good
    refine ⟨fun hg => ?_, fun hg => ?_⟩
    · exact congrArg Host.Outcome.next ((if_pos hon).trans (if_pos ((s.sec.slotOk_iff f).mpr hg)))
    · exact congrArg Host.Outcome.next ((if_pos hon).trans (if_neg fun h => hg ((s.sec.slotOk_iff f).mp h)))
  case off =>
    exact congrArg Host.Outcome.next ((if_neg (by rw [hoff]; exact Bool.false_ne_true)).trans
      (if_neg (by rw [hrail]; exact Bool.false_ne_true)))

end Sys2Proof.Machine
end
section
/-! Debug sessions, the JTAG port, debug of control cores and attestation (R543 to R548). -/

namespace Sys2Proof.Machine

/-! ### What RESUME leaves of the control cores -/

theorem IcuSt.resume_srcs (i : IcuSt) (k : Nat) : (i.resume k).srcs = i.srcs := by
  rw [IcuSt.resume]
  split <;> rfl

/-- A core's state after RESUME of core `k`: a halted one goes on when it is of the same pair. -/
theorem IcuSt.resume_state (i : IcuSt) (k j : Nat) : ((i.resume k).core j).state =
    if pairCore j = pairCore k ∧ (i.core j).state = 3 then 1 else (i.core j).state := by
  by_cases hp : pairCore j = pairCore k
  · have hsame : i.core j = i.core k := by rw [IcuSt.core, IcuSt.core, hp]
    rw [hsame, IcuSt.resume]
    by_cases h3 : (i.core k).state = 3
    · rw [if_pos h3, if_pos ⟨hp, h3⟩, IcuSt.core, IcuSt.onCore, hp, Tab.get_set_self]
    · rw [if_neg h3, if_neg fun h => h3 h.2, hsame]
  · rw [if_neg fun h => hp h.1, IcuSt.resume]
    split
    · rw [IcuSt.core, IcuSt.onCore, Tab.get_set_ne _ _ _ hp]
      rfl
    · rfl

theorem IcuSt.resumes_srcs (l : List Nat) (i : IcuSt) : (l.foldl (fun (i : IcuSt) k => i.resume k) i).srcs = i.srcs :=
  List.foldlRecOn l _ (motive := fun x : IcuSt => x.srcs = i.srcs) rfl fun x h k _ => (x.resume_srcs k).trans h

theorem IcuSt.resumes_state (l : List Nat) : ∀ (i : IcuSt) (j : Nat), j ∈ l →
    ((l.foldl (fun (i : IcuSt) k => i.resume k) i).core j).state = if (i.core j).state = 3 then 1 else (i.core j).state := by
  have hgone : ∀ (l : List Nat) (i : IcuSt) (j : Nat), (i.core j).state ≠ 3 →
      ((l.foldl (fun (i : IcuSt) k => i.resume k) i).core j).state = (i.core j).state := fun l i j h =>
    List.foldlRecOn l _ (motive := fun x : IcuSt => (x.core j).state = (i.core j).state) rfl fun x hx k _ => by
      rw [x.resume_state, if_neg fun ⟨_, h3⟩ => h (hx ▸ h3), hx]
  induction l with
  | nil => exact fun _ _ h => absurd h List.not_mem_nil
  | cons k l ih =>
    intro i j hj
    rw [List.foldl_cons]
    by_cases hk : pairCore j = pairCore k
    · have hs := i.resume_state k j
      simp only [hk, true_and] at hs
      have hne : ((i.resume k).core j).state ≠ 3 := by
        rw [hs]
        split <;> omega
      rw [hgone l _ _ hne, hs]
    · have hs := i.resume_state k j
      rw [if_neg fun h => hk h.1] at hs
      have hjl : j ∈ l := (List.mem_cons.mp hj).resolve_left fun h => hk (h ▸ rfl)
      rw [ih _ _ hjl, hs]

theorem IcuSt.resumeAll_srcs (i : IcuSt) : i.resumeAll.srcs = i.srcs := by
  rw [IcuSt.resumeAll, IcuSt.resumes_srcs]

theorem IcuSt.resumeAll_state (i : IcuSt) {k : Nat} (hk : k < 20) :
    (i.resumeAll.core k).state = if (i.core k).state = 3 then 1 else (i.core k).state := by
  rw [IcuSt.resumeAll, IcuSt.resumes_state _ _ _ (List.mem_range.mpr hk)]

/-! ### The stores of every core are zeroed -/

theorem PlaneSt.wipes_spec (l : List Nat) (p : PlaneSt) :
    let q := l.foldl (fun (p : PlaneSt) c => p.onCore c fun c => c.wipe) p
    q.sites = p.sites ∧ ∀ c, (c ∈ l ∨ ((p.core c).st.tile = [] ∧ (p.core c).ve.regs = [])) →
      (q.core c).st.tile = [] ∧ (q.core c).ve.regs = [] := by
  induction l generalizing p with
  | nil => exact ⟨rfl, fun c h => h.resolve_left List.not_mem_nil⟩
  | cons k l ih =>
    obtain ⟨hsites, hempty⟩ := ih (p.onCore k fun c => c.wipe)
    refine ⟨hsites, fun c h => hempty c ?_⟩
    by_cases hck : c = k
    · refine .inr ?_
      rw [hck, PlaneSt.core, PlaneSt.onCore, PlaneSt.setCore, Tab.get_set_self]
      exact ⟨rfl, rfl⟩
    · refine h.imp (fun h => (List.mem_cons.mp h).resolve_left hck) fun h => ?_
      rw [PlaneSt.core, PlaneSt.onCore, PlaneSt.setCore, Tab.get_set_ne _ _ _ hck]
      exact h

theorem PlaneSt.wipe_spec (p : PlaneSt) (c : Nat) (h : c ∈ p.wipe.live) : (p.wipe.core c).st.tile = [] ∧ (p.wipe.core c).ve.regs = [] := by
  obtain ⟨hsites, hempty⟩ := PlaneSt.wipes_spec p.live p
  exact hempty c (.inl (by rwa [PlaneSt.live, ← hsites]))

/-! ### Sessions -/

section Sessions
variable {s : State}

theorem SecSt.sessionResult_eq {c : SecSt} (hlife : c.life ≠ .scrapped) (hver : c.verified = none) (pstate level : Nat) :
    c.sessionResult pstate level = if c.reach < level ∨ 2 < level then 8 else if pstate ≠ 0 ∧ pstate ≠ 1 then 7 else 0 := by
  rw [SecSt.sessionResult, if_neg]
  rintro (h | h)
  · exact hlife h
  · rw [hver] at h
    cases h

theorem State.dbgRequest_taken (hon : s.on = true) (hb : s.sec.busy = false) (hlife : s.sec.life ≠ .scrapped) (h2 : s.pwr.state ≠ 2)
    (f : State → State) : s.dbgRequest f = f s := by
  rw [State.dbgRequest, hon, hb, if_neg hlife, if_neg h2]
  rfl

theorem State.dbgRequest_refused (hon : s.on = true) (hb : s.sec.busy = false) (h : s.sec.life = .scrapped ∨ s.pwr.state = 2)
    (f : State → State) : s.dbgRequest f = s.dbgResult (if s.sec.life = .scrapped then 1 else 7) := by
  have hopen : ¬ (!s.on || s.sec.busy) = true := by rw [hon, hb]; exact Bool.false_ne_true
  rw [State.dbgRequest, if_neg hopen]
  by_cases hs : s.sec.life = .scrapped
  · rw [if_pos hs, if_pos hs]
  · rw [if_neg hs, if_neg hs, if_pos (h.resolve_left hs)]

theorem State.session_refused {level code : Nat} (h : s.sec.sessionResult s.pwr.state level = code) (hc : code ≠ 0) :
    s.session level = s.dbgResult code := by
  rw [State.session, h]
  exact if_pos hc

theorem State.session_none (h : s.sec.sessionResult s.pwr.state 0 = 0) : s.session 0 = s.endSession.dbgResult 0 := by
  rw [State.session, h]
  rfl

/-- A granted session that does not enter Full. -/
theorem State.session_kept {level : Nat} (h : s.sec.sessionResult s.pwr.state level = 0) (hl : level ≠ 0)
    (hfull : ¬ (level = 2 ∧ s.sec.level ≠ 2)) : s.session level = { s with sec := { s.sec with level := level, result := 0 } } := by
  rw [State.session, h, if_neg fun h => h rfl, if_neg hl, if_neg hfull]

/-- Entering Full ends the run and zeroes the stores of every core. -/
theorem State.session_full (h : s.sec.sessionResult s.pwr.state 2 = 0) (hl : s.sec.level ≠ 2) :
    let t := s.session 2
    t.sec.level = 2 ∧ t.sec.result = 0 ∧ t.img.active = 0 ∧
      ∀ c ∈ t.plane.live, (t.plane.core c).st.tile = [] ∧ (t.plane.core c).ve.regs = [] := by
  rw [State.session, h, if_neg fun h => h rfl, if_neg (by decide), if_pos ⟨rfl, hl⟩]
  exact ⟨rfl, rfl, s.endRun_frame.2.2, s.endRun.plane.wipe_spec⟩

theorem State.endSession_eq (s : State) : s.endSession.dbgResult 0 = { s with
    icu := s.icu.resumeAll, sec := { s.sec with level := 0, result := 0 } } := by
  rw [State.endSession, IcuSt.resumeAll, State.dbgResult]

theorem State.relock_open (hon : s.on = true) (hb : s.sec.busy = false) : s.relock = s.onSec (s.sec.relock s.pwr) := by
  rw [State.relock, hon, hb]
  rfl

end Sessions

/-! ### The JTAG port and attestation -/

theorem State.jtag_up {s : State} (h : s.pwr.railsFailing = false) (ir : JtagIr) (allowed : Bool) :
    s.jtag ir allowed = { s with sec := s.sec.jtag (if allowed then ir else .bypass) } :=
  if_neg (by rw [h]; exact Bool.false_ne_true)

theorem State.spdm_on {s : State} (hrail : s.pwr.railsFailing = false) (hrec : s.sec.recovery = false) (hon : s.on = true)
    (answer : SecSt → Bytes) : s.spdm answer = { s with data := answer s.sec } := by
  rw [State.spdm, hrail, hrec, hon]
  rfl

theorem State.spdm_off {s : State} (hrail : s.pwr.railsFailing = false) (hrec : s.sec.recovery = false) (hoff : s.on = false)
    (answer : SecSt → Bytes) : s.spdm answer = { s with data := [2] } := by
  rw [State.spdm, hrail, hrec, hoff]
  rfl

theorem SecSt.withChain_zero {c : SecSt} (h : c.keysOff = false) (f : Bytes → Bytes) : c.withChain 0 f = f (Config.certChain c.aliasSeed) := by
  rw [SecSt.withChain, SecSt.chain, h]
  rfl

/-- Settles O56: a request is taken or refused as a whole, and a session by its result code. -/
theorem debugAndAttestation : Obligations.DebugAndAttestation := by
  unfold Obligations.DebugAndAttestation
  intro s hrail
  refine ⟨fun hon hb => ⟨fun hlife h2 => ⟨fun level hver => ?session, fun i hi => ?ending⟩, fun hno => ?refused, fun hopen => ?relock,
      fun hopen hadm => ?relocked⟩, ?bypass, ?idcode, fun hon => ?dapacc, fun cells hon hlife => ?sample, fun hon hl => ?extest, fun hno => ?noExtest,
    fun k => ⟨fun hl hp => ?debug, fun hl => ?noDebug⟩, fun hrec hon => ?spdm, fun hrec hoff => ?spdmOff⟩
  case session =>
    have hrun : exec (.session level) s = .next (s.session level) := congrArg Host.Outcome.next (State.dbgRequest_taken hon hb hlife h2 _)
    have hcode := SecSt.sessionResult_eq hlife hver s.pwr.state level
    refine ⟨fun h => ?_, fun hr hle hp => ?_, fun hr hp => ?_⟩
    · rw [if_pos (h.imp id fun h => by omega)] at hcode
      rw [hrun, State.session_refused hcode (by decide)]
      rfl
    · rw [if_neg (by omega), if_pos (by omega)] at hcode
      rw [hrun, State.session_refused hcode (by decide)]
      rfl
    · rw [hrun]
      refine ⟨fun h => ?_, fun h hne => ?_⟩
      · rw [if_neg (by omega), if_neg (by omega)] at hcode
        rw [State.session_kept hcode (by omega) (by omega)]
      · rw [if_neg (by omega), if_neg (by omega), h] at hcode
        rw [h]
        exact ⟨_, rfl, State.session_full hcode hne⟩
  case ending =>
    have hrun : exec i s = .next (s.endSession.dbgResult 0) := by
      rcases hi with rfl | ⟨rfl, hver, hp⟩
      · exact congrArg Host.Outcome.next (State.dbgRequest_taken hon hb hlife h2 _)
      · have hcode := SecSt.sessionResult_eq hlife hver s.pwr.state 0
        rw [if_neg (by omega), if_neg (by omega)] at hcode
        exact congrArg Host.Outcome.next ((State.dbgRequest_taken hon hb hlife h2 _).trans (State.session_none hcode))
    rw [s.endSession_eq] at hrun
    have hsrcs := s.icu.resumeAll_srcs
    have hstate := fun k : Fin 20 => s.icu.resumeAll_state k.isLt
    generalize s.icu.resumeAll = icu at hrun hsrcs hstate
    exact ⟨_, hrun, rfl, hsrcs, hstate⟩
  case refused =>
    exact ⟨fun level => congrArg Host.Outcome.next (State.dbgRequest_refused hon hb hno _),
      congrArg Host.Outcome.next (State.dbgRequest_refused hon hb hno _)⟩
  case relock =>
    have hsec : s.sec.relock s.pwr = ({ s.sec with result := 1 }, s.pwr) := if_pos hopen
    refine ⟨_, congrArg Host.Outcome.next (State.relock_open hon hb), ?_⟩
    rw [hsec]
    exact ⟨rfl, rfl, if_neg fun h => h.1 h.2⟩
  case relocked =>
    refine ⟨_, congrArg Host.Outcome.next (State.relock_open hon hb), ?_⟩
    rw [SecSt.relock, if_neg fun h => h hopen, PwrSt.counter, if_pos hadm]
    rfl
  case bypass => exact congrArg Host.Outcome.next (State.jtag_up hrail _ _)
  case idcode =>
    refine congrArg Host.Outcome.next ((if_neg (by rw [hrail]; exact Bool.false_ne_true)).trans ?_)
    rw [State.jtag_up hrail]
    rfl
  case dapacc =>
    refine congrArg Host.Outcome.next ((State.jtag_up hrail _ _).trans ?_)
    rw [hon]
    rfl
  case sample =>
    have hok : (s.on && s.sec.life != .scrapped) = true := by simpa [hon] using hlife
    show Host.Outcome.next _ = _
    rw [hok, if_pos rfl, State.jtag_up hrail]
    rfl
  case extest =>
    have hok : (s.on && s.sec.level == 2) = true := by rw [hon, hl]; rfl
    show Host.Outcome.next _ = _
    rw [hok, if_pos rfl, State.jtag_up hrail]
    rfl
  case noExtest =>
    have hno : (s.on && s.sec.level == 2) = false := by
      rcases hno with h | h
      · rw [h]; rfl
      · rw [Bool.and_eq_false_iff]
        exact .inr (beq_eq_false_iff_ne.mpr h)
    show Host.Outcome.next _ = Host.Outcome.next _
    rw [hno, if_neg Bool.false_ne_true, State.jtag_up hrail, State.jtag_up hrail]
    rfl
  case debug =>
    have hfull : s.fullDebug = true := by rw [State.fullDebug, hl, decide_eq_true hp]; rfl
    refine ⟨fun h => ?_, fun h => ?_⟩
    · refine congrArg Host.Outcome.next ((if_pos hfull).trans ?_)
      rw [IcuSt.debugHalt, if_pos h]
    · refine congrArg Host.Outcome.next ((if_pos hfull).trans ?_)
      rw [IcuSt.resume, if_pos h]
  case noDebug =>
    have hno : ¬ s.fullDebug = true := fun h => hl (by simpa using (Bool.and_eq_true_iff.mp h).1)
    exact ⟨congrArg Host.Outcome.next (if_neg hno), congrArg Host.Outcome.next (if_neg hno)⟩
  case spdm =>
    intro answers pub
    have hspdm := State.spdm_on hrail hrec hon
    have hopen : (s.on && !s.sec.recovery) = true := by rw [hon, hrec]; rfl
    refine ⟨?_, congrArg Host.Outcome.next (hspdm _), fun a b => ?_, fun hk => ⟨?_, fun off len => ?_, fun nonce => ?_, fun index nonce hi => ?_⟩⟩
    · refine congrArg Host.Outcome.next ((if_pos hopen).trans ?_)
      rw [hspdm]
    · refine congrArg Host.Outcome.next ((if_pos hopen).trans ?_)
      rw [hspdm]
      cases a && b <;> rfl
    · exact congrArg Host.Outcome.next ((hspdm _).trans (by rw [SecSt.withChain_zero hk]))
    · exact congrArg Host.Outcome.next ((hspdm _).trans (congrArg (fun d => { s with data := d }) (SecSt.withChain_zero hk _)))
    · exact congrArg Host.Outcome.next ((hspdm _).trans (congrArg (fun d => { s with data := d }) (SecSt.withChain_zero hk _)))
    · refine ⟨_, rfl, congrArg Host.Outcome.next ((hspdm _).trans (congrArg (fun d => { s with data := d }) ?_))⟩
      rw [hk, if_neg Bool.false_ne_true, if_neg (by omega)]
  case spdmOff =>
    have hspdm := State.spdm_off hrail hrec hoff
    refine ⟨?_, fun index nonce => congrArg Host.Outcome.next (hspdm _)⟩
    refine congrArg Host.Outcome.next ((if_neg ?_).trans (hspdm _))
    rw [hoff]
    exact Bool.false_ne_true

end Sys2Proof.Machine
end
section
/-! Nonces, authorisations and the lifecycle transitions (R531, R532, R535 to R538, R549). -/

namespace Sys2Proof.Machine

/-! ### Commits of the security block -/

theorem PwrSt.note_spec (p : PwrSt) (kind arg : Nat) : (p.note kind arg).done = p.done ∧ (p.note kind arg).admits 1 = p.admits 1 := by
  rw [p.note_eq]
  exact ⟨rfl, rfl⟩

theorem PwrSt.counter_admitted {p : PwrSt} (h : p.admits 1 = true) (target : Nat) (content : Bytes) :
    ∃ q : PwrSt, p.counter target content = (q, true) ∧ q.done = p.done + 1 ∧ q.admits 1 = true :=
  ⟨_, if_pos h, (PwrSt.note_spec _ 5 1).1, (PwrSt.note_spec _ 5 1).2.trans h⟩

theorem PwrSt.counter_refused {p : PwrSt} (h : ¬ p.admits 1 = true) (target : Nat) (content : Bytes) :
    p.counter target content = (p.refuse, false) := if_neg h

/-! ### GET_NONCE -/

theorem State.newNonce_done {s : State} (h : s.pwr.admits 1 = true) :
    ∃ q : PwrSt, s.newNonce = { s with pwr := q, sec := s.sec.newNonce s.sup.rtc.toNat } ∧ q.done = s.pwr.done + 1 := by
  obtain ⟨q, hq, hd, -⟩ := PwrSt.counter_admitted h 0 (leBytes 8 (s.sec.nonceSeq.toNat + 1))
  refine ⟨q, ?_, hd⟩
  rw [State.newNonce, hq]
  rfl

theorem State.newNonce_refused {s : State} (h : ¬ s.pwr.admits 1 = true) :
    s.newNonce = { s with pwr := s.pwr.refuse }.dbgResult 6 := by
  rw [State.newNonce, PwrSt.counter_refused h]
  rfl

/-! ### SUBMIT (R537) -/

theorem opAllowed_range {l : Life} {op : Nat} (h : opAllowed l op = true) : 1 ≤ op ∧ op ≤ 7 := by
  cases l <;> simp [opAllowed] at h <;> omega

theorem ownerOp_iff (op : Nat) : ownerOp op = true ↔ 1 ≤ op ∧ op ≤ 4 := by
  rw [ownerOp, Bool.and_eq_true, decide_eq_true_eq, decide_eq_true_eq]

/-- The counters of an OP's path rise and nothing else changes. -/
theorem SecSt.counted_eq (c : SecSt) (op : Nat) : ∃ f t v, c.counted op = { c with ownerFail := f, ownerTries := t, vendorTries := v } ∧
    (1 ≤ op ∧ op ≤ 4 → f = satAdd 16 c.ownerFail 1 ∧ t = satAdd 16 c.ownerTries 1) ∧ (op = 5 → v = c.vendorTries + 1) := by
  rw [SecSt.counted]
  split
  · next h => exact ⟨_, _, _, rfl, fun _ => ⟨rfl, rfl⟩, fun h5 => absurd ((ownerOp_iff op).mp h) (by omega)⟩
  · next h =>
    have hno : ¬ (1 ≤ op ∧ op ≤ 4) := fun ho => h ((ownerOp_iff op).mpr ho)
    split
    · exact ⟨_, _, _, rfl, fun ho => absurd ho hno, fun _ => rfl⟩
    · next h5 => exact ⟨_, _, _, rfl, fun ho => absurd ho hno, fun h => absurd h h5⟩

/-- What an authorisation that has been counted leaves of its path, whatever it ends with. -/
def SecSt.Tried (c d : SecSt) (op : Nat) : Prop :=
  (1 ≤ op ∧ op ≤ 4 → d.ownerFail = satAdd 16 c.ownerFail 1 ∧ d.ownerTries = satAdd 16 c.ownerTries 1) ∧
  (op = 5 → d.vendorTries = c.vendorTries + 1) ∧ d.nonce = none ∧ d.life = c.life ∧ d.record = c.record ∧ d.level = c.level

/-- What a failure at step 5 or 6 leaves. -/
theorem SecSt.failed_spec (c : SecSt) (op code rtc : Nat) :
    let d := c.failed op code rtc
    d.result = code ∧ d.busy = false ∧ (1 ≤ op ∧ op ≤ 4 → d.waitEnd = rtc + 2 ^ min c.ownerFail 12 * 32768) ∧
      (op = 5 → 16 ≤ c.vendorTries → d.vendorDead = true) ∧
      d = { c with result := code, busy := false, waitEnd := d.waitEnd, vendorDead := d.vendorDead } := by
  intro d
  by_cases ho : ownerOp op = true
  · have hd : d = { c with result := code, busy := false, waitEnd := rtc + 2 ^ min c.ownerFail 12 * rtcHz } := if_pos ho
    have hr := (ownerOp_iff op).mp ho
    rw [hd]
    exact ⟨rfl, rfl, fun _ => rfl, fun h => absurd hr (by omega), rfl⟩
  · have hr : ¬ (1 ≤ op ∧ op ≤ 4) := fun h => ho ((ownerOp_iff op).mpr h)
    by_cases h5 : op = 5 ∧ 16 ≤ c.vendorTries
    · have hd : d = { c with result := code, busy := false, vendorDead := true } := (if_neg ho).trans (if_pos h5)
      rw [hd]
      exact ⟨rfl, rfl, fun h => absurd h hr, fun _ _ => rfl, rfl⟩
    · have hd : d = { c with result := code, busy := false } := (if_neg ho).trans (if_neg h5)
      rw [hd]
      exact ⟨rfl, rfl, fun h => absurd h hr, fun h h16 => absurd ⟨h, h16⟩ h5, rfl⟩

section Submit
variable (c : SecSt) (moduleId rtc : Nat) (a : Bytes)

/-- Steps 5 and 6 with the counters risen: a wrong nonce fails with 2, a wrong signature with its code; else the authorisation waits. -/
theorem SecSt.submitSecond_counted :
    let op := leAt a 40 1
    let good := op = 5 ∨ (c.nonce = some (slice a 0 32) ∧ rtc < c.nonceEnd)
    let code := c.submitCheck moduleId a
    let d := (c.counted op).submitSecond moduleId rtc a
    let fails := fun (code : Nat) => d.result = code ∧ d.busy = false ∧
      (1 ≤ op ∧ op ≤ 4 → d.waitEnd = rtc + 2 ^ min (satAdd 16 c.ownerFail 1) 12 * 32768) ∧
      (op = 5 → 15 ≤ c.vendorTries → d.vendorDead = true)
    c.Tried d op ∧ (¬ good → fails 2) ∧ (good → code ≠ 0 → fails code) ∧
      (good → code = 0 → d.busy = true ∧ d.verified = some op ∧ d.auth = a) := by
  intro op good code d fails
  obtain ⟨f, t, v, hc, hfail, hv⟩ := c.counted_eq op
  have hfails (x : Nat) (hd : d = (c.counted op).void.failed op x rtc) : fails x ∧ c.Tried d op := by
    obtain ⟨hr, hb, hw, hdead, heq⟩ := (c.counted op).void.failed_spec op x rtc
    rw [← hd] at hr hb hw hdead heq
    rw [hc] at hw hdead heq
    refine ⟨⟨hr, hb, fun ho => ?_, fun h5 h15 => hdead h5 ?_⟩, ?_⟩
    · rw [hw ho]
      show rtc + 2 ^ min f 12 * 32768 = _
      rw [(hfail ho).1]
    · show 16 ≤ v
      rw [hv h5]
      omega
    · rw [heq]
      exact ⟨hfail, hv, rfl, rfl, rfl, rfl⟩
  have hcheck : (c.counted op).void.submitCheck moduleId a = code := by rw [hc]; rfl
  have hbad : (op ≠ 5 ∧ (!(decide ((c.counted op).nonce = some (slice a 0 32)) && decide (rtc < (c.counted op).nonceEnd))) = true) ↔
      ¬ good := by
    rw [hc]
    simp only [good, Bool.not_eq_true', Bool.and_eq_false_iff, decide_eq_false_iff_not]
    tauto
  have hrun : d = if op ≠ 5 ∧ (!(decide ((c.counted op).nonce = some (slice a 0 32)) && decide (rtc < (c.counted op).nonceEnd))) = true then
      (c.counted op).void.failed op 2 rtc
    else if code ≠ 0 then (c.counted op).void.failed op code rtc
    else { (c.counted op).void with busy := true, verified := some op, auth := a } := by
    rw [← hcheck]
    rfl
  by_cases hg : good
  · rw [if_neg fun h => hbad.mp h hg] at hrun
    by_cases h0 : code = 0
    · rw [if_neg fun h => h h0] at hrun
      refine ⟨?_, fun h => absurd hg h, fun _ h => absurd h0 h, fun _ _ => ?_⟩
      · rw [hrun, hc]
        exact ⟨hfail, hv, rfl, rfl, rfl, rfl⟩
      · rw [hrun]
        exact ⟨rfl, rfl, rfl⟩
    · rw [if_pos h0] at hrun
      exact ⟨(hfails code hrun).2, fun h => absurd hg h, fun _ _ => (hfails code hrun).1, fun _ h => absurd h h0⟩
  · rw [if_pos (hbad.mpr hg)] at hrun
    exact ⟨(hfails 2 hrun).2, fun _ => (hfails 2 hrun).1, fun h => absurd h hg, fun h => absurd h hg⟩

variable {c moduleId rtc} {p : PwrSt}

theorem SecSt.submit_first (hb : c.busy = false) {code : Nat}
    (h : c.submitFirst p.state moduleId rtc (c.mbox.read 0 8192) = some code) :
    c.submit p moduleId rtc = ({ c with result := code }, p) := by
  rw [SecSt.submit, if_neg (by rw [hb]; exact Bool.false_ne_true)]
  simp only [h]

theorem SecSt.submit_refused (hb : c.busy = false) (h : c.submitFirst p.state moduleId rtc (c.mbox.read 0 8192) = none)
    (hop : leAt (c.mbox.read 0 8192) 40 1 ≤ 5) (hadm : ¬ p.admits 1 = true) :
    c.submit p moduleId rtc = ({ c with result := 6 }, p.refuse) := by
  rw [SecSt.submit, if_neg (by rw [hb]; exact Bool.false_ne_true)]
  simp only [h, if_pos hop, PwrSt.counter_refused hadm]
  rfl

/-- The counters' commit admitted, or none needed, steps 5 and 6 follow. -/
theorem SecSt.submit_counted (hb : c.busy = false) (h : c.submitFirst p.state moduleId rtc (c.mbox.read 0 8192) = none)
    (hgo : 5 < leAt (c.mbox.read 0 8192) 40 1 ∨ p.admits 1 = true) :
    ∃ q, c.submit p moduleId rtc =
      ((c.counted (leAt (c.mbox.read 0 8192) 40 1)).submitSecond moduleId rtc (c.mbox.read 0 8192), q) := by
  rw [SecSt.submit, if_neg (by rw [hb]; exact Bool.false_ne_true)]
  simp only [h]
  by_cases hop : leAt (c.mbox.read 0 8192) 40 1 ≤ 5
  · obtain ⟨q, hq, -, -⟩ := PwrSt.counter_admitted (hgo.resolve_left (Nat.not_lt.mpr hop)) 0 [BitVec.ofNat 8 (leAt (c.mbox.read 0 8192) 40 1)]
    refine ⟨q, ?_⟩
    simp only [if_pos hop, hq]
    rfl
  · refine ⟨p, ?_⟩
    simp only [if_neg hop]
    rfl

end Submit

theorem State.onSec_level {s : State} {r : SecSt × PwrSt} (h : r.1.level = s.sec.level) : s.onSec r = { s with sec := r.1, pwr := r.2 } := by
  rw [State.onSec, if_neg]
  rw [h]
  exact fun h => h.1 h.2

/-! ### Step 7 of R537 -/

theorem SecSt.lowered_eq (c : SecSt) : ∃ l, c.lowered = { c with level := l } ∧ l ≤ c.reach ∧ (c.level = 0 → l = 0) := by
  rw [SecSt.lowered]
  split
  · exact ⟨0, rfl, Nat.zero_le _, fun _ => rfl⟩
  · next h => exact ⟨c.level, rfl, Nat.le_of_not_lt h, id⟩

theorem SecSt.authorise_admitted {c : SecSt} {p : PwrSt} {op : Nat} (hv : c.verified = some op) (h : p.admits 1 = true) (rtc : Nat) :
    ∃ q, c.authorise p op rtc = (((({ c with ownerFail := 0 }).transit op rtc).settle 0).lowered, q, true) ∧ q.admits 1 = true := by
  obtain ⟨q, hq, -, hadm⟩ := PwrSt.counter_admitted h 1 (BitVec.ofNat 8 op :: c.auth)
  refine ⟨q.note 6 op, ?_, (PwrSt.note_spec q 6 op).2.trans hadm⟩
  rw [SecSt.authorise, if_neg fun h => h hv, hq]
  rfl

theorem SecSt.authorise_refused {c : SecSt} {p : PwrSt} {op : Nat} (hv : c.verified = some op) (h : ¬ p.admits 1 = true) (rtc : Nat) :
    c.authorise p op rtc = (c.settle 6, p.refuse, false) := by
  rw [SecSt.authorise, if_neg fun h => h hv, PwrSt.counter_refused h]
  rfl

/-- A pending erasure changes the security block at most in whether it stands and whether keys are derived. -/
theorem State.eraseAll_sec_eq (s : State) : ∃ e k, s.eraseAll.sec = { s.sec with erasePending := e, keysOff := k } := by
  rw [State.eraseAll]
  split
  · simp only [SecSt.erased, State.erase_sec]
    split <;> exact ⟨_, _, rfl⟩
  · exact ⟨_, _, rfl⟩

/-- A pending erasure whose commit is admitted ends the run and leaves no library and no device memory. -/
theorem State.eraseAll_done {s : State} (he : s.sec.erasePending = true) (h : s.pwr.admits 1 = true) :
    s.eraseAll.sec = { s.sec with erasePending := false, keysOff := s.sec.keysOff || s.sec.life == .scrapped } ∧
      s.eraseAll.img.library = [] ∧ s.eraseAll.ext.mem = [] ∧ s.eraseAll.img.active = 0 := by
  have hp : s.erase.pwr = s.pwr := s.endRun_frame.1
  obtain ⟨q, hq, -, -⟩ := PwrSt.counter_admitted h 2 []
  have hrun : s.eraseAll = { s.erase with
      sec := { s.sec with erasePending := false, keysOff := s.sec.keysOff || s.sec.life == .scrapped }, pwr := q } := by
    rw [State.eraseAll, if_pos he]
    simp only [hp, State.erase_sec, SecSt.erased, hq, if_true]
  rw [hrun]
  exact ⟨rfl, rfl, rfl, s.endRun_frame.2.2⟩

section Authorise
variable {s : State} {op : Nat} {rtc : BitVec 48}

/-- Step 7 acts on the module in which an erasing OP has ended the run. -/
theorem State.authorise_verified (hon : s.on = true) (hv : s.sec.verified = some op) :
    let s1 := if opErases op then (s.atRtc rtc).endRun else s.atRtc rtc
    let r := s.sec.authorise s.pwr op rtc.toNat
    s.authorise op rtc = (s1.onSec (r.1, r.2.1)).eraseAll := by
  intro s1 r
  have hsec : s1.sec = s.sec := by
    show State.sec (if _ then _ else _) = _
    split
    · exact (State.endRun_sec _).trans rfl
    · rfl
  have hpwr : s1.pwr = s.pwr := by
    show State.pwr (if _ then _ else _) = _
    split
    · exact (State.endRun_frame _).1.trans rfl
    · rfl
  have hrun : s.authorise op rtc = (s1.onSec ((s1.sec.authorise s1.pwr op rtc.toNat).1, (s1.sec.authorise s1.pwr op rtc.toNat).2.1)).eraseAll := by
    refine if_neg ?_
    rintro (h | h)
    · rw [show (s.atRtc rtc).on = s.on from rfl, hon] at h
      cases h
    · exact h hv
  rw [hrun, hsec, hpwr]

theorem State.authorise_none (hv : s.sec.verified ≠ some op) : s.authorise op rtc = s.atRtc rtc := if_pos (.inr hv)

/-- The transition is committed: the new state with the level within its reach, and the erasure where one is pending. -/
theorem State.authorise_done (hon : s.on = true) (hv : s.sec.verified = some op) (hadm : s.pwr.admits 1 = true) :
    let c := (({ s.sec with ownerFail := 0 }).transit op rtc.toNat).settle 0
    let t := s.authorise op rtc
    ∃ l e k, t.sec = { c with level := l, erasePending := e, keysOff := k } ∧ l ≤ c.reach ∧ (c.level = 0 → l = 0) ∧
      (opErases op = false → c.erasePending = false → t.img = s.img ∧ t.ext = s.ext ∧ t.plane = s.plane) ∧
      (c.erasePending = true → t.img.library = [] ∧ t.ext.mem = [] ∧ t.img.active = 0 ∧ e = false ∧ (c.life = .scrapped → k = true)) := by
  intro c t
  obtain ⟨q, hr, hq⟩ := SecSt.authorise_admitted hv hadm rtc.toNat
  obtain ⟨l, hl, hreach, hzero⟩ := c.lowered_eq
  have ht := State.authorise_verified (rtc := rtc) hon hv
  rw [hr] at ht
  dsimp only at ht
  rw [hl] at ht
  by_cases he : c.erasePending = true
  · obtain ⟨hsec, hlib, hmem, hact⟩ := State.eraseAll_done (s := (if opErases op then (s.atRtc rtc).endRun else s.atRtc rtc).onSec
      ({ c with level := l }, q)) he hq
    rw [← ht] at hsec hlib hmem hact
    refine ⟨l, false, _, hsec, hreach, hzero, fun _ h => absurd he (by rw [h]; exact Bool.false_ne_true), fun _ =>
      ⟨hlib, hmem, hact, rfl, fun hlife => ?_⟩⟩
    show (c.keysOff || c.life == .scrapped) = true
    rw [hlife]
    exact Bool.or_true _
  · rw [State.eraseAll_of_none (Bool.eq_false_iff.mpr he)] at ht
    refine ⟨l, c.erasePending, c.keysOff, ?_, hreach, hzero, fun ho _ => ?_, fun h => absurd h he⟩
    · show (s.authorise op rtc).sec = _
      rw [ht]
      rfl
    · show (s.authorise op rtc).img = _ ∧ (s.authorise op rtc).ext = _ ∧ (s.authorise op rtc).plane = _
      rw [ht, ho]
      exact ⟨rfl, rfl, rfl⟩

theorem State.authorise_holdup (hon : s.on = true) (hv : s.sec.verified = some op) (hadm : ¬ s.pwr.admits 1 = true) :
    ∃ e k, (s.authorise op rtc).sec = { s.sec.settle 6 with erasePending := e, keysOff := k } := by
  have ht := State.authorise_verified (rtc := rtc) hon hv
  rw [SecSt.authorise_refused hv hadm] at ht
  rw [ht]
  exact State.eraseAll_sec_eq _

end Authorise

/-! ### The obligation -/

/-- Settles O55: SUBMIT goes through the steps of R537 in order, and step 7 is one commit and, where the OP erases, a second. -/
theorem authorisations : Obligations.Authorisations := by
  unfold Obligations.Authorisations
  intro s rtc hon s0 fits busyless
  have hfits : s.pwr.admits 1 = true ↔ fits := PwrSt.admits_iff s.pwr 1
  refine ⟨fun hb hlife h2 => ?nonce, fun hb hno => ?noNonce, fun hb => ?submit, fun op i hi => ?authorise, fun hlife hend => ?expiry,
    fun hno => ?noExpiry, fun hn hend => ?nonceExpiry, fun hno => ?noNonceExpiry⟩
  case nonce =>
    have hrun : exec (.getNonce rtc) s = .next s0.newNonce :=
      congrArg Host.Outcome.next (State.dbgRequest_taken (s := s0) hon hb hlife h2 _)
    refine ⟨fun hf => ?_, fun hf => ?_⟩
    · obtain ⟨q, hq, hd⟩ := State.newNonce_done (s := s0) (hfits.mpr hf)
      exact ⟨_, hrun.trans (congrArg _ hq), rfl, hd⟩
    · exact ⟨_, hrun.trans (congrArg _ (State.newNonce_refused (s := s0) fun h => hf (hfits.mp h))), rfl, rfl⟩
  case noNonce => exact congrArg Host.Outcome.next (State.dbgRequest_refused (s := s0) hon hb hno _)
  case submit =>
    intro a op ends step1 step2 owner wait closed
    have hrun (r : SecSt × PwrSt) (h : s.sec.submit s.pwr s.sup.moduleId rtc.toNat = r) (hl : r.1.level = s.sec.level) :
        exec (.submit rtc) s = .next { s0 with sec := r.1, pwr := r.2 } := by
      refine congrArg Host.Outcome.next ((if_pos hon).trans ?_)
      rw [← State.onSec_level (s := s0) hl, ← h]
      rfl
    have hends (code : Nat) (h : s.sec.submitFirst s.pwr.state s.sup.moduleId rtc.toNat a = some code) : ends code :=
      hrun ({ s.sec with result := code }, s.pwr) (SecSt.submit_first hb h) rfl
    have h1 : (s.pwr.state ≠ 0 ∧ s.pwr.state ≠ 1 ∧ s.pwr.state ≠ 3) ↔ ¬ step1 := by
      simp only [step1]
      omega
    have h2 : (!opAllowed s.sec.life op || leAt a 32 8 != s.sup.moduleId || !authWellFormed s.sec.record a) = true ↔ ¬ step2 := by
      simp only [step2, Bool.or_eq_true, Bool.not_eq_true', bne_iff_ne]
      cases opAllowed s.sec.life op <;> cases authWellFormed s.sec.record a <;> simp
    have h3 : (ownerOp op && s.sec.waitS rtc.toNat != 0) = true ↔ owner ∧ wait := by
      rw [Bool.and_eq_true, ownerOp_iff, bne_iff_ne]
      rfl
    have hfirst : s.sec.submitFirst s.pwr.state s.sup.moduleId rtc.toNat a = if ¬ step1 then some 7 else if ¬ step2 then some 1
        else if owner ∧ wait then some 5 else if closed then some 9 else none := by
      simp only [SecSt.submitFirst, h1, h2, h3, op, closed]
    refine ⟨fun hn => hends 7 ?_, fun hp hn => hends 1 ?_, fun hp hs ho hw => hends 5 ?_, fun hp hs hc => hends 9 ?_, fun hp hs hw hc => ?_⟩
    · rw [hfirst, if_pos hn]
    · rw [hfirst, if_neg fun h => h hp, if_pos hn]
    · rw [hfirst, if_neg fun h => h hp, if_neg fun h => h hs, if_pos ⟨ho, hw⟩]
    · rw [hfirst, if_neg fun h => h hp, if_neg fun h => h hs, if_neg fun h => absurd h.1.2 (by rw [hc.1]; decide), if_pos hc]
    · rw [if_neg fun h => h hp, if_neg fun h => h hs, if_neg fun h => hw h.1 h.2, if_neg hc] at hfirst
      intro good code tries failed
      refine ⟨fun hle hf => ?_, fun hgo => ?_⟩
      · exact ⟨_, hrun ({ s.sec with result := 6 }, s.pwr.refuse) (SecSt.submit_refused hb hfirst hle fun h => hf (hfits.mp h)) rfl, rfl⟩
      · obtain ⟨q, hq⟩ := SecSt.submit_counted hb hfirst (hgo.imp id fun h => hfits.mpr h)
        obtain ⟨htried, hbad, hcode, hgood⟩ := s.sec.submitSecond_counted s.sup.moduleId rtc.toNat a
        obtain ⟨ht1, ht2, ht3, ht4, ht5, ht6⟩ := htried
        have hx := hrun _ hq ht6
        have htries : tries { s0 with sec := (s.sec.counted op).submitSecond s.sup.moduleId rtc.toNat a, pwr := q } :=
          ⟨ht1, ht2, ht3, ht4, ht5, ht6⟩
        exact ⟨fun hng => ⟨_, hx, htries, hbad hng⟩, fun hg hne => ⟨_, hx, htries, hcode hg hne⟩, fun hg h0 => ⟨_, hx, htries, hgood hg h0⟩⟩
  case authorise =>
    intro newRec
    have hrun : exec i s = .next (s.authorise op rtc) := by
      rcases hi with ⟨rfl, rfl⟩ | ⟨rfl, rfl⟩ | ⟨rfl, rfl⟩ | ⟨rfl, rfl⟩ | ⟨rfl, rfl⟩ | ⟨rfl, rfl⟩ | ⟨rfl, rfl⟩ <;> rfl
    have hop : op = 1 ∨ op = 2 ∨ op = 3 ∨ op = 4 ∨ op = 5 ∨ op = 6 ∨ op = 7 :=
      hi.imp And.left (.imp And.left (.imp And.left (.imp And.left (.imp And.left (.imp And.left And.left)))))
    refine ⟨fun hv => hrun.trans (congrArg _ (State.authorise_none hv)), fun hv hf => ?_, fun hv hf => ?_⟩
    · obtain ⟨l, e, k, hsec, hreach, hzero, hstay, herase⟩ := State.authorise_done (rtc := rtc) hon hv (hfits.mpr hf)
      refine ⟨_, hrun, ?_⟩
      generalize s.authorise op rtc = t at hsec hstay herase ⊢
      rw [hsec]
      refine ⟨rfl, rfl, rfl, ?fail, hreach, ?life, ?owned, ?granted, ?gone, ?tries, ?scrap, ?stay, ?erased⟩
      case fail => rcases hop with rfl | rfl | rfl | rfl | rfl | rfl | rfl <;> rfl
      case life => rcases hop with rfl | rfl | rfl | rfl | rfl | rfl | rfl <;> rfl
      case owned => rintro (rfl | rfl) <;> exact ⟨rfl, rfl⟩
      case granted => rintro rfl; exact ⟨rfl, rfl, rfl⟩
      case gone => rintro (rfl | rfl) <;> exact ⟨rfl, rfl⟩
      case tries => rintro rfl; rfl
      case scrap =>
        rintro rfl
        obtain ⟨-, -, -, -, hk⟩ := herase rfl
        exact ⟨rfl, hzero rfl, hk rfl⟩
      case stay =>
        intro ho he
        obtain rfl | rfl | rfl : op = 1 ∨ op = 2 ∨ op = 3 := by omega
        all_goals exact hstay rfl he
      case erased =>
        intro ho
        have he : ((({ s.sec with ownerFail := 0 }).transit op rtc.toNat).settle 0).erasePending = true := by
          obtain rfl | rfl | rfl | rfl : op = 4 ∨ op = 5 ∨ op = 6 ∨ op = 7 := by omega
          all_goals rfl
        obtain ⟨hlib, hmem, hact, hp, -⟩ := herase he
        exact ⟨hlib, hmem, hact, hp⟩
    · obtain ⟨e, k, hsec⟩ := State.authorise_holdup (rtc := rtc) hon hv fun h => hf (hfits.mp h)
      refine ⟨_, hrun, ?_⟩
      rw [hsec]
      exact ⟨rfl, rfl, rfl, rfl, rfl⟩
  case expiry =>
    have hexp : s.sec.leaseExpiry s.pwr rtc.toNat = ({ (SecSt.relock { s.sec with level := 0 } s.pwr).1 with result := s.sec.result },
        (SecSt.relock { s.sec with level := 0 } s.pwr).2) := if_pos ⟨hlife, hend⟩
    refine ⟨_, congrArg Host.Outcome.next ((if_pos hon).trans (congrArg (State.onSec s0) hexp)), ?_⟩
    show SecSt.level { (SecSt.relock _ _).1 with result := _ } = 0 ∧ SecSt.life { (SecSt.relock _ _).1 with result := _ } = _ ∧
      SecSt.record { (SecSt.relock _ _).1 with result := _ } = _
    rw [SecSt.relock, if_neg fun h => h hlife]
    by_cases hadm : s.pwr.admits 1 = true
    · obtain ⟨q, hq, -, -⟩ := PwrSt.counter_admitted hadm 1 [8]
      rw [hq, if_pos hadm]
      exact ⟨rfl, rfl, rfl⟩
    · rw [PwrSt.counter_refused hadm, if_neg hadm]
      exact ⟨rfl, hlife, rfl⟩
  case noExpiry =>
    refine congrArg Host.Outcome.next ((if_pos hon).trans ?_)
    rw [SecSt.leaseExpiry, if_neg fun h => hno.elim (fun hl => hl h.1) fun hr => Nat.not_lt.mpr h.2 hr]
    exact State.onSec_level rfl
  case nonceExpiry =>
    have hvoid : s.sec.nonceExpiry rtc.toNat = s.sec.void := if_pos ⟨Option.isSome_iff_ne_none.mpr hn, hend⟩
    exact congrArg (fun c : SecSt => Host.Outcome.next { s0 with sec := c }) hvoid
  case noNonceExpiry =>
    have hkeep : s.sec.nonceExpiry rtc.toNat = s.sec := if_neg fun h =>
      hno.elim (Option.isSome_iff_ne_none.mp h.1) (Nat.not_lt.mpr h.2)
    exact congrArg (fun c : SecSt => Host.Outcome.next { s0 with sec := c }) hkeep

end Sys2Proof.Machine
end
section
/-! The plane as a whole: cycles, slip cycles and exchange points (R351, R361, R362, R365, R366, R390, R391). -/

namespace Sys2Proof.Machine

/-! ### The counts of the plane -/

/-- The counts and clocks of the plane, and its slip counters. -/
def PlaneSt.clocks (p : PlaneSt) : (Nat × BitVec 64 × Bool × BitVec 64) × (BitVec 64 × Tab (BitVec 64) × Option (Nat × Nat)) ×
    (Nat × Nat × BitVec 32) × Tab (BitVec 32) :=
  ((p.now, p.cadence, p.launched, p.count), (p.slipTotal, p.slipCause, p.slipRun), (p.lastCause, p.lastLength, p.lastPlane), p.occ)

theorem PlaneSt.each_clocks (p : PlaneSt) (f : Nat → Core → Core) : (p.each f).clocks = p.clocks :=
  foldl_keeps PlaneSt.clocks _ (by intros; rfl) _ _

theorem PlaneSt.collects_clocks (l : List Nat) (p : PlaneSt) : (l.foldl (fun (p : PlaneSt) c => p.collect c) p).clocks = p.clocks :=
  foldl_keeps PlaneSt.clocks _ (by intros; rfl) _ _

theorem PlaneSt.deliver_clocks (p : PlaneSt) (r : Nat) (x : Transit) : (p.deliver r x).1.clocks = p.clocks := by
  rw [PlaneSt.deliver]
  split <;> split <;> rfl

theorem PlaneSt.meshStep_clocks (p : PlaneSt) (r : Nat) : (p.meshStep r).1.clocks = p.clocks := by
  rw [PlaneSt.meshStep]
  refine foldl_keeps (fun st : PlaneSt × List Payload => st.1.clocks) _ (fun st x => ?step) _ _
  case step => exact st.1.deliver_clocks r x

theorem PlaneSt.seqOffer_clocks (p : PlaneSt) (self : Nat) (ts : List Transit) : (p.seqOffer self ts).clocks = p.clocks := by
  rw [PlaneSt.seqOffer, PlaneSt.dropAt]
  split
  · rfl
  · split <;> rfl

theorem PlaneSt.gather_clocks (p : PlaneSt) (cfg : ChipCfg) : (p.gather cfg).1.clocks = p.clocks := by
  rw [PlaneSt.gather]
  refine (PlaneSt.meshStep_clocks _ _).trans ?_
  rw [foldl_keeps PlaneSt.clocks _ fun _ _ => ?late]
  case late => rfl
  refine (foldl_keeps PlaneSt.clocks _ (by intros; rfl) _ _).trans ?_
  rw [PlaneSt.each_clocks]
  refine (foldl_keeps PlaneSt.clocks _ (fun q c => ?issue) _ _).trans ?_
  case issue => exact PlaneSt.seqOffer_clocks _ _ _
  exact PlaneSt.each_clocks _ _

theorem PlaneSt.returns_clocks (p : PlaneSt) (cfg : ChipCfg) (self r : Nat) (rs : List Ret) :
    (p.returns cfg self r rs).clocks = p.clocks := by
  rw [PlaneSt.returns]
  refine (foldl_keeps PlaneSt.clocks _ (fun q x => ?_) _ _)
  cases x <;> dsimp only <;> split <;> rfl

theorem PlaneSt.front_clocks (p : PlaneSt) (cfg : ChipCfg) : (p.front cfg).1.clocks = p.clocks := by
  rw [PlaneSt.front]
  split
  · rfl
  · have h := p.gather_clocks cfg
    revert h
    generalize p.gather cfg = g
    intro h
    rw [← h]
    refine foldl_keeps PlaneSt.clocks _ (fun q c => ?step) _ _
    case step => exact PlaneSt.returns_clocks _ _ _ _ _

theorem PlaneSt.clocks_ite (c : Prop) [Decidable c] {p q : PlaneSt} (h : q.clocks = p.clocks) : (if c then p else q).clocks = p.clocks := by
  split
  · rfl
  · exact h

theorem PlaneSt.offer_clocks (p : PlaneSt) (cfg : ChipCfg) (self r g : Nat) (o : Out) : (p.offer cfg self r g o).1.clocks = p.clocks := by
  cases o with
  | peerRead => rfl
  | peerWrite => rfl
  | extRead => exact PlaneSt.clocks_ite _ rfl
  | extWrite => exact PlaneSt.clocks_ite _ rfl
  | remRead =>
    simp only [PlaneSt.offer]
    split <;> rfl
  | remSeg =>
    simp only [PlaneSt.offer]
    split <;> rfl
  | remClose =>
    simp only [PlaneSt.offer]
    split <;> rfl

theorem PlaneSt.offers_clocks (p : PlaneSt) (cfg : ChipCfg) (self r : Nat) : (p.offers cfg self r).1.clocks = p.clocks := by
  rw [PlaneSt.offers]
  refine foldl_keeps (fun st : PlaneSt × List (List Transit) × List Payload => st.1.clocks) _ (fun st ch => ?chan) _ _
  case chan =>
    refine foldl_keeps (fun st : PlaneSt × List Transit × List Payload => st.1.clocks) _ (fun st o => ?out) _ _
    case out => exact PlaneSt.offer_clocks _ _ _ _ _ _

theorem PlaneSt.dropAt_clocks (p : PlaneSt) (self : Nat) (ts : List Transit) : (p.dropAt self ts).clocks = p.clocks :=
  PlaneSt.clocks_ite _ rfl

theorem PlaneSt.inject_clocks (p : PlaneSt) (cfg : ChipCfg) (self r : Nat) : (p.inject cfg self r).1.clocks = p.clocks := by
  have h := p.offers_clocks cfg self r
  rw [PlaneSt.inject]
  generalize p.offers cfg self r = o at h ⊢
  obtain ⟨q, chans, direct⟩ := o
  dsimp only at h ⊢
  split
  · exact (PlaneSt.dropAt_clocks _ _ _).trans h
  · split
    · exact h
    · exact (PlaneSt.dropAt_clocks _ _ _).trans h

/-- A plane whose cores have finished cycle `r` and made their offers: the cycle ends and `ts` enter the mesh (R362, R391). -/
def PlaneSt.ended (p : PlaneSt) (r : Nat) (ts : List Transit) : PlaneSt :=
  let last := match p.slipRun with
    | some (c, n) => { p with lastCause := c, lastLength := n, lastPlane := p.count.setWidth 32, slipRun := none }
    | none => p
  { last with now := r + 1, cadence := last.cadence + 1, mesh := last.mesh ++ ts, half := false, taken := [], back := [],
              count := if last.launched then last.count + 1 else last.count }

theorem PlaneSt.rear_ended (p : PlaneSt) (cfg : ChipCfg) (ts : List Transit) :
    ∃ q : PlaneSt, (p.rear cfg ts).1 = q.ended p.now ts ∧ q.clocks = p.clocks := by
  refine ⟨_, rfl, ?_⟩
  refine (PlaneSt.collects_clocks _ _).trans ?_
  refine (foldl_keeps (fun st : PlaneSt × List Payload => st.1.clocks) _ (fun st c => ?inject) _ _).trans ?_
  case inject => exact PlaneSt.inject_clocks _ _ _ _
  exact PlaneSt.each_clocks _ _

/-- What stands of the counts when a cycle of plane `p` has ended: the cycle's number and the cadence count are one more, the plane count
with them in a run, and a slip run has been noted. -/
structure PlaneSt.Advanced (p q : PlaneSt) : Prop where
  now : q.now = p.now + 1
  cadence : q.cadence = p.cadence + 1
  count : q.count = if p.launched then p.count + 1 else p.count
  slipTotal : q.slipTotal = p.slipTotal
  slipCause : q.slipCause = p.slipCause
  slipRun : q.slipRun = none
  occ : q.occ = p.occ
  noted : ∀ cause n, p.slipRun = some (cause, n) → q.lastCause = cause ∧ q.lastLength = n ∧ q.lastPlane = p.count.setWidth 32

theorem PlaneSt.ended_advanced (p : PlaneSt) (ts : List Transit) : p.Advanced (p.ended p.now ts) := by
  rw [PlaneSt.ended]
  split
  · next c n h =>
    refine ⟨rfl, rfl, rfl, rfl, rfl, rfl, rfl, fun cause m hc => ?_⟩
    cases h.symm.trans hc
    exact ⟨rfl, rfl, rfl⟩
  · next h => exact ⟨rfl, rfl, rfl, rfl, rfl, h, rfl, fun _ _ hc => by cases h.symm.trans hc⟩

theorem PlaneSt.ended_half (p : PlaneSt) (r : Nat) (ts : List Transit) : (p.ended r ts).half = false := rfl

theorem PlaneSt.Advanced.of_clocks {p p' q q' : PlaneSt} (hp : p'.clocks = p.clocks) (hq : q'.clocks = q.clocks)
    (h : p.Advanced q) : p'.Advanced q' := by
  simp only [PlaneSt.clocks, Prod.mk.injEq] at hp hq
  obtain ⟨⟨p1, p2, p3, p4⟩, ⟨p5, p6, p7⟩, ⟨p8, p9, p10⟩, p11⟩ := hp
  obtain ⟨⟨q1, q2, q3, q4⟩, ⟨q5, q6, q7⟩, ⟨q8, q9, q10⟩, q11⟩ := hq
  refine ⟨?_, ?_, ?_, ?_, ?_, ?_, ?_, fun cause n hc => ?_⟩
  · rw [q1, p1, h.now]
  · rw [q2, p2, h.cadence]
  · rw [q4, p3, p4, h.count]
  · rw [q5, p5, h.slipTotal]
  · rw [q6, p6, h.slipCause]
  · rw [q7, h.slipRun]
  · rw [q11, p11, h.occ]
  · rw [q8, q9, q10, p4]
    exact h.noted cause n (p7 ▸ hc)

/-! ### What leaves the plane, and what a cycle leaves aside -/

/-- What a cycle leaves as it was: the host interface, the security block, the telemetry, the supervisor, the images and the chip's
configuration. -/
def State.aside (s : State) : (HostSt × SecSt × TelSt) × SupSt × ImgSt × ChipCfg := ((s.host, s.sec, s.tel), s.sup, s.img, s.chip)

/-- What work within a cycle leaves as it was. -/
def State.still (s : State) : ((HostSt × SecSt × TelSt) × SupSt × ImgSt × ChipCfg) × Bool ×
    ((Nat × BitVec 64 × Bool × BitVec 64) × (BitVec 64 × Tab (BitVec 64) × Option (Nat × Nat)) × (Nat × Nat × BitVec 32) × Tab (BitVec 32)) :=
  (s.aside, s.plane.half, s.plane.clocks)

theorem State.signed_still (s : State) (w : List (Nat × Byte × Byte)) (cfg : ChipCfg) (core : Nat) :
    (if w.isEmpty then s else { s with plane := s.plane.sign cfg core w }).still = s.still := by
  split <;> rfl

theorem State.missed_still (s : State) (x : ExtSt) (core reads writes : Nat) :
    ({ s with ext := x, plane := s.plane.missed core reads writes } : State).still = s.still := by
  rw [PlaneSt.missed]
  split <;> rfl

theorem State.handOver_still (s : State) (x : Payload) : (s.handOver x).still = s.still := by
  have hs := s.signed_still (x.written s.chip s.link) s.chip x.core
  cases x with
  | extRead => exact (State.missed_still _ _ _ _ _).trans hs
  | extWrite => exact (State.missed_still _ _ _ _ _).trans hs
  | remRead => exact hs
  | remSeg => exact hs
  | remClose => exact hs
  | signal => exact hs
  | atom => exact hs
  | atomBack => exact hs
  | readReq => exact hs
  | data => exact hs
  | write => exact hs

theorem State.handOvers_still (s : State) (l : List Payload) : (l.foldl State.handOver s).still = s.still :=
  foldl_keeps State.still _ State.handOver_still _ _

theorem State.frontNow_keeps (s : State) : s.frontNow.aside = s.aside ∧ s.frontNow.plane.clocks = s.plane.clocks := by
  have h : s.frontNow.still = ({ s with plane := (s.plane.front s.chip).1 } : State).still := State.handOvers_still _ _
  obtain ⟨ha, -, hc⟩ := Prod.mk.inj h |>.imp id Prod.mk.inj
  exact ⟨ha, hc.trans (s.plane.front_clocks s.chip)⟩

/-- The end of a cycle leaves what a cycle leaves, and the plane has advanced. -/
theorem State.rearNow_spec (s : State) :
    s.rearNow.aside = s.aside ∧ s.rearNow.plane.half = false ∧ s.plane.Advanced s.rearNow.plane := by
  let p := ({ s.plane with group := s.plane.group + s.respDue.length } : PlaneSt).inboundLost s.respDue
  obtain ⟨q, hq, hc⟩ := p.rear_ended s.chip (s.respInject s.respDue)
  have h : s.rearNow.still = ({ s with plane := (p.rear s.chip (s.respInject s.respDue)).1 } : State).still :=
    (State.handOvers_still _ _).trans rfl
  rw [hq] at h
  obtain ⟨ha, hhalf, hclocks⟩ := Prod.mk.inj h |>.imp id Prod.mk.inj
  have hnow : q.now = p.now := (Prod.mk.inj (Prod.mk.inj hc).1).1
  rw [← hnow] at hhalf hclocks
  exact ⟨ha, hhalf.trans (q.ended_half _ _), (q.ended_advanced _).of_clocks (hc.symm.trans rfl) hclocks⟩

theorem State.lsSend_still (s : State) (old : Nat → Nat) : (s.lsSend old).still = s.still := by
  rw [State.lsSend]
  split <;> rfl

theorem State.lsOne_still (s : State) (core : Nat) (e : Nat × Nat × List (BitVec 64)) : (s.lsOne core e).still = s.still := by
  rw [State.lsOne]
  split <;> rfl

theorem State.lsCompare_still (s : State) : s.lsCompare.still = s.still := by
  have hpairs : (s.plane.live.foldl (fun (s : State) c => (s.plane.core c).sig.queue.foldl (fun (s : State) e => s.lsOne c e) s) s).still =
      s.still := foldl_keeps State.still _ (fun t c => foldl_keeps State.still _ (fun u e => u.lsOne_still c e) _ _) _ _
  rw [State.lsCompare]
  split
  · generalize List.foldl _ s s.plane.live = t at hpairs ⊢
    dsimp only
    split
    · exact hpairs
    · exact hpairs
  · split
    · exact Prod.ext rfl (Prod.ext (foldl_keeps PlaneSt.half _ (by intros; rfl) _ _) (PlaneSt.each_clocks _ _))
    · rfl

theorem State.owe_herdCycle_still (s : State) : s.owe.herdCycle.still = s.still := rfl

/-! ### Plane cycles (R351, R361, R362, R365) -/

/-- What a cycle has done before its exchange point is seen to. -/
def State.cycled (s : State) : State :=
  ((s.frontNow.rearNow.lsSend fun c => (s.frontNow.plane.core c).sig.queue.length).lsCompare).owe.herdCycle

theorem State.cycled_spec (s : State) : s.cycled.aside = s.aside ∧ s.cycled.plane.half = false ∧ s.plane.Advanced s.cycled.plane := by
  obtain ⟨hfront, hclocks⟩ := s.frontNow_keeps
  obtain ⟨hrear, hhalf, hadv⟩ := s.frontNow.rearNow_spec
  have h : s.cycled.still = s.frontNow.rearNow.still :=
    (State.owe_herdCycle_still _).trans ((State.lsCompare_still _).trans (State.lsSend_still _ _))
  obtain ⟨ha, hh, hc⟩ := Prod.mk.inj h |>.imp id Prod.mk.inj
  exact ⟨ha.trans (hrear.trans hfront), hh.trans hhalf, hadv.of_clocks hclocks.symm hc⟩

theorem State.planeCycle_closed {s : State} (h : s.beginCycle.cycleOpen = false) : s.planeCycle = s.beginCycle :=
  if_pos (by rw [h]; rfl)

theorem State.planeCycle_plain {s : State} (h : s.beginCycle.cycleOpen = true)
    (hp : s.beginCycle.frontNow.plane.pointAt s.beginCycle.frontNow.chip = none) : s.planeCycle = s.beginCycle.cycled := by
  rw [State.planeCycle, if_neg (by rw [h]; exact Bool.false_ne_true)]
  simp only [hp]
  rfl

theorem State.planeCycle_point {s : State} (h : s.beginCycle.cycleOpen = true) {x : Nat} {pt : Point}
    (hp : s.beginCycle.frontNow.plane.pointAt s.beginCycle.frontNow.chip = some (x, pt)) :
    s.planeCycle = s.beginCycle.cycled.pointDone x pt s.beginCycle.frontNow.herd.released := by
  rw [State.planeCycle, if_neg (by rw [h]; exact Bool.false_ne_true)]
  simp only [hp]
  rfl

/-! ### Exchange points -/

theorem PlaneSt.exchange_keeps (p : PlaneSt) (img : Image) : (p.exchange img).clocks = p.clocks ∧ (p.exchange img).half = p.half := by
  rw [PlaneSt.exchange]
  exact ⟨(PlaneSt.collects_clocks _ _).trans (PlaneSt.each_clocks _ _),
    (foldl_keeps PlaneSt.half _ (by intros; rfl) _ _).trans (foldl_keeps PlaneSt.half _ (by intros; rfl) _ _)⟩

theorem PlaneSt.release_keeps (p : PlaneSt) : p.release.clocks = p.clocks ∧ p.release.half = p.half :=
  ⟨PlaneSt.each_clocks _ _, foldl_keeps PlaneSt.half _ (by intros; rfl) _ _⟩

section PointDone
variable (s : State) (x : Nat) (pt : Point) (dec : Option Bool)

/-- Whatever comes of a point, its occurrences rise by one and no other count changes. -/
theorem State.pointDone_keeps :
    let t := s.pointDone x pt dec
    (t.host, t.sec, t.tel, t.sup) = (s.host, s.sec, s.tel, s.sup) ∧ t.plane.half = s.plane.half ∧
      t.plane.clocks = (s.plane.occurred x).clocks := by
  have hrel := (s.plane.occurred x).release_keeps
  rw [State.pointDone]
  split
  · next img h =>
    have hex := (s.plane.occurred x).exchange_keeps img
    split
    · exact ⟨rfl, hex.2, hex.1⟩
    · split
      · exact ⟨rfl, hrel.2, hrel.1⟩
      · exact ⟨rfl, hrel.2, hrel.1⟩
  · exact ⟨rfl, hrel.2, hrel.1⟩

theorem State.pointDone_none (h : s.img.image = none) : (s.pointDone x pt dec).img = { s.img with sampled := none } := by
  rw [State.pointDone]
  simp only [h]

/-- The image armed for this occurrence of a point that is no HERD point comes into force. -/
theorem State.pointDone_armed {img : Image} (h : s.img.image = some img) (hs : s.img.sampled = none) (hh : pt.herd = false)
    (ha : s.armedFor x (s.nextOcc x) = true) :
    let t := s.pointDone x pt dec
    t.img.active = img.kind + 1 ∧ t.img.segment = s.img.segment + 1 ∧ t.img.shadow = 0 ∧ t.img.xchgPoint = x ∧
      t.img.xchgOcc = s.nextOcc x ∧ t.chip = img.chip := by
  have harmed : s.img.sampled.getD (s.armedFor x (s.nextOcc x)) = true ∧ (!pt.herd || dec == some true) = true := by
    rw [hs, hh]
    exact ⟨ha, rfl⟩
  rw [State.pointDone]
  simp only [h, if_pos harmed]
  exact ⟨rfl, rfl, rfl, rfl, rfl, rfl⟩

end PointDone

/-- What a performed cycle leaves of module `u`, whether it completed an exchange point or not. -/
structure State.Performed (u t : State) : Prop where
  now : t.plane.now = u.plane.now + 1
  cadence : t.plane.cadence = u.plane.cadence + 1
  count : t.plane.count = if u.plane.launched then u.plane.count + 1 else u.plane.count
  half : t.plane.half = false
  slipTotal : t.plane.slipTotal = u.plane.slipTotal
  slipCause : t.plane.slipCause = u.plane.slipCause
  slipRun : t.plane.slipRun = none
  noted : ∀ cause n, u.plane.slipRun = some (cause, n) → t.plane.lastCause = cause ∧ t.plane.lastLength = n ∧
    t.plane.lastPlane = u.plane.count.setWidth 32
  others : (t.host, t.sec, t.tel, t.sup) = (u.host, u.sec, u.tel, u.sup)

theorem State.cycled_performed (u : State) : u.Performed u.cycled ∧ u.cycled.img = u.img ∧ u.cycled.plane.occ = u.plane.occ := by
  obtain ⟨haside, hhalf, hadv⟩ := u.cycled_spec
  generalize u.cycled = t at haside hhalf hadv ⊢
  simp only [State.aside, Prod.mk.injEq] at haside
  obtain ⟨⟨hhost, hsec, htel⟩, hsup, himg, -⟩ := haside
  refine ⟨{ hadv with half := hhalf, others := ?_ }, himg, hadv.occ⟩
  rw [hhost, hsec, htel, hsup]

theorem State.Performed.apart {u t : State} (h : u.Performed t) : t.host = u.host ∧ t.sec = u.sec ∧ t.tel = u.tel ∧ t.sup = u.sup := by
  simpa only [Prod.mk.injEq] using h.others

theorem State.Performed.pointDone {u t : State} (h : u.Performed t) (ho : t.plane.occ = u.plane.occ) (x : Nat) (pt : Point)
    (dec : Option Bool) : u.Performed (t.pointDone x pt dec) ∧ (t.pointDone x pt dec).plane.occ = u.plane.occ.upd 0 x (· + 1) := by
  obtain ⟨hothers, hhalf, hclocks⟩ := t.pointDone_keeps x pt dec
  generalize t.pointDone x pt dec = v at hothers hhalf hclocks ⊢
  have hadv : (u.plane.occurred x).Advanced (t.plane.occurred x) :=
    ⟨h.now, h.cadence, h.count, h.slipTotal, h.slipCause, h.slipRun, congrArg (fun o => Tab.upd 0 o x (· + 1)) ho, h.noted⟩
  have hv := hadv.of_clocks rfl hclocks
  exact ⟨⟨hv.now, hv.cadence, hv.count, hhalf.trans h.half, hv.slipTotal, hv.slipCause, hv.slipRun, hv.noted, hothers.trans h.others⟩, hv.occ⟩

section Point
variable {u t : State} {x : Nat} {pt : Point} {dec : Option Bool} (himg : t.img = u.img)
include himg

theorem State.cycled_point_none (h : u.img.image = none) : (t.pointDone x pt dec).img = { u.img with sampled := none } := by
  rw [State.pointDone_none _ _ _ _ (himg ▸ h), himg]

theorem State.cycled_point_armed (hocc : t.plane.occ = u.plane.occ) (img : Image) (hi : u.img.image = some img) (hs : u.img.sampled = none)
    (hh : pt.herd = false) (ha : u.armedFor x (u.nextOcc x) = true) :
    let v := t.pointDone x pt dec
    v.img.active = img.kind + 1 ∧ v.img.segment = u.img.segment + 1 ∧ v.img.shadow = 0 ∧ v.img.xchgPoint = x ∧
      v.img.xchgOcc = u.nextOcc x ∧ v.chip = img.chip := by
  have hnext : t.nextOcc x = u.nextOcc x := by rw [State.nextOcc, hocc, State.nextOcc]
  have harmed : t.armedFor x (t.nextOcc x) = true := by rw [hnext, State.armedFor, himg, ← State.armedFor, ha]
  have hd := t.pointDone_armed x pt dec (himg ▸ hi) (himg ▸ hs) hh harmed
  rwa [himg, hnext] at hd

end Point

/-! ### Slip cycles (R362, R366) -/

/-- What of a core neither a watchdog nor the departure of its events changes. -/
def Core.work (c : Core) : StoreSt × Tab Engine × VeSt × SuSt × CoreCfg × BitVec 64 × List Tally × Tab Pail :=
  (c.st, c.eng, c.ve, c.su, c.cfg, c.seq.step, c.seq.tallies, c.seq.pails)

/-- What of the plane the slip cycle's walk over the cores does not change. -/
def PlaneSt.run (p : PlaneSt) : (Nat × BitVec 64 × BitVec 64) × (BitVec 64 × Tab (BitVec 64)) × List Transit :=
  ((p.now, p.cadence, p.count), (p.slipTotal, p.slipCause), p.mesh)

theorem Core.wdogTick_work (c : Core) (r : Nat) : (c.wdogTick r).work = c.work := by
  rw [Core.wdogTick]
  split
  · dsimp only
    split <;> rfl
  · rfl

theorem PlaneSt.onCore_work (p : PlaneSt) (c d : Nat) {f : Core → Core} (h : ∀ k, (f k).work = k.work) :
    ((p.onCore c f).core d).work = (p.core d).work := by
  by_cases hd : d = c
  · rw [hd, PlaneSt.onCore, PlaneSt.setCore, PlaneSt.core, Tab.get_set_self, h]
  · rw [PlaneSt.onCore, PlaneSt.setCore, PlaneSt.core, Tab.get_set_ne _ _ _ hd, PlaneSt.core]

theorem PlaneSt.each_work (p : PlaneSt) (d : Nat) {f : Nat → Core → Core} (h : ∀ c k, (f c k).work = k.work) :
    ((p.each f).core d).work = (p.core d).work :=
  foldl_keeps (fun p : PlaneSt => (p.core d).work) _ (fun q c => q.onCore_work c d (h c)) _ _

theorem PlaneSt.each_run (p : PlaneSt) (f : Nat → Core → Core) : (p.each f).run = p.run :=
  foldl_keeps PlaneSt.run _ (by intros; rfl) _ _

theorem PlaneSt.collect_work (p : PlaneSt) (c d : Nat) : ((p.collect c).core d).work = (p.core d).work :=
  p.onCore_work c d (f := fun k => { k with ev := [] }) fun _ => rfl

theorem PlaneSt.tripped_keeps (p : PlaneSt) : p.tripped.run = p.run ∧ ∀ d, (p.tripped.core d).work = (p.core d).work := by
  rw [PlaneSt.tripped]
  split
  · refine ⟨p.each_run _, fun d => p.each_work d fun c k => ?_⟩
    split <;> rfl
  · exact ⟨rfl, fun _ => rfl⟩

/-- A slip cycle charged to a cause: its counts rise, and the mesh and the work of every core stay. -/
theorem PlaneSt.slip_spec (p : PlaneSt) (n : Nat) :
    let q := p.slip n
    q.now = p.now ∧ q.cadence = p.cadence + 1 ∧ q.count = p.count ∧ q.slipTotal = p.slipTotal + 1 ∧
      q.slipCause = p.slipCause.upd 0 n (· + 1) ∧ q.mesh = p.mesh ∧ ∀ d, (q.core d).work = (p.core d).work := by
  obtain ⟨htrip, hwork⟩ := p.tripped_keeps
  let p1 := p.tripped.each fun _ c => if (c.edgeEmpty p.now).isSome then c.wdogTick p.now else c
  have hrun : (p1.live.foldl (fun (p : PlaneSt) c => p.collect c) p1).run = p.run :=
    (foldl_keeps PlaneSt.run _ (by intros; rfl) _ _).trans ((PlaneSt.each_run _ _).trans htrip)
  have hcore (d : Nat) : ((p1.live.foldl (fun (p : PlaneSt) c => p.collect c) p1).core d).work = (p.core d).work := by
    refine (foldl_keeps (fun p : PlaneSt => (p.core d).work) _ (fun q c => q.collect_work c d) _ _).trans ((PlaneSt.each_work _ d ?_).trans (hwork d))
    intro c k
    split
    · exact k.wdogTick_work _
    · rfl
  simp only [PlaneSt.run, Prod.mk.injEq] at hrun
  obtain ⟨⟨hnow, hcad, hcount⟩, ⟨htotal, hcause⟩, hmesh⟩ := hrun
  exact ⟨hnow, congrArg (· + 1) hcad, hcount, congrArg (· + 1) htotal, congrArg (fun t => Tab.upd 0 t n (· + 1)) hcause, hmesh, hcore⟩

theorem State.joinBarrier_keeps (s : State) :
    s.joinBarrier.plane = s.plane ∧ (s.joinBarrier.host, s.joinBarrier.sec, s.joinBarrier.tel, s.joinBarrier.sup) = (s.host, s.sec, s.tel, s.sup) := by
  rw [State.joinBarrier]
  split
  · split <;> exact ⟨rfl, rfl⟩
  · exact ⟨rfl, rfl⟩

theorem State.slipCycle_of_cause {s : State} {late : Bool} {n : Nat} (hc : s.clockOn = true) (hh : s.plane.half = false)
    (h : s.slipCause late = some n) : ∃ (v : State) (x : ExtSt),
      v.plane = s.plane ∧ (v.host, v.sec, v.tel, v.sup) = (s.host, s.sec, s.tel, s.sup) ∧
      s.slipCycle late = ({ v with plane := (v.plane.meetFull v.ext.room).2.slip n, ext := x } : State).herdCycle := by
  let v := if n = 1 then s.joinBarrier else s
  have hv : v.plane = s.plane ∧ (v.host, v.sec, v.tel, v.sup) = (s.host, s.sec, s.tel, s.sup) := by
    simp only [v]
    split
    · exact s.joinBarrier_keeps
    · exact ⟨rfl, rfl⟩
  refine ⟨v, (v.plane.meetFull v.ext.room).1.foldl (fun (x : ExtSt) c => x.noteFull c) v.ext, hv.1, hv.2, ?_⟩
  rw [State.slipCycle, if_neg (by rw [hc, hh]; exact Bool.false_ne_true)]
  simp only [h]
  rfl

theorem PlaneSt.meetFull_mesh (p : PlaneSt) (room : Nat → Bool) :
    (p.meetFull room).2.mesh.map (fun x => { x with met := true }) = p.mesh.map fun x => { x with met := true } := by
  rw [PlaneSt.meetFull]
  simp

/-- Settles O26: a cycle is its front, its rear and the point, none of which touches what is not the plane's. -/
theorem planeAdvance : Obligations.PlaneAdvance := by
  unfold Obligations.PlaneAdvance
  intro s hc
  refine ⟨?cycle, fun hp => ?noPoint, fun late n hh hcause => ?slip⟩
  case cycle =>
    intro u
    refine ⟨fun h => ?begin, fun h => congrArg Host.Outcome.next (State.planeCycle_closed h), fun hopen => ?performed⟩
    case begin =>
      show s.beginCycle = s
      rw [State.beginCycle]
      split
      · next hon =>
        have hh : s.plane.half = false := by simpa [hc] using hon
        rw [State.launchDue]
        split
        · next l img hl hi =>
          rcases h with h | h | h
          · cases h.symm.trans hl
          · cases h.symm.trans hi
          · cases h.symm.trans hh
        · rfl
      · rfl
    case performed =>
      have hpoint : (s.plane.pointAt s.chip).isSome = true → exec .exchangePoint s = .next s.planeCycle := fun h =>
        congrArg Host.Outcome.next (if_pos h)
      have hplain : u.frontNow.plane.pointAt u.frontNow.chip = none → s.planeCycle = u.cycled := State.planeCycle_plain hopen
      have hat (x : Nat) (pt : Point) : u.frontNow.plane.pointAt u.frontNow.chip = some (x, pt) →
          s.planeCycle = u.cycled.pointDone x pt u.frontNow.herd.released := State.planeCycle_point hopen
      obtain ⟨hcycled, himg, hocc⟩ := u.cycled_performed
      refine ⟨s.planeCycle, rfl, ?_⟩
      clear_value u
      generalize s.planeCycle = t at hpoint hplain hat ⊢
      cases hp : u.frontNow.plane.pointAt u.frontNow.chip with
      | none =>
        rw [← hplain hp] at hcycled himg hocc
        obtain ⟨hhost, hsec, htel, hsup⟩ := hcycled.apart
        refine ⟨hcycled.now, hcycled.cadence, hcycled.count, hcycled.half, hcycled.slipTotal, hcycled.slipCause, hcycled.slipRun,
          hcycled.noted, hhost, hsec, htel, hsup, fun _ => ⟨himg, hocc⟩, fun x pt h => ?_, hpoint⟩
        cases h
      | some xp =>
        obtain ⟨x, pt⟩ := xp
        have ht := hat x pt hp
        obtain ⟨hdone, hoccs⟩ := hcycled.pointDone hocc x pt u.frontNow.herd.released
        have hnone := State.cycled_point_none (x := x) (pt := pt) (dec := u.frontNow.herd.released) himg
        have harmed := State.cycled_point_armed (x := x) (pt := pt) (dec := u.frontNow.herd.released) himg hocc
        rw [← ht] at hdone hoccs hnone
        simp only [← ht] at harmed
        obtain ⟨hhost, hsec, htel, hsup⟩ := hdone.apart
        refine ⟨hdone.now, hdone.cadence, hdone.count, hdone.half, hdone.slipTotal, hdone.slipCause, hdone.slipRun, hdone.noted,
          hhost, hsec, htel, hsup, fun h => ?_, fun y qt h => ?_, hpoint⟩
        · cases h
        · cases h
          exact ⟨hoccs, hnone, harmed⟩
  case noPoint => exact congrArg Host.Outcome.next (if_neg (by rw [hp]; exact Bool.false_ne_true))
  case slip =>
    obtain ⟨v, x, hplane, haside, hrun⟩ := State.slipCycle_of_cause hc hh hcause
    obtain ⟨hnow, hcad, hcount, htotal, hcz, hmesh, hwork⟩ := (v.plane.meetFull v.ext.room).2.slip_spec n
    have hmet := v.plane.meetFull_mesh v.ext.room
    simp only [Prod.mk.injEq] at haside
    obtain ⟨thost, tsec, ttel, tsup⟩ := haside
    have hmark : (v.plane.meetFull v.ext.room).2 = { s.plane with mesh := (v.plane.meetFull v.ext.room).2.mesh } := by
      rw [← hplane]
      rfl
    generalize (v.plane.meetFull v.ext.room).2 = q at hmark hnow hcad hcount htotal hcz hmesh hwork hmet hrun
    refine ⟨_, congrArg Host.Outcome.next hrun, hnow.trans (congrArg PlaneSt.now hmark :), hcad.trans (congrArg (fun p => PlaneSt.cadence p + 1) hmark :),
      hcount.trans (congrArg PlaneSt.count hmark :), htotal.trans (congrArg (fun p => PlaneSt.slipTotal p + 1) hmark :), ?_, fun d hd => ?_, ?_,
      fun d => ?_, thost, tsec, ttel, tsup⟩
    · have h := congrArg (fun t => Tab.get 0 t n) (hcz.trans (congrArg (fun p => Tab.upd 0 (PlaneSt.slipCause p) n (· + 1)) hmark))
      exact h.trans (Tab.get_set_self ..)
    · have h := congrArg (fun t => Tab.get 0 t d) (hcz.trans (congrArg (fun p => Tab.upd 0 (PlaneSt.slipCause p) n (· + 1)) hmark))
      exact h.trans (Tab.get_upd_ne _ _ _ hd)
    · exact (congrArg (List.map _) hmesh).trans (hmet.trans (congrArg (fun p => List.map _ (PlaneSt.mesh p)) hplane))
    · have h := (hwork d).trans (congrArg (fun p => Core.work (PlaneSt.core p d)) hmark)
      simp only [Core.work, Prod.mk.injEq] at h
      exact h

end Sys2Proof.Machine
end
section
/-! The slots of the stream unit (R204, R238, R261, R263, R265). -/

namespace Sys2Proof.Machine

/-- A window moved along a dimension covers as many elements. -/
theorem winCount_advance (w : List (Int × Nat)) (dim : Nat) (by_ : Int) : winCount (advance w dim by_) = winCount w := by
  have h : (advance w dim by_).map (·.2) = w.map (·.2) := by
    have hi : ∀ p : (Int × Nat) × Nat, (if p.2 = dim then (p.1.1 + by_, p.1.2) else p.1).2 = p.1.2 := fun p => by split <;> rfl
    rw [advance, List.map_map]
    calc _ = w.zipIdx.map fun p => p.1.2 := List.map_congr_left fun p _ => hi p
      _ = (w.zipIdx.map Prod.fst).map (·.2) := by rw [List.map_map]; rfl
      _ = w.map (·.2) := by rw [List.zipIdx_map_fst]
  rw [winCount, h, winCount]

theorem Core.clipStart_eq (k : Core) (q : Nat) : ∃ l, k.clipStart q = { k with su := { k.su with clipClr := l } } := by
  rw [Core.clipStart]
  split
  · exact ⟨_, rfl⟩
  · exact ⟨_, rfl⟩

/-- The trailers that a move with entry `x` asks its port for as it starts: the source's, and the destination's in this core (R261). -/
def trailerReads (x : Nat) (ch : Nat) (dd : Desc) : List Acc :=
  if bit x 76 then ⟨false, bits x 75 59, 7, ch, .read (.strail ch false)⟩ ::
    if dd.space = 2 then [] else [⟨false, bits x 46 30, 7, ch, .read (.strail ch true)⟩]
  else []

/-- A move that starts takes its channel with what its entry and its descriptors say; of the core nothing else changes but its number, the
accesses of its trailers and the clip pair that its QUANT entry clears. -/
theorem Core.moveStart_spec (k : Core) (env : SuEnv) (r ch : Nat) (m : SuSlot) (sd dd : Desc) :
    let x := (k.cfg.moves.get 0 m.entry).toNat
    ∃ op l, k.moveStart env r ch m sd dd = { k with
        nextId := k.nextId + 1
        su := { k.su with clipClr := l, chans := k.su.chans.set ch op }
        st := { k.st with acc := k.st.acc ++ trailerReads x ch dd } } ∧
      (bit x 93 = false → l = k.su.clipClr) ∧
      op.id = k.nextId ∧ op.typ = bits x 127 124 ∧ op.src = sd ∧ op.dst = dd ∧ op.t0 = r ∧
      op.n = (if bits x 127 124 = 2 then bits x 58 47 + 1 else 1) * winCount (k.window (bits x 109 104) sd.ndim) ∧
      op.rate = moveRate sd dd ∧ op.perm = (bits x 97 94 != 0) ∧
      op.quant = (if bit x 93 then some (k.cfg.quant.get 0 (bits x 92 87)) else none) ∧
      op.off = (if sd.space = 0 then max m.lead env.leadMin
        else if sd.space = 2 then env.latTo sd.peer + env.latFrom sd.peer else 0) := by
  intro x
  have hn (w : List (Int × Nat)) (d : Nat) (a : Int) (b : Bool) : winCount (if b = true then w else advance w d a) = winCount w := by
    split
    · rfl
    · exact winCount_advance w d a
  have hacc : (if bit x 76 then (⟨false, bits x 75 59, 7, ch, .read (.strail ch false)⟩ : Acc) ::
      (if (!(dd.space == 2)) = true then [⟨false, bits x 46 30, 7, ch, .read (.strail ch true)⟩] else []) else []) = trailerReads x ch dd := by
    rw [trailerReads]
    by_cases h2 : dd.space = 2 <;> simp [h2]
  obtain ⟨op, k1, hrun, hk1, hop⟩ : ∃ op k1, k.moveStart env r ch m sd dd = { k1 with
        nextId := k1.nextId + 1
        su := { k1.su with chans := k1.su.chans.set ch op }
        st := { k1.st with acc := k1.st.acc ++ trailerReads x ch dd } } ∧
      k1 = (if bit x 93 then k.clipStart (k.cfg.quant.get 0 (bits x 92 87)).toNat else k) ∧
      op.id = k.nextId ∧ op.typ = bits x 127 124 ∧ op.src = sd ∧ op.dst = dd ∧ op.t0 = r ∧
      op.n = (if bits x 127 124 = 2 then bits x 58 47 + 1 else 1) * winCount (k.window (bits x 109 104) sd.ndim) ∧
      op.rate = moveRate sd dd ∧ op.perm = (bits x 97 94 != 0) ∧
      op.quant = (if bit x 93 then some (k.cfg.quant.get 0 (bits x 92 87)) else none) ∧
      op.off = (if sd.space = 0 then max m.lead env.leadMin
        else if sd.space = 2 then env.latTo sd.peer + env.latFrom sd.peer else 0) := by
    rw [← hacc]
    refine ⟨_, _, rfl, ?_, rfl, rfl, rfl, rfl, rfl, congrArg _ (hn _ _ _ _), rfl, rfl, rfl, rfl⟩
    show _ = if bit (k.cfg.moves.get 0 m.entry).toNat 93 then _ else _
    generalize bit (k.cfg.moves.get 0 m.entry).toNat 93 = b
    cases b <;> rfl
  cases hq : bit x 93 with
  | true =>
    obtain ⟨l, hl⟩ := k.clipStart_eq (k.cfg.quant.get 0 (bits x 92 87)).toNat
    rw [hq, if_pos rfl, hl] at hk1
    subst hk1
    exact ⟨op, l, hrun, fun h => (by cases h), hq ▸ hop⟩
  | false =>
    rw [hq, if_neg Bool.false_ne_true] at hk1
    subst hk1
    exact ⟨op, k1.su.clipClr, hrun, fun _ => rfl, hq ▸ hop⟩

theorem Core.zpStart_spec (k : Core) (r ch : Nat) (m : SuSlot) :
    let q := k.cfg.quant.get 0 (bits (k.cfg.moves.get 0 m.entry).toNat 92 87)
    ∃ op, k.zpStart r ch m = { k with nextId := k.nextId + 1, su := { k.su with chans := k.su.chans.set ch op } } ∧
      op.id = k.nextId ∧ op.typ = 4 ∧ op.t0 = r ∧ op.quant = some q ∧
      op.lastWrite = r + (zpDims q.toNat).1 * (zpDims q.toNat).2 + 1 :=
  ⟨_, rfl, rfl, rfl, rfl, rfl, rfl⟩

theorem Core.suIssue_started (k : Core) (env : SuEnv) (r : Nat) {m : SuSlot} {ch : Nat} {sd dd : Desc} (h : k.suCheck m = 0)
    (hch : k.freeChan = some ch) (ht : bits (k.cfg.moves.get 0 m.entry).toNat 127 124 ≠ 4) (hf : (k.moveCheck m).1 = 0)
    (hs : k.descAt (bits (k.cfg.moves.get 0 m.entry).toNat 123 117) = some sd)
    (hd : k.descAt (bits (k.cfg.moves.get 0 m.entry).toNat 116 110) = some dd) :
    k.suIssue env r m = k.moveStart env r ch m sd dd := by
  simp only [Core.suIssue, h, ne_eq, not_true_eq_false, if_false, if_neg ht, hf, hs, hd, hch, Option.getD_some]

theorem Core.suIssue_zpStart (k : Core) (env : SuEnv) (r : Nat) {m : SuSlot} {ch : Nat} (h : k.suCheck m = 0)
    (hch : k.freeChan = some ch) (ht : bits (k.cfg.moves.get 0 m.entry).toNat 127 124 = 4) :
    k.suIssue env r m = k.zpStart r ch m := by
  simp only [Core.suIssue, h, ne_eq, not_true_eq_false, if_false, if_pos ht, hch, Option.getD_some]

/-- Settles O22: an accepted slot is its move's start, which changes its channel and little else. -/
theorem moveSlots : Obligations.MoveSlots := by
  unfold Obligations.MoveSlots
  intro s c arg ch hruns k m x hcheck hch
  have kept {types : List Nat} {k' : Core} (h : types.contains (bits x 127 124) = true)
      (hi : k.suIssue (s.plane.seqEnv s.chip c).su s.plane.now m = k') :
      s.slot c (fun env r k => (k.moveSlot env types r arg.toNat, [])) = s.withCore c k' :=
    s.slot_keeps_mesh hruns _ (congrArg (·, []) ((k.moveSlot_of_type _ _ h).trans hi))
  clear_value k
  refine ⟨fun sd dd hsd hdd hmove => ?moves, fun ht => ?zpcorr⟩
  case moves =>
    intro started elems
    have start {i : Instr} {types : List Nat} {n : Nat} (ht : bits x 127 124 ≠ 4) (hin : types.contains (bits x 127 124) = true)
        (hi : exec i s = .next (s.slot c fun env r k => (k.moveSlot env types r arg.toNat, [])))
        (hn : (if bits x 127 124 = 2 then bits x 58 47 + 1 else 1) * elems = n) : started i (bits x 127 124) n := by
      obtain ⟨op, l, hrun, hl, hid, htyp, hsrc, hdst, ht0, hops, hrate, hperm, hquant, hoff⟩ :=
        k.moveStart_spec (s.plane.seqEnv s.chip c).su s.plane.now ch m sd dd
      refine ⟨_, op, hi.trans (congrArg _ (kept hin ((k.suIssue_started _ _ hcheck hch ht hmove hsd hdd).trans hrun))),
        s.onlyCore_withCore c _, ?_⟩
      rw [State.withCore_core]
      refine ⟨rfl, rfl, fun h => ?_, fun h => ?_, rfl, rfl, rfl, rfl, fun h => ?_, hid, htyp, hsrc, hdst, ht0, hops.trans hn, hrate, hperm,
        fun h => ?_, fun h => ?_, fun h => ?_, fun h => ?_⟩
      · show { k.st with acc := k.st.acc ++ trailerReads x ch dd } = k.st
        rw [trailerReads, if_neg (by rw [h]; exact Bool.false_ne_true), List.append_nil]
      · show { k.st with acc := k.st.acc ++ trailerReads x ch dd } = _
        rw [trailerReads, if_pos h]
      · rw [hl h]
      · exact hquant.trans (if_pos h)
      · exact hquant.trans (if_neg (by rw [h]; exact Bool.false_ne_true))
      · exact hoff.trans (if_pos h)
      · exact hoff.trans ((if_neg (by omega)).trans (if_neg (by omega)))
    refine ⟨fun ht => ?_, fun ht => ?_, fun ht => ?_⟩
    · rw [← ht]
      exact start (by omega) (by rw [ht]; rfl) rfl (by rw [if_neg (by omega), Nat.one_mul])
    · rw [← ht]
      exact start (by omega) (by rw [ht]; rfl) rfl (by rw [if_pos ht])
    · rw [← ht]
      exact start (by omega) (by rw [ht]; rfl) rfl (by rw [if_neg (by omega), Nat.one_mul])
  case zpcorr =>
    obtain ⟨op, hrun, hop⟩ := k.zpStart_spec s.plane.now ch m
    refine ⟨_, op, congrArg Host.Outcome.next (kept (by rw [ht]; rfl) ((k.suIssue_zpStart _ _ hcheck hch ht).trans hrun)),
      s.onlyCore_withCore c _, ?_⟩
    rw [State.withCore_core]
    exact ⟨rfl, rfl, rfl, rfl, hop⟩

end Sys2Proof.Machine
end
section
/-! What moves do by themselves (R204, R257, R263, R265). -/

namespace Sys2Proof.Machine

/-! ### The write of one element -/

/-- What a move of one element, its formats equal, has for its single output place: its pattern, at the address that its descriptor
gives in this core's tile store. -/
structure MoveOp.Single (op : MoveOp) (w : List Int) (a pat b : Nat) : Prop where
  typ : op.typ = 1
  one : op.n = 1
  rate : 1 ≤ op.rate
  perm : op.perm = false
  quant : op.quant = none
  sstream : op.sstream = none
  trl : op.trl = none
  fold : op.fold = 0
  fmt : op.src.fmt = op.dst.fmt
  space : op.dst.space = 1
  read : op.data.find? (·.1 == 0) = some (0, pat)
  tuple : op.dstTuple 0 = some w
  place : op.dst.loc op.herdX op.herdN w = .here (a, false)
  bits : codeBits op.dst.fmt = 8 * b

theorem Tab.find?_set_self {α : Type} (t : Tab α) (i : Nat) (x : α) : (t.set i x).find? (·.1 == i) = some (i, x) := by
  induction t with
  | nil => simp [Tab.set]
  | cons p t ih =>
    obtain ⟨j, y⟩ := p
    rw [Tab.set]
    split
    · simp
    · split
      · simp
      · next hne => simp [Ne.symm hne, ih]

/-- The access that writes whole bytes within a line of the tile store for channel `ch`. -/
def moveAccess (a ch : Nat) (bs : Bytes) : Acc := ⟨false, a / 64, 2, ch, .write (wbytes (a % 64) bs)⟩

section Single
variable {op : MoveOp} {w : List Int} {a pat b : Nat} (h : op.Single w a pat b)
include h

theorem MoveOp.Single.groupAt_last {r : Nat} (hr : r = op.t0 + op.off + 5) : op.groupAt r = [0] := by
  have hfilter : ((List.range op.rate).map fun k => (r - (op.t0 + op.off + 5)) * op.rate + k).filter (· < op.n) = [0] := by
    have hj : r - (op.t0 + op.off + 5) = 0 := by omega
    obtain ⟨m, hm⟩ : ∃ m, op.rate = m + 1 := ⟨op.rate - 1, by have := h.rate; omega⟩
    rw [hj, h.one, hm, List.range_succ_eq_map]
    simp
  rw [MoveOp.groupAt, h.perm, if_neg Bool.false_ne_true, if_neg (by omega)]
  exact hfilter

theorem MoveOp.Single.suElem (k : Core) (r : Nat) : k.suElem op r 0 = (k, some (none, (a, false), pat), []) := by
  have hs : op.source 0 = 0 := by rw [MoveOp.source, h.perm, if_neg Bool.false_ne_true]
  simp only [Core.suElem, hs, h.read, h.tuple, h.place, h.quant, if_pos h.fmt]
  rfl

theorem MoveOp.Single.groupAccs (ch key : Nat) : groupAccs op 2 ch key [((a, false), pat)] = [moveAccess a ch (leBytes b pat)] := by
  have hw : elemWrite op.dst.fmt 64 a false pat = wbytes (a % 64) (leBytes b pat) := by
    rw [elemWrite, if_neg (by rw [h.bits]; omega), h.bits, Nat.mul_div_cancel_left b (by decide)]
  rw [Sys2Proof.Machine.groupAccs, if_pos h.fold, h.space]
  show (mergeWrites [(a / 64, elemWrite op.dst.fmt 64 a false pat)]).map _ = _
  rw [hw]
  rfl

/-- In the cycle of its write the move asks for that one access. -/
theorem MoveOp.Single.suWrites_acc (k : Core) (self r ch : Nat) (hr : r = op.t0 + op.off + 5) :
    (k.suWrites self r ch op).st.acc = k.st.acc ++ [moveAccess a ch (leBytes b pat)] ∧
      (k.suWrites self r ch op).st.tile = k.st.tile := by
  have htrl : op.trailers = none := by rw [MoveOp.trailers, h.trl]; rfl
  have hdrop : op.dropAll = false := by rw [MoveOp.dropAll, htrl]
  have htrailer : op.trailer = none := by rw [MoveOp.trailer, htrl]; rfl
  have helems : k.suElems op r [0] = (k, [(none, (a, false), pat)], []) := by
    simp only [Core.suElems, h.suElem]
    rfl
  have hes : (if op.dropAll then [] else [(none, (a, false), pat)].filterMap fun e : Option Nat × (Nat × Bool) × Nat =>
      if e.1.isNone then some e.2 else none) = [((a, false), pat)] := by
    rw [hdrop]
    rfl
  simp only [Core.suWrites, h.groupAt_last hr, helems, htrailer, hes, h.space, h.groupAccs]
  simp [mergeWrites]

/-- The channel's whole cycle, nothing of the move being left to read. -/
theorem MoveOp.Single.suAct_acc (k : Core) {op0 : MoveOp} (self : Nat) {r ch : Nat} (hop : op = { op0 with at_ := r + 1 })
    (hf : k.su.chans.find? (·.1 == ch) = some (ch, op0)) (hat : op0.at_ ≤ r) (hr : r = op.t0 + op.off + 5) :
    (k.suAct self r ch).st.acc = k.st.acc ++ [moveAccess a ch (leBytes b pat)] ∧ (k.suAct self r ch).st.tile = k.st.tile := by
  have hdone : ¬ (r - op.t0) * op.rate < op.n := by
    have := h.rate
    have := Nat.mul_le_mul (show 5 ≤ r - op.t0 by omega) this
    rw [h.one]
    omega
  have hscale (x : Core) : x.suScale r ch op = x := by
    rw [Core.suScale, h.sstream]
  have hrun : k.suAct self r ch = ({ k with su := { k.su with chans := k.su.chans.set ch op } } : Core).suWrites self r ch op := by
    simp only [Core.suAct, hf, if_neg (Nat.not_lt.mpr hat), ← hop]
    have htyp : ¬ op0.typ = 4 := fun h4 => absurd (h.typ.symm.trans ((congrArg MoveOp.typ hop).trans h4)) (by decide)
    have hdone0 : ¬ (r - op0.t0) * op0.rate < op0.n := by
      rw [hop] at hdone
      exact hdone
    rw [if_neg htyp, if_neg hdone0]
    simp only [Tab.find?_set_self, hscale]
  rw [hrun]
  exact h.suWrites_acc _ self r ch hr

end Single

/-! ### The access is performed -/

/-- A channel whose cycle asks for one write that nothing stands above stores those bytes and nothing else. -/
theorem Core.alone_move (k : Core) (self r a ch : Nat) (others : List Acc) (bs : Bytes)
    (hacc : (Core.suAct { k with st := { k.st with acc := [] } } self r ch).st.acc = [moveAccess a ch bs])
    (htile : (Core.suAct { k with st := { k.st with acc := [] } } self r ch).st.tile = k.st.tile)
    (hl : (moveAccess a ch bs).lost ([moveAccess a ch bs] ++ others) = false) :
    ∃ k', k.alone self r others (fun k => k.suAct self r ch) = (k', []) ∧ k'.st.tile = k.st.tile.write a bs := by
  obtain ⟨l, ⟨n1, n2, n3, ev, hn⟩, hal⟩ := k.alone_one self r others (fun k => k.suAct self r ch) rfl hacc hl rfl
  obtain ⟨st, sig, hs, ht, -⟩ := l.serve_write self r (a / 64) 2 ch (a % 64) bs
  refine ⟨_, hal.trans (Prod.ext rfl (congrArg Prod.snd hs :)), ?_⟩
  have hw : (l.serve self r (moveAccess a ch bs)).1.st.tile = l.st.tile.write (64 * (a / 64) + a % 64) bs :=
    (congrArg (fun x : Core × List Ret => x.1.st.tile) hs).trans ht
  have hl0 : l.st.tile = k.st.tile := by rw [hn]; exact htile
  rw [Nat.div_add_mod] at hw
  exact hw.trans (congrArg (fun m => Mem.write m a bs) hl0)

/-! ### A ZPCORR's trailer -/

theorem Core.zpWrites_trailer (k : Core) {r ch : Nat} {op : MoveOp} {q : BitVec 128} (hq : op.quant = some q)
    (hr : r = op.t0 + (zpDims q.toNat).1 * (zpDims q.toNat).2 + 1) :
    k.zpWrites r ch op = { k with st := { k.st with acc := k.st.acc ++
      [⟨false, (bits q.toNat 74 58 + (zpDims q.toNat).2 * 16 * (zpDims q.toNat).1) % 131072, 2, ch,
        .write (wbytes 0 (leBytes 32 (fld (bits q.toNat 123 120) 4 21)))⟩] } } := by
  simp only [Core.zpWrites, hq]
  rw [if_pos hr]

theorem Core.suAct_trailer (k : Core) (self : Nat) {r ch : Nat} {op : MoveOp} {q : BitVec 128}
    (hf : k.su.chans.find? (·.1 == ch) = some (ch, op)) (hat : op.at_ ≤ r) (ht : op.typ = 4) (hq : op.quant = some q)
    (hr : r = op.t0 + (zpDims q.toNat).1 * (zpDims q.toNat).2 + 1) :
    (k.suAct self r ch).st.acc = k.st.acc ++ [⟨false, (bits q.toNat 74 58 + (zpDims q.toNat).2 * 16 * (zpDims q.toNat).1) % 131072, 2, ch,
        .write (wbytes 0 (leBytes 32 (fld (bits q.toNat 123 120) 4 21)))⟩] ∧ (k.suAct self r ch).st.tile = k.st.tile := by
  have hrun : k.suAct self r ch = ({ k with su := { k.su with chans := k.su.chans.set ch { op with at_ := r + 1 } } } : Core).zpWrites r ch
      { op with at_ := r + 1 } := by
    simp only [Core.suAct, hf, if_neg (Nat.not_lt.mpr hat)]
    exact if_pos ht
  rw [hrun, Core.zpWrites_trailer _ (op := { op with at_ := r + 1 }) hq hr]
  exact ⟨rfl, rfl⟩

theorem exec_streamElementWrite_alone (s : State) {c : Fin 128} {m : Fin 4} (hthere : s.coreThere c) {k : Core}
    (hk : (s.coreNow c).alone c s.plane.now (s.rivals c) (fun k => k.suAct c s.plane.now m) = (k, [])) :
    exec (.streamElementWrite c m) s = .next (s.withCore c k) :=
  congrArg Host.Outcome.next (s.aloneAt_there hthere (fun r k => k.suAct c r m) hk)

/-- A channel's one write that nothing stands above: its bytes are in place and every other byte reads as before. -/
theorem State.moveWrite_spec (s : State) {c : Fin 128} {m : Fin 4} {k : Core} (hk : s.coreNow c = k) (hthere : s.coreThere c)
    (hwf : k.st.tile.wf = true) {a : Nat} {bs : Bytes}
    (hacc : (Core.suAct { k with st := { k.st with acc := [] } } c s.plane.now m).st.acc = [moveAccess a m bs])
    (htile : (Core.suAct { k with st := { k.st with acc := [] } } c s.plane.now m).st.tile = k.st.tile)
    (hport : s.portFree c false (a / 64) 2 m) :
    ∃ t, exec (.streamElementWrite c m) s = .next t ∧ s.OnlyCore t c ∧ (t.plane.core c).st.peek false a bs.length = bs ∧
      ∀ a', a' < a ∨ a + bs.length ≤ a' → (t.plane.core c).st.peek false a' 1 = k.st.peek false a' 1 := by
  obtain ⟨k', hal, hk'⟩ := k.alone_move c s.plane.now a m (s.rivals c) bs hacc htile (Acc.not_lost_self s c hport)
  refine ⟨_, exec_streamElementWrite_alone s hthere (by rw [hk]; exact hal), s.onlyCore_withCore c k', ?_⟩
  rw [State.withCore_core]
  exact Mem.reads_after_write hwf hk' rfl

/-- Settles O23: in the cycle of its write a move asks for one access, which nothing stands above. -/
theorem moveEvents : Obligations.MoveEvents := by
  unfold Obligations.MoveEvents
  intro s c m k k0
  have hk : s.coreNow c = k := rfl
  clear_value k
  refine ⟨fun hthere hwf op hf hat => ⟨?element, ?trailer⟩, fun hthere => ?finish, ?release⟩
  case element =>
    intro w a pat b htyp hone hrate hperm hquant hss htrl hfold hfmt hspace hnow hread htuple hplace hbits hline hport
    have hsingle : MoveOp.Single { op with at_ := s.plane.now + 1 } w a pat b :=
      ⟨htyp, hone, hrate, hperm, hquant, hss, htrl, hfold, hfmt, hspace, hread, htuple, hplace, hbits⟩
    obtain ⟨hacc, htile⟩ := hsingle.suAct_acc { k with st := { k.st with acc := [] } } c.val (op0 := op) (ch := m.val) rfl hf hat hnow
    rw [List.nil_append] at hacc
    obtain ⟨t, ht, honly, hself, hother⟩ := s.moveWrite_spec hk hthere hwf hacc htile hport
    rw [length_leBytes] at hself hother
    exact ⟨t, ht, honly, hself, hother⟩
  case trailer =>
    intro q htyp hquant hnow line hport
    obtain ⟨hacc, htile⟩ := Core.suAct_trailer { k with st := { k.st with acc := [] } } c.val hf hat htyp hquant hnow
    have hline : 64 * line / 64 = line ∧ 64 * line % 64 = 0 := ⟨Nat.mul_div_cancel_left _ (by decide), Nat.mul_mod_right _ _⟩
    rw [List.nil_append] at hacc
    obtain ⟨t, ht, honly, hself, hother⟩ := s.moveWrite_spec (a := 64 * line) hk hthere hwf
      (hacc.trans (by rw [moveAccess, hline.1, hline.2])) htile (by rwa [hline.1])
    rw [length_leBytes] at hself hother
    exact ⟨t, ht, honly, hself, hother⟩
  case finish => exact congrArg Host.Outcome.next (s.coreEvent_core hthere _ rfl)
  case release =>
    intro hopen x hresp hcore hch hrel y
    refine ⟨congrArg Host.Outcome.next ((if_pos hopen).trans ?_), rfl, rfl⟩
    have hmine : (x.core == c.val && x.ch == m.val && decide (x.rel ≤ s.plane.now)) = true := by
      rw [hcore, hch, decide_eq_true hrel, beq_self_eq_true, beq_self_eq_true]
      rfl
    have hdue : s.ext.resp.filter (fun x => x.core == c.val && x.ch == m.val && decide (x.rel ≤ s.plane.now)) = [x] := by
      rw [hresp, List.filter_singleton, hmine]
      rfl
    have hrest : s.ext.resp.filter (fun x => !(x.core == c.val && x.ch == m.val && decide (x.rel ≤ s.plane.now))) = [] := by
      rw [hresp, List.filter_singleton, hmine]
      rfl
    have hy : s.respTransit s.plane.group x = y :=
      congrArg (fun d => transit s.chip.routes s.plane.group x.src (s.plane.site d) 0 s.plane.now (.data x.core x.ch x.els)) hcore
    rw [State.releaseReads, hdue, hrest, List.zipIdx_singleton, List.map_singleton, ← hy]
    rfl

end Sys2Proof.Machine
end
section
/-! The chunk of an MMA (R84, R112, R113, R118). -/

namespace Sys2Proof.Machine

/-! ### A contribution is judged as it issues -/

theorem Core.me_event (k : Core) (ev : CoreEv) (e : Nat) : (k.event ev).me e = k.me e := rfl

theorem Core.staleOnce_chunks (k : Core) (e v opId : Nat) : ((k.staleOnce e v opId).me e).chunks = (k.me e).chunks := by
  rw [Core.staleOnce]
  split
  · rfl
  · rw [Core.staleDrop, Core.me_event, Core.me_setMe_self, Core.me_setMe_self]
    rfl

theorem Core.noteIssue_chunks (k : Core) (t e v opId : Nat) : ((k.noteIssue t e v opId).me e).chunks = (k.me e).chunks := by
  have hset (c : Core) (x : Vat) : ((c.setMe e ((k.me e).setVat v x)).me e).chunks = (k.me e).chunks := by
    rw [Core.me_setMe_self]
    rfl
  rw [Core.noteIssue]
  split
  · rfl
  · dsimp only
    split <;> split <;> exact hset _ _

theorem Core.judge_chunks (k : Core) (t e v gen opId segment : Nat) :
    ((k.judge t e v gen opId segment).1.me e).chunks = (k.me e).chunks := by
  rw [Core.judge]
  split
  · exact k.noteIssue_chunks t e v opId
  · exact k.staleOnce_chunks e v opId

theorem Core.judge_drop (k : Core) (t e v gen opId segment : Nat) :
    (k.judge t e v gen opId segment).2 = !((k.me e).vat v).accepts gen t segment k.segment := by
  rw [Core.judge]
  split
  · next h => rw [h]; rfl
  · next h => rw [Bool.eq_false_iff.mpr h]; rfl

/-! ### The chunk -/

/-- What a chunk that column pipe `e` of core `k` forms in cycle `r` from a moving row is. -/
structure ChunkOf (k : Core) (r e : Nat) (op : ColOp) (f : Forming) (moving : Bytes) (ch : Chunk) : Prop where
  due : ch.due = r + 6
  issue : ch.issue = r
  vat : ch.vat = op.vat
  gen : ch.gen = op.gen
  row : ch.row = f.row
  masked : ch.masked = !((k.me e).vat op.vat).accepts op.gen r op.segment k.segment
  sums : ¬ (bits op.ent.toNat 123 120 = 3 ∧ bits op.ent.toNat 119 116 = 4) →
    ch.sums = (List.range (k.ncols e)).map fun col =>
      dotVal (((List.range (f.hi - f.lo)).map (· + f.lo)).map fun j => operandElem (bits op.ent.toNat 123 120) moving j)
        (((List.range (f.hi - f.lo)).map (· + f.lo)).map fun j =>
          operandElem (bits op.ent.toNat 119 116) (Mem.read (k.me e).active (128 * col) 128) j)

theorem Core.formChunk_spec (k : Core) (r e : Nat) (op : ColOp) {f : Forming} (h : f.lo < f.hi) :
    ∃ ch, ((k.formChunk r e op f).me e).chunks = (k.me e).chunks ++ [ch] ∧ ChunkOf k r e op f ((k.me e).part 0) ch := by
  have hm : (f.lo == f.hi) = false := beq_eq_false_iff_ne.mpr (Nat.ne_of_lt h)
  have hkeep (g : Engine) (hg : g.chunks = (k.me e).chunks) :
      (((k.setMe e g).judge r e op.vat op.gen op.id op.segment).1.me e).chunks = (k.me e).chunks := by
    rw [Core.judge_chunks, Core.me_setMe_self, hg]
  have hdrop (g : Engine) (hg : g.vats = (k.me e).vats) : ((k.setMe e g).judge r e op.vat op.gen op.id op.segment).2 =
      !((k.me e).vat op.vat).accepts op.gen r op.segment k.segment := by
    rw [Core.judge_drop, Core.me_setMe_self, Engine.vat, hg]
    rfl
  simp only [Core.formChunk, hm, Bool.false_eq_true, if_false, Core.me_setMe_self, Bool.false_or]
  refine ⟨_, congrArg (· ++ [_]) (hkeep _ rfl), rfl, rfl, rfl, rfl, rfl, hdrop _ rfl, fun htwo => ?_⟩
  have htwo' : (bits op.ent.toNat 123 120 == 3 && bits op.ent.toNat 119 116 == 4) = false := by simpa using htwo
  simp only [htwo', Bool.false_eq_true, if_false, List.map_map]
  rfl

theorem Core.colFinish_spec (k : Core) {r e : Nat} {op : ColOp} {f : Forming} (hrun : (k.me e).run = some op) (hk : op.kind = .mma)
    (hf : op.forming r = some f) (hcol : (k.me e).colAt ≤ r) (h : f.lo < f.hi) :
    ∃ ch, ((k.colFinish r e).me e).chunks = (k.me e).chunks ++ [ch] ∧ ChunkOf k r e op f ((k.me e).part 0) ch := by
  obtain ⟨ch, hch, hof⟩ := k.formChunk_spec r e op h
  refine ⟨ch, ?_, hof⟩
  simp only [Core.colFinish, if_neg (Nat.not_lt.mpr hcol), hrun, hf, hk, Core.me_setMe_self]
  exact hch

/-! ### The moving row is read and the chunk formed at once (before phase A) -/

theorem nth_eq_getElem {α : Type} {l : List α} {i : Nat} (h : i < l.length) (d : α) : nth l i d = l[i] := by
  simp [nth, List.getElem?_eq_getElem h]

theorem poisonBytes_clean (f : Fmt) {bad : List Bool} (h : ∀ b ∈ bad, b = false) (bs : Bytes) : poisonBytes f bad bs = bs := by
  have hbad (i : Nat) : nth bad i false = false := by
    rw [nth]
    rw [List.getD_eq_getElem?_getD]
    cases hb : bad[i]? with
    | none => rfl
    | some b => exact h b (List.mem_of_getElem? hb)
  refine List.ext_getElem (by simp [poisonBytes]) fun i h1 h2 => ?_
  simp only [poisonBytes, List.getElem_map, List.getElem_range, hbad, Bool.false_eq_true, if_false]
  exact nth_eq_getElem h2 0

/-- The read of the moving row that column pipe `e` asks for. -/
def movingRead (e stage fmt : Nat) : Acc := ⟨true, stage, 7, 10 + e, .read (.moving e 0 fmt)⟩

/-- A pipe with nothing to start, swap or load asks for its moving row alone. -/
theorem Core.colAct_reads (k : Core) {r e : Nat} {op : ColOp} {f : Forming} (hrun : (k.me e).run = some op) (hk : op.kind = .mma)
    (hf : op.forming r = some f) (hs : op.swapAt ≠ r) (hl : op.loads = []) (hload : (k.me e).loading = none)
    (hpend : (k.me e).pend = none) (hcol : (k.me e).colAt ≤ r) (hr : f.reads = true) (hfirst : f.first = true) :
    k.colAct r e = { k with st := { k.st with acc := k.st.acc ++ [movingRead e f.stage (bits op.ent.toNat 123 120)] } } := by
  have hstart : k.startCol r e = k := by simp only [Core.startCol, hpend]
  have hswap : k.swapAct r e = k := by
    simp only [Core.swapAct, hrun, hk, reduceCtorEq, if_false, if_pos (Or.inl hs : op.swapAt ≠ r ∨ (op.blk ≠ 0 ∧ op.lastSwap = r))]
  simp only [Core.colAct, if_neg (Nat.not_lt.mpr hcol), hstart, hswap, hload, hrun, hl, hk, hf, hr, hfirst, if_true, List.flatMap_nil,
    List.nil_append, List.append_nil]
  rfl

/-- A read of a good staging row puts it in the moving port. -/
theorem Core.serve_moving (k : Core) (self r e stage fmt : Nat) (h : ∀ i, i < 4 → k.st.poisoned true (128 * stage + 32 * i) = false) :
    k.serve self r (movingRead e stage fmt) = (k.setMe e { k.me e with
      moving := Tab.set (k.me e).moving 0 (k.st.peek true (128 * stage) 128) }, []) := by
  have hbad : ∀ b ∈ (k.st.readLine true stage).2, b = false := by
    intro b hb
    obtain ⟨i, hi, rfl⟩ := List.mem_map.mp hb
    have hi4 : i < 4 := List.mem_range.mp hi
    have := h i hi4
    rwa [Nat.mul_comm] at this
  have hrow : (k.st.readLine true stage).1 = k.st.peek true (128 * stage) 128 := by
    rw [Nat.mul_comm]
    rfl
  have hserve : k.serve self r (movingRead e stage fmt) = (k.setMe e { k.me e with
      moving := Tab.set (k.me e).moving 0 (poisonBytes ((Fmt.ofCode fmt).getD .p8) (k.st.readLine true stage).2 (k.st.readLine true stage).1) },
      []) := rfl
  rw [hserve, poisonBytes_clean _ hbad, hrow]

/-- A pipe's whole cycle before phase A: its moving row, which nothing stands above, is read and its chunk formed. -/
theorem Core.chunkNow_spec (k : Core) (self : Nat) {r e : Nat} (others : List Acc) {op : ColOp} {f : Forming} (hrun : (k.me e).run = some op)
    (hk : op.kind = .mma) (hf : op.forming r = some f) (hs : op.swapAt ≠ r) (hl : op.loads = []) (hload : (k.me e).loading = none)
    (hpend : (k.me e).pend = none) (hcol : (k.me e).colAt ≤ r) (hr : f.reads = true) (hfirst : f.first = true) (hlo : f.lo < f.hi)
    (hlost : ∀ fmt, (movingRead e f.stage fmt).lost ([movingRead e f.stage fmt] ++ others) = false)
    (hgood : ∀ i, i < 4 → k.st.poisoned true (128 * f.stage + 32 * i) = false) :
    ∃ ch, ((k.chunkNow self r e others).me e).chunks = (k.me e).chunks ++ [ch] ∧
      ChunkOf k r e op f (k.st.peek true (128 * f.stage) 128) ch := by
  have hact := Core.colAct_reads { k with st := { k.st with acc := [] } } hrun hk hf hs hl hload hpend hcol hr hfirst
  obtain ⟨l, ⟨n1, n2, n3, ev, hn⟩, hal⟩ := k.alone_one self r others (fun k => k.colAct r e) hact rfl (hlost _) rfl
  have hserve := l.serve_moving self r e f.stage (bits op.ent.toNat 123 120) (by rw [hn]; exact hgood)
  have hme : l.me e = k.me e := by rw [hn]; rfl
  have hpeek : l.st.peek true (128 * f.stage) 128 = k.st.peek true (128 * f.stage) 128 := by rw [hn]; rfl
  rw [hserve, hme, hpeek] at hal
  obtain ⟨K, hK, hKme, hKcols, hKseg⟩ : ∃ K, (k.alone self r others fun k => k.colAct r e).1 = K ∧
      K.me e = { k.me e with moving := Tab.set (k.me e).moving 0 (k.st.peek true (128 * f.stage) 128) } ∧
      K.cols = k.cols ∧ K.segment = k.segment :=
    ⟨_, congrArg Prod.fst hal, l.me_setMe_self e _, by rw [hn]; rfl, by rw [hn]; rfl⟩
  have hrunK : (K.me e).run = some op := by rw [hKme]; exact hrun
  obtain ⟨ch, hch, hof⟩ := K.colFinish_spec hrunK hk hf (by rw [hKme]; exact hcol) hlo
  have hnow : k.chunkNow self r e others = K.colFinish r e := (if_neg (Nat.not_lt.mpr hcol)).trans (congrArg (·.colFinish r e) hK)
  refine ⟨ch, ?_, hof.due, hof.issue, hof.vat, hof.gen, hof.row, ?_, fun htwo => ?_⟩
  · rw [hnow, hch, hKme]
  · rw [hof.masked, hKme, hKseg]
    rfl
  · have hpart : (K.me e).part 0 = k.st.peek true (128 * f.stage) 128 := by
      rw [hKme, Engine.part, Tab.get_set_self]
    rw [hof.sums htwo, hpart, hKme, Core.ncols, hKcols]
    rfl

/-- Settles O14: the command is the pipe's whole cycle before phase A, and the cycle's end after it. -/
theorem chunkForms : Obligations.ChunkForms := by
  unfold Obligations.ChunkForms
  intro s c e formed
  have hformed {k k' : Core} {op : ColOp} {f : Forming} {moving : Bytes} (hrun : exec (.chunkIssue c e) s = .next (s.withCore c k'))
      (h : ∃ ch, (k'.me e).chunks = (k.me e).chunks ++ [ch] ∧ ChunkOf k s.plane.now e op f moving ch) : formed k op f moving := by
    obtain ⟨ch, hch, hof⟩ := h
    refine ⟨_, ch, hrun, s.onlyCore_withCore c k', ?_, hof.due, hof.issue, hof.vat, hof.gen, hof.row, hof.masked, hof.sums⟩
    rw [State.withCore_core]
    exact hch
  refine ⟨fun hthere => ?before, fun hc hh hlive => ?after⟩
  case before =>
    intro k g op f hrun hk hf hs hl hload hpend hcol hr hfirst hlo hport hgood
    have hhalf : ¬ s.plane.half = true := by
      have hmay := hthere.1
      rw [State.mayAct] at hmay
      intro hh
      rw [hh] at hmay
      simp at hmay
    exact hformed (congrArg Host.Outcome.next ((if_neg hhalf).trans (s.actAt_there hthere _)))
      (k.chunkNow_spec c (s.rivals c) hrun hk hf hs hl hload hpend hcol hr hfirst hlo
        (fun fmt => Acc.not_lost_self s c (a := movingRead e f.stage fmt) hport) hgood)
  case after =>
    intro k g op f hrun hk hf hcol hlo
    exact hformed (congrArg Host.Outcome.next ((if_pos hh).trans ((if_pos hc).trans
      (s.coreWrite_on (s.powered_of_clockOn hc) hlive _)))) (k.colFinish_spec hrun hk hf hcol hlo)

end Sys2Proof.Machine
end
section
/-! Landings of chunks and fold-in rows in the quire file (R89, R92, R95, R99, R113, R138). -/

namespace Sys2Proof.Machine

/-! ### Slots of a column -/

/-- Two engines hold the same slots in a column of the quire file. -/
def Engine.ColEq (g h : Engine) (k : Nat) : Prop := ∀ slot, slot < 1024 → h.slots.get 0 (1024 * k + slot) = g.slots.get 0 (1024 * k + slot)

theorem Engine.ColEq.slotsAt {g h : Engine} {k : Nat} (he : g.ColEq h k) {s n : Nat} (hs : s + n ≤ 1024) :
    h.slotsAt k s n = g.slotsAt k s n := by
  induction n generalizing s with
  | zero => rfl
  | succ n ih => rw [Engine.slotsAt, Engine.slotsAt, he s (by omega), ih (by omega)]

theorem Engine.putSlots_eq (g : Engine) (k s n x : Nat) : g.putSlots k s n x = { g with slots := (g.putSlots k s n x).slots } := by
  induction n generalizing g s x with
  | zero => rfl
  | succ n ih =>
    rw [Engine.putSlots, ih]

theorem Engine.putSlots_get_ne (g : Engine) (k s n x : Nat) {j : Nat} (h : j < 1024 * k + s ∨ 1024 * k + s + n ≤ j) :
    (g.putSlots k s n x).slots.get 0 j = g.slots.get 0 j := by
  induction n generalizing g s x with
  | zero => rfl
  | succ n ih =>
    rw [Engine.putSlots, ih _ _ _ (by omega)]
    exact Tab.get_set_ne _ _ _ (by omega)

theorem Engine.putSlots_slotsAt (g : Engine) (k s n x : Nat) : (g.putSlots k s n x).slotsAt k s n = x % 2 ^ (32 * n) := by
  induction n generalizing g s x with
  | zero => rw [Engine.slotsAt, Nat.mul_zero, Nat.pow_zero, Nat.mod_one]
  | succ n ih =>
    rw [Engine.putSlots, Engine.slotsAt, ih, Engine.putSlots_get_ne _ _ _ _ _ (by omega), Tab.get_set_self, BitVec.toNat_ofNat,
      show 32 * (n + 1) = 32 + 32 * n by omega, Nat.pow_add, Nat.mod_mul]

theorem Engine.putSlots_colEq (g : Engine) {k k' s n : Nat} (x : Nat) (hk : k' ≠ k) (hs : s + n ≤ 1024) :
    g.ColEq (g.putSlots k s n x) k' := by
  intro slot hslot
  refine g.putSlots_get_ne k s n x ?_
  rcases Nat.lt_or_gt_of_ne hk with h | h
  · exact .inl (by omega)
  · exact .inr (by omega)

theorem Engine.ColEq.trans {f g h : Engine} {k : Nat} (h1 : f.ColEq g k) (h2 : g.ColEq h k) : f.ColEq h k :=
  fun slot hs => (h2 slot hs).trans (h1 slot hs)

theorem any_congr_mem {α : Type} {p q : α → Bool} {l : List α} (h : ∀ a ∈ l, p a = q a) : l.any p = l.any q := by
  rw [Bool.eq_iff_iff, List.any_eq_true, List.any_eq_true]
  exact exists_congr fun a => and_congr_right fun ha => by rw [h a ha]

/-! ### A row of an Exact vat (R67, R68, R92) -/

/-- What the arrivals of one column make of the row's quire: the exact sum, rounded once, and whether it saturated. -/
def Engine.landed (g : Engine) (v : Vat) (row : Nat) (p : Nat × List Quire) : Quire × Bool :=
  match p.2 with
  | [a] => qadd (qwOf v.fmt) (g.quire v p.1 row) a
  | [a, b] => qadd3 (qwOf v.fmt) (g.quire v p.1 row) a b
  | _ => (g.quire v p.1 row, false)

theorem landExact_cons (v : Vat) (row : Nat) (p : Nat × List Quire) (t : List (Nat × List Quire)) (g : Engine) (sat nar : Bool) :
    landExact v row (p :: t) (g, sat, nar) =
      landExact v row t (g.putQuire v p.1 row (g.landed v row p).1, sat || (g.landed v row p).2, nar || (g.landed v row p).1.isNar) := by
  obtain ⟨k, qs⟩ := p
  rfl

/-- First slot of a row of an Exact vat. -/
def Vat.slot0 (v : Vat) (row : Nat) : Nat := v.rowBase + 4 * qwOf v.fmt * row

section Exact
variable {v : Vat} {row : Nat} (hb : v.slot0 row + 4 * qwOf v.fmt ≤ 1024)
include hb

theorem Engine.ColEq.quire {g h : Engine} {k : Nat} (he : g.ColEq h k) : h.quire v k row = g.quire v k row := by
  exact congrArg (qdec _) (he.slotsAt hb)

theorem Engine.ColEq.landed {g h : Engine} {p : Nat × List Quire} (he : g.ColEq h p.1) : h.landed v row p = g.landed v row p := by
  rw [Engine.landed, he.quire hb, Engine.landed]

/-- Arrivals in distinct columns: each column's slots hold its sum, every other slot stays, and the two flags take what the sums give. -/
theorem landExact_spec {cols : List (Nat × List Quire)} (hnd : (cols.map (·.1)).Nodup) (g : Engine) (sat nar : Bool) :
    let r := landExact v row cols (g, sat, nar)
    r.1 = { g with slots := r.1.slots } ∧
      (∀ p ∈ cols, r.1.slotsAt p.1 (v.slot0 row) (4 * qwOf v.fmt) = qenc (qwOf v.fmt) (g.landed v row p).1 % 2 ^ (128 * qwOf v.fmt)) ∧
      (∀ k, k ∉ cols.map (·.1) → g.ColEq r.1 k) ∧
      (∀ k slot, slot < 1024 → slot < v.slot0 row ∨ v.slot0 row + 4 * qwOf v.fmt ≤ slot →
        r.1.slots.get 0 (1024 * k + slot) = g.slots.get 0 (1024 * k + slot)) ∧
      r.2.1 = (sat || cols.any fun p => (g.landed v row p).2) ∧
      r.2.2 = (nar || cols.any fun p => (g.landed v row p).1.isNar) := by
  induction cols generalizing g sat nar with
  | nil => exact ⟨rfl, fun _ h => absurd h List.not_mem_nil, fun _ _ _ _ => rfl, fun _ _ _ _ => rfl, (Bool.or_false _).symm, (Bool.or_false _).symm⟩
  | cons p t ih =>
    obtain ⟨hp, ht⟩ : p.1 ∉ t.map (·.1) ∧ (t.map (·.1)).Nodup := List.nodup_cons.mp hnd
    obtain ⟨h1, h2, h3, h4, h5, h6⟩ := ih ht (g.putQuire v p.1 row (g.landed v row p).1) (sat || (g.landed v row p).2)
      (nar || (g.landed v row p).1.isNar)
    have hother (k : Nat) (hk : k ≠ p.1) : g.ColEq (g.putQuire v p.1 row (g.landed v row p).1) k := g.putSlots_colEq _ hk hb
    have hlanded : ∀ q ∈ t, (g.putQuire v p.1 row (g.landed v row p).1).landed v row q = g.landed v row q := fun q hq =>
      (hother q.1 fun h => hp (h ▸ (List.mem_map_of_mem hq : q.1 ∈ t.map (·.1)))).landed hb
    intro r
    have hr : r = landExact v row t (g.putQuire v p.1 row (g.landed v row p).1, sat || (g.landed v row p).2,
      nar || (g.landed v row p).1.isNar) := landExact_cons v row p t g sat nar
    clear_value r
    subst hr
    refine ⟨?_, fun q hq => ?_, fun k hk => ?_, fun k slot hs hout => ?_, ?_, ?_⟩
    · rw [h1, Engine.putQuire, Engine.putSlots_eq]
    · rcases List.mem_cons.mp hq with rfl | hq
      · rw [(h3 q.1 hp).slotsAt hb]
        refine (g.putSlots_slotsAt q.1 (v.slot0 row) (4 * qwOf v.fmt) _).trans ?_
        rw [← Nat.mul_assoc]
      · rw [h2 q hq, hlanded q hq]
    · have hkt := not_or.mp (List.mem_cons.not.mp hk)
      exact (hother k hkt.1).trans (h3 k hkt.2)
    · rw [h4 k slot hs hout]
      refine g.putSlots_get_ne _ _ _ _ ?_
      have hb' : v.slot0 row + 4 * qwOf v.fmt ≤ 1024 := hb
      show 1024 * k + slot < 1024 * p.1 + v.slot0 row ∨ 1024 * p.1 + v.slot0 row + 4 * qwOf v.fmt ≤ 1024 * k + slot
      rcases Nat.lt_trichotomy k p.1 with h | h | h
      · exact .inl (by omega)
      · rw [h]; omega
      · exact .inr (by omega)
    · rw [h5, any_congr_mem fun q hq => congrArg Prod.snd (hlanded q hq), List.any_cons, Bool.or_assoc]
    · rw [h6, any_congr_mem fun q hq => congrArg (fun x : Quire × Bool => x.1.isNar) (hlanded q hq), List.any_cons, Bool.or_assoc]

end Exact

/-! ### A row of a Compact vat (R94, R95) -/

theorem compactTake_le (level : Nat → Nat) (depth i : Nat) : ∀ (fuel l p : Nat) (sat : Bool), l ≤ depth →
    (compactTake level depth i fuel l p sat).1 ≤ depth := by
  intro fuel
  induction fuel with
  | zero => exact fun l p sat hl => hl
  | succ fuel ih =>
    intro l p sat hl
    rw [compactTake]
    split
    · next h => exact ih _ _ _ h.1
    · split
      · exact hl
      · exact hl

/-- Only the levels up to the depth matter. -/
theorem compactTake_congr {level level' : Nat → Nat} {depth : Nat} (i : Nat) (h : ∀ j, j ≤ depth → level j = level' j) :
    ∀ (fuel l p : Nat) (sat : Bool), l ≤ depth → compactTake level depth i fuel l p sat = compactTake level' depth i fuel l p sat := by
  intro fuel
  induction fuel with
  | zero => exact fun l p sat hl => rfl
  | succ fuel ih =>
    intro l p sat hl
    rw [compactTake, compactTake, h l hl]
    split
    · next hlt => exact ih _ _ _ hlt.1
    · rfl

/-- Where an arrival of a column goes in the row's tree, and what it is there. -/
def Engine.climbed (g : Engine) (v : Vat) (row : Nat) (p : Nat × Val) : Nat × Nat × Bool × Bool :=
  compactTake (g.level v p.1 row) v.depth (v.rowChunks.get 0 row) 26 0 (r32 p.2) (aboveMax 32 p.2)

/-- The slot of a level of a row of a Compact vat. -/
def Vat.levelSlot (v : Vat) (row l : Nat) : Nat := v.rowBase + row * (v.depth + 1) + l

theorem landCompact_cons (v : Vat) (row : Nat) (p : Nat × Val) (t : List (Nat × Val)) (g : Engine) (f : VatFlags) :
    ∃ f', landCompact v row (p :: t) (g, f) =
      landCompact v row t (g.putSlots p.1 (v.levelSlot row (g.climbed v row p).1) 1 (g.climbed v row p).2.1, f') :=
  ⟨_, rfl⟩

section Compact
variable {v : Vat} {row : Nat} (hb : v.rowBase + (row + 1) * (v.depth + 1) ≤ 1024)
include hb

theorem Vat.levelSlot_lt {l : Nat} (hl : l ≤ v.depth) : v.levelSlot row l + 1 ≤ 1024 := by
  rw [Nat.add_mul, Nat.one_mul] at hb
  rw [Vat.levelSlot]
  omega

theorem Engine.ColEq.climbed {g h : Engine} {p : Nat × Val} (he : g.ColEq h p.1) : h.climbed v row p = g.climbed v row p :=
  compactTake_congr _ (fun _ hj => he.slotsAt (Vat.levelSlot_lt hb hj)) _ _ _ _ (Nat.zero_le _)

/-- Arrivals in distinct columns: each stands at its level, and nothing but slots changes. -/
theorem landCompact_spec {cols : List (Nat × Val)} (hnd : (cols.map (·.1)).Nodup) (g : Engine) (f : VatFlags) :
    let r := landCompact v row cols (g, f)
    r.1 = { g with slots := r.1.slots } ∧
      (∀ p ∈ cols, r.1.slotsAt p.1 (v.levelSlot row (g.climbed v row p).1) 1 = (g.climbed v row p).2.1 % 2 ^ 32) ∧
      (∀ k, k ∉ cols.map (·.1) → g.ColEq r.1 k) := by
  induction cols generalizing g f with
  | nil => exact ⟨rfl, fun _ h => absurd h List.not_mem_nil, fun _ _ _ _ => rfl⟩
  | cons p t ih =>
    obtain ⟨hp, ht⟩ : p.1 ∉ t.map (·.1) ∧ (t.map (·.1)).Nodup := List.nodup_cons.mp hnd
    have hlevel : v.levelSlot row (g.climbed v row p).1 + 1 ≤ 1024 :=
      Vat.levelSlot_lt hb (compactTake_le _ _ _ 26 0 _ _ (Nat.zero_le _))
    obtain ⟨f', hf'⟩ := landCompact_cons v row p t g f
    obtain ⟨h1, h2, h3⟩ := ih ht (g.putSlots p.1 (v.levelSlot row (g.climbed v row p).1) 1 (g.climbed v row p).2.1) f'
    have hother (k : Nat) (hk : k ≠ p.1) :
        g.ColEq (g.putSlots p.1 (v.levelSlot row (g.climbed v row p).1) 1 (g.climbed v row p).2.1) k := g.putSlots_colEq _ hk hlevel
    rw [← hf'] at h1 h2 h3
    refine ⟨?_, fun q hq => ?_, fun k hk => ?_⟩
    · rw [h1, Engine.putSlots_eq]
    · rcases List.mem_cons.mp hq with rfl | hq
      · exact ((h3 q.1 hp).slotsAt hlevel).trans (g.putSlots_slotsAt q.1 _ 1 _)
      · have hclimbed := (hother q.1 fun h => hp (h ▸ (List.mem_map_of_mem hq : q.1 ∈ t.map (·.1)))).climbed hb
        have hq' := h2 q hq
        rw [hclimbed] at hq'
        exact hq'
    · have hkt := not_or.mp (List.mem_cons.not.mp hk)
      exact (hother k hkt.1).trans (h3 k hkt.2)

end Compact

/-! ### Columns of a chunk -/

theorem zipIdx_keys_nodup {α β : Type} (l : List α) (f : α × Nat → β) : ((l.zipIdx.map fun p => (p.2, f p)).map (·.1)).Nodup := by
  have h : (l.zipIdx.map fun p => (p.2, f p)).map (·.1) = List.range' 0 l.length := by
    rw [List.map_map]
    exact List.zipIdx_map_snd 0 l
  rw [h]
  exact List.nodup_range'

theorem mem_zipIdx_columns {α β : Type} {l : List α} {col : Nat} {v : α} (h : l[col]? = some v) (f : α × Nat → β) :
    (col, f (v, col)) ∈ l.zipIdx.map fun p => (p.2, f p) :=
  List.mem_map.mpr ⟨(v, col), List.mem_zipIdx_iff_getElem?.mpr h, rfl⟩

/-! ### One chunk, branch by branch -/

theorem Core.setMe_setMe (k : Core) (e : Nat) (g h : Engine) : (k.setMe e g).setMe e h = k.setMe e h := by
  simp only [Core.setMe, Tab.set_set]

/-- The vat once a contribution's first chunk or row has counted its terms (R89). -/
def Engine.countedVat (g : Engine) (x : Vat) (opId n : Nat) : Vat := if !g.termed.contains opId then x.addTerms n else x

/-- The engine that remembers which contributions have counted their terms. -/
def Engine.counting (g : Engine) (opId : Nat) : Engine := if !g.termed.contains opId then { g with termed := opId :: g.termed } else g

theorem Engine.counting_eq (g : Engine) (opId : Nat) : ∃ t, g.counting opId = { g with termed := t } := by
  rw [Engine.counting]
  split
  · exact ⟨_, rfl⟩
  · exact ⟨g.termed, rfl⟩

/-- What arrives in each column with a chunk, and with the quires of the fold-in row that meets it. -/
def Chunk.arrivals (ch : Chunk) (w : Nat) (q : Option (List Quire)) : List (Nat × List Quire) :=
  ch.sums.zipIdx.map fun p => (p.2, qof w p.1 :: (match q with | some qs => [nth qs p.2 Quire.zero] | none => []))

section Chunk
variable {c : Core} {e : Nat} {ch : Chunk} {q : Option (List Quire)}

theorem Core.landChunk_masked (h : ch.masked = true) : c.landChunk e ch q = c := if_pos h

theorem Core.landChunk_stale (h : ch.masked = false) (ha : ((c.me e).vat ch.vat).accepts ch.gen ch.issue ch.segment c.segment = false) :
    c.landChunk e ch q = c.staleOnce e ch.vat ch.opId := by
  rw [Core.landChunk, if_neg (by rw [h]; decide)]
  exact if_pos (by rw [ha]; rfl)

variable (h : ch.masked = false) (ha : ((c.me e).vat ch.vat).accepts ch.gen ch.issue ch.segment c.segment = true)
include h ha

theorem Core.landChunk_noRow (hr : ((c.me e).vat ch.vat).rowsM1 < ch.row) : c.landChunk e ch q = c := by
  rw [Core.landChunk, if_neg (by rw [h]; decide)]
  dsimp only
  rw [if_neg (by rw [ha]; decide), if_pos hr]

variable (hr : ch.row ≤ ((c.me e).vat ch.vat).rowsM1)
include hr

theorem Core.landChunk_wide (hm : ((c.me e).vat ch.vat).mode = 0) (hp : 8 * qwOf ((c.me e).vat ch.vat).fmt < ch.posit) :
    c.landChunk e ch q = c.setMe e ((c.me e).setVat ch.vat
      { (c.me e).vat ch.vat with flags := { ((c.me e).vat ch.vat).flags with vfmt := true } }) := by
  rw [Core.landChunk, if_neg (by rw [h]; decide)]
  dsimp only
  rw [if_neg (by rw [ha]; decide), if_neg (Nat.not_lt.mpr hr), if_pos ⟨hm, hp⟩]

theorem Core.landChunk_exact (hm : ((c.me e).vat ch.vat).mode = 0) (hp : ch.posit ≤ 8 * qwOf ((c.me e).vat ch.vat).fmt) :
    let x := (c.me e).vat ch.vat
    let x1 := (c.me e).countedVat x ch.opId ch.extent
    let l := landExact x ch.row (ch.arrivals (qwOf x.fmt) q) ((c.me e).counting ch.opId, x1.flags.sat, x1.flags.nar)
    c.landChunk e ch q = c.setMe e (l.1.setVat ch.vat { x1 with flags := { x1.flags with sat := l.2.1, nar := l.2.2 } }) := by
  intro x x1 l
  rw [Core.landChunk, if_neg (by rw [h]; decide)]
  dsimp only
  rw [if_neg (by rw [ha]; decide), if_neg (Nat.not_lt.mpr hr), if_neg fun hw => absurd hw.2 (Nat.not_lt.mpr hp), if_pos hm]
  rfl

theorem Core.landChunk_compact (hm : ((c.me e).vat ch.vat).mode = 1) :
    let x := (c.me e).vat ch.vat
    let x1 := (c.me e).countedVat x ch.opId ch.extent
    let l := landCompact x ch.row (ch.sums.zipIdx.map fun p => (p.2, p.1)) ((c.me e).counting ch.opId, x1.flags)
    c.landChunk e ch q = c.setMe e (l.1.setVat ch.vat { x1 with
      flags := l.2, rowChunks := x.rowChunks.set ch.row (x.rowChunks.get 0 ch.row + 1)
      chunks := min (max x1.chunks (x.rowChunks.get 0 ch.row + 1)) (2 ^ 32 - 1) }) := by
  intro x x1 l
  have hm0 : ¬ ((c.me e).vat ch.vat).mode = 0 := by rw [hm]; decide
  rw [Core.landChunk, if_neg (by rw [h]; decide)]
  dsimp only
  rw [if_neg (by rw [ha]; decide), if_neg (Nat.not_lt.mpr hr), if_neg fun hw => hm0 hw.1, if_neg hm0]
  rfl

end Chunk

/-! ### What a landing leaves of the engine -/

theorem Engine.slotsAt_setVat (g : Engine) (v : Nat) (x : Vat) (k s n : Nat) : (g.setVat v x).slotsAt k s n = g.slotsAt k s n := by
  induction n generalizing s with
  | zero => rfl
  | succ n ih =>
    rw [Engine.slotsAt, ih]
    rfl

/-- The vat after the sums of an Exact landing have raised SAT and NAR. -/
def Vat.withSums (x : Vat) (sat nar : Bool) : Vat := { x with flags := { x.flags with sat := x.flags.sat || sat, nar := x.flags.nar || nar } }

/-- An Exact landing of `cols` in a row of vat `v`, whose counts have become those of `x1`, makes `g` into `g'`. -/
structure ExactLanding (g : Engine) (v row : Nat) (cols : List (Nat × List Quire)) (x1 : Vat) (g' : Engine) : Prop where
  sums : ∀ p ∈ cols, g'.slotsAt p.1 ((g.vat v).slot0 row) (4 * qwOf (g.vat v).fmt) =
    qenc (qwOf (g.vat v).fmt) (g.landed (g.vat v) row p).1 % 2 ^ (128 * qwOf (g.vat v).fmt)
  vat : g'.vat v = x1.withSums (cols.any fun p => (g.landed (g.vat v) row p).2) (cols.any fun p => (g.landed (g.vat v) row p).1.isNar)
  others : ∀ u, u ≠ v → g'.vat u = g.vat u
  outside : ∀ k slot, slot < 1024 → slot < (g.vat v).slot0 row ∨ (g.vat v).slot0 row + 4 * qwOf (g.vat v).fmt ≤ slot →
    g'.slots.get 0 (1024 * k + slot) = g.slots.get 0 (1024 * k + slot)

theorem exactLanding (g : Engine) (opId v row : Nat) {cols : List (Nat × List Quire)} (x1 : Vat)
    (hb : (g.vat v).slot0 row + 4 * qwOf (g.vat v).fmt ≤ 1024) (hnd : (cols.map (·.1)).Nodup) :
    let l := landExact (g.vat v) row cols (g.counting opId, x1.flags.sat, x1.flags.nar)
    let g' := l.1.setVat v { x1 with flags := { x1.flags with sat := l.2.1, nar := l.2.2 } }
    g'.chunks = g.chunks ∧ g'.foldRows = g.foldRows ∧ ExactLanding g v row cols x1 g' := by
  obtain ⟨tm, htm⟩ := g.counting_eq opId
  obtain ⟨hkeep, hsums, -, hout, hsat, hnar⟩ := landExact_spec hb hnd (g.counting opId) x1.flags.sat x1.flags.nar
  intro l
  have hl : l = landExact (g.vat v) row cols (g.counting opId, x1.flags.sat, x1.flags.nar) := rfl
  clear_value l
  have hlanded (p : Nat × List Quire) : (g.counting opId).landed (g.vat v) row p = g.landed (g.vat v) row p :=
    Engine.ColEq.landed hb fun _ _ => by rw [htm]
  simp only [hlanded] at hsums hsat hnar
  rw [← hl] at hkeep hsums hout hsat hnar
  rw [htm] at hkeep hout
  intro g'
  refine ⟨?_, ?_, fun p hp => (Engine.slotsAt_setVat _ _ _ _ _ _).trans (hsums p hp), ?_, fun u hu => ?_, hout⟩
  · exact (congrArg Engine.chunks hkeep :)
  · exact (congrArg Engine.foldRows hkeep :)
  · rw [Engine.vat_setVat_self, hsat, hnar]
    rfl
  · rw [Engine.vat_setVat_ne _ _ hu, hkeep]
    rfl

/-- What is pending is no part of a landing. -/
theorem ExactLanding.of_pending {g : Engine} {l : List Chunk} {m : List FoldRow} {v row : Nat} {cols : List (Nat × List Quire)} {x1 : Vat}
    {g' : Engine} (hb : (g.vat v).slot0 row + 4 * qwOf (g.vat v).fmt ≤ 1024)
    (h : ExactLanding { g with chunks := l, foldRows := m } v row cols x1 g') : ExactLanding g v row cols x1 g' := by
  obtain ⟨hsums, hvat, hothers, hout⟩ := h
  have hlanded (p : Nat × List Quire) : Engine.landed { g with chunks := l, foldRows := m } (g.vat v) row p = g.landed (g.vat v) row p :=
    Engine.ColEq.landed hb fun _ _ => rfl
  refine ⟨fun p hp => ?_, ?_, hothers, hout⟩
  · rw [← hlanded]
    exact hsums p hp
  · simp only [← hlanded]
    exact hvat

/-- A Compact landing of a chunk makes `g` into `g'`. -/
structure CompactLanding (g : Engine) (ch : Chunk) (g' : Engine) : Prop where
  levels : ∀ p ∈ ch.sums.zipIdx.map fun p => (p.2, p.1), g'.level (g.vat ch.vat) p.1 ch.row (g.climbed (g.vat ch.vat) ch.row p).1 =
    (g.climbed (g.vat ch.vat) ch.row p).2.1 % 2 ^ 32
  rowChunks : (g'.vat ch.vat).rowChunks = (g.vat ch.vat).rowChunks.set ch.row ((g.vat ch.vat).rowChunks.get 0 ch.row + 1)
  terms : (g'.vat ch.vat).terms = (g.countedVat (g.vat ch.vat) ch.opId ch.extent).terms
  count : (g'.vat ch.vat).chunks =
    min (max (g.countedVat (g.vat ch.vat) ch.opId ch.extent).chunks ((g.vat ch.vat).rowChunks.get 0 ch.row + 1)) (2 ^ 32 - 1)

theorem compactLanding (g : Engine) (ch : Chunk)
    (hb : (g.vat ch.vat).rowBase + (ch.row + 1) * ((g.vat ch.vat).depth + 1) ≤ 1024) :
    let x := g.vat ch.vat
    let x1 := g.countedVat x ch.opId ch.extent
    let l := landCompact x ch.row (ch.sums.zipIdx.map fun p => (p.2, p.1)) (g.counting ch.opId, x1.flags)
    let g' := l.1.setVat ch.vat { x1 with
      flags := l.2, rowChunks := x.rowChunks.set ch.row (x.rowChunks.get 0 ch.row + 1)
      chunks := min (max x1.chunks (x.rowChunks.get 0 ch.row + 1)) (2 ^ 32 - 1) }
    g'.chunks = g.chunks ∧ CompactLanding g ch g' := by
  obtain ⟨tm, htm⟩ := g.counting_eq ch.opId
  intro x x1 l
  obtain ⟨hkeep, hlevels, -⟩ := landCompact_spec (v := x) hb (zipIdx_keys_nodup ch.sums (·.1)) (g.counting ch.opId) x1.flags
  have hl : l = landCompact x ch.row (ch.sums.zipIdx.map fun p => (p.2, p.1)) (g.counting ch.opId, x1.flags) := rfl
  clear_value l
  have hclimbed (p : Nat × Val) : (g.counting ch.opId).climbed x ch.row p = g.climbed x ch.row p :=
    Engine.ColEq.climbed hb fun _ _ => by rw [htm]
  simp only [hclimbed] at hlevels
  rw [← hl] at hkeep hlevels
  rw [htm] at hkeep
  intro g'
  refine ⟨(congrArg Engine.chunks hkeep :), fun p hp => (Engine.slotsAt_setVat _ _ _ _ _ _).trans (hlevels p hp), ?_, ?_, ?_⟩
  · rw [Engine.vat_setVat_self]
  · rw [Engine.vat_setVat_self]
  · rw [Engine.vat_setVat_self]

theorem CompactLanding.of_pending {g : Engine} {l : List Chunk} {m : List FoldRow} {ch : Chunk} {g' : Engine}
    (hb : (g.vat ch.vat).rowBase + (ch.row + 1) * ((g.vat ch.vat).depth + 1) ≤ 1024)
    (h : CompactLanding { g with chunks := l, foldRows := m } ch g') : CompactLanding g ch g' := by
  obtain ⟨hlevels, hrow, hterms, hcount⟩ := h
  refine ⟨fun p hp => ?_, hrow, hterms, hcount⟩
  have hclimbed : Engine.climbed { g with chunks := l, foldRows := m } (g.vat ch.vat) ch.row p = g.climbed (g.vat ch.vat) ch.row p :=
    Engine.ColEq.climbed hb fun _ _ => rfl
  rw [← hclimbed]
  exact hlevels p hp

theorem Engine.countedVat_terms (g : Engine) (x : Vat) (opId n : Nat) :
    (g.countedVat x opId n).terms = if g.termed.contains opId then x.terms else satAdd 32 x.terms n := by
  rw [Engine.countedVat]
  cases g.termed.contains opId <;> rfl

theorem Engine.countedVat_chunks (g : Engine) (x : Vat) (opId n : Nat) : (g.countedVat x opId n).chunks = x.chunks := by
  rw [Engine.countedVat]
  split <;> rfl

/-- The counts and flags of an Exact vat that a chunk has landed in. -/
theorem Engine.countedVat_withSums (g : Engine) (x : Vat) (opId n : Nat) (sat nar : Bool) :
    let terms := if g.termed.contains opId then x.terms else satAdd 32 x.terms n
    (g.countedVat x opId n).withSums sat nar = { x with terms := terms, flags := { x.flags with
      long := x.flags.long || (!g.termed.contains opId && decide (2 ^ 31 - 1 < terms)), sat := x.flags.sat || sat, nar := x.flags.nar || nar } } := by
  rw [Engine.countedVat]
  cases g.termed.contains opId
  · rfl
  · simp only [Bool.not_true, Bool.false_eq_true, if_false, if_true, Bool.false_and, Bool.or_false]
    rfl

theorem Chunk.arrivals_nodup (ch : Chunk) (w : Nat) (q : Option (List Quire)) : ((ch.arrivals w q).map (·.1)).Nodup :=
  zipIdx_keys_nodup ch.sums fun p => qof w p.1 :: (match q with | some qs => [nth qs p.2 Quire.zero] | none => [])

section ChunkLanding
variable {k : Core} {e : Nat} {l : List Chunk} {m : List FoldRow} {ch : Chunk} (q : Option (List Quire)) (h : ch.masked = false)
  (ha : ((k.me e).vat ch.vat).accepts ch.gen ch.issue ch.segment k.segment = true) (hr : ch.row ≤ ((k.me e).vat ch.vat).rowsM1)
include h ha hr

theorem Core.landChunk_exactLanding (hm : ((k.me e).vat ch.vat).mode = 0) (hp : ch.posit ≤ 8 * qwOf ((k.me e).vat ch.vat).fmt)
    (hb : ((k.me e).vat ch.vat).slot0 ch.row + 4 * qwOf ((k.me e).vat ch.vat).fmt ≤ 1024) :
    ∃ g', (k.setMe e { k.me e with chunks := l, foldRows := m }).landChunk e ch q = k.setMe e g' ∧ g'.chunks = l ∧ g'.foldRows = m ∧
      ExactLanding (k.me e) ch.vat ch.row (ch.arrivals (qwOf ((k.me e).vat ch.vat).fmt) q)
        ((k.me e).countedVat ((k.me e).vat ch.vat) ch.opId ch.extent) g' := by
  have hme := k.me_setMe_self e { k.me e with chunks := l, foldRows := m }
  have hland := Core.landChunk_exact (c := k.setMe e { k.me e with chunks := l, foldRows := m }) (e := e) (q := q) h
    (by rw [hme]; exact ha) (by rw [hme]; exact hr) (by rw [hme]; exact hm) (by rw [hme]; exact hp)
  rw [hme] at hland
  obtain ⟨hc, hf, hex⟩ := exactLanding { k.me e with chunks := l, foldRows := m } ch.opId ch.vat ch.row
    ((k.me e).countedVat ((k.me e).vat ch.vat) ch.opId ch.extent) hb (ch.arrivals_nodup (qwOf ((k.me e).vat ch.vat).fmt) q)
  exact ⟨_, hland.trans (Core.setMe_setMe _ _ _ _), hc, hf, hex.of_pending hb⟩

theorem Core.landChunk_compactLanding (hm : ((k.me e).vat ch.vat).mode = 1)
    (hb : ((k.me e).vat ch.vat).rowBase + (ch.row + 1) * (((k.me e).vat ch.vat).depth + 1) ≤ 1024) :
    ∃ g', (k.setMe e { k.me e with chunks := l, foldRows := m }).landChunk e ch q = k.setMe e g' ∧ g'.chunks = l ∧
      CompactLanding (k.me e) ch g' := by
  have hme := k.me_setMe_self e { k.me e with chunks := l, foldRows := m }
  have hland := Core.landChunk_compact (c := k.setMe e { k.me e with chunks := l, foldRows := m }) (e := e) (q := q) h
    (by rw [hme]; exact ha) (by rw [hme]; exact hr) (by rw [hme]; exact hm)
  rw [hme] at hland
  obtain ⟨hc, hco⟩ := compactLanding { k.me e with chunks := l, foldRows := m } ch hb
  exact ⟨_, hland.trans (Core.setMe_setMe _ _ _ _), hc, hco.of_pending hb⟩

end ChunkLanding

/-! ### One fold-in row, branch by branch -/

/-- The vat once a fold-in's first row has counted the trailer's terms and flags (R99). -/
def Engine.foldedVat (g : Engine) (x : Vat) (opId trailer : Nat) : Vat :=
  if !g.termed.contains opId then
    { x.addTerms (bits trailer 63 32) with
      flags := (x.addTerms (bits trailer 63 32)).flags.or (VatFlags.ofByte (bits trailer 7 0)) }
  else x

/-- Whether a fold-in row suits an Exact vat (R99). -/
def FoldRow.Fits (fr : FoldRow) (x : Vat) : Prop :=
  x.mode = 0 ∧ bits fr.trailer 26 25 = 0 ∧ bits fr.trailer 24 21 = x.fmt ∧ fr.w = qwOf x.fmt

theorem FoldRow.not_fits {fr : FoldRow} {x : Vat} :
    (x.mode ≠ 0 ∨ bits fr.trailer 26 25 ≠ 0 ∨ bits fr.trailer 24 21 ≠ x.fmt ∨ fr.w ≠ qwOf x.fmt) ↔ ¬ fr.Fits x := by
  rw [FoldRow.Fits, not_and_or, not_and_or, not_and_or]

theorem Core.landFold_unfit {c : Core} {e : Nat} {fr : FoldRow} (h : fr.dropped = false)
    (ha : ((c.me e).vat fr.vat).accepts fr.gen fr.issue fr.segment c.segment = true) (hr : fr.row ≤ ((c.me e).vat fr.vat).rowsM1)
    (hf : ¬ fr.Fits ((c.me e).vat fr.vat)) :
    c.landFold e fr = c.setMe e ((c.me e).setVat fr.vat
      { (c.me e).vat fr.vat with flags := { ((c.me e).vat fr.vat).flags with vfmt := true } }) := by
  rw [Core.landFold, if_neg (by rw [h]; decide)]
  dsimp only
  rw [if_neg (by rw [ha]; decide), if_neg (Nat.not_lt.mpr hr), if_pos (FoldRow.not_fits.mpr hf)]

theorem Core.landFold_exact {c : Core} {e : Nat} {fr : FoldRow} (h : fr.dropped = false)
    (ha : ((c.me e).vat fr.vat).accepts fr.gen fr.issue fr.segment c.segment = true) (hr : fr.row ≤ ((c.me e).vat fr.vat).rowsM1)
    (hf : fr.Fits ((c.me e).vat fr.vat)) :
    let x := (c.me e).vat fr.vat
    let x1 := (c.me e).foldedVat x fr.opId fr.trailer
    let l := landExact x fr.row (fr.quires.zipIdx.map fun p => (p.2, [p.1])) ((c.me e).counting fr.opId, x1.flags.sat, x1.flags.nar)
    c.landFold e fr = c.setMe e (l.1.setVat fr.vat { x1 with flags := { x1.flags with sat := l.2.1, nar := l.2.2 } }) := by
  intro x x1 l
  rw [Core.landFold, if_neg (by rw [h]; decide)]
  dsimp only
  rw [if_neg (by rw [ha]; decide), if_neg (Nat.not_lt.mpr hr), if_neg fun hn => FoldRow.not_fits.mp hn hf]
  rfl

theorem Core.landFold_exactLanding {k : Core} {e : Nat} {l : List Chunk} {m : List FoldRow} {fr : FoldRow} (h : fr.dropped = false)
    (ha : ((k.me e).vat fr.vat).accepts fr.gen fr.issue fr.segment k.segment = true) (hr : fr.row ≤ ((k.me e).vat fr.vat).rowsM1)
    (hf : fr.Fits ((k.me e).vat fr.vat)) (hb : ((k.me e).vat fr.vat).slot0 fr.row + 4 * qwOf ((k.me e).vat fr.vat).fmt ≤ 1024) :
    ∃ g', (k.setMe e { k.me e with chunks := l, foldRows := m }).landFold e fr = k.setMe e g' ∧ g'.foldRows = m ∧
      ExactLanding (k.me e) fr.vat fr.row (fr.quires.zipIdx.map fun p => (p.2, [p.1]))
        ((k.me e).foldedVat ((k.me e).vat fr.vat) fr.opId fr.trailer) g' := by
  have hme := k.me_setMe_self e { k.me e with chunks := l, foldRows := m }
  have hland := Core.landFold_exact (c := k.setMe e { k.me e with chunks := l, foldRows := m }) (e := e) h
    (by rw [hme]; exact ha) (by rw [hme]; exact hr) (by rw [hme]; exact hf)
  rw [hme] at hland
  obtain ⟨-, hrows, hex⟩ := exactLanding { k.me e with chunks := l, foldRows := m } fr.opId fr.vat fr.row
    ((k.me e).foldedVat ((k.me e).vat fr.vat) fr.opId fr.trailer) hb (zipIdx_keys_nodup fr.quires fun p => [p.1])
  exact ⟨_, hland.trans (Core.setMe_setMe _ _ _ _), hrows, hex.of_pending hb⟩

/-- A fold-in row without quires lands nothing in the quire file. -/
theorem Core.landFold_nil (k : Core) (e : Nat) {fr : FoldRow} (h : fr.quires = []) :
    let g := k.me e
    let g' := (k.landFold e fr).me e
    g'.slots = g.slots ∧ g'.chunks = g.chunks ∧ g'.foldRows = g.foldRows := by
  intro g g'
  have hset (c : Core) {x : Engine} (hx : x.slots = g.slots ∧ x.chunks = g.chunks ∧ x.foldRows = g.foldRows) :
      ((c.setMe e x).me e).slots = g.slots ∧ ((c.setMe e x).me e).chunks = g.chunks ∧ ((c.setMe e x).me e).foldRows = g.foldRows := by
    rw [Core.me_setMe_self]
    exact hx
  obtain ⟨tm, htm⟩ := g.counting_eq fr.opId
  simp only [g', Core.landFold, h]
  split
  · exact ⟨rfl, rfl, rfl⟩
  split
  · rw [Core.staleOnce]
    split
    · exact ⟨rfl, rfl, rfl⟩
    · rw [Core.staleDrop, Core.me_setMe_self, Core.me_event]
      exact hset _ ⟨rfl, rfl, rfl⟩
  split
  · exact ⟨rfl, rfl, rfl⟩
  split
  · exact hset _ ⟨rfl, rfl, rfl⟩
  · refine hset k (x := Engine.setVat (g.counting fr.opId) _ _) ?_
    rw [htm]
    exact ⟨rfl, rfl, rfl⟩

/-! ### What is due -/

section Due
variable {k : Core} {r e : Nat} {ch : Chunk} {fr : FoldRow}

theorem Core.landChunk_segment (c : Core) (e : Nat) (ch : Chunk) (q : Option (List Quire)) :
    (c.landChunk e ch q).segment = c.segment := by
  obtain ⟨_, _, h⟩ := c.landChunk_enginesOnly e ch q
  rw [h]

theorem Core.landDue_chunk (hc : (k.me e).chunks = [ch]) (hf : (k.me e).foldRows = []) (hd : ch.due ≤ r) :
    k.landDue r e = (k.setMe e { k.me e with chunks := [] }).landChunk e ch none := by
  have hkept : ¬ r < ch.due := Nat.not_lt.mpr hd
  simp only [Core.landDue, hc, hf, List.filter_cons, List.filter_nil, hd, hkept, decide_true, decide_false, if_true, Bool.false_eq_true,
    if_false, List.foldl_cons, List.foldl_nil, List.find?_nil, Option.map_none]

theorem Core.landDue_fold (hc : (k.me e).chunks = []) (hf : (k.me e).foldRows = [fr]) (hd : fr.due ≤ r) :
    k.landDue r e = (k.setMe e { k.me e with foldRows := [] }).landFold e fr := by
  have hkept : ¬ r < fr.due := Nat.not_lt.mpr hd
  simp only [Core.landDue, hc, hf, List.filter_cons, List.filter_nil, hd, hkept, decide_true, decide_false, if_true, Bool.false_eq_true,
    if_false, List.foldl_cons, List.foldl_nil, List.any_nil, Bool.false_eq_true, if_false]

theorem Core.landDue_pair (hc : (k.me e).chunks = [ch]) (hf : (k.me e).foldRows = [fr]) (hd : ch.due ≤ r) (hdf : fr.due ≤ r)
    (hp : (k.me e).pairOk k.segment ch fr = true) :
    k.landDue r e = ((k.setMe e { k.me e with chunks := [], foldRows := [] }).landChunk e ch (some fr.quires)).landFold e
      { fr with quires := [] } := by
  have hseg : (k.setMe e { k.me e with chunks := [], foldRows := [] }).segment = k.segment := rfl
  have hkept : ¬ r < ch.due := Nat.not_lt.mpr hd
  have hkeptf : ¬ r < fr.due := Nat.not_lt.mpr hdf
  simp only [Core.landDue, hc, hf, List.filter_cons, List.filter_nil, hd, hdf, hkept, hkeptf, decide_true, decide_false, if_true,
    Bool.false_eq_true, if_false, List.foldl_cons, List.foldl_nil, List.find?_cons, Core.landChunk_segment, hseg, hp, Option.map_some, List.any_cons,
    List.any_nil, Bool.or_false]

end Due

/-! ### The commands -/

section Commands
variable {s : State} {c : Fin 128} {e : Fin 4} (hthere : s.coreThere c)
include hthere

theorem State.chunkLand_due {ch : Chunk} (hc : ((s.plane.core c).me e).chunks = [ch]) (hd : ch.due ≤ s.plane.now) :
    exec (.chunkLand c e) s = .next (s.withCore c ((s.plane.core c).landDue s.plane.now e)) := by
  refine congrArg Host.Outcome.next (s.coreEvent_core hthere _ (if_pos ?_))
  rw [hc, List.any_cons, decide_eq_true hd, Bool.true_or]

theorem State.foldinRowLand_due {fr : FoldRow} (hf : ((s.plane.core c).me e).foldRows = [fr]) (hd : fr.due ≤ s.plane.now) :
    exec (.foldinRowLand c e) s = .next (s.withCore c ((s.plane.core c).landDue s.plane.now e)) := by
  refine congrArg Host.Outcome.next (s.coreEvent_core hthere _ (if_pos ?_))
  rw [hf, List.any_cons, decide_eq_true hd, Bool.true_or]

end Commands

/-- A contribution dropped as stale for the first time. -/
theorem Core.staleOnce_first (k : Core) {e v opId : Nat} (h : (k.me e).stales.contains opId = false) :
    let g := k.me e
    let k' := k.staleOnce e v opId
    (k'.me e).vat v = { g.vat v with stale := satAdd 16 (g.vat v).stale 1 } ∧ (k'.me e).slots = g.slots ∧ CoreEv.vat ∈ k'.ev := by
  intro g k'
  have hk' : k' = ((k.setMe e { g with stales := opId :: g.stales }).setMe e
      (Engine.setVat { g with stales := opId :: g.stales } v { g.vat v with stale := satAdd 16 (g.vat v).stale 1 })).event .vat := by
    simp only [k', Core.staleOnce, h, Core.staleDrop, Core.me_setMe_self]
    rfl
  rw [hk', Core.me_event, Core.me_setMe_self, Engine.vat_setVat_self]
  exact ⟨rfl, rfl, List.mem_append_right _ (List.mem_singleton.mpr rfl)⟩

/-- The counts and flags that the first row of a fold-in brings. -/
theorem Engine.foldedVat_first (g : Engine) (x : Vat) {opId : Nat} (trailer : Nat) (h : g.termed.contains opId = false) :
    (g.foldedVat x opId trailer).terms = satAdd 32 x.terms (bits trailer 63 32) ∧
      (g.foldedVat x opId trailer).flags.deep = (x.flags.deep || bit (bits trailer 7 0) 3) := by
  rw [Engine.foldedVat, if_pos (by rw [h]; rfl)]
  exact ⟨rfl, rfl⟩

/-- What a chunk and a fold-in row that land together have in common (R92). -/
theorem Engine.pairOk_spec {g : Engine} {segNow : Nat} {ch : Chunk} {fr : FoldRow} (h : g.pairOk segNow ch fr = true) :
    fr.vat = ch.vat ∧ fr.row = ch.row ∧ (g.vat ch.vat).mode = 0 ∧ (g.vat ch.vat).accepts ch.gen ch.issue ch.segment segNow = true ∧
      ch.masked = false ∧ ch.posit ≤ 8 * qwOf (g.vat ch.vat).fmt ∧ ch.row ≤ (g.vat ch.vat).rowsM1 := by
  simp only [Engine.pairOk, Bool.and_eq_true, beq_iff_eq, decide_eq_true_eq, Bool.not_eq_true'] at h
  obtain ⟨⟨⟨⟨⟨⟨⟨⟨⟨⟨⟨⟨hv, hrow⟩, -⟩, -⟩, -⟩, hm⟩, -⟩, -⟩, -⟩, hacc⟩, hmask⟩, hp⟩, hr⟩ := h
  rw [hv] at hm hacc hp hr
  exact ⟨hv, hrow, hm, hacc, hmask, hp, hr⟩

/-- Settles O15: what is due leaves its list and lands branch by branch; arrivals in distinct columns do not disturb each other. -/
theorem landings : Obligations.Landings := by
  unfold Obligations.Landings
  intro s c e hthere k g at_
  have hcore (k' : Core) : at_ (s.withCore c k') = k'.me e := (congrArg (Core.me · e) (s.withCore_core c k') :)
  have hat (g' : Engine) : at_ (s.withCore c (k.setMe e g')) = g' := s.withCore_setMe_me c k e g'
  refine ⟨fun ch hc hf hd => ?_, fun fr hf hd hdrop => ?_⟩
  · intro x w base taken sum terms long
    have hexec : exec (.chunkLand c e) s =
        .next (s.withCore c ((k.setMe e { g with chunks := [], foldRows := g.foldRows }).landChunk e ch none)) :=
      (State.chunkLand_due hthere hc hd).trans (congrArg (fun k' => Host.Outcome.next (s.withCore c k')) (Core.landDue_chunk hc hf hd))
    have hme := k.me_setMe_self e { g with chunks := [], foldRows := g.foldRows }
    refine ⟨fun ⟨hmask, hacc, hrow⟩ hm hp hb => ?_, fun ⟨hmask, hacc, hrow⟩ hm hb => ?_, fun ⟨hmask, hacc, hrow⟩ hm hp => ?_, ?_, ?_⟩
    · obtain ⟨g', hland, hch, -, hex⟩ := Core.landChunk_exactLanding (l := []) (m := g.foldRows) none hmask hacc hrow hm hp hb
      rw [hland] at hexec
      refine ⟨_, hexec, s.onlyCore_withCore c _, ?_, ?_, ?_, ?_, ?_⟩ <;> rw [hat]
      · exact hch
      · exact fun col v hv => hex.sums _ (mem_zipIdx_columns hv fun p => [qof w p.1])
      · rw [hex.vat, Engine.countedVat_withSums, Chunk.arrivals, List.any_map, List.any_map]
        rfl
      · exact hex.others
      · exact hex.outside
    · obtain ⟨g', hland, hch, hco⟩ := Core.landChunk_compactLanding (l := []) (m := g.foldRows) none hmask hacc hrow hm hb
      rw [hland] at hexec
      intro i place
      refine ⟨_, hexec, s.onlyCore_withCore c _, ?_, ?_, ?_, ?_, ?_⟩ <;> rw [hat]
      · exact hch
      · exact fun col v hv => hco.levels _ (mem_zipIdx_columns hv fun p => p.1)
      · exact hco.rowChunks
      · exact hco.terms.trans (Engine.countedVat_terms _ _ _ _)
      · exact hco.count.trans (by rw [Engine.countedVat_chunks])
    · rw [hexec, Core.landChunk_wide hmask (by rw [hme]; exact hacc) (by rw [hme]; exact hrow) (by rw [hme]; exact hm)
        (by rw [hme]; exact hp), hme, Core.setMe_setMe]
      rfl
    · rintro (hmask | ⟨hacc, hrow⟩)
      · rw [hexec, Core.landChunk_masked hmask]
      · cases hmask : ch.masked
        · rw [hexec, Core.landChunk_noRow hmask (by rw [hme]; exact hacc) (by rw [hme]; exact hrow)]
        · rw [hexec, Core.landChunk_masked hmask]
    · intro hmask hacc hst
      rw [Core.landChunk_stale hmask (by rw [hme]; exact hacc)] at hexec
      obtain ⟨hstale, hslots, hev⟩ := (k.setMe e { g with chunks := [], foldRows := g.foldRows }).staleOnce_first (v := ch.vat)
        (by rw [hme]; exact hst)
      rw [hme] at hstale hslots
      refine ⟨_, hexec, s.onlyCore_withCore c _, ?_, ?_, s.mem_reports_withCore c hev⟩ <;> rw [hcore]
      · exact hstale
      · exact hslots
  · intro x w base fits hacc hrow hb
    refine ⟨fun hc hfit hfirst => ?_, fun hc hfit => ?_, fun ch hc hdc hpair => ?_⟩
    · have hexec : exec (.foldinRowLand c e) s =
          .next (s.withCore c ((k.setMe e { g with chunks := g.chunks, foldRows := [] }).landFold e fr)) :=
        (State.foldinRowLand_due hthere hf hd).trans (congrArg (fun k' => Host.Outcome.next (s.withCore c k')) (Core.landDue_fold hc hf hd))
      obtain ⟨g', hland, hrows, hex⟩ := Core.landFold_exactLanding (l := g.chunks) (m := []) hdrop hacc hrow hfit hb
      obtain ⟨hterms, hdeep⟩ := Engine.foldedVat_first g x fr.trailer hfirst
      rw [hland] at hexec
      refine ⟨_, hexec, s.onlyCore_withCore c _, ?_, ?_, ?_, ?_, ?_⟩ <;> rw [hat]
      · exact hrows
      · exact fun col q hq => hex.sums _ (mem_zipIdx_columns hq fun p => [p.1])
      · rw [hex.vat]
        exact hterms
      · rw [hex.vat]
        exact hdeep
      · exact hex.outside
    · have hme := k.me_setMe_self e { g with chunks := g.chunks, foldRows := [] }
      rw [State.foldinRowLand_due hthere hf hd, Core.landDue_fold hc hf hd, Core.landFold_unfit hdrop (by rw [hme]; exact hacc)
        (by rw [hme]; exact hrow) (by rw [hme]; exact hfit), hme, Core.setMe_setMe]
      rfl
    · obtain ⟨hv, hr, hm, hcacc, hmask, hp, hcrow⟩ := Engine.pairOk_spec hpair
      have hb' : (g.vat ch.vat).slot0 ch.row + 4 * qwOf (g.vat ch.vat).fmt ≤ 1024 := by
        rw [← hv, ← hr]
        exact hb
      have hdue := Core.landDue_pair hc hf hdc hd hpair
      obtain ⟨g', hland, hch, hrows, hex⟩ := Core.landChunk_exactLanding (l := []) (m := []) (some fr.quires) hmask hcacc hcrow hm hp hb'
      rw [hland] at hdue
      obtain ⟨hslots, hch', hrows'⟩ := (k.setMe e g').landFold_nil e (fr := { fr with quires := [] }) rfl
      rw [Core.me_setMe_self] at hslots hch' hrows'
      refine ⟨_, State.foldinRowLand_due hthere hf hd, s.onlyCore_withCore c _, ?_, ?_, ?_, State.chunkLand_due hthere hc hdc⟩ <;>
        rw [hcore, hdue]
      · exact hch'.trans hch
      · exact hrows'.trans hrows
      · intro col v hcol
        have hsum := hex.sums _ (mem_zipIdx_columns hcol fun p => [qof (qwOf (g.vat ch.vat).fmt) p.1, nth fr.quires p.2 Quire.zero])
        rw [← hv, ← hr] at hsum
        have hcols : g'.ColEq (((k.setMe e g').landFold e { fr with quires := [] }).me e) col := fun _ _ => by rw [hslots]
        exact (hcols.slotsAt hb).trans hsum

end Sys2Proof.Machine
end
section
/-! The epilogue path: DRAIN and EXPORT, their start, the rows and the trailer they write (R84, R133 to R137). -/

namespace Sys2Proof.Machine

/-! ### Taking the path (R85, R137) -/

/-- The operation that a DRAIN or EXPORT slot of engine `e` sets up on engine `g` of its gang. -/
def Core.epiOp (k : Core) (e r : Nat) (vexport : Bool) (m : MeSlot) (g : Engine) : EpiOp :=
  ⟨vexport, m.vat, m.gen, k.meEnt e m.entry, m.keep == 1, (k.me e).form == 1, k.segment, (g.vat m.vat).earliest r m.gen,
    none, 0, 0, [], [], [], []⟩

/-- The engine with an operation on its epilogue path, or waiting for it. -/
def Engine.takeEpi (g : Engine) (op : EpiOp) : Engine := if g.epi.isNone then { g with epi := some op } else { g with epiPend := some op }

theorem Engine.takeEpi_free {g : Engine} (h : g.epi = none) (op : EpiOp) : g.takeEpi op = { g with epi := some op } :=
  if_pos (by rw [h]; rfl)

theorem Engine.takeEpi_busy {g : Engine} (h : g.epi ≠ none) (op : EpiOp) : g.takeEpi op = { g with epiPend := some op } :=
  if_neg fun hn => h (Option.isNone_iff_eq_none.mp hn)

theorem Engine.takeEpi_form (g : Engine) (op : EpiOp) : (g.takeEpi op).form = g.form := by
  rw [Engine.takeEpi]
  split <;> rfl

/-- What an operation set up for every engine of a gang depends on. -/
structure Core.SameIssue (k : Core) (e : Nat) (c : Core) : Prop where
  cfg : c.cfg = k.cfg
  segment : c.segment = k.segment
  form : (c.me e).form = (k.me e).form

theorem Core.SameIssue.epiOp {k c : Core} {e : Nat} (h : k.SameIssue e c) (r : Nat) (vexport : Bool) (m : MeSlot) (g : Engine) :
    c.epiOp e r vexport m g = k.epiOp e r vexport m g := by
  rw [Core.epiOp, Core.epiOp, Core.meEnt, Core.meEnt, h.cfg, h.segment, h.form]

theorem Core.SameIssue.setMe {k c : Core} {e : Nat} (h : k.SameIssue e c) {i : Nat} {g : Engine} (hg : g.form = (c.me i).form) :
    k.SameIssue e (c.setMe i g) := by
  refine ⟨h.cfg, h.segment, Eq.trans ?_ h.form⟩
  by_cases hi : e = i
  · rw [hi, Core.me_setMe_self, hg]
  · rw [Core.me_setMe_ne _ _ hi]

/-- Every engine of the gang takes its own operation. -/
theorem Core.meEpi_me (k : Core) (r e : Nat) (vexport : Bool) (m : MeSlot) :
    ∀ i ∈ k.gang e, (k.meEpi r e vexport m).me i = (k.me i).takeEpi (k.epiOp e r vexport m (k.me i)) :=
  (Core.foldl_setMe _ (fun g => g.takeEpi (k.epiOp e r vexport m g)) (k.SameIssue e) (fun _ => True)
    (fun c i hc _ => by
      rw [← hc.epiOp]
      exact (apply_ite (c.setMe i) _ _ _).symm)
    (fun _ _ hc _ => hc.setMe (Engine.takeEpi_form _ _)) (k.gang_nodup e) ⟨rfl, rfl, rfl⟩ fun _ _ => trivial).1

/-- No EXPORT is accepted in wide-shallow form (R149). -/
theorem Core.gang_of_export {k : Core} {e : Nat} {m : MeSlot} (h : k.meCheck e 4 m = 0) : k.gang e = [e] := by
  refine if_neg fun hform => ?_
  simp only [Core.meCheck, hform, meFormOk] at h
  split at h
  · exact absurd h (by decide)
  split at h
  · exact absurd h (by decide)
  · simp at h

theorem Core.meEpi_export {k : Core} {e : Nat} {m : MeSlot} (h : k.meCheck e 4 m = 0) (r : Nat) :
    k.meEpi r e true m = k.setMe e ((k.me e).takeEpi (k.epiOp e r true m (k.me e))) := by
  rw [Core.meEpi, Core.gang_of_export h, List.foldl_cons, List.foldl_nil]
  exact (apply_ite (k.setMe e) _ _ _).symm

/-! ### The start (R84, R137) -/

/-- An epilogue operation that starts in cycle `r` on vat `g.vat op.vat`. -/
def Engine.started (g : Engine) (op : EpiOp) (r : Nat) : EpiOp :=
  { op with start := some r, rows := (g.vat op.vat).rowsM1 + 1, w := if (g.vat op.vat).mode = 0 then qwOf (g.vat op.vat).fmt else 0 }

/-- The engine as an epilogue operation starts. -/
def Engine.startedOn (g : Engine) (op : EpiOp) : Engine :=
  if op.vexport then g else g.setVat op.vat { g.vat op.vat with state := .draining }

section Start
variable {k : Core} {r e : Nat} {op : EpiOp} (he : (k.me e).epi = some op)
include he

theorem Core.startEpi_starts (hs : op.start = none) (hr : op.earliest ≤ r) (hst : ((k.me e).vat op.vat).state = .vsealed)
    (hg : ((k.me e).vat op.vat).gen = BitVec.ofNat 4 op.gen) :
    k.startEpi r e = k.setMe e { (k.me e).startedOn op with epi := some ((k.me e).started op r) } := by
  have hnot : ¬ (op.start.isSome = true ∨ r < op.earliest) := by
    rw [hs]
    exact fun h => h.elim (fun h => absurd h (by decide)) fun h => absurd h (Nat.not_lt.mpr hr)
  simp only [Core.startEpi, he, if_neg hnot]
  exact if_pos ⟨hst, hg⟩

theorem Core.startEpi_running {d : Nat} (hs : op.start = some d) : k.startEpi r e = k := by
  simp only [Core.startEpi, he]
  exact if_pos (.inl (by rw [hs]; rfl))

end Start

/-! ### The path's cycle -/

/-- An EXPORT's cycle in which it writes `accs` and reads no row. -/
theorem Core.epiAct_export {k k1 : Core} {r e d : Nat} {op : EpiOp} {accs : List Acc} (hat : (k.me e).epiAt ≤ r)
    (hk1 : k.startEpi r e = k1) (he : (k1.me e).epi = some op) (hs : op.start = some d) (hx : op.vexport = true)
    (hread : ¬ (d < r ∧ r ≤ d + op.rowCycles * op.rows))
    (hw : exportWrite e op (if op.segment = k1.segment then ((k1.me e).vat op.vat).trailer else Config.freeNat k1.free % 2 ^ 64) (fun i => k1.exportRow e op.vat op.segment op.w i) d r = accs) :
    let k' := k.epiAct r e
    (k'.me e).vats = (k1.me e).vats ∧ (k'.me e).epi = some op ∧ k'.st = { k1.st with acc := k1.st.acc ++ accs } := by
  have hr : k1.exportRead e op d r = k1 := if_neg fun h => hread h.2
  rw [Core.epiAct, if_neg (Nat.not_lt.mpr hat), hk1]
  simp only [he, hs, hx, if_true, hw, hr]
  rw [Core.me_setMe_self]
  exact ⟨rfl, he, rfl⟩

/-- The vat row a DRAIN that started in cycle `d` reads in cycle `r`. -/
def Core.drainRead (k : Core) (r e d : Nat) (op : EpiOp) : Core × List Val :=
  if d + op.rows ≤ r then (k, [])
  else if op.segment = k.segment then k.rowVals e op.vat (r - d)
  else ({ k with free := k.free + 64 }, freeRow k.free (k.ncols e) op.w)

/-- The DRAIN with the row it has read. -/
def EpiOp.withRow (op : EpiOp) (d r : Nat) (vs : List Val) : EpiOp := if r < d + op.rows then { op with vals := op.vals.set (r - d) vs } else op

/-- The cycle `r` of a DRAIN that started in cycle `d`. -/
def Core.drainStep (k : Core) (r e d : Nat) (op : EpiOp) : Core :=
  let k2 := (k.drainRead r e d op).1
  let op1 := op.withRow d r (k.drainRead r e d op).2
  let w := drainWrite e (k2.ncols e) op1 d r
  let k3 := (k2.setMe e { k2.me e with epi := some { op1 with vals := op1.vals.filter fun p => r < d + p.1 + 4 } }).cvt w.2
  { k3 with st := { k3.st with acc := k3.st.acc ++ (drainAccs e op1 (op1.gang && (List.range e).any (k3.gangDrain d)) d r ++ w.1) } }

theorem Core.epiAct_drain {k k1 : Core} {r e d : Nat} {op : EpiOp} (hat : (k.me e).epiAt ≤ r) (hk1 : k.startEpi r e = k1)
    (he : (k1.me e).epi = some op) (hs : op.start = some d) (hx : op.vexport = false) :
    k.epiAct r e = (k1.drainStep r e d op).setMe e { (k1.drainStep r e d op).me e with epiAt := r + 1 } := by
  rw [Core.epiAct, if_neg (Nat.not_lt.mpr hat), hk1]
  dsimp only
  rw [he]
  dsimp only
  split
  · next d' hd' =>
    obtain rfl := Option.some.inj (hd'.symm.trans hs)
    rw [if_neg (by rw [hx]; decide : ¬ op.vexport = true)]
    rfl
  · next hn => exact absurd (hn.symm.trans hs) nofun

/-- A DRAIN without scales and bias reads nothing from the store. -/
theorem drainAccs_plain (e : Nat) {op : EpiOp} (h112 : bit op.ent.toNat 112 = false) (h111 : bit op.ent.toNat 111 = false)
    (h109 : bit op.ent.toNat 109 = false) (shared : Bool) (d r : Nat) : drainAccs e op shared d r = [] := by
  simp [drainAccs, h112, h111, h109]

theorem Core.drainStep_spec {k k2 : Core} {r e d : Nat} {op op1 : EpiOp} {vs : List Val} {accs : List Acc} {t : CvtTally}
    (hread : k.drainRead r e d op = (k2, vs)) (hop : op.withRow d r vs = op1) (hno : ∀ shared, drainAccs e op1 shared d r = [])
    (hw : drainWrite e (k2.ncols e) op1 d r = (accs, t)) :
    let k' := k.drainStep r e d op
    k'.me e = { k2.me e with epi := some { op1 with vals := op1.vals.filter fun p => r < d + p.1 + 4 } } ∧
      k'.st = { k2.st with acc := k2.st.acc ++ accs } := by
  simp only [Core.drainStep, hread, hop, hno, hw]
  exact ⟨k2.me_setMe_self e _, rfl⟩

/-- A DRAIN of an Exact vat reads its rows as they stand. -/
theorem Core.drainRead_exact (k : Core) (r e d : Nat) (op : EpiOp) (h : ((k.me e).vat op.vat).mode = 0) :
    ∃ f vs, k.drainRead r e d op = ({ k with free := f }, vs) := by
  rw [Core.drainRead]
  split
  · exact ⟨k.free, [], rfl⟩
  split
  · exact ⟨k.free, _, if_pos h⟩
  · exact ⟨_, _, rfl⟩

/-- Before the fourth cycle after its start a DRAIN writes nothing. -/
theorem drainWrite_early (e n : Nat) (op : EpiOp) {d r : Nat} (h : r < d + 4) : drainWrite e n op d r = ([], CvtTally.zero) :=
  if_pos (.inl h)

theorem exportWrite_start (e : Nat) (op : EpiOp) (trl : Nat) (row : Nat → List Nat) (d : Nat) : exportWrite e op trl row d d = [] := by
  rw [exportWrite, if_neg (by omega : ¬ d = d + op.rowCycles * op.rows + 1), if_neg fun h => Nat.lt_irrefl d h.1]

/-- In its first cycle a DRAIN of an Exact vat without scales and bias makes the vat DRAINING and touches no store. -/
theorem Core.epiAct_drainStart {k : Core} {r e : Nat} {op : EpiOp} (hat : (k.me e).epiAt ≤ r) (he : (k.me e).epi = some op)
    (hs : op.start = none) (hr : op.earliest ≤ r) (hst : ((k.me e).vat op.vat).state = .vsealed)
    (hg : ((k.me e).vat op.vat).gen = BitVec.ofNat 4 op.gen) (hx : op.vexport = false) (h112 : bit op.ent.toNat 112 = false)
    (h111 : bit op.ent.toNat 111 = false) (h109 : bit op.ent.toNat 109 = false) (hm : ((k.me e).vat op.vat).mode = 0) :
    ((k.epiAct r e).me e).vat op.vat = { (k.me e).vat op.vat with state := .draining } ∧
      (∃ o, ((k.epiAct r e).me e).epi = some o ∧ o.start = some r) ∧ (k.epiAct r e).st = k.st := by
  generalize hk1 : k.startEpi r e = k1
  have hstart := hk1.symm.trans (Core.startEpi_starts he hs hr hst hg)
  have hme : k1.me e = { (k.me e).startedOn op with epi := some ((k.me e).started op r) } := by rw [hstart, Core.me_setMe_self]
  have hvat : (k1.me e).vat op.vat = { (k.me e).vat op.vat with state := .draining } := by
    rw [hme, Engine.startedOn, hx]
    exact Engine.vat_setVat_self _ _ _
  have hepi : (k1.me e).epi = some ((k.me e).started op r) := by rw [hme]
  obtain ⟨f, vs, hread⟩ := k1.drainRead_exact r e r ((k.me e).started op r) (by
    rw [show ((k.me e).started op r).vat = op.vat from rfl, hvat]
    exact hm)
  generalize hop1 : ((k.me e).started op r).withRow r r vs = op1
  have hent : op1.ent = op.ent ∧ op1.start = some r := by
    rw [← hop1, EpiOp.withRow]
    split <;> exact ⟨rfl, rfl⟩
  obtain ⟨hme', hst'⟩ := Core.drainStep_spec hread hop1
    (drainAccs_plain e (by rw [hent.1]; exact h112) (by rw [hent.1]; exact h111) (by rw [hent.1]; exact h109) · r r)
    (drainWrite_early e _ op1 (by omega : r < r + 4))
  rw [Core.epiAct_drain hat hk1 hepi rfl hx, Core.me_setMe_self]
  refine ⟨?_, ⟨_, congrArg Engine.epi hme', hent.2⟩, ?_⟩
  · exact (congrArg (fun g : Engine => g.vat op.vat) hme').trans hvat
  · refine hst'.trans ?_
    rw [List.append_nil, hstart]
    rfl

/-- In its first cycle an EXPORT leaves its vat and touches no store. -/
theorem Core.epiAct_exportStart {k : Core} {r e : Nat} {op : EpiOp} (hat : (k.me e).epiAt ≤ r) (he : (k.me e).epi = some op)
    (hs : op.start = none) (hr : op.earliest ≤ r) (hst : ((k.me e).vat op.vat).state = .vsealed)
    (hg : ((k.me e).vat op.vat).gen = BitVec.ofNat 4 op.gen) (hx : op.vexport = true) :
    ((k.epiAct r e).me e).vats = (k.me e).vats ∧ (∃ o, ((k.epiAct r e).me e).epi = some o ∧ o.start = some r) ∧
      (k.epiAct r e).st = k.st := by
  generalize hk1 : k.startEpi r e = k1
  have hstart := hk1.symm.trans (Core.startEpi_starts he hs hr hst hg)
  have hme : k1.me e = { (k.me e).startedOn op with epi := some ((k.me e).started op r) } := by rw [hstart, Core.me_setMe_self]
  have hvats : (k1.me e).vats = (k.me e).vats := by
    rw [hme, Engine.startedOn, hx]
    rfl
  have hepi : (k1.me e).epi = some ((k.me e).started op r) := by rw [hme]
  obtain ⟨hv, hop, hst'⟩ := Core.epiAct_export (d := r) hat hk1 hepi rfl hx (fun h => Nat.lt_irrefl r h.1) (exportWrite_start e _ _ _ r)
  refine ⟨hv.trans hvats, ⟨_, hop, rfl⟩, ?_⟩
  rw [hst', List.append_nil, hstart]
  rfl

/-! ### Writes -/

/-- Access with which engine `e` writes whole bytes of a line of the tile store. -/
def epiAccess (e line : Nat) (bs : Bytes) : Acc := ⟨false, line, 3, e, .write (wbytes 0 bs)⟩

theorem chunksOf_one {n m : Nat} {bs : Bytes} (h0 : bs ≠ []) (hn : bs.length ≤ n) : chunksOf n (m + 2) bs = [bs] := by
  rw [chunksOf, if_neg (by rw [List.isEmpty_iff]; exact h0), List.take_of_length_le hn, List.drop_of_length_le hn]
  rfl

/-- Output element without scales and bias. -/
theorem epilogueElem_plain {x : Nat} (v rs cs b : Val) (h112 : bit x 112 = false) (h111 : bit x 111 = false) (h109 : bit x 109 = false) :
    epilogueElem x v rs cs b = roundTo ((Fmt.ofCode (bits x 123 120)).getD .p32) (activation x v) := by
  rw [epilogueElem, h112, h111, h109]
  rfl

/-- The bytes of a row of posit8 outputs. -/
def drainBytes (x : Nat) (vs : List Val) : Bytes := vs.map fun v => BitVec.ofNat 8 (roundTo .p8 (activation x v)).1

theorem drainWrite_row (e : Nat) {op : EpiOp} {d : Nat} {vs : List Val} (hrows : op.rows = 1) (hvals : op.vals = [(0, vs)])
    (hlen : vs.length = 64) (hgang : op.gang = false) (h112 : bit op.ent.toNat 112 = false) (h111 : bit op.ent.toNat 111 = false)
    (h109 : bit op.ent.toNat 109 = false) (hfmt : bits op.ent.toNat 123 120 = 0) :
    ∃ t, drainWrite e 64 op d (d + 4) = ([epiAccess e (bits op.ent.toNat 56 40) (drainBytes op.ent.toNat vs)], t) := by
  have hline : bits op.ent.toNat 56 40 < 131072 := Nat.mod_lt _ (by decide)
  have hbytes : ((vs.take 64).zipIdx.map fun p => epilogueElem op.ent.toNat p.1 (pdec (if bit op.ent.toNat 110 then 32 else 16) (op.rsv.get 0 0))
      (pdec (if bit op.ent.toNat 110 then 32 else 16) (op.csv.get 0 p.2))
      (pdec (if bit op.ent.toNat 108 then 32 else 16) (op.bv.get 0 p.2))).flatMap (fun o => leBytes 1 o.1) = drainBytes op.ent.toNat vs := by
    simp only [epilogueElem_plain _ _ _ _ h112 h111 h109, hfmt]
    rw [List.take_of_length_le (Nat.le_of_eq hlen), List.flatMap_map, drainBytes]
    calc vs.zipIdx.flatMap (fun p => leBytes 1 (roundTo .p8 (activation op.ent.toNat p.1)).1)
        = vs.zipIdx.map (fun p => BitVec.ofNat 8 (roundTo .p8 (activation op.ent.toNat p.1)).1) := List.map_eq_flatMap.symm
      _ = (vs.zipIdx.map (·.1)).map (fun v => BitVec.ofNat 8 (roundTo .p8 (activation op.ent.toNat v)).1) := by
          rw [List.map_map]
          rfl
      _ = _ := by rw [List.zipIdx_map_fst]
  have hlen' : (drainBytes op.ent.toNat vs).length = 64 := (List.length_map _).trans hlen
  have hone : chunksOf 64 64 (drainBytes op.ent.toNat vs) = [drainBytes op.ent.toNat vs] :=
    chunksOf_one (List.ne_nil_of_length_eq_add_one hlen') (Nat.le_of_eq hlen')
  have hnot : ¬ (d + 4 < d + 4 ∨ d + 4 + op.rows ≤ d + 4) := by omega
  have hat : 64 * (bits op.ent.toNat 56 40 + 0 * bits op.ent.toNat 39 32) / 64 % 131072 = bits op.ent.toNat 56 40 := by omega
  have hf : (Fmt.ofCode (bits op.ent.toNat 123 120)).getD .p32 = .p8 := by rw [hfmt]; rfl
  have hvs : Tab.get [] op.vals 0 = vs := by rw [hvals]; rfl
  have hsz : Fmt.p8.bitsz / 8 = 1 := rfl
  simp only [drainWrite, if_neg hnot, Nat.sub_sub, Nat.sub_self, hf, hvs, hgang, hsz, Bool.false_eq_true, if_false]
  rw [hbytes, hone]
  simp only [List.zipIdx_cons, List.zipIdx_nil, List.map_cons, List.map_nil, Nat.add_zero, hat]
  exact ⟨_, rfl⟩

theorem Core.alone_epi (k : Core) (self r e : Nat) (others : List Acc) (f : Core → Core) {line : Nat} {bs : Bytes}
    (hacc : (f { k with st := { k.st with acc := [] } }).st.acc = [epiAccess e line bs])
    (htile : (f { k with st := { k.st with acc := [] } }).st.tile = k.st.tile)
    (hl : (epiAccess e line bs).lost ([epiAccess e line bs] ++ others) = false) :
    ∃ k', k.alone self r others f = (k', []) ∧ k'.st.tile = k.st.tile.write (64 * line) bs := by
  obtain ⟨l, ⟨n1, n2, n3, ev, hn⟩, hal⟩ := k.alone_one self r others f rfl hacc hl rfl
  obtain ⟨st, sig, hs, ht, -⟩ := l.serve_write self r line 3 e 0 bs
  refine ⟨_, hal.trans (Prod.ext rfl (congrArg Prod.snd hs :)), ?_⟩
  have hw : (l.serve self r (epiAccess e line bs)).1.st.tile = l.st.tile.write (64 * line) bs :=
    (congrArg (fun x : Core × List Ret => x.1.st.tile) hs).trans ht
  have hl0 : l.st.tile = k.st.tile := by rw [hn]; exact htile
  exact hw.trans (congrArg (fun m => Mem.write m (64 * line) bs) hl0)

/-- A unit that asks for nothing. -/
theorem Core.alone_none (k : Core) (self r : Nat) (others : List Acc) (f : Core → Core) {k1 : Core}
    (hf : f { k with st := { k.st with acc := [] } } = k1) (hacc : k1.st.acc = []) :
    ∃ k', k.alone self r others f = (k', []) ∧ k'.eng = k1.eng ∧ k'.st.tile = k1.st.tile := by
  obtain ⟨l, ⟨n1, n2, n3, ev, hn⟩, hal⟩ := k.alone_served self r others f hf hacc (fun _ h => absurd h List.not_mem_nil)
    fun _ h => absurd h List.not_mem_nil
  exact ⟨_, hal, (congrArg Core.eng hn :), (congrArg (·.st.tile) hn :)⟩

/-- Four cycles after its only row was read a DRAIN without scales and bias writes it. -/
theorem Core.epiAct_drainRow {k : Core} {d e : Nat} {op : EpiOp} {vs : List Val} (hat : (k.me e).epiAt ≤ d + 4)
    (he : (k.me e).epi = some op) (hs : op.start = some d) (hx : op.vexport = false) (hrows : op.rows = 1) (hvals : op.vals = [(0, vs)])
    (hlen : vs.length = 64) (hn : k.ncols e = 64) (hgang : op.gang = false) (h112 : bit op.ent.toNat 112 = false)
    (h111 : bit op.ent.toNat 111 = false) (h109 : bit op.ent.toNat 109 = false) (hfmt : bits op.ent.toNat 123 120 = 0) :
    (k.epiAct (d + 4) e).st =
      { k.st with acc := k.st.acc ++ [epiAccess e (bits op.ent.toNat 56 40) (drainBytes op.ent.toNat vs)] } := by
  obtain ⟨t, hw⟩ := drainWrite_row e (d := d) hrows hvals hlen hgang h112 h111 h109 hfmt
  have hread : k.drainRead (d + 4) e d op = (k, []) := if_pos (by omega)
  have hop : op.withRow d (d + 4) [] = op := if_neg (by omega)
  obtain ⟨-, hst⟩ := Core.drainStep_spec hread hop (drainAccs_plain e h112 h111 h109 · d (d + 4)) ((congrArg (drainWrite e · op d (d + 4)) hn).trans hw)
  rw [Core.epiAct_drain hat (Core.startEpi_running he hs) he hs hx]
  exact hst

/-- In the cycle after its last row an EXPORT writes the trailer. -/
theorem Core.epiAct_exportTrailer {k : Core} {r d e : Nat} {op : EpiOp} (hat : (k.me e).epiAt ≤ r)
    (he : (k.me e).epi = some op) (hs : op.start = some d) (hx : op.vexport = true) (hseg : op.segment = k.segment)
    (hr : r = d + op.rowCycles * op.rows + 1) :
    (k.epiAct r e).st = { k.st with acc := k.st.acc ++
      [epiAccess e ((bits op.ent.toNat 123 107 + op.rows * (if op.w = 0 then 4 else 16 * op.w)) % 131072)
        (leBytes 32 ((k.me e).vat op.vat).trailer)] } := by
  refine (Core.epiAct_export hat (Core.startEpi_running he hs) he hs hx (fun h => by omega) ?_).2.2
  rw [if_pos hseg]
  exact if_pos hr

/-! ### The commands -/

/-- DRAIN_ROW_WRITE or EXPORT_ROW_WRITE. -/
def epiCommand (c : Fin 128) (e : Fin 4) (vexport : Bool) (s : State) : Result :=
  .next (s.aloneAt c fun r k => k.epiNow vexport r e)

section Commands
variable {s : State} {c : Fin 128} {e : Fin 4} {k : Core} {op : EpiOp} (hk : s.coreNow c = k) (hthere : s.coreThere c)
  (he : (k.me e).epi = some op)
include hk hthere he

theorem State.epiCommand_idle {k1 : Core} (hk1 : Core.epiAct { k with st := { k.st with acc := [] } } s.plane.now e = k1)
    (hst : k1.st = { k.st with acc := [] }) :
    ∃ t, epiCommand c e op.vexport s = .next t ∧ s.OnlyCore t c ∧ (t.plane.core c).me e = k1.me e ∧
      (t.plane.core c).st.tile = k.st.tile := by
  have hf : Core.epiNow { k with st := { k.st with acc := [] } } op.vexport s.plane.now e = k1 := by
    rw [← hk1, Core.epiNow, show (Core.me { k with st := { k.st with acc := [] } } e).epi = some op from he]
    exact if_pos rfl
  obtain ⟨k', hal, heng, htile⟩ := k.alone_none c s.plane.now (s.rivals c) (fun k => k.epiNow op.vexport s.plane.now e) hf
    (congrArg StoreSt.acc hst)
  refine ⟨_, congrArg Host.Outcome.next (s.aloneAt_there hthere _ (by rw [hk]; exact hal)), s.onlyCore_withCore c k', ?_⟩
  rw [State.withCore_core]
  exact ⟨congrArg (fun t => Tab.get Engine.reset t e.val) heng, htile.trans (congrArg StoreSt.tile hst :)⟩

theorem State.epiCommand_write {line : Nat} {bs : Bytes} (hwf : k.st.tile.wf = true)
    (hst : (Core.epiAct { k with st := { k.st with acc := [] } } s.plane.now e).st = { k.st with acc := [] ++ [epiAccess e line bs] })
    (hport : s.portFree c false line 3 e) :
    ∃ t, epiCommand c e op.vexport s = .next t ∧ s.OnlyCore t c ∧ (t.plane.core c).st.peek false (64 * line) bs.length = bs ∧
      ∀ a, a < 64 * line ∨ 64 * line + bs.length ≤ a → (t.plane.core c).st.peek false a 1 = k.st.peek false a 1 := by
  have hf : Core.epiNow { k with st := { k.st with acc := [] } } op.vexport s.plane.now e =
      Core.epiAct { k with st := { k.st with acc := [] } } s.plane.now e := by
    rw [Core.epiNow, show (Core.me { k with st := { k.st with acc := [] } } e).epi = some op from he]
    exact if_pos rfl
  obtain ⟨k', hal, htile⟩ := k.alone_epi c s.plane.now e (s.rivals c) (fun k => k.epiNow op.vexport s.plane.now e)
    (by rw [hf, hst]; rfl) (by rw [hf, hst]) (Acc.not_lost_self s c hport)
  refine ⟨_, congrArg Host.Outcome.next (s.aloneAt_there hthere _ (by rw [hk]; exact hal)), s.onlyCore_withCore c k', ?_⟩
  rw [State.withCore_core]
  exact Mem.reads_after_write hwf htile rfl

end Commands

/-- Settles O16: the slots by `meEpi_me`, the path's cycle by what it asks of the store, of which nothing stands above. -/
theorem epiloguePath : Obligations.EpiloguePath := by
  unfold Obligations.EpiloguePath
  intro s c e k g
  have hk : s.coreNow c = k := rfl
  clear_value k
  refine ⟨fun arg hruns => ?slots, fun hthere hat op he => ⟨fun hs hr hst hg => ⟨?drainStart, ?exportStart⟩, ?drainRow, ?trailer⟩⟩
  case slots =>
    intro m op
    refine ⟨fun hc => ?_, fun hc hepi => ?_, fun hc hepi => ?_⟩
    · refine ⟨_, congrArg Host.Outcome.next (s.slotMe_accepted hruns (fun r k => k.meEpi r e false m) (hk ▸ hc)),
        s.onlyCore_withCore c _, fun i hi => ?_⟩
      rw [State.withCore_core, hk]
      refine (k.meEpi_me s.plane.now e false m i hi).trans ?_
      by_cases hepi : (k.me i).epi = none
      · rw [if_pos hepi, Engine.takeEpi_free hepi]
        rfl
      · rw [if_neg hepi, Engine.takeEpi_busy hepi]
        rfl
    · refine congrArg Host.Outcome.next ((s.slotMe_accepted hruns (fun r k => k.meEpi r e true m) (hk ▸ hc)).trans ?_)
      rw [hk, Core.meEpi_export hc, Engine.takeEpi_free hepi]
      rfl
    · refine congrArg Host.Outcome.next ((s.slotMe_accepted hruns (fun r k => k.meEpi r e true m) (hk ▸ hc)).trans ?_)
      rw [hk, Core.meEpi_export hc, Engine.takeEpi_busy hepi]
      rfl
  case drainStart =>
    intro hx h112 h111 h109 hm
    obtain ⟨hvat, ⟨o, ho, hstart⟩, hst'⟩ := Core.epiAct_drainStart (k := { k with st := { k.st with acc := [] } }) hat he hs hr hst hg hx
      h112 h111 h109 hm
    obtain ⟨t, ht, honly, hme, htile⟩ := State.epiCommand_idle hk hthere he rfl hst'
    rw [hx] at ht
    exact ⟨t, o, ht, honly, by rw [hme]; exact hvat, by rw [hme]; exact ho, hstart, htile⟩
  case exportStart =>
    intro hx
    obtain ⟨hvats, ⟨o, ho, hstart⟩, hst'⟩ := Core.epiAct_exportStart (k := { k with st := { k.st with acc := [] } }) hat he hs hr hst hg hx
    obtain ⟨t, ht, honly, hme, htile⟩ := State.epiCommand_idle hk hthere he rfl hst'
    rw [hx] at ht
    exact ⟨t, o, ht, honly, by rw [hme]; exact hvats, by rw [hme]; exact ho, hstart, htile⟩
  case drainRow =>
    intro vs hwf hx hgang hs hnow hrows hvals hlen hn h112 h111 h109 hfmt hport
    have hr : s.plane.now - 4 + 4 = s.plane.now := Nat.sub_add_cancel hnow
    have hst := Core.epiAct_drainRow (k := { k with st := { k.st with acc := [] } }) (d := s.plane.now - 4) (by rw [hr]; exact hat) he hs hx
      hrows hvals hlen hn hgang h112 h111 h109 hfmt
    rw [hr] at hst
    obtain ⟨t, ht, honly, hin, hout⟩ := State.epiCommand_write hk hthere he hwf hst hport
    rw [hx] at ht
    rw [show (drainBytes op.ent.toNat vs).length = 64 from (List.length_map _).trans hlen] at hin hout
    exact ⟨t, ht, honly, hin, hout⟩
  case trailer =>
    intro d hwf hx hseg hs hnow line hport
    have hst := Core.epiAct_exportTrailer (k := { k with st := { k.st with acc := [] } }) hat he hs hx hseg hnow
    obtain ⟨t, ht, honly, hin, hout⟩ := State.epiCommand_write hk hthere he hwf hst hport
    rw [hx] at ht
    rw [length_leBytes] at hin hout
    exact ⟨t, ht, honly, hin, hout⟩

end Sys2Proof.Machine
end
